-- ==== Sys2Proof/Word.lean ====
section
/-! DEFINITION. Word types and their plainest arithmetic (spec 00, R5, R6). -/

namespace Sys2Proof

/-- One byte of memory. -/
abbrev Byte := BitVec 8
/-- A 32-bit code unit. -/
abbrev W32 := BitVec 32
/-- A 64-bit register value. -/
abbrev W64 := BitVec 64
/-- The 2,048 bits of a vector register (R53). -/
abbrev VWord := BitVec 2048

end Sys2Proof
end

