-- ==== Sys2Proof/Syntax.lean ====
section
/-! DEFINITION. The instruction words and the events of the Melaisia M4, as data.
An instruction word keeps every field its form lays out (spec 07, R136-R143), the ones a
particular instruction must leave zero too: breaking such an operand rule is an architectural
trap (R418), so the term for such a word must exist.  An event of the opcode table (spec 95)
carries what identifies it. -/

namespace Sys2Proof

/-- The four instruction streams of a task (02, R20). -/
inductive Stream where
  | c | a | x | s
deriving DecidableEq, Repr

/-- The special operands, codes 0x38 to 0x3F (Table 07.3, R55). -/
inductive Special where
  | tile | core | tick | speed | step | patch | taskid | node
deriving DecidableEq, Repr

/-- An operand specifier (Table 07.3).  `rsv n` is the reserved code 0x64 + n. -/
inductive Operand where
  | g (n : Fin 32)
  | q (n : Fin 16)
  | p (n : Fin 8)
  | sp (x : Special)
  | v (n : Fin 32)
  | t (n : Fin 4)
  | rsv (n : Fin 28)
deriving DecidableEq, Repr

/-- PRED [87:84]: a predicate number and a negation bit (R135). -/
structure Pred where
  neg : Bool
  p   : BitVec 3
deriving DecidableEq, Repr

/-- R form, ALU layout (Tables 07.2 and 07.4). -/
structure RAlu where
  pred : Pred
  d : Operand
  a : Operand
  b : Operand
  c : Operand
  sub  : BitVec 8
  sat  : Bool
  immb : Bool
  rbm1 : BitVec 4
  rm   : BitVec 3
  ty   : BitVec 5
  imm  : BitVec 32
deriving DecidableEq, Repr

/-- R form, system layout (Tables 07.2 and 07.5).  A ring field is its valid bit and number. -/
structure RSys where
  pred : Pred
  d : Operand
  a : Operand
  b : Operand
  c : Operand
  ring2 : BitVec 4
  ring1 : BitVec 4
  rm    : BitVec 3
  tag   : Bool
  scope : BitVec 2
  sub   : BitVec 8
  imm   : BitVec 32
deriving DecidableEq, Repr

/-- I form (Table 07.2, R144). -/
structure IForm where
  pred : Pred
  d : Operand
  a : Operand
  imm : BitVec 64
deriving DecidableEq, Repr

/-- M form (Table 07.2, R143). -/
structure MForm where
  pred : Pred
  d : Operand
  base  : Operand
  index : Operand
  win   : BitVec 3
  size  : BitVec 3
  scale : BitVec 3
  lsel  : Bool
  hint  : BitVec 3
  opk   : BitVec 4
  ord   : BitVec 2
  scope : BitVec 2
  tag   : Bool
  cf    : Bool
  disp  : BitVec 40
deriving DecidableEq, Repr

/-- B form (Table 07.2, R138). -/
structure BForm where
  pred : Pred
  a : Operand
  b : Operand
  cc  : BitVec 4
  off : BitVec 48
deriving DecidableEq, Repr

/-- E form (Table 07.2, Table 02.4, R142). -/
structure EForm where
  pred : Pred
  wsem  : BitVec 8
  wthr  : BitVec 16
  wmode : BitVec 2
  ssem  : BitVec 8
  sinc  : BitVec 12
  obj   : BitVec 16
  a : Operand
  b : Operand
  tag   : Bool
  scope : BitVec 2
  sub   : BitVec 4
deriving DecidableEq, Repr

/-- V form (Tables 07.2 and 07.6, R141). -/
structure VForm where
  pred : Pred
  d : Operand
  a : Operand
  b : Operand
  c : Operand
  mask : BitVec 3
  ty   : BitVec 5
  sub  : BitVec 6
  sat  : Bool
  zm   : Bool
  immb : Bool
  rbm1 : BitVec 4
  rm   : BitVec 3
  imm  : BitVec 32
deriving DecidableEq, Repr

/-- The engine units that run queued jobs (12). -/
inductive Engine where
  | bte (n : Fin 32)
  | lighter (n : Fin 32)
deriving DecidableEq, Repr

/-- Who asks the memory side for an access (R111, R433); `remote` is an engine of another package (R364). -/
inductive Requester where
  | stream (tid : Nat) (st : Stream)
  | bte (n : Fin 32)
  | lighter (n : Fin 32)
  | stash (tid : Nat)
  | replay (tid : Nat)
  | remote (pkg : Nat) (e : Engine)
  | gate
  | quay
  | host
deriving DecidableEq, Repr

/-- What kind of access met a translation fault (R434, R435, R436). -/
inductive AccessKind where
  | load
  | chunk
  | write (vaddr pc : BitVec 64) (op : BitVec 8) (opk : BitVec 4) (size : BitVec 3) (tag : Bool) (data : List (BitVec 8))
deriving DecidableEq, Repr

/-- The agents that signal a semaphore in one cycle, in the order of R39. -/
inductive SemAgent where
  | stream (st : Stream)
  | jobUnit
  | bte (n : Fin 32)
  | lighter (n : Fin 32)
  | damask
  | outside
deriving DecidableEq, Repr

/-- One signal of a cycle: its agent and its increment (R37, R39). -/
structure SemSignal where
  agent : SemAgent
  inc   : Nat
deriving DecidableEq, Repr

/-- A remote signal on its way: group, rank and semaphore, and the task that sent it (R40, R195). -/
structure RemoteSignal where
  src   : Nat
  st    : Stream
  group : Nat
  rank  : BitVec 16
  sem   : BitVec 8
  inc   : Nat
deriving DecidableEq, Repr

/-- A command block on its way to a rank (R45, R194). -/
structure BlockMsg where
  src   : Nat
  group : Nat
  rank  : BitVec 16
  block : List (BitVec 8)
deriving DecidableEq, Repr

/-- An RSTV write on its way (R300). -/
structure RstvMsg where
  src   : Nat
  group : Nat
  rank  : BitVec 16
  off   : BitVec 21
  data  : BitVec 2048
  tag   : Bool
  spkg  : Nat
  score : Nat
deriving DecidableEq, Repr

/-- An RRPUT fill on its way (R301). -/
structure RrputMsg where
  src   : Nat
  group : Nat
  rank  : BitVec 16
  ring  : Fin 8
  data  : List (BitVec 8)
  sem   : BitVec 8
  inc   : Nat
  spkg  : Nat
  score : Nat
deriving DecidableEq, Repr

/-- The group collectives (R191). -/
inductive CollKind where
  | bar | red | bcast
deriving DecidableEq, Repr

/-- What an arrival at a collective carries: its record (R190), its operand bytes, the object of a sketch sum and the
package whose table holds it (R315), and the signal to apply at completion. -/
structure GroupArrival where
  group : Nat
  kind  : CollKind
  tid   : Nat
  record : BitVec 128
  obj    : BitVec 16
  operand : List (BitVec 8)
  ssem : BitVec 8
  sinc : BitVec 12
  pkg  : Nat
deriving DecidableEq, Repr

/-- A Damask collective: group, XPB index and generation (R342). -/
structure CollKey where
  group : Nat
  xpb   : BitVec 16
  gen   : Nat
deriving DecidableEq, Repr

/-- One block of a Damask collective: source and destination member, phase, third-axis and
batch index, and the block's corner in the AXIN-AXOUT plane with its extents (R340). -/
structure DamaskBlock where
  src : Nat
  dst : Nat
  phase   : Nat
  third   : Nat
  batch   : Nat
  inLo : Nat
  inN : Nat
  outLo : Nat
  outN : Nat
deriving DecidableEq, Repr

/-- Why a task freezes (R400): the code, the faulting opcode, the first stream and the others. -/
structure FreezeCause where
  code : BitVec 8
  op   : BitVec 8
  st   : Option Stream
  also : BitVec 4
  info : BitVec 32
  addr : BitVec 64
deriving DecidableEq, Repr

/-- A unit on which corrected errors are counted (R407, R410, R462, R471). -/
inductive ErrUnit where
  | core (n : Nat)
  | slice (n : Fin 128)
  | stack (die : Fin 8)
  | optical (n : Fin 8)
  | dieLink (n : Fin 16)
  | host
  | frame (die : Fin 8) (n : Nat)
deriving DecidableEq, Repr

/-- Where an uncorrectable error was found (R410, R411). -/
inductive EccWhere where
  | memory (key : Nat)
  | taskState (tid : Nat)
  | localStore (tid : Nat) (off : Nat)
  | object (index : BitVec 16)
  | homeMap (region : Nat)
  | circuitTable (circ : Nat)
  | quay
deriving DecidableEq, Repr

/-- What the patrol scrubber finds in one line (R412). -/
inductive ScrubFinding where
  | clean | corrected | uncorrectable
deriving DecidableEq, Repr

/-- A flit as it arrives on a circuit (Table 15.3), with the outcome of its codeword (R371, R462). -/
structure FlitIn where
  header  : BitVec 64
  payload : BitVec 2048
  tag     : BitVec 96
  crc     : BitVec 32
  codewordOk : Bool
  corrected  : Bool
deriving DecidableEq, Repr

/-- A SETUP packet at a switch on its path: the circuit, the port it needs, who asks (R369). -/
structure SetupReq where
  circ : Nat
  from_ : BitVec 11
  far   : BitVec 11
  engine : Fin 8
  lanes  : Nat
  port   : Nat
  rivals : List (BitVec 11 × Nat)
deriving DecidableEq, Repr

/-- What the boot stages meet (Table 16.1): the fuses, the firmware image with its version, its public key and its
signature (R380), the training of the stacks, the highest speed at which each live core passes its test (R381), and
the circuits set up at bring-up with the delay measured for each (R370). -/
structure BootInputs where
  fusesOk   : Bool
  version   : Nat
  key       : List (BitVec 8)
  image     : List (BitVec 8)
  signature : List (BitVec 8)
  hbmOk     : Bool
  passes    : List Nat
  circuits  : List (SetupReq × BitVec 20)
deriving DecidableEq, Repr

/-- Why a DRIFT record is written (R470). -/
inductive DriftCause where
  | rtt (newRtt : BitVec 20)
  | syncLost
deriving DecidableEq, Repr

/-- A host access: through HDM at a host physical address, or through BAR0 or BAR2 at an offset (R375, R127, R472). -/
inductive HostAccess where
  | read (addr len : Nat) (cache : Bool)
  | write (addr : Nat) (data : List (BitVec 8))
  | bar0Read (off len : Nat)
  | bar2Read (off len : Nat)
  | bar2Write (off : Nat) (data : List (BitVec 8))
deriving DecidableEq, Repr

/-- Host link errors that AER reports (Table of R472). -/
inductive HostErr where
  | corrected
  | retrained (width : Nat)
  | internal
deriving DecidableEq, Repr

/-- Power states (Table 16.2). -/
inductive PowerState where
  | p0 | p1 | p2 | p3
deriving DecidableEq, Repr

/-- Units that a hardware failure fences (Table 20.2). -/
inductive FenceUnit where
  | core (n : Nat) (saveOk : Bool)
  | bte (n : Fin 32)
  | lighter (n : Fin 32)
  | slice (n : Fin 128)
  | frame (die : Fin 8) (addr : Nat)
deriving DecidableEq, Repr

/-- One constructor per row of the table of operations and events.  A word
constructor carries the fields of its form (Table 07.2); an event constructor carries
what identifies the event. -/
inductive Instr where
  | nop (f : RSys)  -- NOP 0x00 (R182)
  | li (f : IForm)  -- LI 0x01 (R144)
  | mov (f : RAlu)  -- MOV 0x02 (R163)
  | add (f : RAlu)  -- ADD 0x03 (R159)
  | addi (f : IForm)  -- ADDI 0x04 (R144)
  | sub (f : RAlu)  -- SUB 0x05 (R159)
  | mul (f : RAlu)  -- MUL 0x06 (R159)
  | mulh (f : RAlu)  -- MULH 0x07 (R159)
  | div (f : RAlu)  -- DIV 0x08 (R161)
  | rem (f : RAlu)  -- REM 0x09 (R161)
  | and (f : RAlu)  -- AND 0x0A (R159)
  | or (f : RAlu)  -- OR 0x0B (R159)
  | xor (f : RAlu)  -- XOR 0x0C (R159)
  | andn (f : RAlu)  -- ANDN 0x0D (R159)
  | shl (f : RAlu)  -- SHL 0x0E (R162)
  | shr (f : RAlu)  -- SHR 0x0F (R162)
  | sar (f : RAlu)  -- SAR 0x10 (R162)
  | rot (f : RAlu)  -- ROT 0x11 (R162)
  | clz (f : RAlu)  -- CLZ 0x12 (R159)
  | popc (f : RAlu)  -- POPC 0x13 (R159)
  | bext (f : RAlu)  -- BEXT 0x14 (R159)
  | bdep (f : RAlu)  -- BDEP 0x15 (R159)
  | min (f : RAlu)  -- MIN 0x16 (R159)
  | max (f : RAlu)  -- MAX 0x17 (R159)
  | madd (f : RAlu)  -- MADD 0x1A (R159)
  | cmp (f : RAlu)  -- CMP 0x18 (R164)
  | sel (f : RAlu)  -- SEL 0x19 (R165)
  | fop (f : RAlu)  -- FOP 0x1B (R167)
  | fcvt (f : RAlu)  -- FCVT 0x1C (R169)
  | fcmp (f : RAlu)  -- FCMP 0x1D (R170)
  | plog (f : RAlu)  -- PLOG 0x1E (R166)
  | br (f : BForm)  -- BR 0x1F (R171)
  | brc (f : BForm)  -- BRC 0x20 (R171)
  | call (f : BForm)  -- CALL 0x21 (R172)
  | ret (f : RSys)  -- RET 0x22 (R172)
  | loop (f : BForm)  -- LOOP 0x23 (R173)
  | qtry (f : RSys)  -- QTRY 0x24 (R174)
  | qtryPush (f : RSys)  -- QTRY_PUSH 0x24 (R174)
  | qcnt (f : RSys)  -- QCNT 0x25 (R176)
  | qpeek (f : RSys)  -- QPEEK 0x26 (R175)
  | ssig (f : EForm)  -- SSIG 0x27 (R177)
  | swait (f : EForm)  -- SWAIT 0x28 (R177)
  | stry (f : EForm)  -- STRY 0x29 (R177)
  | fence (f : RSys)  -- FENCE 0x2A (R118)
  | ctlr (f : RSys)  -- CTLR 0x2B (R179)
  | ctlw (f : RSys)  -- CTLW 0x2C (R179)
  | trap (f : IForm)  -- TRAP 0x2D (R180)
  | bkpt (f : IForm)  -- BKPT 0x2E (R181)
  | stop (f : RSys)  -- STOP 0x2F (R182)
  | gstart (f : EForm)  -- GSTART 0x40 (R184)
  | gpatch (f : RSys)  -- GPATCH 0x41 (R185)
  | gquery (f : RSys)  -- GQUERY 0x42 (R186)
  | gjoin (f : RSys)  -- GJOIN 0x43 (R189)
  | gleave (f : RSys)  -- GLEAVE 0x44 (R189)
  | gmemb (f : RSys)  -- GMEMB 0x45 (R189)
  | gbar (f : EForm)  -- GBAR 0x46 (R191)
  | gred (f : EForm)  -- GRED 0x47 (R191)
  | gbcast (f : EForm)  -- GBCAST 0x48 (R191)
  | tspawn (f : RSys)  -- TSPAWN 0x49 (R187)
  | renq (f : EForm)  -- RENQ 0x4A (R194)
  | rsig (f : EForm)  -- RSIG 0x4B (R195)
  | bind (f : RSys)  -- BIND 0x4C (R196)
  | unbind (f : RSys)  -- UNBIND 0x4D (R196)
  | acq (f : RSys)  -- ACQ 0x4E (R121)
  | rel (f : RSys)  -- REL 0x4F (R121)
  | xpbgo (f : EForm)  -- XPBGO 0x50 (R342)
  | fmtend (f : RSys)  -- FMTEND 0x51 (R199)
  | sleep (f : RSys)  -- SLEEP 0x52 (R200)
  | tickwait (f : RSys)  -- TICKWAIT 0x53 (R201)
  | speedq (f : RSys)  -- SPEEDQ 0x54 (R202)
  | evmask (f : RSys)  -- EVMASK 0x55 (R203)
  | noderel (f : RSys)  -- NODEREL 0x56 (R188)
  | stragq (f : RSys)  -- STRAGQ 0x57 (R193)
  | ld (f : MForm)  -- LD 0x60 (R204)
  | ldacq (f : MForm)  -- LDACQ 0x61 (R204)
  | ldv (f : MForm)  -- LDV 0x62 (R205)
  | ldvs (f : MForm)  -- LDVS 0x63 (R205)
  | gath (f : MForm)  -- GATH 0x64 (R206)
  | pref (f : MForm)  -- PREF 0x65 (R208)
  | rld (f : MForm)  -- RLD 0x66 (R207)
  | rldv (f : MForm)  -- RLDV 0x67 (R207)
  | stash (f : RSys)  -- STASH 0x68 (R213)
  | unstash (f : RSys)  -- UNSTASH 0x69 (R213)
  | discard (f : RSys)  -- DISCARD 0x6A (R214)
  | cpygo (f : EForm)  -- CPYGO 0x6B (R209)
  | cpymc (f : EForm)  -- CPYMC 0x6C (R209)
  | lgo (f : EForm)  -- LGO 0x6D (R210)
  | lhalt (f : RSys)  -- LHALT 0x6E (R210)
  | ringset (f : RSys)  -- RINGSET 0x6F (R215)
  | ringput (f : RSys)  -- RINGPUT 0x70 (R215)
  | ringq (f : RSys)  -- RINGQ 0x71 (R215)
  | winq (f : RSys)  -- WINQ 0x72 (R216)
  | plhint (f : RSys)  -- PLHINT 0x73 (R217)
  | pgstate (f : RSys)  -- PGSTATE 0x74 (R218)
  | bchk (f : EForm)  -- BCHK 0x75 (R211)
  | xlatq (f : RSys)  -- XLATQ 0x76 (R219)
  | lstat (f : RSys)  -- LSTAT 0x77 (R212)
  | vadd (f : VForm)  -- VADD 0x80 (R226)
  | vsub (f : VForm)  -- VSUB 0x81 (R226)
  | vmul (f : VForm)  -- VMUL 0x82 (R226)
  | vfma (f : VForm)  -- VFMA 0x83 (R226)
  | vfms (f : VForm)  -- VFMS 0x84 (R226)
  | vneg (f : VForm)  -- VNEG 0x85 (R226)
  | vabs (f : VForm)  -- VABS 0x86 (R226)
  | vmin (f : VForm)  -- VMIN 0x87 (R226)
  | vmax (f : VForm)  -- VMAX 0x88 (R226)
  | vdiv (f : VForm)  -- VDIV 0x89 (R226)
  | vsqrt (f : VForm)  -- VSQRT 0x8A (R226)
  | vrcp (f : VForm)  -- VRCP 0x8B (R227)
  | vrsq (f : VForm)  -- VRSQ 0x8C (R227)
  | vcmp (f : VForm)  -- VCMP 0x8D (R228)
  | vsel (f : VForm)  -- VSEL 0x8E (R229)
  | vand (f : VForm)  -- VAND 0x8F (R230)
  | vor (f : VForm)  -- VOR 0x90 (R230)
  | vxor (f : VForm)  -- VXOR 0x91 (R230)
  | vandn (f : VForm)  -- VANDN 0x92 (R230)
  | vshl (f : VForm)  -- VSHL 0x93 (R231)
  | vshr (f : VForm)  -- VSHR 0x94 (R231)
  | vsar (f : VForm)  -- VSAR 0x95 (R231)
  | vfshl (f : VForm)  -- VFSHL 0x96 (R231)
  | vfshr (f : VForm)  -- VFSHR 0x97 (R231)
  | vclz (f : VForm)  -- VCLZ 0x98 (R230)
  | vpopc (f : VForm)  -- VPOPC 0x99 (R230)
  | vcvt (f : VForm)  -- VCVT 0x9A (R232)
  | vsrnd (f : VForm)  -- VSRND 0x9B (R236)
  | vperm (f : VForm)  -- VPERM 0x9C (R238)
  | vshuf (f : VForm)  -- VSHUF 0x9D (R239)
  | vbcast (f : VForm)  -- VBCAST 0x9E (R240)
  | vextr (f : VForm)  -- VEXTR 0x9F (R240)
  | vins (f : VForm)  -- VINS 0xA0 (R240)
  | vredadd (f : VForm)  -- VREDADD 0xA1 (R245)
  | vredmax (f : VForm)  -- VREDMAX 0xA2 (R245)
  | vredmin (f : VForm)  -- VREDMIN 0xA3 (R245)
  | vgmax (f : VForm)  -- VGMAX 0xA4 (R246)
  | vgsum (f : VForm)  -- VGSUM 0xA5 (R246)
  | vscan (f : VForm)  -- VSCAN 0xA6 (R247)
  | vcomp (f : VForm)  -- VCOMP 0xA7 (R242)
  | vexpd (f : VForm)  -- VEXPD 0xA8 (R242)
  | viota (f : VForm)  -- VIOTA 0xA9 (R243)
  | vmov (f : VForm)  -- VMOV 0xAA (R237)
  | vli (f : VForm)  -- VLI 0xAB (R237)
  | vsfn (f : VForm)  -- VSFN 0xAC (R253)
  | vsfl (f : VForm)  -- VSFL 0xAD (R258)
  | vstat (f : VForm)  -- VSTAT 0xAE (R248)
  | vmulh (f : VForm)  -- VMULH 0xAF (R226)
  | vmadd (f : VForm)  -- VMADD 0xB0 (R226)
  | vcplx (f : VForm)  -- VCPLX 0xB1 (R251)
  | vpcnt (f : VForm)  -- VPCNT 0xB2 (R250)
  | vplog (f : VForm)  -- VPLOG 0xB3 (R249)
  | vpfirst (f : VForm)  -- VPFIRST 0xB4 (R250)
  | vslide (f : VForm)  -- VSLIDE 0xB5 (R241)
  | vdot (f : VForm)  -- VDOT 0xB6 (R252)
  | vclamp (f : VForm)  -- VCLAMP 0xB7 (R226)
  | mma (f : RSys)  -- MMA 0xC0 (R269)
  | mmat (f : RSys)  -- MMAT 0xC1 (R269)
  | aclr (f : RSys)  -- ACLR 0xC2 (R271)
  | aget (f : RSys)  -- AGET 0xC3 (R272)
  | aput (f : RSys)  -- APUT 0xC4 (R273)
  | ascale (f : RSys)  -- ASCALE 0xC5 (R274)
  | drain (f : EForm)  -- DRAIN 0xC6 (R276)
  | rpop (f : RSys)  -- RPOP 0xC7 (R277)
  | sigt (f : RSys)  -- SIGT 0xC8 (R278)
  | sigchk (f : RSys)  -- SIGCHK 0xC9 (R279)
  | fftset (f : EForm)  -- FFTSET 0xCA (R281)
  | fftrun (f : RSys)  -- FFTRUN 0xCB (R283)
  | spmul (f : RSys)  -- SPMUL 0xCC (R285)
  | shtl (f : EForm)  -- SHTL 0xCD (R287)
  | blkt (f : RSys)  -- BLKT 0xCE (R289)
  | fmtpop (f : RSys)  -- FMTPOP 0xCF (R266)
  | st (f : MForm)  -- ST 0xD0 (R292)
  | strel (f : MForm)  -- STREL 0xD1 (R292)
  | stv (f : MForm)  -- STV 0xD2 (R293)
  | stvs (f : MForm)  -- STVS 0xD3 (R294)
  | scat (f : MForm)  -- SCAT 0xD4 (R294)
  | amo (f : MForm)  -- AMO 0xD5 (R298)
  | amov (f : MForm)  -- AMOV 0xD6 (R298)
  | red (f : MForm)  -- RED 0xD7 (R298)
  | redv (f : MForm)  -- REDV 0xD8 (R298)
  | skupd (f : EForm)  -- SKUPD 0xD9 (R306)
  | skqry (f : EForm)  -- SKQRY 0xDA (R307)
  | skadd (f : EForm)  -- SKADD 0xDB (R308)
  | skclr (f : EForm)  -- SKCLR 0xDC (R308)
  | uop (f : RAlu)  -- UOP 0xDD (R310)
  | ucvt (f : RAlu)  -- UCVT 0xDE (R311)
  | nfchk (f : EForm)  -- NFCHK 0xDF (R313)
  | scommit (f : EForm)  -- SCOMMIT 0xE0 (R314)
  | sflush (f : RSys)  -- SFLUSH 0xE1 (R302)
  | rstv (f : MForm)  -- RSTV 0xE2 (R300)
  | skstat (f : RSys)  -- SKSTAT 0xE3 (R309)
  | zero (f : MForm)  -- ZERO 0xE4 (R296)
  | stnt (f : MForm)  -- STNT 0xE5 (R293)
  | rrput (f : EForm)  -- RRPUT 0xE6 (R301)
  | stls (f : MForm)  -- STLS 0xE7 (R293)
  | unassignedOpcode (op : BitVec 8) (rest : BitVec 88)  -- UNASSIGNED_OPCODE (R416)
  | sectionEntry (st : Stream)  -- SECTION_ENTRY (R28)
  | trapEntry (st : Stream) (code op : BitVec 8) (info : BitVec 32)  -- TRAP_ENTRY (R63)
  | taskStart (core : Nat)  -- TASK_START (R21)
  | taskEnd (tid : Nat)  -- TASK_END (R22)
  | taskFreeze (tid : Nat) (f : FreezeCause)  -- TASK_FREEZE (R400)
  | preemption (slot node : Nat)  -- PREEMPTION (R358)
  | taskResume (core : Nat)  -- TASK_RESUME (R49)
  | distributorPick  -- DISTRIBUTOR_PICK (R357)
  | semaphoreWaitSatisfied (tid : Nat) (k : BitVec 8) (sigs : List SemSignal)  -- SEMAPHORE_WAIT_SATISFIED (R39)
  | remoteSignalApply (m : RemoteSignal)  -- REMOTE_SIGNAL_APPLY (R40)
  | eventDeliver (tid : Nat)  -- EVENT_DELIVER (R36)
  | ringSlotClaim (tid : Nat) (ring : Fin 8)  -- RING_SLOT_CLAIM (R60)
  | quayGroupTick (arrivals : List GroupArrival) (removals : List (Nat × Nat)) (joins : List (Nat × Nat))  -- QUAY_GROUP_TICK (R453)
  | groupCollectiveComplete (group : Nat) (kind : CollKind)  -- GROUP_COLLECTIVE_COMPLETE (R455)
  | renqBlockArrival (m : BlockMsg)  -- RENQ_BLOCK_ARRIVAL (R45)
  | jobUnitRecordStart (tid : Nat)  -- JOB_UNIT_RECORD_START (R332)
  | commandBlockDone (tid : Nat)  -- COMMAND_BLOCK_DONE (R332)
  | copyApertureStart (chan : Fin 32) (data : BitVec 128) (tid : Option Nat)  -- COPY_APERTURE_START (R324)
  | bteJobStart (chan : Fin 32)  -- BTE_JOB_START (R323)
  | bteChunkComplete (chan : Fin 32)  -- BTE_CHUNK_COMPLETE (R323)
  | engineJobComplete (e : Engine)  -- ENGINE_JOB_COMPLETE (R325)
  | completionRingWrite (e : Engine)  -- COMPLETION_RING_WRITE (R326)
  | engineJobFail (e : Engine) (code : BitVec 8)  -- ENGINE_JOB_FAIL (R446)
  | drainJobWrite (chan : Fin 32)  -- DRAIN_JOB_WRITE (R276)
  | lighterProgramStart (n : Fin 32)  -- LIGHTER_PROGRAM_START (R330)
  | lighterEnd (n : Fin 32)  -- LIGHTER_END (R330)
  | lighterBase (n : Fin 32) (ia : BitVec 58)  -- LIGHTER_BASE (R328)
  | lighterDim (n : Fin 32) (d : BitVec 3) (count : BitVec 25) (stride : BitVec 32)  -- LIGHTER_DIM (R328)
  | lighterPush (n : Fin 32) (ring : BitVec 3) (ndim : BitVec 4) (elog : BitVec 3) (ssem : BitVec 8) (sinc : BitVec 12)  -- LIGHTER_PUSH (R329)
  | lighterGather (n : Fin 32) (ring : BitVec 3) (elog : BitVec 3) (ssem : BitVec 8) (sinc : BitVec 12) (count : BitVec 14) (scale : BitVec 4)  -- LIGHTER_GATHER (R329)
  | lighterLoop (n : Fin 32) (l : BitVec 2) (count : BitVec 24) (target : BitVec 16)  -- LIGHTER_LOOP (R330)
  | lighterSig (n : Fin 32) (ssem : BitVec 8) (sinc : BitVec 12)  -- LIGHTER_SIG (R328)
  | lighterWwait (n : Fin 32) (mode : BitVec 2) (wsem : BitVec 8) (thr : BitVec 16)  -- LIGHTER_WWAIT (R328)
  | lighterJump (n : Fin 32) (target : BitVec 16)  -- LIGHTER_JUMP (R328)
  | lighterIdx (n : Fin 32) (ia : BitVec 58)  -- LIGHTER_IDX (R328)
  | lighterAdv (n : Fin 32) (off : BitVec 56)  -- LIGHTER_ADV (R328)
  | lighterPushFillComplete (n : Fin 32)  -- LIGHTER_PUSH_FILL_COMPLETE (R329)
  | lighterNextPageWalk (n : Fin 32)  -- LIGHTER_NEXT_PAGE_WALK (R95)
  | damaskMemberStart (coll : CollKey) (tid : Nat)  -- DAMASK_MEMBER_START (R342)
  | damaskBlockWrite (coll : CollKey) (b : DamaskBlock)  -- DAMASK_BLOCK_WRITE (R340)
  | damaskPhaseComplete (coll : CollKey) (tid : Nat)  -- DAMASK_PHASE_COMPLETE (R343)
  | damaskSourceReadDone (coll : CollKey) (tid : Nat)  -- DAMASK_SOURCE_READ_DONE (R343)
  | damaskMembershipComplete (coll : CollKey) (tid : Nat)  -- DAMASK_MEMBERSHIP_COMPLETE (R344)
  | damaskSlotStart (coll : CollKey) (circuitsReady : Bool)  -- DAMASK_SLOT_START (R346)
  | damaskMemberLost (coll : CollKey) (rank : Nat) (code : BitVec 8)  -- DAMASK_MEMBER_LOST (R456)
  | grresLoad (slot : Fin 64) (obj : BitVec 16)  -- GRRES_LOAD (R349)
  | grresEvict (slot : Fin 64)  -- GRRES_EVICT (R349)
  | grstart (slot : Fin 64) (n : BitVec 32)  -- GRSTART (R350)
  | stepBegin (slot : Fin 64)  -- STEP_BEGIN (R351)
  | stepEnd (slot : Fin 64)  -- STEP_END (R351)
  | nodeComplete (slot : Fin 64) (node : Nat)  -- NODE_COMPLETE (R352)
  | homeSliceWrite (by_ : Requester) (ia : Nat) (data : List (BitVec 8))  -- HOME_SLICE_WRITE (R111)
  | homeSliceRead (by_ : Requester) (ia len : Nat)  -- HOME_SLICE_READ (R111)
  | homeSliceAtomic (by_ : Requester) (ia : Nat) (opk : BitVec 4) (size : Nat) (isFloat : Bool) (operand expected : BitVec 64)  -- HOME_SLICE_ATOMIC (R297)
  | acknowledgementArrival (tid : Nat)  -- ACKNOWLEDGEMENT_ARRIVAL (R114)
  | stashFill (tid : Nat) (off : Nat)  -- STASH_FILL (R103)
  | stashRecall (ia : Nat) (isWrite : Bool)  -- STASH_RECALL (R104)
  | guardGrant (ia : Nat)  -- GUARD_GRANT (R121)
  | gateReport (by_ : Requester) (ia : Nat) (nonfinite : Bool)  -- GATE_REPORT (R313)
  | sketchUpdateApply (obj : BitVec 16) (row bucket : Nat) (inc : Int)  -- SKETCH_UPDATE_APPLY (R306)
  | rstvWriteApply (m : RstvMsg)  -- RSTV_WRITE_APPLY (R300)
  | rrputFillApply (m : RrputMsg)  -- RRPUT_FILL_APPLY (R301)
  | migration (region : Nat) (newDie : Fin 8) (frame : Nat)  -- MIGRATION (R96)
  | translationFault (by_ : Requester) (ia : Nat) (kind : AccessKind)  -- TRANSLATION_FAULT (R433)
  | sidelogWaitEnter (tid : Nat)  -- SIDELOG_WAIT_ENTER (R439)
  | sidelogEntryApply (tid : Nat) (seq : BitVec 16)  -- SIDELOG_ENTRY_APPLY (R437)
  | faultresRetry (die : Fin 8) (page : Nat)  -- FAULTRES_RETRY (R434)
  | faultresAbort (die : Fin 8) (page : Nat)  -- FAULTRES_ABORT (R434)
  | walkerInvalidate (die : Fin 8) (ia : Nat)  -- WALKER_INVALIDATE (R94)
  | objectTableInvalidate (index : BitVec 16)  -- OBJECT_TABLE_INVALIDATE (R317)
  | pkgnumWrite (v : BitVec 64)  -- PKGNUM_WRITE (R368)
  | pkgmapWrite (word : Fin 32) (v : BitVec 64)  -- PKGMAP_WRITE (R368)
  | frozenResume (n : Fin 16)  -- FROZEN_RESUME (R402)
  | frozenRelease (n : Fin 16)  -- FROZEN_RELEASE (R402)
  | frozenJobSlotFree (die : Fin 8) (j : Fin 4)  -- FROZEN_JOB_SLOT_FREE (R403)
  | registerWrite (offset : Nat) (v : BitVec 64)  -- REGISTER_WRITE (R385)
  | errorRecordWrite  -- ERROR_RECORD_WRITE (R408)
  | correctedErrorThreshold (unit : ErrUnit) (count : Nat)  -- CORRECTED_ERROR_THRESHOLD (R407)
  | eccUncorrected (where_ : EccWhere)  -- ECC_UNCORRECTED (R411)
  | patrolScrub (die : Fin 8) (addr : Nat) (finding : ScrubFinding)  -- PATROL_SCRUB (R412)
  | deadlockTimeout (tid : Nat)  -- DEADLOCK_TIMEOUT (R451)
  | stallTimeout (tid : Nat)  -- STALL_TIMEOUT (R452)
  | packageReset (b : BootInputs)  -- PACKAGE_RESET (R379)
  | ageingMarginLow (core : Nat) (voltageCanRestore : Bool)  -- AGEING_MARGIN_LOW (R382)
  | speedTableUpdate  -- SPEED_TABLE_UPDATE (R382)
  | checkpoint  -- CHECKPOINT (R384)
  | checkpointResume  -- CHECKPOINT_RESUME (R415)
  | flitDataReceive (circ : Nat) (f : FlitIn)  -- FLIT_DATA_RECEIVE (R372)
  | keyMarkerReceive (circ : Nat) (f : FlitIn)  -- KEY_MARKER_RECEIVE (R374)
  | flitAckReceive (far : BitVec 11) (circ : Nat) (f : FlitIn)  -- FLIT_ACK_RECEIVE (R372)
  | timeSyncReceive (circ : Nat) (f : FlitIn) (rtt : BitVec 20)  -- TIME_SYNC_RECEIVE (R370)
  | keySlotLoad (circ : Nat) (outbound : Bool) (slot : Bool) (key : BitVec 256) (salt : BitVec 48)  -- KEY_SLOT_LOAD (R373)
  | circuitRekey (circ : Nat) (outbound : Bool) (key0 key1 : BitVec 256) (salt0 salt1 : BitVec 48)  -- CIRCUIT_REKEY (R464)
  | ctrExhaust (circ : Nat)  -- CTR_EXHAUST (R465)
  | circuitSetup (req : SetupReq)  -- CIRCUIT_SETUP (R369)
  | circuitSetupAck (circ : Nat) (rtt : BitVec 20)  -- CIRCUIT_SETUP_ACK (R369)
  | circuitSetupNack (circ : Nat)  -- CIRCUIT_SETUP_NACK (R369)
  | circuitSetupRetry (circ : Nat)  -- CIRCUIT_SETUP_RETRY (R369)
  | circuitTear (circ : Nat)  -- CIRCUIT_TEAR (R369)
  | circuitIdleTimeout (circ : Nat)  -- CIRCUIT_IDLE_TIMEOUT (R369)
  | circuitFail (circ : Nat)  -- CIRCUIT_FAIL (R466)
  | laneLockLoss (engine : Fin 8) (lane : Fin 16)  -- LANE_LOCK_LOSS (R466)
  | mcuWatchdog (engine : Fin 8)  -- MCU_WATCHDOG (R469)
  | drift (circ : Nat) (c : DriftCause)  -- DRIFT (R470)
  | dieLink (link : Fin 16)  -- DIE_LINK (R471)
  | hdmHostAccess (a : HostAccess)  -- HDM_HOST_ACCESS (R375)
  | hostApertureAccess (by_ : Requester) (off : Nat) (write : Option (List (BitVec 8))) (len : Nat)  -- HOST_APERTURE_ACCESS (R376)
  | hostError (e : HostErr)  -- HOST_ERROR (R472)
  | hostLinkDown  -- HOST_LINK_DOWN (R473)
  | backInvalidateTimeout (ia : Nat)  -- BACK_INVALIDATE_TIMEOUT (R473)
  | tickTimeout (tid : Nat)  -- TICK_TIMEOUT (R201)
  | loadReplyArrival (tid : Nat)  -- LOAD_REPLY_ARRIVAL (R204)
  | backInvalidateResponse (ia : Nat)  -- BACK_INVALIDATE_RESPONSE (R127)
  | hostLinkReturn  -- HOST_LINK_RETURN (R473)
  | powerStateChange (target : PowerState)  -- POWER_STATE_CHANGE (R383)
  | powerBudgetLimit (limited : Bool)  -- POWER_BUDGET_LIMIT (R383)
  | haltNotice  -- HALT_NOTICE (R414)
  | hardwareFailureFence (u : FenceUnit)  -- HARDWARE_FAILURE_FENCE (R404)
  | timeSyncSend (circ : Nat)  -- TIME_SYNC_SEND (R370)
deriving DecidableEq, Repr

end Sys2Proof
end

