-- ==== Sys2Proof/WellFormed.lean ====
section
/-! DEFINITION. The instructions that have an encoding: what the code format of spec 07
admits (R136, R418, Table 21.2), and opcode 0x24's split into QTRY and QTRY_PUSH (R174).  Operand
rules (R419) are no part of it: a word that breaks one is an instruction that traps. -/

namespace Sys2Proof

/-- M form: SIZE is not 0b101 or 0b110, and HINT [52:50] is at most 2 (Table 21.2). -/
def MForm.wf (f : MForm) : Bool := f.size != 5#3 && f.size != 6#3 && decide (f.hint.toNat ≤ 2)

/-- E form: WMODE is not 0b11 (Table 21.2). -/
def EForm.wf (f : EForm) : Bool := f.wmode != 3#2

/-- The 64 unassigned opcodes (R146, R416). -/
def unassigned (op : BitVec 8) : Bool :=
  let n := op.toNat
  (0x30 ≤ n && n ≤ 0x3F) || (0x58 ≤ n && n ≤ 0x5F) || (0x78 ≤ n && n ≤ 0x7F) || (0xB8 ≤ n && n ≤ 0xBF) || 0xE8 ≤ n

/-- A well-formed instruction word.  An event has no encoding and is not well formed in this sense. -/
def Instr.wf : Instr → Bool
  | .qtry f => f.sub != 0x01#8
  | .qtryPush f => f.sub == 0x01#8
  | .unassignedOpcode op _ => unassigned op
  | .nop _ => true
  | .li _ => true
  | .mov _ => true
  | .add _ => true
  | .addi _ => true
  | .sub _ => true
  | .mul _ => true
  | .mulh _ => true
  | .div _ => true
  | .rem _ => true
  | .and _ => true
  | .or _ => true
  | .xor _ => true
  | .andn _ => true
  | .shl _ => true
  | .shr _ => true
  | .sar _ => true
  | .rot _ => true
  | .clz _ => true
  | .popc _ => true
  | .bext _ => true
  | .bdep _ => true
  | .min _ => true
  | .max _ => true
  | .madd _ => true
  | .cmp _ => true
  | .sel _ => true
  | .fop _ => true
  | .fcvt _ => true
  | .fcmp _ => true
  | .plog _ => true
  | .br _ => true
  | .brc _ => true
  | .call _ => true
  | .ret _ => true
  | .loop _ => true
  | .qcnt _ => true
  | .qpeek _ => true
  | .ssig f => f.wf
  | .swait f => f.wf
  | .stry f => f.wf
  | .fence _ => true
  | .ctlr _ => true
  | .ctlw _ => true
  | .trap _ => true
  | .bkpt _ => true
  | .stop _ => true
  | .gstart f => f.wf
  | .gpatch _ => true
  | .gquery _ => true
  | .gjoin _ => true
  | .gleave _ => true
  | .gmemb _ => true
  | .gbar f => f.wf
  | .gred f => f.wf
  | .gbcast f => f.wf
  | .tspawn _ => true
  | .renq f => f.wf
  | .rsig f => f.wf
  | .bind _ => true
  | .unbind _ => true
  | .acq _ => true
  | .rel _ => true
  | .xpbgo f => f.wf
  | .fmtend _ => true
  | .sleep _ => true
  | .tickwait _ => true
  | .speedq _ => true
  | .evmask _ => true
  | .noderel _ => true
  | .stragq _ => true
  | .ld f => f.wf
  | .ldacq f => f.wf
  | .ldv f => f.wf
  | .ldvs f => f.wf
  | .gath f => f.wf
  | .pref f => f.wf
  | .rld f => f.wf
  | .rldv f => f.wf
  | .stash _ => true
  | .unstash _ => true
  | .discard _ => true
  | .cpygo f => f.wf
  | .cpymc f => f.wf
  | .lgo f => f.wf
  | .lhalt _ => true
  | .ringset _ => true
  | .ringput _ => true
  | .ringq _ => true
  | .winq _ => true
  | .plhint _ => true
  | .pgstate _ => true
  | .bchk f => f.wf
  | .xlatq _ => true
  | .lstat _ => true
  | .vadd _ => true
  | .vsub _ => true
  | .vmul _ => true
  | .vfma _ => true
  | .vfms _ => true
  | .vneg _ => true
  | .vabs _ => true
  | .vmin _ => true
  | .vmax _ => true
  | .vdiv _ => true
  | .vsqrt _ => true
  | .vrcp _ => true
  | .vrsq _ => true
  | .vcmp _ => true
  | .vsel _ => true
  | .vand _ => true
  | .vor _ => true
  | .vxor _ => true
  | .vandn _ => true
  | .vshl _ => true
  | .vshr _ => true
  | .vsar _ => true
  | .vfshl _ => true
  | .vfshr _ => true
  | .vclz _ => true
  | .vpopc _ => true
  | .vcvt _ => true
  | .vsrnd _ => true
  | .vperm _ => true
  | .vshuf _ => true
  | .vbcast _ => true
  | .vextr _ => true
  | .vins _ => true
  | .vredadd _ => true
  | .vredmax _ => true
  | .vredmin _ => true
  | .vgmax _ => true
  | .vgsum _ => true
  | .vscan _ => true
  | .vcomp _ => true
  | .vexpd _ => true
  | .viota _ => true
  | .vmov _ => true
  | .vli _ => true
  | .vsfn _ => true
  | .vsfl _ => true
  | .vstat _ => true
  | .vmulh _ => true
  | .vmadd _ => true
  | .vcplx _ => true
  | .vpcnt _ => true
  | .vplog _ => true
  | .vpfirst _ => true
  | .vslide _ => true
  | .vdot _ => true
  | .vclamp _ => true
  | .mma _ => true
  | .mmat _ => true
  | .aclr _ => true
  | .aget _ => true
  | .aput _ => true
  | .ascale _ => true
  | .drain f => f.wf
  | .rpop _ => true
  | .sigt _ => true
  | .sigchk _ => true
  | .fftset f => f.wf
  | .fftrun _ => true
  | .spmul _ => true
  | .shtl f => f.wf
  | .blkt _ => true
  | .fmtpop _ => true
  | .st f => f.wf
  | .strel f => f.wf
  | .stv f => f.wf
  | .stvs f => f.wf
  | .scat f => f.wf
  | .amo f => f.wf
  | .amov f => f.wf
  | .red f => f.wf
  | .redv f => f.wf
  | .skupd f => f.wf
  | .skqry f => f.wf
  | .skadd f => f.wf
  | .skclr f => f.wf
  | .uop _ => true
  | .ucvt _ => true
  | .nfchk f => f.wf
  | .scommit f => f.wf
  | .sflush _ => true
  | .rstv f => f.wf
  | .skstat _ => true
  | .zero f => f.wf
  | .stnt f => f.wf
  | .rrput f => f.wf
  | .stls f => f.wf
  | .sectionEntry _ => false
  | .trapEntry _ _ _ _ => false
  | .taskStart _ => false
  | .taskEnd _ => false
  | .taskFreeze _ _ => false
  | .preemption _ _ => false
  | .taskResume _ => false
  | .distributorPick => false
  | .semaphoreWaitSatisfied _ _ _ => false
  | .remoteSignalApply _ => false
  | .eventDeliver _ => false
  | .ringSlotClaim _ _ => false
  | .quayGroupTick _ _ _ => false
  | .groupCollectiveComplete _ _ => false
  | .renqBlockArrival _ => false
  | .jobUnitRecordStart _ => false
  | .commandBlockDone _ => false
  | .copyApertureStart _ _ _ => false
  | .bteJobStart _ => false
  | .bteChunkComplete _ => false
  | .engineJobComplete _ => false
  | .completionRingWrite _ => false
  | .engineJobFail _ _ => false
  | .drainJobWrite _ => false
  | .lighterProgramStart _ => false
  | .lighterEnd _ => false
  | .lighterBase _ _ => false
  | .lighterDim _ _ _ _ => false
  | .lighterPush _ _ _ _ _ _ => false
  | .lighterGather _ _ _ _ _ _ _ => false
  | .lighterLoop _ _ _ _ => false
  | .lighterSig _ _ _ => false
  | .lighterWwait _ _ _ _ => false
  | .lighterJump _ _ => false
  | .lighterIdx _ _ => false
  | .lighterAdv _ _ => false
  | .lighterPushFillComplete _ => false
  | .lighterNextPageWalk _ => false
  | .damaskMemberStart _ _ => false
  | .damaskBlockWrite _ _ => false
  | .damaskPhaseComplete _ _ => false
  | .damaskSourceReadDone _ _ => false
  | .damaskMembershipComplete _ _ => false
  | .damaskSlotStart _ _ => false
  | .damaskMemberLost _ _ _ => false
  | .grresLoad _ _ => false
  | .grresEvict _ => false
  | .grstart _ _ => false
  | .stepBegin _ => false
  | .stepEnd _ => false
  | .nodeComplete _ _ => false
  | .homeSliceWrite _ _ _ => false
  | .homeSliceRead _ _ _ => false
  | .homeSliceAtomic _ _ _ _ _ _ _ => false
  | .acknowledgementArrival _ => false
  | .stashFill _ _ => false
  | .stashRecall _ _ => false
  | .guardGrant _ => false
  | .gateReport _ _ _ => false
  | .sketchUpdateApply _ _ _ _ => false
  | .rstvWriteApply _ => false
  | .rrputFillApply _ => false
  | .migration _ _ _ => false
  | .translationFault _ _ _ => false
  | .sidelogWaitEnter _ => false
  | .sidelogEntryApply _ _ => false
  | .faultresRetry _ _ => false
  | .faultresAbort _ _ => false
  | .walkerInvalidate _ _ => false
  | .objectTableInvalidate _ => false
  | .pkgnumWrite _ => false
  | .pkgmapWrite _ _ => false
  | .frozenResume _ => false
  | .frozenRelease _ => false
  | .frozenJobSlotFree _ _ => false
  | .registerWrite _ _ => false
  | .errorRecordWrite => false
  | .correctedErrorThreshold _ _ => false
  | .eccUncorrected _ => false
  | .patrolScrub _ _ _ => false
  | .deadlockTimeout _ => false
  | .stallTimeout _ => false
  | .packageReset _ => false
  | .ageingMarginLow _ _ => false
  | .speedTableUpdate => false
  | .checkpoint => false
  | .checkpointResume => false
  | .flitDataReceive _ _ => false
  | .keyMarkerReceive _ _ => false
  | .flitAckReceive _ _ _ => false
  | .timeSyncReceive _ _ _ => false
  | .keySlotLoad _ _ _ _ _ => false
  | .circuitRekey _ _ _ _ _ _ => false
  | .ctrExhaust _ => false
  | .circuitSetup _ => false
  | .circuitSetupAck _ _ => false
  | .circuitSetupNack _ => false
  | .circuitSetupRetry _ => false
  | .circuitTear _ => false
  | .circuitIdleTimeout _ => false
  | .circuitFail _ => false
  | .laneLockLoss _ _ => false
  | .mcuWatchdog _ => false
  | .drift _ _ => false
  | .dieLink _ => false
  | .hdmHostAccess _ => false
  | .hostApertureAccess _ _ _ _ => false
  | .hostError _ => false
  | .hostLinkDown => false
  | .backInvalidateTimeout _ => false
  | .tickTimeout _ => false
  | .loadReplyArrival _ => false
  | .backInvalidateResponse _ => false
  | .hostLinkReturn => false
  | .powerStateChange _ => false
  | .powerBudgetLimit _ => false
  | .haltNotice => false
  | .hardwareFailureFence _ => false
  | .timeSyncSend _ => false

end Sys2Proof
end

