-- ==== Sys2Proof/Decode.lean ====
section
/-! DEFINITION. The decoder of 96-bit instruction words (spec 07, R135-R147; the format-level
checks of R418), the decoder of Lighter commands (R328), and the encoder.  The decoder refuses, by
name, only what the code format itself forbids (Table 21.2); every operand rule is an
architectural trap that the instruction's meaning takes. -/

namespace Sys2Proof

/-- Why bytes are no instruction word: the format-level fields of Table 21.2, and too few bytes. -/
inductive DecodeError where
  | tooShort
  | reservedMod (bit : Nat)
  | reservedBForm
  | reservedEForm
  | reservedWmode
  | reservedSize
  | reservedHint
deriving DecidableEq, Repr

/-- The lowest bit position of the offending field, as TRAPCAUSE.INFO reports it (Table 21.5). -/
def DecodeError.bit : DecodeError → Nat
  | .tooShort => 0
  | .reservedMod b => b
  | .reservedBForm => 48
  | .reservedEForm => 7
  | .reservedWmode => 58
  | .reservedSize => 57
  | .reservedHint => 50

/-- The six forms (Table 07.2). -/
inductive FormKind where
  | r | i | m | b | e | v
deriving DecidableEq, Repr

/-- OP, bits [95:88] (R135). -/
def opField (w : BitVec 96) : BitVec 8 := w.extractLsb' 88 8

/-- PRED, bits [87:84] (R135). -/
def predOf (w : BitVec 96) : Pred := ⟨w.getLsbD 87, w.extractLsb' 84 3⟩

/-- A special operand by its code less 0x38 (Table 07.3). -/
def specialOf (n : Nat) : Special :=
  match n with
  | 0 => .tile | 1 => .core | 2 => .tick | 3 => .speed
  | 4 => .step | 5 => .patch | 6 => .taskid | _ => .node

/-- The code of a special operand less 0x38. -/
def specialCode : Special → Nat
  | .tile => 0 | .core => 1 | .tick => 2 | .speed => 3
  | .step => 4 | .patch => 5 | .taskid => 6 | .node => 7

/-- An operand specifier from its 7-bit code (Table 07.3). -/
def operandOf (x : BitVec 7) : Operand :=
  let n := x.toNat
  if n < 0x20 then .g (Fin.ofNat 32 n)
  else if n < 0x30 then .q (Fin.ofNat 16 (n - 0x20))
  else if n < 0x38 then .p (Fin.ofNat 8 (n - 0x30))
  else if n < 0x40 then .sp (specialOf (n - 0x38))
  else if n < 0x60 then .v (Fin.ofNat 32 (n - 0x40))
  else if n < 0x64 then .t (Fin.ofNat 4 (n - 0x60))
  else .rsv (Fin.ofNat 28 (n - 0x64))

/-- The 7-bit code of an operand specifier (Table 07.3). -/
def operandCode : Operand → BitVec 7
  | .g n => BitVec.ofNat 7 n.val
  | .q n => BitVec.ofNat 7 (0x20 + n.val)
  | .p n => BitVec.ofNat 7 (0x30 + n.val)
  | .sp x => BitVec.ofNat 7 (0x38 + specialCode x)
  | .v n => BitVec.ofNat 7 (0x40 + n.val)
  | .t n => BitVec.ofNat 7 (0x60 + n.val)
  | .rsv n => BitVec.ofNat 7 (0x64 + n.val)

/-- The operand field whose lowest bit is `lo`. -/
def operandAt (w : BitVec 96) (lo : Nat) : Operand := operandOf (w.extractLsb' lo 7)

/-- R form with the ALU layout of MOD (Table 07.4). -/
def rAluOf (w : BitVec 96) : RAlu :=
  { pred := predOf w, d := operandAt w 77, a := operandAt w 70, b := operandAt w 63, c := operandAt w 56
    sub := w.extractLsb' 46 8, sat := w.getLsbD 45, immb := w.getLsbD 44, rbm1 := w.extractLsb' 40 4
    rm := w.extractLsb' 37 3, ty := w.extractLsb' 32 5, imm := w.extractLsb' 0 32 }

/-- R form with the system layout of MOD (Table 07.5). -/
def rSysOf (w : BitVec 96) : RSys :=
  { pred := predOf w, d := operandAt w 77, a := operandAt w 70, b := operandAt w 63, c := operandAt w 56
    ring2 := w.extractLsb' 50 4, ring1 := w.extractLsb' 46 4, rm := w.extractLsb' 43 3, tag := w.getLsbD 42
    scope := w.extractLsb' 40 2, sub := w.extractLsb' 32 8, imm := w.extractLsb' 0 32 }

/-- I form (Table 07.2). -/
def iFormOf (w : BitVec 96) : IForm :=
  { pred := predOf w, d := operandAt w 77, a := operandAt w 70, imm := w.extractLsb' 0 64 }

/-- M form (R143). -/
def mFormOf (w : BitVec 96) : MForm :=
  { pred := predOf w, d := operandAt w 77, base := operandAt w 70, index := operandAt w 63
    win := w.extractLsb' 60 3, size := w.extractLsb' 57 3, scale := w.extractLsb' 54 3, lsel := w.getLsbD 53
    hint := w.extractLsb' 50 3, opk := w.extractLsb' 46 4, ord := w.extractLsb' 44 2, scope := w.extractLsb' 42 2
    tag := w.getLsbD 41, cf := w.getLsbD 40, disp := w.extractLsb' 0 40 }

/-- B form (Table 07.2). -/
def bFormOf (w : BitVec 96) : BForm :=
  { pred := predOf w, a := operandAt w 77, b := operandAt w 70, cc := w.extractLsb' 66 4, off := w.extractLsb' 0 48 }

/-- E form (Table 07.2, R142). -/
def eFormOf (w : BitVec 96) : EForm :=
  { pred := predOf w, wsem := w.extractLsb' 76 8, wthr := w.extractLsb' 60 16, wmode := w.extractLsb' 58 2
    ssem := w.extractLsb' 50 8, sinc := w.extractLsb' 38 12, obj := w.extractLsb' 22 16
    a := operandAt w 15, b := operandAt w 8, tag := w.getLsbD 6, scope := w.extractLsb' 4 2, sub := w.extractLsb' 0 4 }

/-- V form (R141). -/
def vFormOf (w : BitVec 96) : VForm :=
  { pred := predOf w, d := operandAt w 77, a := operandAt w 70, b := operandAt w 63, c := operandAt w 56
    mask := w.extractLsb' 53 3, ty := w.extractLsb' 48 5, sub := w.extractLsb' 42 6, sat := w.getLsbD 41
    zm := w.getLsbD 40, immb := w.getLsbD 39, rbm1 := w.extractLsb' 35 4, rm := w.extractLsb' 32 3
    imm := w.extractLsb' 0 32 }

/-- The opcode of a word constructor (Table 07.10); none for an event. -/
def opcodeOf : Instr → Option (BitVec 8)
  | .nop _ => some 0x00#8
  | .li _ => some 0x01#8
  | .mov _ => some 0x02#8
  | .add _ => some 0x03#8
  | .addi _ => some 0x04#8
  | .sub _ => some 0x05#8
  | .mul _ => some 0x06#8
  | .mulh _ => some 0x07#8
  | .div _ => some 0x08#8
  | .rem _ => some 0x09#8
  | .and _ => some 0x0A#8
  | .or _ => some 0x0B#8
  | .xor _ => some 0x0C#8
  | .andn _ => some 0x0D#8
  | .shl _ => some 0x0E#8
  | .shr _ => some 0x0F#8
  | .sar _ => some 0x10#8
  | .rot _ => some 0x11#8
  | .clz _ => some 0x12#8
  | .popc _ => some 0x13#8
  | .bext _ => some 0x14#8
  | .bdep _ => some 0x15#8
  | .min _ => some 0x16#8
  | .max _ => some 0x17#8
  | .madd _ => some 0x1A#8
  | .cmp _ => some 0x18#8
  | .sel _ => some 0x19#8
  | .fop _ => some 0x1B#8
  | .fcvt _ => some 0x1C#8
  | .fcmp _ => some 0x1D#8
  | .plog _ => some 0x1E#8
  | .br _ => some 0x1F#8
  | .brc _ => some 0x20#8
  | .call _ => some 0x21#8
  | .ret _ => some 0x22#8
  | .loop _ => some 0x23#8
  | .qtry _ => some 0x24#8
  | .qtryPush _ => some 0x24#8
  | .qcnt _ => some 0x25#8
  | .qpeek _ => some 0x26#8
  | .ssig _ => some 0x27#8
  | .swait _ => some 0x28#8
  | .stry _ => some 0x29#8
  | .fence _ => some 0x2A#8
  | .ctlr _ => some 0x2B#8
  | .ctlw _ => some 0x2C#8
  | .trap _ => some 0x2D#8
  | .bkpt _ => some 0x2E#8
  | .stop _ => some 0x2F#8
  | .gstart _ => some 0x40#8
  | .gpatch _ => some 0x41#8
  | .gquery _ => some 0x42#8
  | .gjoin _ => some 0x43#8
  | .gleave _ => some 0x44#8
  | .gmemb _ => some 0x45#8
  | .gbar _ => some 0x46#8
  | .gred _ => some 0x47#8
  | .gbcast _ => some 0x48#8
  | .tspawn _ => some 0x49#8
  | .renq _ => some 0x4A#8
  | .rsig _ => some 0x4B#8
  | .bind _ => some 0x4C#8
  | .unbind _ => some 0x4D#8
  | .acq _ => some 0x4E#8
  | .rel _ => some 0x4F#8
  | .xpbgo _ => some 0x50#8
  | .fmtend _ => some 0x51#8
  | .sleep _ => some 0x52#8
  | .tickwait _ => some 0x53#8
  | .speedq _ => some 0x54#8
  | .evmask _ => some 0x55#8
  | .noderel _ => some 0x56#8
  | .stragq _ => some 0x57#8
  | .ld _ => some 0x60#8
  | .ldacq _ => some 0x61#8
  | .ldv _ => some 0x62#8
  | .ldvs _ => some 0x63#8
  | .gath _ => some 0x64#8
  | .pref _ => some 0x65#8
  | .rld _ => some 0x66#8
  | .rldv _ => some 0x67#8
  | .stash _ => some 0x68#8
  | .unstash _ => some 0x69#8
  | .discard _ => some 0x6A#8
  | .cpygo _ => some 0x6B#8
  | .cpymc _ => some 0x6C#8
  | .lgo _ => some 0x6D#8
  | .lhalt _ => some 0x6E#8
  | .ringset _ => some 0x6F#8
  | .ringput _ => some 0x70#8
  | .ringq _ => some 0x71#8
  | .winq _ => some 0x72#8
  | .plhint _ => some 0x73#8
  | .pgstate _ => some 0x74#8
  | .bchk _ => some 0x75#8
  | .xlatq _ => some 0x76#8
  | .lstat _ => some 0x77#8
  | .vadd _ => some 0x80#8
  | .vsub _ => some 0x81#8
  | .vmul _ => some 0x82#8
  | .vfma _ => some 0x83#8
  | .vfms _ => some 0x84#8
  | .vneg _ => some 0x85#8
  | .vabs _ => some 0x86#8
  | .vmin _ => some 0x87#8
  | .vmax _ => some 0x88#8
  | .vdiv _ => some 0x89#8
  | .vsqrt _ => some 0x8A#8
  | .vrcp _ => some 0x8B#8
  | .vrsq _ => some 0x8C#8
  | .vcmp _ => some 0x8D#8
  | .vsel _ => some 0x8E#8
  | .vand _ => some 0x8F#8
  | .vor _ => some 0x90#8
  | .vxor _ => some 0x91#8
  | .vandn _ => some 0x92#8
  | .vshl _ => some 0x93#8
  | .vshr _ => some 0x94#8
  | .vsar _ => some 0x95#8
  | .vfshl _ => some 0x96#8
  | .vfshr _ => some 0x97#8
  | .vclz _ => some 0x98#8
  | .vpopc _ => some 0x99#8
  | .vcvt _ => some 0x9A#8
  | .vsrnd _ => some 0x9B#8
  | .vperm _ => some 0x9C#8
  | .vshuf _ => some 0x9D#8
  | .vbcast _ => some 0x9E#8
  | .vextr _ => some 0x9F#8
  | .vins _ => some 0xA0#8
  | .vredadd _ => some 0xA1#8
  | .vredmax _ => some 0xA2#8
  | .vredmin _ => some 0xA3#8
  | .vgmax _ => some 0xA4#8
  | .vgsum _ => some 0xA5#8
  | .vscan _ => some 0xA6#8
  | .vcomp _ => some 0xA7#8
  | .vexpd _ => some 0xA8#8
  | .viota _ => some 0xA9#8
  | .vmov _ => some 0xAA#8
  | .vli _ => some 0xAB#8
  | .vsfn _ => some 0xAC#8
  | .vsfl _ => some 0xAD#8
  | .vstat _ => some 0xAE#8
  | .vmulh _ => some 0xAF#8
  | .vmadd _ => some 0xB0#8
  | .vcplx _ => some 0xB1#8
  | .vpcnt _ => some 0xB2#8
  | .vplog _ => some 0xB3#8
  | .vpfirst _ => some 0xB4#8
  | .vslide _ => some 0xB5#8
  | .vdot _ => some 0xB6#8
  | .vclamp _ => some 0xB7#8
  | .mma _ => some 0xC0#8
  | .mmat _ => some 0xC1#8
  | .aclr _ => some 0xC2#8
  | .aget _ => some 0xC3#8
  | .aput _ => some 0xC4#8
  | .ascale _ => some 0xC5#8
  | .drain _ => some 0xC6#8
  | .rpop _ => some 0xC7#8
  | .sigt _ => some 0xC8#8
  | .sigchk _ => some 0xC9#8
  | .fftset _ => some 0xCA#8
  | .fftrun _ => some 0xCB#8
  | .spmul _ => some 0xCC#8
  | .shtl _ => some 0xCD#8
  | .blkt _ => some 0xCE#8
  | .fmtpop _ => some 0xCF#8
  | .st _ => some 0xD0#8
  | .strel _ => some 0xD1#8
  | .stv _ => some 0xD2#8
  | .stvs _ => some 0xD3#8
  | .scat _ => some 0xD4#8
  | .amo _ => some 0xD5#8
  | .amov _ => some 0xD6#8
  | .red _ => some 0xD7#8
  | .redv _ => some 0xD8#8
  | .skupd _ => some 0xD9#8
  | .skqry _ => some 0xDA#8
  | .skadd _ => some 0xDB#8
  | .skclr _ => some 0xDC#8
  | .uop _ => some 0xDD#8
  | .ucvt _ => some 0xDE#8
  | .nfchk _ => some 0xDF#8
  | .scommit _ => some 0xE0#8
  | .sflush _ => some 0xE1#8
  | .rstv _ => some 0xE2#8
  | .skstat _ => some 0xE3#8
  | .zero _ => some 0xE4#8
  | .stnt _ => some 0xE5#8
  | .rrput _ => some 0xE6#8
  | .stls _ => some 0xE7#8
  | .unassignedOpcode op _ => some op
  | .sectionEntry _ => none
  | .trapEntry _ _ _ _ => none
  | .taskStart _ => none
  | .taskEnd _ => none
  | .taskFreeze _ _ => none
  | .preemption _ _ => none
  | .taskResume _ => none
  | .distributorPick => none
  | .semaphoreWaitSatisfied _ _ _ => none
  | .remoteSignalApply _ => none
  | .eventDeliver _ => none
  | .ringSlotClaim _ _ => none
  | .quayGroupTick _ _ _ => none
  | .groupCollectiveComplete _ _ => none
  | .renqBlockArrival _ => none
  | .jobUnitRecordStart _ => none
  | .commandBlockDone _ => none
  | .copyApertureStart _ _ _ => none
  | .bteJobStart _ => none
  | .bteChunkComplete _ => none
  | .engineJobComplete _ => none
  | .completionRingWrite _ => none
  | .engineJobFail _ _ => none
  | .drainJobWrite _ => none
  | .lighterProgramStart _ => none
  | .lighterEnd _ => none
  | .lighterBase _ _ => none
  | .lighterDim _ _ _ _ => none
  | .lighterPush _ _ _ _ _ _ => none
  | .lighterGather _ _ _ _ _ _ _ => none
  | .lighterLoop _ _ _ _ => none
  | .lighterSig _ _ _ => none
  | .lighterWwait _ _ _ _ => none
  | .lighterJump _ _ => none
  | .lighterIdx _ _ => none
  | .lighterAdv _ _ => none
  | .lighterPushFillComplete _ => none
  | .lighterNextPageWalk _ => none
  | .damaskMemberStart _ _ => none
  | .damaskBlockWrite _ _ => none
  | .damaskPhaseComplete _ _ => none
  | .damaskSourceReadDone _ _ => none
  | .damaskMembershipComplete _ _ => none
  | .damaskSlotStart _ _ => none
  | .damaskMemberLost _ _ _ => none
  | .grresLoad _ _ => none
  | .grresEvict _ => none
  | .grstart _ _ => none
  | .stepBegin _ => none
  | .stepEnd _ => none
  | .nodeComplete _ _ => none
  | .homeSliceWrite _ _ _ => none
  | .homeSliceRead _ _ _ => none
  | .homeSliceAtomic _ _ _ _ _ _ _ => none
  | .acknowledgementArrival _ => none
  | .stashFill _ _ => none
  | .stashRecall _ _ => none
  | .guardGrant _ => none
  | .gateReport _ _ _ => none
  | .sketchUpdateApply _ _ _ _ => none
  | .rstvWriteApply _ => none
  | .rrputFillApply _ => none
  | .migration _ _ _ => none
  | .translationFault _ _ _ => none
  | .sidelogWaitEnter _ => none
  | .sidelogEntryApply _ _ => none
  | .faultresRetry _ _ => none
  | .faultresAbort _ _ => none
  | .walkerInvalidate _ _ => none
  | .objectTableInvalidate _ => none
  | .pkgnumWrite _ => none
  | .pkgmapWrite _ _ => none
  | .frozenResume _ => none
  | .frozenRelease _ => none
  | .frozenJobSlotFree _ _ => none
  | .registerWrite _ _ => none
  | .errorRecordWrite => none
  | .correctedErrorThreshold _ _ => none
  | .eccUncorrected _ => none
  | .patrolScrub _ _ _ => none
  | .deadlockTimeout _ => none
  | .stallTimeout _ => none
  | .packageReset _ => none
  | .ageingMarginLow _ _ => none
  | .speedTableUpdate => none
  | .checkpoint => none
  | .checkpointResume => none
  | .flitDataReceive _ _ => none
  | .keyMarkerReceive _ _ => none
  | .flitAckReceive _ _ _ => none
  | .timeSyncReceive _ _ _ => none
  | .keySlotLoad _ _ _ _ _ => none
  | .circuitRekey _ _ _ _ _ _ => none
  | .ctrExhaust _ => none
  | .circuitSetup _ => none
  | .circuitSetupAck _ _ => none
  | .circuitSetupNack _ => none
  | .circuitSetupRetry _ => none
  | .circuitTear _ => none
  | .circuitIdleTimeout _ => none
  | .circuitFail _ => none
  | .laneLockLoss _ _ => none
  | .mcuWatchdog _ => none
  | .drift _ _ => none
  | .dieLink _ => none
  | .hdmHostAccess _ => none
  | .hostApertureAccess _ _ _ _ => none
  | .hostError _ => none
  | .hostLinkDown => none
  | .backInvalidateTimeout _ => none
  | .tickTimeout _ => none
  | .loadReplyArrival _ => none
  | .backInvalidateResponse _ => none
  | .hostLinkReturn => none
  | .powerStateChange _ => none
  | .powerBudgetLimit _ => none
  | .haltNotice => none
  | .hardwareFailureFence _ => none
  | .timeSyncSend _ => none

/-- The instruction of a word whose opcode is `op` (Table 07.10), its form's fields read from the word. -/
def buildAt (op : Nat) (w : BitVec 96) : Instr :=
  match op with
  | 0x00 => .nop (rSysOf w)
  | 0x01 => .li (iFormOf w)
  | 0x02 => .mov (rAluOf w)
  | 0x03 => .add (rAluOf w)
  | 0x04 => .addi (iFormOf w)
  | 0x05 => .sub (rAluOf w)
  | 0x06 => .mul (rAluOf w)
  | 0x07 => .mulh (rAluOf w)
  | 0x08 => .div (rAluOf w)
  | 0x09 => .rem (rAluOf w)
  | 0x0A => .and (rAluOf w)
  | 0x0B => .or (rAluOf w)
  | 0x0C => .xor (rAluOf w)
  | 0x0D => .andn (rAluOf w)
  | 0x0E => .shl (rAluOf w)
  | 0x0F => .shr (rAluOf w)
  | 0x10 => .sar (rAluOf w)
  | 0x11 => .rot (rAluOf w)
  | 0x12 => .clz (rAluOf w)
  | 0x13 => .popc (rAluOf w)
  | 0x14 => .bext (rAluOf w)
  | 0x15 => .bdep (rAluOf w)
  | 0x16 => .min (rAluOf w)
  | 0x17 => .max (rAluOf w)
  | 0x1A => .madd (rAluOf w)
  | 0x18 => .cmp (rAluOf w)
  | 0x19 => .sel (rAluOf w)
  | 0x1B => .fop (rAluOf w)
  | 0x1C => .fcvt (rAluOf w)
  | 0x1D => .fcmp (rAluOf w)
  | 0x1E => .plog (rAluOf w)
  | 0x1F => .br (bFormOf w)
  | 0x20 => .brc (bFormOf w)
  | 0x21 => .call (bFormOf w)
  | 0x22 => .ret (rSysOf w)
  | 0x23 => .loop (bFormOf w)
  | 0x24 => if (rSysOf w).sub = 0x01#8 then .qtryPush (rSysOf w) else .qtry (rSysOf w)
  | 0x25 => .qcnt (rSysOf w)
  | 0x26 => .qpeek (rSysOf w)
  | 0x27 => .ssig (eFormOf w)
  | 0x28 => .swait (eFormOf w)
  | 0x29 => .stry (eFormOf w)
  | 0x2A => .fence (rSysOf w)
  | 0x2B => .ctlr (rSysOf w)
  | 0x2C => .ctlw (rSysOf w)
  | 0x2D => .trap (iFormOf w)
  | 0x2E => .bkpt (iFormOf w)
  | 0x2F => .stop (rSysOf w)
  | 0x40 => .gstart (eFormOf w)
  | 0x41 => .gpatch (rSysOf w)
  | 0x42 => .gquery (rSysOf w)
  | 0x43 => .gjoin (rSysOf w)
  | 0x44 => .gleave (rSysOf w)
  | 0x45 => .gmemb (rSysOf w)
  | 0x46 => .gbar (eFormOf w)
  | 0x47 => .gred (eFormOf w)
  | 0x48 => .gbcast (eFormOf w)
  | 0x49 => .tspawn (rSysOf w)
  | 0x4A => .renq (eFormOf w)
  | 0x4B => .rsig (eFormOf w)
  | 0x4C => .bind (rSysOf w)
  | 0x4D => .unbind (rSysOf w)
  | 0x4E => .acq (rSysOf w)
  | 0x4F => .rel (rSysOf w)
  | 0x50 => .xpbgo (eFormOf w)
  | 0x51 => .fmtend (rSysOf w)
  | 0x52 => .sleep (rSysOf w)
  | 0x53 => .tickwait (rSysOf w)
  | 0x54 => .speedq (rSysOf w)
  | 0x55 => .evmask (rSysOf w)
  | 0x56 => .noderel (rSysOf w)
  | 0x57 => .stragq (rSysOf w)
  | 0x60 => .ld (mFormOf w)
  | 0x61 => .ldacq (mFormOf w)
  | 0x62 => .ldv (mFormOf w)
  | 0x63 => .ldvs (mFormOf w)
  | 0x64 => .gath (mFormOf w)
  | 0x65 => .pref (mFormOf w)
  | 0x66 => .rld (mFormOf w)
  | 0x67 => .rldv (mFormOf w)
  | 0x68 => .stash (rSysOf w)
  | 0x69 => .unstash (rSysOf w)
  | 0x6A => .discard (rSysOf w)
  | 0x6B => .cpygo (eFormOf w)
  | 0x6C => .cpymc (eFormOf w)
  | 0x6D => .lgo (eFormOf w)
  | 0x6E => .lhalt (rSysOf w)
  | 0x6F => .ringset (rSysOf w)
  | 0x70 => .ringput (rSysOf w)
  | 0x71 => .ringq (rSysOf w)
  | 0x72 => .winq (rSysOf w)
  | 0x73 => .plhint (rSysOf w)
  | 0x74 => .pgstate (rSysOf w)
  | 0x75 => .bchk (eFormOf w)
  | 0x76 => .xlatq (rSysOf w)
  | 0x77 => .lstat (rSysOf w)
  | 0x80 => .vadd (vFormOf w)
  | 0x81 => .vsub (vFormOf w)
  | 0x82 => .vmul (vFormOf w)
  | 0x83 => .vfma (vFormOf w)
  | 0x84 => .vfms (vFormOf w)
  | 0x85 => .vneg (vFormOf w)
  | 0x86 => .vabs (vFormOf w)
  | 0x87 => .vmin (vFormOf w)
  | 0x88 => .vmax (vFormOf w)
  | 0x89 => .vdiv (vFormOf w)
  | 0x8A => .vsqrt (vFormOf w)
  | 0x8B => .vrcp (vFormOf w)
  | 0x8C => .vrsq (vFormOf w)
  | 0x8D => .vcmp (vFormOf w)
  | 0x8E => .vsel (vFormOf w)
  | 0x8F => .vand (vFormOf w)
  | 0x90 => .vor (vFormOf w)
  | 0x91 => .vxor (vFormOf w)
  | 0x92 => .vandn (vFormOf w)
  | 0x93 => .vshl (vFormOf w)
  | 0x94 => .vshr (vFormOf w)
  | 0x95 => .vsar (vFormOf w)
  | 0x96 => .vfshl (vFormOf w)
  | 0x97 => .vfshr (vFormOf w)
  | 0x98 => .vclz (vFormOf w)
  | 0x99 => .vpopc (vFormOf w)
  | 0x9A => .vcvt (vFormOf w)
  | 0x9B => .vsrnd (vFormOf w)
  | 0x9C => .vperm (vFormOf w)
  | 0x9D => .vshuf (vFormOf w)
  | 0x9E => .vbcast (vFormOf w)
  | 0x9F => .vextr (vFormOf w)
  | 0xA0 => .vins (vFormOf w)
  | 0xA1 => .vredadd (vFormOf w)
  | 0xA2 => .vredmax (vFormOf w)
  | 0xA3 => .vredmin (vFormOf w)
  | 0xA4 => .vgmax (vFormOf w)
  | 0xA5 => .vgsum (vFormOf w)
  | 0xA6 => .vscan (vFormOf w)
  | 0xA7 => .vcomp (vFormOf w)
  | 0xA8 => .vexpd (vFormOf w)
  | 0xA9 => .viota (vFormOf w)
  | 0xAA => .vmov (vFormOf w)
  | 0xAB => .vli (vFormOf w)
  | 0xAC => .vsfn (vFormOf w)
  | 0xAD => .vsfl (vFormOf w)
  | 0xAE => .vstat (vFormOf w)
  | 0xAF => .vmulh (vFormOf w)
  | 0xB0 => .vmadd (vFormOf w)
  | 0xB1 => .vcplx (vFormOf w)
  | 0xB2 => .vpcnt (vFormOf w)
  | 0xB3 => .vplog (vFormOf w)
  | 0xB4 => .vpfirst (vFormOf w)
  | 0xB5 => .vslide (vFormOf w)
  | 0xB6 => .vdot (vFormOf w)
  | 0xB7 => .vclamp (vFormOf w)
  | 0xC0 => .mma (rSysOf w)
  | 0xC1 => .mmat (rSysOf w)
  | 0xC2 => .aclr (rSysOf w)
  | 0xC3 => .aget (rSysOf w)
  | 0xC4 => .aput (rSysOf w)
  | 0xC5 => .ascale (rSysOf w)
  | 0xC6 => .drain (eFormOf w)
  | 0xC7 => .rpop (rSysOf w)
  | 0xC8 => .sigt (rSysOf w)
  | 0xC9 => .sigchk (rSysOf w)
  | 0xCA => .fftset (eFormOf w)
  | 0xCB => .fftrun (rSysOf w)
  | 0xCC => .spmul (rSysOf w)
  | 0xCD => .shtl (eFormOf w)
  | 0xCE => .blkt (rSysOf w)
  | 0xCF => .fmtpop (rSysOf w)
  | 0xD0 => .st (mFormOf w)
  | 0xD1 => .strel (mFormOf w)
  | 0xD2 => .stv (mFormOf w)
  | 0xD3 => .stvs (mFormOf w)
  | 0xD4 => .scat (mFormOf w)
  | 0xD5 => .amo (mFormOf w)
  | 0xD6 => .amov (mFormOf w)
  | 0xD7 => .red (mFormOf w)
  | 0xD8 => .redv (mFormOf w)
  | 0xD9 => .skupd (eFormOf w)
  | 0xDA => .skqry (eFormOf w)
  | 0xDB => .skadd (eFormOf w)
  | 0xDC => .skclr (eFormOf w)
  | 0xDD => .uop (rAluOf w)
  | 0xDE => .ucvt (rAluOf w)
  | 0xDF => .nfchk (eFormOf w)
  | 0xE0 => .scommit (eFormOf w)
  | 0xE1 => .sflush (rSysOf w)
  | 0xE2 => .rstv (mFormOf w)
  | 0xE3 => .skstat (rSysOf w)
  | 0xE4 => .zero (mFormOf w)
  | 0xE5 => .stnt (mFormOf w)
  | 0xE6 => .rrput (eFormOf w)
  | 0xE7 => .stls (mFormOf w)
  | _ => .unassignedOpcode (opField w) (w.extractLsb' 0 88)

/-- The constructor of an assigned opcode over the fields of its form (Tables 07.10, 07.11).
Opcode 0x24 is QTRY, or QTRY_PUSH when SUB is 0x01 (R174). -/
def buildInstr (w : BitVec 96) : Instr := buildAt (opField w).toNat w

/-- The form of an opcode (Table 07.11); none for an unassigned one (R416). -/
def formOf (op : BitVec 8) : Option FormKind :=
  match op.toNat with
  | 0x00 => some .r
  | 0x01 => some .i
  | 0x02 => some .r
  | 0x03 => some .r
  | 0x04 => some .i
  | 0x05 => some .r
  | 0x06 => some .r
  | 0x07 => some .r
  | 0x08 => some .r
  | 0x09 => some .r
  | 0x0A => some .r
  | 0x0B => some .r
  | 0x0C => some .r
  | 0x0D => some .r
  | 0x0E => some .r
  | 0x0F => some .r
  | 0x10 => some .r
  | 0x11 => some .r
  | 0x12 => some .r
  | 0x13 => some .r
  | 0x14 => some .r
  | 0x15 => some .r
  | 0x16 => some .r
  | 0x17 => some .r
  | 0x18 => some .r
  | 0x19 => some .r
  | 0x1A => some .r
  | 0x1B => some .r
  | 0x1C => some .r
  | 0x1D => some .r
  | 0x1E => some .r
  | 0x1F => some .b
  | 0x20 => some .b
  | 0x21 => some .b
  | 0x22 => some .r
  | 0x23 => some .b
  | 0x24 => some .r
  | 0x25 => some .r
  | 0x26 => some .r
  | 0x27 => some .e
  | 0x28 => some .e
  | 0x29 => some .e
  | 0x2A => some .r
  | 0x2B => some .r
  | 0x2C => some .r
  | 0x2D => some .i
  | 0x2E => some .i
  | 0x2F => some .r
  | 0x40 => some .e
  | 0x41 => some .r
  | 0x42 => some .r
  | 0x43 => some .r
  | 0x44 => some .r
  | 0x45 => some .r
  | 0x46 => some .e
  | 0x47 => some .e
  | 0x48 => some .e
  | 0x49 => some .r
  | 0x4A => some .e
  | 0x4B => some .e
  | 0x4C => some .r
  | 0x4D => some .r
  | 0x4E => some .r
  | 0x4F => some .r
  | 0x50 => some .e
  | 0x51 => some .r
  | 0x52 => some .r
  | 0x53 => some .r
  | 0x54 => some .r
  | 0x55 => some .r
  | 0x56 => some .r
  | 0x57 => some .r
  | 0x60 => some .m
  | 0x61 => some .m
  | 0x62 => some .m
  | 0x63 => some .m
  | 0x64 => some .m
  | 0x65 => some .m
  | 0x66 => some .m
  | 0x67 => some .m
  | 0x68 => some .r
  | 0x69 => some .r
  | 0x6A => some .r
  | 0x6B => some .e
  | 0x6C => some .e
  | 0x6D => some .e
  | 0x6E => some .r
  | 0x6F => some .r
  | 0x70 => some .r
  | 0x71 => some .r
  | 0x72 => some .r
  | 0x73 => some .r
  | 0x74 => some .r
  | 0x75 => some .e
  | 0x76 => some .r
  | 0x77 => some .r
  | 0x80 => some .v
  | 0x81 => some .v
  | 0x82 => some .v
  | 0x83 => some .v
  | 0x84 => some .v
  | 0x85 => some .v
  | 0x86 => some .v
  | 0x87 => some .v
  | 0x88 => some .v
  | 0x89 => some .v
  | 0x8A => some .v
  | 0x8B => some .v
  | 0x8C => some .v
  | 0x8D => some .v
  | 0x8E => some .v
  | 0x8F => some .v
  | 0x90 => some .v
  | 0x91 => some .v
  | 0x92 => some .v
  | 0x93 => some .v
  | 0x94 => some .v
  | 0x95 => some .v
  | 0x96 => some .v
  | 0x97 => some .v
  | 0x98 => some .v
  | 0x99 => some .v
  | 0x9A => some .v
  | 0x9B => some .v
  | 0x9C => some .v
  | 0x9D => some .v
  | 0x9E => some .v
  | 0x9F => some .v
  | 0xA0 => some .v
  | 0xA1 => some .v
  | 0xA2 => some .v
  | 0xA3 => some .v
  | 0xA4 => some .v
  | 0xA5 => some .v
  | 0xA6 => some .v
  | 0xA7 => some .v
  | 0xA8 => some .v
  | 0xA9 => some .v
  | 0xAA => some .v
  | 0xAB => some .v
  | 0xAC => some .v
  | 0xAD => some .v
  | 0xAE => some .v
  | 0xAF => some .v
  | 0xB0 => some .v
  | 0xB1 => some .v
  | 0xB2 => some .v
  | 0xB3 => some .v
  | 0xB4 => some .v
  | 0xB5 => some .v
  | 0xB6 => some .v
  | 0xB7 => some .v
  | 0xC0 => some .r
  | 0xC1 => some .r
  | 0xC2 => some .r
  | 0xC3 => some .r
  | 0xC4 => some .r
  | 0xC5 => some .r
  | 0xC6 => some .e
  | 0xC7 => some .r
  | 0xC8 => some .r
  | 0xC9 => some .r
  | 0xCA => some .e
  | 0xCB => some .r
  | 0xCC => some .r
  | 0xCD => some .e
  | 0xCE => some .r
  | 0xCF => some .r
  | 0xD0 => some .m
  | 0xD1 => some .m
  | 0xD2 => some .m
  | 0xD3 => some .m
  | 0xD4 => some .m
  | 0xD5 => some .m
  | 0xD6 => some .m
  | 0xD7 => some .m
  | 0xD8 => some .m
  | 0xD9 => some .e
  | 0xDA => some .e
  | 0xDB => some .e
  | 0xDC => some .e
  | 0xDD => some .r
  | 0xDE => some .r
  | 0xDF => some .e
  | 0xE0 => some .e
  | 0xE1 => some .r
  | 0xE2 => some .m
  | 0xE3 => some .r
  | 0xE4 => some .m
  | 0xE5 => some .m
  | 0xE6 => some .e
  | 0xE7 => some .m
  | _ => none

/-- The format-level check of a word with an assigned opcode (Table 21.2).  When two fields
offend, the one whose lowest bit position is least is reported (Table 21.5). -/
def formatCheck (k : FormKind) (w : BitVec 96) : Option DecodeError :=
  match k with
  | .r => if w.extractLsb' 54 2 ≠ 0 then some (.reservedMod 54) else none
  | .i => if w.extractLsb' 64 6 ≠ 0 then some (.reservedMod 64) else none
  | .b => if w.extractLsb' 48 18 ≠ 0 then some .reservedBForm else none
  | .e =>
    if w.getLsbD 7 then some .reservedEForm
    else if w.extractLsb' 58 2 = 3#2 then some .reservedWmode else none
  | .m =>
    if 3 ≤ (w.extractLsb' 50 3).toNat then some .reservedHint
    else if w.extractLsb' 57 3 = 5#3 ∨ w.extractLsb' 57 3 = 6#3 then some .reservedSize else none
  | .v => none

/-- The decoder: the instruction of a 96-bit word, or the format-level field that forbids it.
An unassigned opcode decodes to `unassignedOpcode` whatever the other bits hold (R416). -/
def decode (w : BitVec 96) : Except DecodeError Instr :=
  match formOf (opField w) with
  | none => .ok (.unassignedOpcode (opField w) (w.extractLsb' 0 88))
  | some k =>
    match formatCheck k w with
    | some e => .error e
    | none => .ok (buildInstr w)

/-- A little-endian number from bytes (R6). -/
def leNat : List (BitVec 8) → Nat
  | [] => 0
  | b :: bs => b.toNat + 256 * leNat bs

/-- The first `n` bytes of a number, little-endian (R6). -/
def leBytes : Nat → Nat → List (BitVec 8)
  | 0, _ => []
  | n + 1, v => BitVec.ofNat 8 v :: leBytes n (v / 256)

/-- The instruction at the front of a list of bytes, with the rest (R6, R132). -/
def decodeBytes (bs : List (BitVec 8)) : Except DecodeError (Instr × List (BitVec 8)) :=
  if bs.length < 12 then .error .tooShort
  else
    match decode (BitVec.ofNat 96 (leNat (bs.take 12))) with
    | .ok i => .ok (i, bs.drop 12)
    | .error e => .error e

/-- The instruction the decoder reads from a word whose bits are `w`, laid out little-endian in
memory (R6); bits at and above `nbits` are zero. -/
def decodeTableWord (nbits w : Nat) : Option Instr :=
  match decodeBytes (leBytes 12 (w % 2 ^ nbits)) with
  | .ok (i, _) => some i
  | .error _ => none

/-- Why a Lighter command is bad (R328): a reserved OP, or a field out of range. -/
inductive LighterError where
  | reservedOp
  | badField
deriving DecidableEq, Repr

/-- The Lighter command of a 64-bit word for Lighter `n` (Table 12.7).  Unlisted bits must be zero. -/
def decodeLighter (n : Fin 32) (w : BitVec 64) : Except LighterError Instr :=
  let z (lo len : Nat) : Bool := w.extractLsb' lo len == 0
  match (w.extractLsb' 60 4).toNat with
  | 0x0 => if z 0 60 then .ok (.lighterEnd n) else .error .badField
  | 0x1 => if z 58 2 then .ok (.lighterBase n (w.extractLsb' 0 58)) else .error .badField
  | 0x2 => if w.extractLsb' 32 25 = 0 then .error .badField
           else .ok (.lighterDim n (w.extractLsb' 57 3) (w.extractLsb' 32 25) (w.extractLsb' 0 32))
  | 0x3 =>
    let ndim := (w.extractLsb' 53 4).toNat
    if z 0 30 ∧ 1 ≤ ndim ∧ ndim ≤ 8 ∧ (w.extractLsb' 50 3).toNat ≤ 4 then
      .ok (.lighterPush n (w.extractLsb' 57 3) (w.extractLsb' 53 4) (w.extractLsb' 50 3) (w.extractLsb' 42 8) (w.extractLsb' 30 12))
    else .error .badField
  | 0x4 =>
    if z 0 12 ∧ z 53 4 ∧ (w.extractLsb' 50 3).toNat ≤ 4 ∧ w.extractLsb' 16 14 ≠ 0 then
      .ok (.lighterGather n (w.extractLsb' 57 3) (w.extractLsb' 50 3) (w.extractLsb' 42 8) (w.extractLsb' 30 12)
        (w.extractLsb' 16 14) (w.extractLsb' 12 4))
    else .error .badField
  | 0x5 =>
    if z 0 16 ∧ z 32 2 ∧ w.extractLsb' 34 24 ≠ 0 then
      .ok (.lighterLoop n (w.extractLsb' 58 2) (w.extractLsb' 34 24) (w.extractLsb' 16 16))
    else .error .badField
  | 0x6 => if z 0 38 ∧ z 58 2 then .ok (.lighterSig n (w.extractLsb' 50 8) (w.extractLsb' 38 12)) else .error .badField
  | 0x7 =>
    if z 0 34 ∧ (w.extractLsb' 58 2 = 1#2 ∨ w.extractLsb' 58 2 = 2#2) then
      .ok (.lighterWwait n (w.extractLsb' 58 2) (w.extractLsb' 50 8) (w.extractLsb' 34 16))
    else .error .badField
  | 0x8 => if z 16 44 then .ok (.lighterJump n (w.extractLsb' 0 16)) else .error .badField
  | 0x9 => if z 58 2 ∧ z 0 2 then .ok (.lighterIdx n (w.extractLsb' 0 58)) else .error .badField
  | 0xA => if z 56 4 then .ok (.lighterAdv n (w.extractLsb' 0 56)) else .error .badField
  | _ => .error .reservedOp

/-- One bit as a bit vector. -/
def bit1 (b : Bool) : BitVec 1 := BitVec.ofBool b

/-- OP and PRED at the top of every word (R135). -/
def headWord (op : BitVec 8) (p : Pred) : BitVec 12 := op ++ bit1 p.neg ++ p.p

/-- The word of an R form with the ALU layout. -/
def rAluWord (op : BitVec 8) (f : RAlu) : BitVec 96 :=
  headWord op f.pred ++ operandCode f.d ++ operandCode f.a ++ operandCode f.b ++ operandCode f.c ++ 0#2 ++ f.sub ++ bit1 f.sat
    ++ bit1 f.immb ++ f.rbm1 ++ f.rm ++ f.ty ++ f.imm

/-- The word of an R form with the system layout. -/
def rSysWord (op : BitVec 8) (f : RSys) : BitVec 96 :=
  headWord op f.pred ++ operandCode f.d ++ operandCode f.a ++ operandCode f.b ++ operandCode f.c ++ 0#2 ++ f.ring2 ++ f.ring1
    ++ f.rm ++ bit1 f.tag ++ f.scope ++ f.sub ++ f.imm

/-- The word of an I form. -/
def iFormWord (op : BitVec 8) (f : IForm) : BitVec 96 :=
  headWord op f.pred ++ operandCode f.d ++ operandCode f.a ++ 0#6 ++ f.imm

/-- The word of an M form. -/
def mFormWord (op : BitVec 8) (f : MForm) : BitVec 96 :=
  headWord op f.pred ++ operandCode f.d ++ operandCode f.base ++ operandCode f.index ++ f.win ++ f.size ++ f.scale ++ bit1 f.lsel
    ++ f.hint ++ f.opk ++ f.ord ++ f.scope ++ bit1 f.tag ++ bit1 f.cf ++ f.disp

/-- The word of a B form. -/
def bFormWord (op : BitVec 8) (f : BForm) : BitVec 96 :=
  headWord op f.pred ++ operandCode f.a ++ operandCode f.b ++ f.cc ++ 0#18 ++ f.off

/-- The word of an E form. -/
def eFormWord (op : BitVec 8) (f : EForm) : BitVec 96 :=
  headWord op f.pred ++ f.wsem ++ f.wthr ++ f.wmode ++ f.ssem ++ f.sinc ++ f.obj ++ operandCode f.a ++ operandCode f.b ++ 0#1
    ++ bit1 f.tag ++ f.scope ++ f.sub

/-- The word of a V form. -/
def vFormWord (op : BitVec 8) (f : VForm) : BitVec 96 :=
  headWord op f.pred ++ operandCode f.d ++ operandCode f.a ++ operandCode f.b ++ operandCode f.c ++ f.mask ++ f.ty ++ f.sub
    ++ bit1 f.sat ++ bit1 f.zm ++ bit1 f.immb ++ f.rbm1 ++ f.rm ++ f.imm

/-- The word of an instruction, written from the same tables; none for an event, which has no encoding. -/
def encode (i : Instr) : Option (BitVec 96) :=
  match i with
  | .nop f => some (rSysWord 0x00#8 f)
  | .li f => some (iFormWord 0x01#8 f)
  | .mov f => some (rAluWord 0x02#8 f)
  | .add f => some (rAluWord 0x03#8 f)
  | .addi f => some (iFormWord 0x04#8 f)
  | .sub f => some (rAluWord 0x05#8 f)
  | .mul f => some (rAluWord 0x06#8 f)
  | .mulh f => some (rAluWord 0x07#8 f)
  | .div f => some (rAluWord 0x08#8 f)
  | .rem f => some (rAluWord 0x09#8 f)
  | .and f => some (rAluWord 0x0A#8 f)
  | .or f => some (rAluWord 0x0B#8 f)
  | .xor f => some (rAluWord 0x0C#8 f)
  | .andn f => some (rAluWord 0x0D#8 f)
  | .shl f => some (rAluWord 0x0E#8 f)
  | .shr f => some (rAluWord 0x0F#8 f)
  | .sar f => some (rAluWord 0x10#8 f)
  | .rot f => some (rAluWord 0x11#8 f)
  | .clz f => some (rAluWord 0x12#8 f)
  | .popc f => some (rAluWord 0x13#8 f)
  | .bext f => some (rAluWord 0x14#8 f)
  | .bdep f => some (rAluWord 0x15#8 f)
  | .min f => some (rAluWord 0x16#8 f)
  | .max f => some (rAluWord 0x17#8 f)
  | .madd f => some (rAluWord 0x1A#8 f)
  | .cmp f => some (rAluWord 0x18#8 f)
  | .sel f => some (rAluWord 0x19#8 f)
  | .fop f => some (rAluWord 0x1B#8 f)
  | .fcvt f => some (rAluWord 0x1C#8 f)
  | .fcmp f => some (rAluWord 0x1D#8 f)
  | .plog f => some (rAluWord 0x1E#8 f)
  | .br f => some (bFormWord 0x1F#8 f)
  | .brc f => some (bFormWord 0x20#8 f)
  | .call f => some (bFormWord 0x21#8 f)
  | .ret f => some (rSysWord 0x22#8 f)
  | .loop f => some (bFormWord 0x23#8 f)
  | .qtry f => some (rSysWord 0x24#8 f)
  | .qtryPush f => some (rSysWord 0x24#8 f)
  | .qcnt f => some (rSysWord 0x25#8 f)
  | .qpeek f => some (rSysWord 0x26#8 f)
  | .ssig f => some (eFormWord 0x27#8 f)
  | .swait f => some (eFormWord 0x28#8 f)
  | .stry f => some (eFormWord 0x29#8 f)
  | .fence f => some (rSysWord 0x2A#8 f)
  | .ctlr f => some (rSysWord 0x2B#8 f)
  | .ctlw f => some (rSysWord 0x2C#8 f)
  | .trap f => some (iFormWord 0x2D#8 f)
  | .bkpt f => some (iFormWord 0x2E#8 f)
  | .stop f => some (rSysWord 0x2F#8 f)
  | .gstart f => some (eFormWord 0x40#8 f)
  | .gpatch f => some (rSysWord 0x41#8 f)
  | .gquery f => some (rSysWord 0x42#8 f)
  | .gjoin f => some (rSysWord 0x43#8 f)
  | .gleave f => some (rSysWord 0x44#8 f)
  | .gmemb f => some (rSysWord 0x45#8 f)
  | .gbar f => some (eFormWord 0x46#8 f)
  | .gred f => some (eFormWord 0x47#8 f)
  | .gbcast f => some (eFormWord 0x48#8 f)
  | .tspawn f => some (rSysWord 0x49#8 f)
  | .renq f => some (eFormWord 0x4A#8 f)
  | .rsig f => some (eFormWord 0x4B#8 f)
  | .bind f => some (rSysWord 0x4C#8 f)
  | .unbind f => some (rSysWord 0x4D#8 f)
  | .acq f => some (rSysWord 0x4E#8 f)
  | .rel f => some (rSysWord 0x4F#8 f)
  | .xpbgo f => some (eFormWord 0x50#8 f)
  | .fmtend f => some (rSysWord 0x51#8 f)
  | .sleep f => some (rSysWord 0x52#8 f)
  | .tickwait f => some (rSysWord 0x53#8 f)
  | .speedq f => some (rSysWord 0x54#8 f)
  | .evmask f => some (rSysWord 0x55#8 f)
  | .noderel f => some (rSysWord 0x56#8 f)
  | .stragq f => some (rSysWord 0x57#8 f)
  | .ld f => some (mFormWord 0x60#8 f)
  | .ldacq f => some (mFormWord 0x61#8 f)
  | .ldv f => some (mFormWord 0x62#8 f)
  | .ldvs f => some (mFormWord 0x63#8 f)
  | .gath f => some (mFormWord 0x64#8 f)
  | .pref f => some (mFormWord 0x65#8 f)
  | .rld f => some (mFormWord 0x66#8 f)
  | .rldv f => some (mFormWord 0x67#8 f)
  | .stash f => some (rSysWord 0x68#8 f)
  | .unstash f => some (rSysWord 0x69#8 f)
  | .discard f => some (rSysWord 0x6A#8 f)
  | .cpygo f => some (eFormWord 0x6B#8 f)
  | .cpymc f => some (eFormWord 0x6C#8 f)
  | .lgo f => some (eFormWord 0x6D#8 f)
  | .lhalt f => some (rSysWord 0x6E#8 f)
  | .ringset f => some (rSysWord 0x6F#8 f)
  | .ringput f => some (rSysWord 0x70#8 f)
  | .ringq f => some (rSysWord 0x71#8 f)
  | .winq f => some (rSysWord 0x72#8 f)
  | .plhint f => some (rSysWord 0x73#8 f)
  | .pgstate f => some (rSysWord 0x74#8 f)
  | .bchk f => some (eFormWord 0x75#8 f)
  | .xlatq f => some (rSysWord 0x76#8 f)
  | .lstat f => some (rSysWord 0x77#8 f)
  | .vadd f => some (vFormWord 0x80#8 f)
  | .vsub f => some (vFormWord 0x81#8 f)
  | .vmul f => some (vFormWord 0x82#8 f)
  | .vfma f => some (vFormWord 0x83#8 f)
  | .vfms f => some (vFormWord 0x84#8 f)
  | .vneg f => some (vFormWord 0x85#8 f)
  | .vabs f => some (vFormWord 0x86#8 f)
  | .vmin f => some (vFormWord 0x87#8 f)
  | .vmax f => some (vFormWord 0x88#8 f)
  | .vdiv f => some (vFormWord 0x89#8 f)
  | .vsqrt f => some (vFormWord 0x8A#8 f)
  | .vrcp f => some (vFormWord 0x8B#8 f)
  | .vrsq f => some (vFormWord 0x8C#8 f)
  | .vcmp f => some (vFormWord 0x8D#8 f)
  | .vsel f => some (vFormWord 0x8E#8 f)
  | .vand f => some (vFormWord 0x8F#8 f)
  | .vor f => some (vFormWord 0x90#8 f)
  | .vxor f => some (vFormWord 0x91#8 f)
  | .vandn f => some (vFormWord 0x92#8 f)
  | .vshl f => some (vFormWord 0x93#8 f)
  | .vshr f => some (vFormWord 0x94#8 f)
  | .vsar f => some (vFormWord 0x95#8 f)
  | .vfshl f => some (vFormWord 0x96#8 f)
  | .vfshr f => some (vFormWord 0x97#8 f)
  | .vclz f => some (vFormWord 0x98#8 f)
  | .vpopc f => some (vFormWord 0x99#8 f)
  | .vcvt f => some (vFormWord 0x9A#8 f)
  | .vsrnd f => some (vFormWord 0x9B#8 f)
  | .vperm f => some (vFormWord 0x9C#8 f)
  | .vshuf f => some (vFormWord 0x9D#8 f)
  | .vbcast f => some (vFormWord 0x9E#8 f)
  | .vextr f => some (vFormWord 0x9F#8 f)
  | .vins f => some (vFormWord 0xA0#8 f)
  | .vredadd f => some (vFormWord 0xA1#8 f)
  | .vredmax f => some (vFormWord 0xA2#8 f)
  | .vredmin f => some (vFormWord 0xA3#8 f)
  | .vgmax f => some (vFormWord 0xA4#8 f)
  | .vgsum f => some (vFormWord 0xA5#8 f)
  | .vscan f => some (vFormWord 0xA6#8 f)
  | .vcomp f => some (vFormWord 0xA7#8 f)
  | .vexpd f => some (vFormWord 0xA8#8 f)
  | .viota f => some (vFormWord 0xA9#8 f)
  | .vmov f => some (vFormWord 0xAA#8 f)
  | .vli f => some (vFormWord 0xAB#8 f)
  | .vsfn f => some (vFormWord 0xAC#8 f)
  | .vsfl f => some (vFormWord 0xAD#8 f)
  | .vstat f => some (vFormWord 0xAE#8 f)
  | .vmulh f => some (vFormWord 0xAF#8 f)
  | .vmadd f => some (vFormWord 0xB0#8 f)
  | .vcplx f => some (vFormWord 0xB1#8 f)
  | .vpcnt f => some (vFormWord 0xB2#8 f)
  | .vplog f => some (vFormWord 0xB3#8 f)
  | .vpfirst f => some (vFormWord 0xB4#8 f)
  | .vslide f => some (vFormWord 0xB5#8 f)
  | .vdot f => some (vFormWord 0xB6#8 f)
  | .vclamp f => some (vFormWord 0xB7#8 f)
  | .mma f => some (rSysWord 0xC0#8 f)
  | .mmat f => some (rSysWord 0xC1#8 f)
  | .aclr f => some (rSysWord 0xC2#8 f)
  | .aget f => some (rSysWord 0xC3#8 f)
  | .aput f => some (rSysWord 0xC4#8 f)
  | .ascale f => some (rSysWord 0xC5#8 f)
  | .drain f => some (eFormWord 0xC6#8 f)
  | .rpop f => some (rSysWord 0xC7#8 f)
  | .sigt f => some (rSysWord 0xC8#8 f)
  | .sigchk f => some (rSysWord 0xC9#8 f)
  | .fftset f => some (eFormWord 0xCA#8 f)
  | .fftrun f => some (rSysWord 0xCB#8 f)
  | .spmul f => some (rSysWord 0xCC#8 f)
  | .shtl f => some (eFormWord 0xCD#8 f)
  | .blkt f => some (rSysWord 0xCE#8 f)
  | .fmtpop f => some (rSysWord 0xCF#8 f)
  | .st f => some (mFormWord 0xD0#8 f)
  | .strel f => some (mFormWord 0xD1#8 f)
  | .stv f => some (mFormWord 0xD2#8 f)
  | .stvs f => some (mFormWord 0xD3#8 f)
  | .scat f => some (mFormWord 0xD4#8 f)
  | .amo f => some (mFormWord 0xD5#8 f)
  | .amov f => some (mFormWord 0xD6#8 f)
  | .red f => some (mFormWord 0xD7#8 f)
  | .redv f => some (mFormWord 0xD8#8 f)
  | .skupd f => some (eFormWord 0xD9#8 f)
  | .skqry f => some (eFormWord 0xDA#8 f)
  | .skadd f => some (eFormWord 0xDB#8 f)
  | .skclr f => some (eFormWord 0xDC#8 f)
  | .uop f => some (rAluWord 0xDD#8 f)
  | .ucvt f => some (rAluWord 0xDE#8 f)
  | .nfchk f => some (eFormWord 0xDF#8 f)
  | .scommit f => some (eFormWord 0xE0#8 f)
  | .sflush f => some (rSysWord 0xE1#8 f)
  | .rstv f => some (mFormWord 0xE2#8 f)
  | .skstat f => some (rSysWord 0xE3#8 f)
  | .zero f => some (mFormWord 0xE4#8 f)
  | .stnt f => some (mFormWord 0xE5#8 f)
  | .rrput f => some (eFormWord 0xE6#8 f)
  | .stls f => some (mFormWord 0xE7#8 f)
  | .unassignedOpcode op rest => some (op ++ rest)
  | .sectionEntry _ => none
  | .trapEntry _ _ _ _ => none
  | .taskStart _ => none
  | .taskEnd _ => none
  | .taskFreeze _ _ => none
  | .preemption _ _ => none
  | .taskResume _ => none
  | .distributorPick => none
  | .semaphoreWaitSatisfied _ _ _ => none
  | .remoteSignalApply _ => none
  | .eventDeliver _ => none
  | .ringSlotClaim _ _ => none
  | .quayGroupTick _ _ _ => none
  | .groupCollectiveComplete _ _ => none
  | .renqBlockArrival _ => none
  | .jobUnitRecordStart _ => none
  | .commandBlockDone _ => none
  | .copyApertureStart _ _ _ => none
  | .bteJobStart _ => none
  | .bteChunkComplete _ => none
  | .engineJobComplete _ => none
  | .completionRingWrite _ => none
  | .engineJobFail _ _ => none
  | .drainJobWrite _ => none
  | .lighterProgramStart _ => none
  | .lighterEnd _ => none
  | .lighterBase _ _ => none
  | .lighterDim _ _ _ _ => none
  | .lighterPush _ _ _ _ _ _ => none
  | .lighterGather _ _ _ _ _ _ _ => none
  | .lighterLoop _ _ _ _ => none
  | .lighterSig _ _ _ => none
  | .lighterWwait _ _ _ _ => none
  | .lighterJump _ _ => none
  | .lighterIdx _ _ => none
  | .lighterAdv _ _ => none
  | .lighterPushFillComplete _ => none
  | .lighterNextPageWalk _ => none
  | .damaskMemberStart _ _ => none
  | .damaskBlockWrite _ _ => none
  | .damaskPhaseComplete _ _ => none
  | .damaskSourceReadDone _ _ => none
  | .damaskMembershipComplete _ _ => none
  | .damaskSlotStart _ _ => none
  | .damaskMemberLost _ _ _ => none
  | .grresLoad _ _ => none
  | .grresEvict _ => none
  | .grstart _ _ => none
  | .stepBegin _ => none
  | .stepEnd _ => none
  | .nodeComplete _ _ => none
  | .homeSliceWrite _ _ _ => none
  | .homeSliceRead _ _ _ => none
  | .homeSliceAtomic _ _ _ _ _ _ _ => none
  | .acknowledgementArrival _ => none
  | .stashFill _ _ => none
  | .stashRecall _ _ => none
  | .guardGrant _ => none
  | .gateReport _ _ _ => none
  | .sketchUpdateApply _ _ _ _ => none
  | .rstvWriteApply _ => none
  | .rrputFillApply _ => none
  | .migration _ _ _ => none
  | .translationFault _ _ _ => none
  | .sidelogWaitEnter _ => none
  | .sidelogEntryApply _ _ => none
  | .faultresRetry _ _ => none
  | .faultresAbort _ _ => none
  | .walkerInvalidate _ _ => none
  | .objectTableInvalidate _ => none
  | .pkgnumWrite _ => none
  | .pkgmapWrite _ _ => none
  | .frozenResume _ => none
  | .frozenRelease _ => none
  | .frozenJobSlotFree _ _ => none
  | .registerWrite _ _ => none
  | .errorRecordWrite => none
  | .correctedErrorThreshold _ _ => none
  | .eccUncorrected _ => none
  | .patrolScrub _ _ _ => none
  | .deadlockTimeout _ => none
  | .stallTimeout _ => none
  | .packageReset _ => none
  | .ageingMarginLow _ _ => none
  | .speedTableUpdate => none
  | .checkpoint => none
  | .checkpointResume => none
  | .flitDataReceive _ _ => none
  | .keyMarkerReceive _ _ => none
  | .flitAckReceive _ _ _ => none
  | .timeSyncReceive _ _ _ => none
  | .keySlotLoad _ _ _ _ _ => none
  | .circuitRekey _ _ _ _ _ _ => none
  | .ctrExhaust _ => none
  | .circuitSetup _ => none
  | .circuitSetupAck _ _ => none
  | .circuitSetupNack _ => none
  | .circuitSetupRetry _ => none
  | .circuitTear _ => none
  | .circuitIdleTimeout _ => none
  | .circuitFail _ => none
  | .laneLockLoss _ _ => none
  | .mcuWatchdog _ => none
  | .drift _ _ => none
  | .dieLink _ => none
  | .hdmHostAccess _ => none
  | .hostApertureAccess _ _ _ _ => none
  | .hostError _ => none
  | .hostLinkDown => none
  | .backInvalidateTimeout _ => none
  | .tickTimeout _ => none
  | .loadReplyArrival _ => none
  | .backInvalidateResponse _ => none
  | .hostLinkReturn => none
  | .powerStateChange _ => none
  | .powerBudgetLimit _ => none
  | .haltNotice => none
  | .hardwareFailureFence _ => none
  | .timeSyncSend _ => none

end Sys2Proof
end

