-- ==== Sys2Proof/Config.lean ====
section
/-! DEFINITION. What the part fixes (grade NHM4-A192, R1, Table of 01), and the free values: what
the manual leaves open is an uninterpreted constant here, so no proof can lean on a choice. -/

namespace Sys2Proof.Config

/-- Dies of the package. -/
def dies : Nat := 8

/-- Bytes of one stack (R107). -/
def stackBytes : Nat := 2 ^ 36

/-- Bytes of the local store (R98). -/
def lsBytes : Nat := 0x180000

/-- Launch value of a speed entry in this model, in MHz (log 1). -/
def defaultSpeed : Nat := 2200

/-- Live cores of a grade: NHM4-A192, NHM4-B176, NHM4-C160 (Table 01.1). -/
def gradeCores (grade : Nat) : Nat := if grade = 0 then 192 else if grade = 1 then 176 else 160

/-- Populated stacks of a grade (Table 01.1). -/
def gradeStacks (grade : Nat) : Nat := if grade = 2 then 6 else 8

/-- Guaranteed sum of speed entries of a grade, in MHz (Table 01.1, R15). -/
def guaranteedSum (grade : Nat) : Nat := if grade = 0 then 422400 else if grade = 1 then 387200 else 352000

/-- Context areas of the context pool beyond the reserve (R458; log 22). -/
def contextAreas : Nat := 192

/-- Where the context pool lies: at the top of the stacks, as stack-physical addresses one after another (R48, R107;
log 12). -/
def contextBase : Nat := 2 ^ 39 - 384 * 1704 * 1024

/-- A byte the manual leaves undefined (R12; log 9). -/
opaque freeByte : Nat → BitVec 8

/-- A number the manual leaves undefined, by what it is for, the counter of free values and the tick: the state of a
page of another package (0), what an event carries (1, 2), the code of a hardware failure (3), the INFO of a trap
(4), the victim of a full L1 set (5), the rate at which issue cycles are withheld (6), the placement of a step's nodes (100
and up), a word with no home slice (8), a register whose contents no table gives (9), a measured delay and the temperature
of a fibre (10, 11) (log 5, 7, 9, 21, 23, 31, 35, 55, 65). -/
opaque freeNat : Nat → Nat → Nat → Nat

/-- The shipped special-function image of a slot, as its 64-bit words (R254; log 8). -/
opaque shippedImage : Nat → List (BitVec 64)

/-- The verification of a Falcon-1024 signature under a public key over a digest (R380; log 64). -/
opaque falconVerify : List (BitVec 8) → List (BitVec 8) → List (BitVec 8) → Bool

/-- CRC-32 of the bytes of a flit: what the manual leaves open beside the polynomial, its start value, its
final mask and its bit order, is free (R371; log 30). -/
opaque crcStart : BitVec 32
opaque crcMask : BitVec 32
opaque crcReflected : Bool

end Sys2Proof.Config
end

