-- ==== Sys2Proof/Machine/State.lean ====
section
/-! DEFINITION. The state of a Melaisia M4 package and of what lies around it, as plain data; the
reasons a step can stop; and the state right after package reset. -/

namespace Sys2Proof.Machine

/-- Why the model stops although the manual gives the machine no such stop. -/
inductive Fault where
  /-- A stack-physical address beyond the 64 GiB of a stack (R107), named by an event that comes from
  the stack controller itself.  Raised by PATROL_SCRUB, ECC_UNCORRECTED and HARDWARE_FAILURE_FENCE.  Safe. -/
  | stackAddress
deriving DecidableEq, Repr

/-- Why the model has no meaning for a step. -/
inductive Refusal where
  /-- The instruction has no meaning in this model yet.  Raised by arms of exec only.  Safe. -/
  | notModelled (mnemonic : String)
  /-- A write to a BAR0 offset that no table of the manual describes (R385 names the block only).
  Raised by REGISTER_WRITE.  Safe. -/
  | registerNotDescribed
deriving DecidableEq, Repr

/-- What a blocked stream waits for (R33, R450).  The first four are internal waits. -/
inductive Wait where
  | pop (q : Nat)
  | push (q : Nat)
  | dep (st : Stream)
  | format
  | sem
  | ring (n : Nat)
  | page (die : Nat) (page : Nat)
  | jobs
  | unit
  | guarded
  | reply
  | time
  | fence
  | log
  | gate
  | collective
  | memory
deriving DecidableEq, Repr

/-- A semaphore wait of a stream or agent; `granted` once it has been served in a cycle (R39). -/
structure SemWait where
  k       : BitVec 8
  thr     : Nat
  consume : Bool
  granted : Bool
deriving DecidableEq, Repr

/-- Where control stands in a stream: in a section, at a lead unit, or at a header (R133). -/
inductive Arrive where
  | inSection
  | atLead
  | atHeader
deriving DecidableEq, Repr

/-- The extent of the current section (R26, R134): the VA of its lead unit and its header fields. -/
structure Section where
  lead   : BitVec 64
  secno  : BitVec 16
  len    : BitVec 12
  last   : Bool
  fmtend : Bool
deriving DecidableEq, Repr

/-- One instruction stream of a task (R24, R27, R50, R51, R61); `await` holds the writes that a word which has begun
to wait for acknowledgements waits for (R118, R302), and `srcs` the sources that a held word read when it issued,
each with the queue it popped (R33). -/
structure Strm where
  pc        : BitVec 64
  arrive    : Arrive
  sec       : Section
  g         : Vector (BitVec 64) 32
  p         : Vector (BitVec 64) 8
  sctl      : BitVec 64
  fflags    : BitVec 64
  seed      : BitVec 64
  trapsec   : BitVec 64
  trapcause : BitVec 64
  trappc    : BitVec 64
  rsecValid : Bool
  rsec      : BitVec 16
  fin       : Bool
  wait      : Option Wait
  semw      : Option SemWait
  swaitSig  : Bool
  await     : Option (List Nat)
  srcs      : Option (List (Option Nat × BitVec 64))
deriving DecidableEq, Repr

/-- An accumulator tile: mode, sticky flag and elements of up to 66 bits (R54, Table 03.12). -/
structure Tile where
  mode : BitVec 2
  ovf  : Bool
  el   : Vector (BitVec 66) 4096
deriving DecidableEq, Repr

/-- A window: BASE, LIMIT and OFFSET in 4 KiB units and the rights (Table 03.4). -/
structure Window where
  base   : BitVec 52
  limit  : BitVec 52
  offset : BitVec 46
  v : Bool
  x : Bool
  a : Bool
  w : Bool
  r : Bool
deriving DecidableEq, Repr

/-- An operand ring (Table 03.5), its void slots (R446) and the jobs assigned to fill it (R215). -/
structure Ring where
  cfg   : BitVec 64
  en    : Bool
  head  : Nat
  tail  : Nat
  lock  : BitVec 16
  full  : BitVec 16
  void  : BitVec 16
  fillers : List Nat
deriving DecidableEq, Repr

/-- A touched line of a stash mapping: its offset from the mapping's start and whether it is dirty. -/
structure StashLine where
  off   : Nat
  dirty : Bool
deriving DecidableEq, Repr

/-- A stash mapping (R102, R213). -/
structure Stash where
  num : Nat
  lsOff : Nat
  va  : BitVec 64
  ia  : Nat
  len : Nat
  r   : Bool
  w   : Bool
  lines : List StashLine
deriving DecidableEq, Repr

/-- A binding of a region to a guard (R120). -/
structure Binding where
  guard : Nat
  va    : BitVec 64
  ia    : Nat
  len   : Nat
deriving DecidableEq, Repr

/-- An entry of a queue that an RLD or RLDV has reserved, or that stands behind such an entry: its value, whether
the value is there, and whether the request left the die (R207, R363). -/
structure Rld where
  q     : Nat
  val   : BitVec 2048
  ready : Bool
  off   : Bool
deriving DecidableEq, Repr

/-- An acknowledgement on its way to its stream (R114): the word, whether q8 takes it (TAG), the write it
acknowledges, the parts of that instruction's writes that lie lower and are reported first, and whether the write
left the die (R363). -/
structure Ack where
  word  : BitVec 64
  tag   : Bool
  id    : Nat
  after : List Nat
  off   : Bool
deriving DecidableEq, Repr

/-- A write to be logged: its parts in Table 22.2, contiguous form (bytes with their IA) or one
element each; `red` when the bytes are an operand of the reduction `opk` of width `size`; `id` numbers the
write in its task, `after` holds the lower parts of the same instruction, and `bad` the poisoned words of a line that a
stash copy writes back (R411). -/
structure LogWrite where
  op   : BitVec 8
  opk  : BitVec 4
  ord  : BitVec 2
  scope : BitVec 2
  size : BitVec 3
  tag  : Bool
  pc   : BitVec 64
  va   : BitVec 64
  ia   : Nat
  bytes : List (Nat × BitVec 8)
  red  : Bool
  id   : Nat
  after : List Nat
  bad  : List Nat
deriving DecidableEq, Repr

/-- A side-log entry (R436): its sequence number, its page, its elements in order with the entry fields, and
whether its page has been aborted, so that it stays in the log (R434). -/
structure LogEntry where
  seq   : BitVec 16
  page  : Nat
  write : List LogWrite
  dead  : Bool
deriving DecidableEq, Repr

/-- A staged drain: the converted elements of a DRAIN job that has not written its chunk, row by row, and
the coordinates of the first (R276). -/
structure DrainJob where
  shape  : BitVec 16
  coord  : List Nat
  cols   : Nat
  add    : Bool
  data   : List (BitVec 64)
deriving DecidableEq, Repr

/-- A BTE job in a queue (R209, R324, R332); `drain` for a DRAIN job, `block` when it comes from a
command block; `code` is the fault that the start's own data has, or 0 (Table 12.4), and `multi` whether its starter asks for a
multicast template (R331). -/
structure BteJob where
  tid   : Option Nat
  tmpl  : BitVec 16
  tag   : BitVec 32
  mask  : BitVec 16
  wait  : Option SemWait
  ssem  : BitVec 8
  sinc  : BitVec 12
  drain : Option DrainJob
  block : Bool
  code  : BitVec 8
  multi : Option Bool
deriving DecidableEq, Repr

/-- A running BTE job with the entries it read when it started (R317, R323): the bytes each destination
received, the tags of the chunks whose additions its home slices have applied (R448), and the ring slot that its
next chunk has claimed (R60, R322). -/
structure BteRun where
  job   : BteJob
  body  : BitVec 512
  src   : BitVec 512
  dsts  : List (BitVec 512)
  nChunks : Nat
  chunk : Nat
  bytes : List Nat
  fill  : Nat
  drop  : BitVec 16
  bfault : BitVec 8
  tags  : List Nat
  slot  : Option Nat
deriving DecidableEq, Repr

/-- A BTE channel (R323, R326); `fcode` is the fault code of its fence (R404). -/
structure Chan where
  fenced : Bool
  fcode  : BitVec 8
  queue  : List BteJob
  run    : Option BteRun
  base   : Nat
  log2   : Nat
  held   : Option (BitVec 128)
deriving DecidableEq, Repr

/-- A queued Lighter program (R210, R330). -/
structure LProg where
  tid   : Nat
  obj   : BitVec 16
  tag   : BitVec 32
  wait  : Option SemWait
  ssem  : BitVec 8
  sinc  : BitVec 12
  block : Bool
  halt  : Bool
deriving DecidableEq, Repr

/-- A push in flight: ring, slot, bytes not yet made FULL, and its signal (R329). -/
structure LPush where
  ring : Fin 8
  slot : Nat
  ssem : BitVec 8
  sinc : BitVec 12
deriving DecidableEq, Repr

/-- A running Lighter program (R328); `addr` is the last address its stream read (R95), `slot` the ring slot its push
has claimed and not filled (R329), `rings` the rings it is assigned to fill (R215), and `waiting` the ring at whose slot
it waits (R212). -/
structure LRun where
  prog   : LProg
  body   : BitVec 512
  cur    : BitVec 58
  count  : Vector (BitVec 25) 8
  stride : Vector (BitVec 32) 8
  idxp   : BitVec 58
  cnt    : Vector (BitVec 24) 4
  pc     : Nat
  flight : List LPush
  chunks : Nat
  bytes  : Nat
  addr     : Option Nat
  curPage  : Option Nat
  nextPage : Option Nat
  slot     : Option (Fin 8 × Nat)
  rings    : List (Fin 8)
  halted   : Bool
  waiting  : Option (Fin 8)
  semw     : Option SemWait
deriving DecidableEq, Repr

/-- A Lighter (R326, R330); `fcode` is the fault code of its fence (R404). -/
structure Lighter where
  fenced : Bool
  fcode  : BitVec 8
  queue  : List LProg
  run    : Option LRun
  base   : Nat
  log2   : Nat
  held   : Option (BitVec 128)
deriving DecidableEq, Repr

/-- What LSTAT shows of a Lighter to one task (R212). -/
structure LStat where
  unit   : Nat
  chunks : Nat
  status : BitVec 8
  state  : BitVec 2
deriving DecidableEq, Repr

/-- A command block being run by the job unit (R332). -/
structure BlockRun where
  src     : Nat
  group   : Nat
  rank    : BitVec 16
  tag     : BitVec 32
  records : List (BitVec 128)
  open_   : Nat
  code    : BitVec 8
  semw    : Option SemWait
deriving DecidableEq, Repr

/-- A GBAR, GRED or GBCAST that has issued and not retired: its group object is checked, and its record and its operand
are read, when it retires, which its wait and the release of the task's writes gate (R39, R190, R191; log 62). -/
structure PendingArrival where
  kind  : CollKind
  group : Option Nat
  va    : BitVec 64
  win   : Nat
  off   : BitVec 64
  obj   : BitVec 16
  ssem  : BitVec 8
  sinc  : BitVec 12
  pc    : BitVec 64
  wait  : Option SemWait
deriving DecidableEq, Repr

/-- A member of a Damask collective (R342, R343, R344); `since` orders the waits of one task (R39). -/
structure DMember where
  tid     : Nat
  rank    : Nat
  pkg     : Nat
  xpb     : BitVec 1024
  wait    : Option SemWait
  since   : Nat
  ssem    : BitVec 8
  sinc    : BitVec 12
  started : Bool
  tick    : Nat
  phases  : Nat
  srcDone : Bool
  flits   : Nat
  slips   : Nat
  slots   : List (Fin 16 × Nat)
  done    : Bool
deriving DecidableEq, Repr

/-- A message of the C-stream send queue (R365). -/
inductive SendC where
  | signal (m : RemoteSignal)
  | block (m : BlockMsg)
  | arrival (p : PendingArrival)
  | start (group : Nat) (idx : BitVec 16) (m : DMember)
deriving DecidableEq, Repr

/-- A message of the S-stream send queue (R365); an RSTV's write has its number in the task. -/
inductive SendS where
  | rstv (id : Nat) (m : RstvMsg)
  | rrput (m : RrputMsg)
deriving DecidableEq, Repr

/-- The unit that holds an event of a task while q15 is full (R36). -/
inductive EventSource where
  | bte (n : Fin 32)
  | lighter (n : Fin 32)
  | jobUnit
  | damask
  | quay
  | remote
  | core
deriving DecidableEq, Repr

/-- What the task is: on a core, saved, frozen, ended, or nothing at all (R21, R22, R47, R400). -/
inductive TaskStatus where
  | vacant
  | resident
  | saved
  | frozen
  | ended
deriving DecidableEq, Repr

/-- A task function slot: the LS offset of its image and the words VSFL found there (R258, R259). -/
structure SfnSlot where
  off   : Nat
  words : List (BitVec 64)
deriving DecidableEq, Repr

/-- A watch of SLEEP on a line: the line's IA and whether a write was applied to it (R200). -/
structure Watch where
  line : Nat
  hit  : Bool
deriving DecidableEq, Repr

/-- The state of one task (02, 03); `lsPoison` holds the poisoned 64-bit words of its local store, by number (R411). -/
structure Task where
  status  : TaskStatus
  tid     : Nat
  core    : Nat
  slot    : Nat
  node    : Nat
  tile    : BitVec 64
  step    : BitVec 64
  patch   : BitVec 64
  taskid  : BitVec 64
  speed   : BitVec 64
  prio    : Nat
  started : Nat
  c : Strm
  a : Strm
  x : Strm
  s : Strm
  v : Vector (BitVec 2048) 32
  t : Vector Tile 4
  seedm  : BitVec 64
  lscfg  : BitVec 64
  cycles : BitVec 64
  qs  : Vector (List (BitVec 64)) 12
  q12 : List (BitVec 2048)
  q13 : List (BitVec 2048)
  q14 : List (BitVec 64)
  q14uses : Nat
  q15 : List (BitVec 128)
  heldEvents : List (EventSource × BitVec 128)
  k   : Vector (BitVec 32) 256
  win : Vector Window 8
  rings : Vector Ring 8
  ls  : List Host.Cell
  lsPoison : List Nat
  stash : List Stash
  bindings : List Binding
  guards : List (Nat × Bool)
  evmask : BitVec 3
  fmtDone : Bool
  nodeRel : Bool
  objs : List (BitVec 16 × BitVec 8)
  jobs : Nat
  sfn  : Vector (Option SfnSlot) 8
  plans : Vector (Option (BitVec 512)) 4
  rlds : List Rld
  wnext : Nat
  acks : List Ack
  sendC : List SendC
  sendS : List SendS
  inbound : List BlockMsg
  block : Option BlockRun
  sidelog : List LogEntry
  logWait : List LogEntry
  logSeq : BitVec 16
  logFull : Bool
  lstat : List LStat
  watch : Option Watch
  deadline : Option Nat
  dlCycles : Nat
  stallTicks : Nat
  stallDone : Bool
  savedJobs : List (Nat × BteRun)
  savedQueue : List (Nat × BteJob)
  savedProgs : List (Nat × LRun)
  savedProgQueue : List (Nat × LProg)
  bkpt : Bool
  poisoned : Bool
  area : Option Nat
deriving DecidableEq, Repr

/-- A line of a core's L1: core, IA of the line and its 128 bytes (R106). -/
structure L1Line where
  core : Nat
  line : Nat
  data : List (BitVec 8)
deriving DecidableEq, Repr

/-- An item of a core's task queue (R21, R356). -/
inductive QItem where
  | tile (slot node : Nat) (tile : BitVec 64)
  | resume (slot node tid : Nat)
deriving DecidableEq, Repr

/-- A core (R14, R21, R382, R404). -/
structure Core where
  queue  : List QItem
  fenced : Bool
  speed  : Nat
  pendingSpeed : Option Nat
  voltage : Nat
deriving DecidableEq, Repr

/-- A translation a walker has cached: page (OFFSET / 64 KiB), frame, the address of the leaf, and its DISC bit
(R94, R108). -/
structure WalkEntry where
  page : Nat
  die  : Nat
  frame : Nat
  leaf : Nat
  big  : Bool
  disc : Bool
deriving DecidableEq, Repr

/-- An access held at a walker (R433): its page, the die that holds it, who asked, and its IA. -/
structure Held where
  die  : Nat
  page : Nat
  by_  : Requester
  ia   : Nat
deriving DecidableEq, Repr

/-- A request at a guard's home slice (R121). -/
structure GuardReq where
  ia     : Nat
  tid    : Nat
  shared : Bool
deriving DecidableEq, Repr

/-- An SCOMMIT held at a gate, with its reply once the step is decided (R314). -/
structure HeldCommit where
  gate : Nat
  tid  : Nat
  reply : Option (BitVec 64)
deriving DecidableEq, Repr

/-- The entry of an object: kind and 512-bit body (R315, R316). -/
structure ObjEntry where
  index : BitVec 16
  kind  : BitVec 8
  body  : BitVec 512
deriving DecidableEq, Repr

/-- An open or finished operation of a group (R44, R191, R455). -/
structure Coll where
  kind     : CollKind
  expect   : List (Nat × Nat)
  arrivals : List GroupArrival
  lost     : List (Nat × Nat)
  first    : Nat
  last     : Nat
  lastRank : Nat
deriving DecidableEq, Repr

/-- A group: its members (rank, task), its open operations, and its last GBAR results (R42, R193). -/
structure Group where
  ia      : Nat
  members : List (Nat × Nat)
  colls   : List Coll
  history : List (BitVec 64)
deriving DecidableEq, Repr

/-- A Damask collective (R342, R346): key, members, the blocks moved, the status with which it ended for
all, the slots by which later phases have moved, the phases whose slots have begun, SLIPMAX when it began
(R449), and whether it has left slotting (R459). -/
structure DColl where
  key     : CollKey
  members : List DMember
  moved   : List DamaskBlock
  ended   : Option (BitVec 8)
  slotMove : Nat
  slotPhase : Nat
  slipMax : Nat
  unslotted : Bool
deriving DecidableEq, Repr

/-- A running or queued start of a graph (R350): steps, the step it is in, bank, signal, weights. -/
structure Start where
  steps  : Nat
  step   : Nat
  bank   : Bool
  sig    : Option (Nat × BitVec 8 × BitVec 12)
  begin_ : Nat
  weights : List Nat
deriving DecidableEq, Repr

/-- A node of a resident graph during a step (R352, R353, R355, R357).  Its tile queue is `tiles` (returned
to the front), then tiles nextTile to ND.TILES - 1, then `spawnq`; `counted` when the placement engine has counts of its
tasks' accesses. -/
structure NodeSt where
  record  : BitVec 1024
  succ    : List Nat
  preds   : Nat
  ready   : Bool
  order   : Nat
  total   : Nat
  reported : Nat
  tiles   : List (BitVec 64)
  nextTile : Nat
  spawnq  : List (BitVec 64)
  spawned : Nat
  nextSpawn : List (BitVec 64)
  resume  : List Nat
  placement : List Nat
  cur     : List Int
  complete : Bool
  firstTick : Nat
  lastTick  : Nat
  reruns  : List (BitVec 64 × Nat)
  counted : Bool
deriving DecidableEq, Repr

/-- A residence slot (R349, Table 14.3): GRRES.OBJ as last written, the object of the resident graph, GRRES.V
and ERR, GRSTAT.LAST and DONE, the header, the nodes, a load whose node array waits for a page, and the starts. -/
structure GSlot where
  oreg   : BitVec 16
  obj    : BitVec 16
  v      : Bool
  err    : BitVec 2
  last   : BitVec 2
  done   : Nat
  header : BitVec 512
  nodes  : List NodeSt
  loading : Option (BitVec 16)
  running : Option Start
  queued : Option Start
  nextBank : Bool
  inStep : Bool
  failed : Bool
  lastNode : Nat
  lastCore : Nat
deriving DecidableEq, Repr

/-- An entry of the frozen-context table (Table 20.3): `ctx` is the IA of the context area. -/
structure Frozen where
  tid : Nat
  bkpt : Bool
  v   : Bool
  ctx : Nat
deriving DecidableEq, Repr

/-- A frozen-job slot (R403): completion record, TASKID and saved position. -/
structure FrozenJob where
  record : BitVec 128
  taskid : BitVec 64
  pos    : BitVec 64
  v      : Bool
deriving DecidableEq, Repr

/-- The state of one direction of a circuit at its sender (R371 to R374): `unacked` holds the flits not yet acknowledged
with their text, `wire` those on their way. -/
structure SendDir where
  key0 : Option (BitVec 256)
  key1 : Option (BitVec 256)
  salt0 : BitVec 48
  salt1 : BitVec 48
  slot : Bool
  ctr  : Nat
  seq  : Nat
  unacked : List (FlitIn × BitVec 2048)
  wire : List FlitIn
  stopped : Bool
deriving DecidableEq, Repr

/-- The state of one direction of a circuit at its receiver (R372, R373, R374, R464): `delivered` counts the
flits accepted since the last acknowledgement, `nakOwed` is set while a negative one is to be sent, `ackOwed` while a flit other than an acknowledgement has had none
(log 37), and `text` is the last payload delivered. -/
structure RecvDir where
  key0 : Option (BitVec 256)
  key1 : Option (BitVec 256)
  salt0 : BitVec 48
  salt1 : BitVec 48
  last0 : Option Nat
  last1 : Option Nat
  seq   : Nat
  nakSent : Bool
  nakOwed : Bool
  ackOwed : Bool
  rejects : Nat
  authFails : Nat
  rekeyed : Bool
  delivered : Nat
  text  : Option (BitVec 2048)
deriving DecidableEq, Repr

/-- The life of a circuit (R369, R466). -/
inductive CircState where
  | none
  | setup
  | waiting
  | up
  | ended
deriving DecidableEq, Repr

/-- A circuit-table entry with its fibre-delay entry (R369, R370); `stale` while that entry has been reloaded
and not refreshed (R469); `cfg` is LINKCFG when the circuit was set up (R461), `syncAt` the tick of the last time-sync flit
sent (R370), and `slotTag` the collective and phase whose slotted blocks it carried last (R463). -/
structure Circuit where
  id     : Nat
  far    : BitVec 11
  engine : Fin 8
  lanes  : BitVec 16
  state  : CircState
  nacks  : Nat
  attempts : Nat
  retryAt : Nat
  idle   : Nat
  stale  : Bool
  cfg    : BitVec 64
  rtt    : BitVec 20
  fdrift : BitVec 16
  fdv    : Bool
  syncAt : Nat
  slotTag : Option (CollKey × Nat)
  tx     : SendDir
  rx     : RecvDir
deriving DecidableEq, Repr

/-- A request that waits in an engine whose microcontroller reloads (R469). -/
inductive OptReq where
  | setup (r : SetupReq)
  | tear (circ : Nat)
deriving DecidableEq, Repr

/-- An optical engine (R367, R469): `dark` holds the lanes fenced since (R404, R466). -/
structure OptEngine where
  usable  : Bool
  lanes   : BitVec 16
  dark    : BitVec 16
  lastReset : Option Nat
  driftOff : Bool
  fenced  : Bool
  queued  : List OptReq
deriving DecidableEq, Repr

/-- A die link (R471). -/
structure DieLinkSt where
  up : Bool
  rejects : Nat
deriving DecidableEq, Repr

/-- Corrected errors of a unit: the ticks and numbers of those not yet recorded, newest first, and how often they have
passed the threshold (R407, R412). -/
structure CeCount where
  unit  : ErrUnit
  times : List (Nat × Nat)
  past  : Nat
deriving DecidableEq, Repr

/-- The image a checkpoint leaves in the safe tier (R384, R413). -/
structure Image where
  mem    : List Host.Cell
  poison : List Nat
  homeMap : List (Nat × BitVec 4)
  migCount : List (Nat × Nat)
  objs   : List ObjEntry
  chans  : Vector Chan 32
  lighters : Vector Lighter 32
  damask : List DColl
  nextTask : Nat
  taskSeq : Nat
  tasks  : List Task
  slots  : List GSlot
  groups : List Group
  frozen : Vector Frozen 16
  seq    : BitVec 32
  tick   : Nat
deriving DecidableEq, Repr

/-- The fuses of a package (R14, R378, R380, R381): the grade (0 for A192, 1 for B176, 2 for C160), the live core
positions, the populated stacks, each position's ceiling in MHz, the hash of the public key, the rollback counter, and the
package's identity key with its signature. -/
structure Fuses where
  grade    : Nat
  live     : BitVec 192
  stackMask : BitVec 8
  ceilings : List Nat
  keyHash  : BitVec 256
  rollback : Nat
  identity : List (BitVec 8)
  identSig : List (BitVec 8)
deriving DecidableEq, Repr

/-- A region on its way to another die (R96): the region, the new die and the frame there. -/
structure Moving where
  region : Nat
  die    : Fin 8
  frame  : Nat
deriving DecidableEq, Repr

/-- The state of one package, of what surrounds it and of the turns of its agents; `lastSaved` holds each task as it was
when it was last saved, or launched (R404; log 66). -/
structure Pack where
  task   : Task
  cur    : Stream
  bg     : Bool
  agenda : List Instr
  others : List Task
  lastSaved : List Task
  tick   : Nat
  taskSeq : Nat
  l1     : List L1Line
  cores  : Vector Core 192
  mem    : List Host.Cell
  poison : List Nat
  homeMap : List (Nat × BitVec 4)
  roots  : Vector (BitVec 64) 8
  walks  : List WalkEntry
  noWalks : List (Nat × Nat)
  sliceSeq : Vector (BitVec 32) 128
  sliceFenced : List Nat
  frameFenced : List (Nat × Nat)
  counters : List (Nat × Nat × Nat)
  migCount : List (Nat × Nat)
  held   : List Held
  migrating : List Moving
  guardQ : List GuardReq
  commits : List HeldCommit
  objs   : List ObjEntry
  bodyBase : BitVec 64
  tagBase  : BitVec 64
  chans  : Vector Chan 32
  lighters : Vector Lighter 32
  aperture : List (Nat × BitVec 128 × Option Nat)
  lgos   : List (Nat × LProg)
  groups : List Group
  damask : List DColl
  gslots : Vector GSlot 64
  preemptFail : Bool
  victims : List (Nat × Nat × Nat)
  errBase : BitVec 64
  errCfg  : BitVec 64
  errLost : BitVec 32
  errSeq  : BitVec 32
  errHeld : List (BitVec 512)
  frozen  : Vector Frozen 16
  frozenJobs : Vector FrozenJob 32
  ceCount : List CeCount
  syncCfg : BitVec 64
  linkCfg : BitVec 64
  stopped : Bool
  pkgnum  : BitVec 64
  pkgmap  : BitVec 2048
  hwbase  : BitVec 64
  idleTime : BitVec 64
  circuits : List Circuit
  ports   : List (Nat × Nat)
  engines : Vector OptEngine 8
  dieLinks : Vector DieLinkSt 16
  syncAge : Nat
  synced  : Bool
  slew    : Int
  bootst  : BitVec 64
  fuses   : Fuses
  power   : PowerState
  limited : Bool
  halted  : Bool
  regPend : List (Nat × BitVec 64)
  hdmBase : BitVec 64
  hostPend : List HostAccess
  demand  : List Nat
  ctxBase : Nat
  ctxAreas : Nat
  hostUp  : Bool
  hostWidth : Nat
  hostLines : List Nat
  backInval : List (Nat × Nat)
  hostDropped : Bool
  hostIrqs : Nat
  hostSees : List (BitVec 8)
  poisonReturned : Bool
  aer     : List HostErr
  ckpt    : Bool
  image   : Option Image
deriving DecidableEq, Repr

/-- The machine: the package whose turn it is, the counter of free values, the number the next task takes, and the
other packages that are modelled, in the order of their turns (log 5). -/
structure State extends Pack where
  free     : Nat
  nextTask : Nat
  peers    : List Pack
deriving DecidableEq, Repr

/-- Launch and reset value of a stream (R21, R50, R51, Table 03.7 to 03.10; log 1). -/
def Strm.init : Strm :=
  { pc := 0, arrive := .atHeader, sec := ⟨0, 0, 0, false, false⟩
    g := Vector.replicate 32 0, p := Vector.replicate 8 0
    sctl := 0, fflags := 0, seed := 0x9E3779B97F4A7C15, trapsec := 0, trapcause := 0, trappc := 0
    rsecValid := false, rsec := 0, fin := false, wait := none, semw := none, swaitSig := false, await := none, srcs := none }

/-- A tile at launch: mode F32X, every element +0, the sticky flag clear (R54). -/
def Tile.init : Tile := { mode := 0, ovf := false, el := Vector.replicate 4096 0 }

/-- An invalid window (log 1). -/
def Window.init : Window :=
  { base := 0, limit := 0, offset := 0, v := false, x := false, a := false, w := false, r := false }

/-- A disabled ring (R59). -/
def Ring.init : Ring :=
  { cfg := 0, en := false, head := 0, tail := 0, lock := 0, full := 0, void := 0, fillers := [] }

/-- No task: every register at its launch value where R21 gives one, else zero (log 1). -/
def Task.init : Task :=
  { status := .vacant, tid := 0, core := 0, slot := 0, node := 0, tile := 0, step := 0, patch := 0
    taskid := 0, speed := BitVec.ofNat 64 Config.defaultSpeed, prio := 0, started := 0
    c := Strm.init, a := Strm.init, x := Strm.init, s := Strm.init
    v := Vector.replicate 32 0, t := Vector.replicate 4 Tile.init
    seedm := 0x9E3779B97F4A7C15, lscfg := 0, cycles := 0
    qs := Vector.replicate 12 [], q12 := [], q13 := [], q14 := [], q14uses := 0, q15 := []
    heldEvents := [], k := Vector.replicate 256 0, win := Vector.replicate 8 Window.init
    rings := Vector.replicate 8 Ring.init, ls := [], lsPoison := [], stash := [], bindings := [], guards := []
    evmask := 0, fmtDone := false, nodeRel := false, objs := [], jobs := 0
    sfn := Vector.replicate 8 none, plans := Vector.replicate 4 none
    rlds := [], wnext := 0, acks := [], sendC := [], sendS := [], inbound := [], block := none
    sidelog := [], logWait := [], logSeq := 0, logFull := false, lstat := [], watch := none, deadline := none
    dlCycles := 0, stallTicks := 0, stallDone := false, savedJobs := [], savedQueue := []
    savedProgs := [], savedProgQueue := [], bkpt := false, poisoned := false, area := none }

/-- A residence slot after reset (Table 14.3). -/
def GSlot.init : GSlot :=
  { oreg := 0, obj := 0, v := false, err := 0, last := 0, done := 0, header := 0, nodes := [], loading := none, running := none
    queued := none, nextBank := false, inStep := false, failed := false
    lastNode := 0, lastCore := 0 }

/-- The fuses of an A192 part, which is the grade the model starts with (log 13, log 52). -/
def Fuses.init : Fuses :=
  { grade := 0, live := BitVec.allOnes 192, stackMask := 0xFF, ceilings := List.replicate 192 Config.defaultSpeed, keyHash := 0
    rollback := 0, identity := [], identSig := [] }

/-- A package right after package reset.  Registers whose reset value a table of the manual gives
hold it; every other field holds the value log 1 names. -/
def Pack.reset : Pack :=
  { task := Task.init, cur := .c, bg := false, agenda := [], others := [], lastSaved := [], tick := 0
    taskSeq := 0, l1 := []
    cores := Vector.replicate 192 ⟨[], false, Config.defaultSpeed, none, 0⟩
    mem := [], poison := [], homeMap := [], roots := Vector.replicate 8 0, walks := [], noWalks := []
    sliceSeq := Vector.replicate 128 0, sliceFenced := [], frameFenced := [], counters := []
    migCount := [], held := [], migrating := [], guardQ := [], commits := []
    objs := [], bodyBase := 0, tagBase := 0
    chans := Vector.replicate 32 ⟨false, 0, [], none, 0, 0, none⟩
    lighters := Vector.replicate 32 ⟨false, 0, [], none, 0, 0, none⟩
    aperture := [], lgos := [], groups := [], damask := [], gslots := Vector.replicate 64 GSlot.init
    preemptFail := false, victims := []
    errBase := 0, errCfg := 0x1000, errLost := 0, errSeq := 0, errHeld := []
    frozen := Vector.replicate 16 ⟨0, false, false, 0⟩, frozenJobs := Vector.replicate 32 ⟨0, 0, 0, false⟩
    ceCount := [], syncCfg := 0x3000000100, linkCfg := 0x0008044008030010
    stopped := false, pkgnum := 0, pkgmap := 0, hwbase := 0, idleTime := 0, circuits := [], ports := []
    engines := Vector.replicate 8 ⟨true, 0xFFFF, 0, none, false, false, []⟩
    dieLinks := Vector.replicate 16 ⟨true, 0⟩, syncAge := 0, synced := true, slew := 0
    bootst := 1, fuses := Fuses.init, power := .p0, limited := false, halted := false
    regPend := [], hdmBase := 0, hostPend := [], demand := [], ctxBase := Config.contextBase, ctxAreas := Config.contextAreas
    hostUp := true, hostWidth := 16, hostLines := [], backInval := [], hostDropped := false
    hostIrqs := 0, hostSees := [], poisonReturned := false, aer := [], ckpt := false, image := none }

/-- The machine right after package reset, with no other package modelled yet (log 52). -/
def State.reset : State := { Pack.reset with free := 0, nextTask := 0, peers := [] }

end Sys2Proof.Machine
end

