-- ==== Sys2Proof/Machine/Bits.lean ====
section
/-! DEFINITION. Bit-field, extension and byte-order helpers (spec 00 R5, R6, R9; 04, helper functions). -/

namespace Sys2Proof.Machine

/-- x[lo+len-1 : lo] of a natural number (R9). -/
def bits (x lo len : Nat) : Nat := x / 2 ^ lo % 2 ^ len

/-- Bit n of a natural number. -/
def bitN (x n : Nat) : Bool := x / 2 ^ n % 2 == 1

/-- 1 for true, 0 for false. -/
def b2n (b : Bool) : Nat := if b then 1 else 0

/-- sx(x, w): the low w bits read as two's complement (R9). -/
def sxInt (w x : Nat) : Int :=
  let y := x % 2 ^ w
  if 2 ^ w ≤ 2 * y then (y : Int) - (2 ^ w : Nat) else (y : Int)

/-- An integer modulo 2^w, as a natural number. -/
def wrapN (w : Nat) (x : Int) : Nat := (x % ((2 ^ w : Nat) : Int)).toNat

/-- sat(x, lo, hi) (R9, 04). -/
def satInt (lo hi x : Int) : Int := if x < lo then lo else if hi < x then hi else x

/-- rotl64(x, n) (04). -/
def rotl64 (x : BitVec 64) (n : Nat) : BitVec 64 := x.rotateLeft (n % 64)

/-- mix64(x) (04). -/
def mix64 (x0 : BitVec 64) : BitVec 64 :=
  let x1 := (x0 ^^^ (x0 >>> 30)) * 0xBF58476D1CE4E5B9#64
  let x2 := (x1 ^^^ (x1 >>> 27)) * 0x94D049BB133111EB#64
  x2 ^^^ (x2 >>> 31)

/-- A seed as it is stored: zero becomes the constant of R62. -/
def storeSeed (x : BitVec 64) : BitVec 64 := if x = 0 then 0x9E3779B97F4A7C15#64 else x

/-- A little-endian number from bytes (R6). -/
def bytesNat : List (BitVec 8) → Nat
  | [] => 0
  | b :: bs => b.toNat + 256 * bytesNat bs

/-- The first n bytes of a number, little-endian (R6). -/
def natBytes : Nat → Nat → List (BitVec 8)
  | 0, _ => []
  | n + 1, v => BitVec.ofNat 8 v :: natBytes n (v / 256)

/-- Address and byte of each byte of a list that starts at `a`. -/
def atAddr (a : Nat) : List (BitVec 8) → List (Nat × BitVec 8)
  | [] => []
  | b :: bs => (a, b) :: atAddr (a + 1) bs

/-- The numbers a, a+1, …, a+n-1. -/
def span (a : Nat) : Nat → List Nat
  | 0 => []
  | n + 1 => a :: span (a + 1) n

/-- The least n below `k` with `f n`, if any. -/
def findBelow (f : Nat → Bool) (k : Nat) : Option Nat := (List.range k).find? f

/-- Element i of width w of a vector register, as a number (R53). -/
def elemN (v : BitVec 2048) (w i : Nat) : Nat := (v.extractLsb' (w * i) w).toNat

/-- A vector register from elements of width w, element 0 lowest (R53). -/
def packElems (w : Nat) : List Nat → Nat
  | [] => 0
  | x :: xs => x % 2 ^ w + 2 ^ w * packElems w xs

/-- All elements of width w of a vector register (R53). -/
def elems (v : BitVec 2048) (w : Nat) : List Nat := (List.range (2048 / w)).map (elemN v w)

/-- The vector register with elements of width w. -/
def vecOf (w : Nat) (xs : List Nat) : BitVec 2048 := BitVec.ofNat 2048 (packElems w xs)

/-- All ones or zero: how a scalar result is written to a predicate (R51). -/
def predBits (b : Bool) : BitVec 64 := if b then BitVec.allOnes 64 else 0

/-- An association list with one value per key: the value at a key. -/
def lookupD {α : Type} (d : α) (k : Nat) : List (Nat × α) → α
  | [] => d
  | (k', v) :: r => if k' = k then v else lookupD d k r

/-- An association list with the value at a key replaced, kept in rising order of keys. -/
def putKey {α : Type} (k : Nat) (v : α) : List (Nat × α) → List (Nat × α)
  | [] => [(k, v)]
  | (k', v') :: r =>
    if k < k' then (k, v) :: (k', v') :: r
    else if k = k' then (k, v) :: r
    else (k', v') :: putKey k v r

/-- The first element satisfying `f` replaced. -/
def modFirst {α : Type} (f : α → Bool) (g : α → α) : List α → List α
  | [] => []
  | x :: xs => if f x then g x :: xs else x :: modFirst f g xs

end Sys2Proof.Machine
end

