-- ==== Sys2Proof/Machine/Cells.lean ====
section
/-! DEFINITION. Cells of memory and of the local store in canonical form, and the free bytes the manual
leaves undefined (00 R12; 05). -/

namespace Sys2Proof.Machine

/-- The byte at a key; an unlisted key reads zero (log 2, log 3). -/
def readCell : List Host.Cell → Nat → BitVec 8
  | [], _ => 0
  | (k, v) :: r, a => if k = a then v else readCell r a

/-- One byte written, keeping the keys rising and no zero listed. -/
def writeCell : List Host.Cell → Nat → BitVec 8 → List Host.Cell
  | [], a, v => if v = 0 then [] else [(a, v)]
  | (k, w) :: r, a, v =>
    if k < a then (k, w) :: writeCell r a v
    else if k = a then (if v = 0 then r else (a, v) :: r)
    else if v = 0 then (k, w) :: r
    else (a, v) :: (k, w) :: r

/-- Several bytes written in order. -/
def writeCells (m : List Host.Cell) (ws : List (Nat × BitVec 8)) : List Host.Cell :=
  ws.foldl (fun m w => writeCell m w.1 w.2) m

/-- The canonical form: keys strictly rising, and no listed byte zero. -/
def Memory.wf : List Host.Cell → Bool
  | [] => true
  | [(_, v)] => v != 0
  | (k, v) :: (k', v') :: r => v != 0 && decide (k < k') && Memory.wf ((k', v') :: r)

/-- n bytes from a key. -/
def readCells (m : List Host.Cell) (a n : Nat) : List (BitVec 8) := (span a n).map (readCell m)

/-- The bytes below `lo` or at and above `hi` kept, the others become zero (R108). -/
def zeroCells (m : List Host.Cell) (lo hi : Nat) : List Host.Cell :=
  m.filter (fun c => c.1 < lo || hi ≤ c.1)

/-- n undefined bytes (R12; log 9), numbered from `k`. -/
def freeBytesAt (k n : Nat) : List (BitVec 8) := (span k n).map Config.freeByte

end Sys2Proof.Machine
end

