-- ==== Sys2Proof/Machine/Crypto.lean ====
section
/-! DEFINITION. The two public algorithms that the manual names and that its state depends on: AES-256-GCM of a flit
(15 R373) and SHAKE256 of a key and of a firmware image (16 R380).  Both are taken from their public standards (log 17). -/

namespace Sys2Proof.Machine

/-- Bytes of a number of n bytes, the most significant first. -/
def bigBytes (n v : Nat) : List (BitVec 8) := (natBytes n v).reverse

/-- The number that bytes give, the most significant first. -/
def bigNat (bs : List (BitVec 8)) : Nat := bytesNat bs.reverse

/-- Bytes combined one by one. -/
def xorBytes (a b : List (BitVec 8)) : List (BitVec 8) := List.zipWith (· ^^^ ·) a b

/-- The substitution box of AES: byte i of this number. -/
def sboxTable : Nat :=
  0x16bb54b00f2d99416842e6bf0d89a18cdf2855cee9871e9b948ed9691198f8e19e1dc186b95735610ef6034866b53e708a8bbd4b1f74dde8c6b4a61c2e2578ba08ae7a65eaf4566ca94ed58d6d37c8e779e4959162acd3c25c2406490a3a32e0db0b5ede14b8ee4688902a22dc4f816073195d643d7ea7c41744975fec130ccdd2f3ff1021dab6bcf5389d928f40a351a89f3c507f02f94585334d43fbaaefd0cf584c4a39becb6a5bb1fc20ed00d153842fe329b3d63b52a05a6e1b1a2c830975b227ebe28012079a059618c323c7041531d871f1e5a534ccf73f362693fdb7c072a49cafa2d4adf04759fa7dc982ca76abd7fe2b670130c56f6bf27b777c63

/-- A byte through the box. -/
def subByte (b : BitVec 8) : BitVec 8 := BitVec.ofNat 8 (sboxTable / 2 ^ (8 * b.toNat))

/-- A byte doubled in the field of AES. -/
def xtime (b : BitVec 8) : BitVec 8 := (b <<< 1) ^^^ (if b.msb then 0x1B#8 else 0)

/-- The 60 words of an AES-256 key's schedule. -/
def keyWords (key : List (BitVec 8)) : List (List (BitVec 8)) :=
  (List.range 52).foldl (fun (ws : List (List (BitVec 8))) k =>
    let i := k + 8
    let t := ws.getD (i - 1) []
    let t := if i % 8 = 0 then xorBytes ((t.drop 1 ++ t.take 1).map subByte) [BitVec.ofNat 8 (2 ^ (i / 8 - 1)), 0, 0, 0]
      else if i % 8 = 4 then t.map subByte else t
    ws ++ [xorBytes (ws.getD (i - 8) []) t])
    ((List.range 8).map (fun i => (key.drop (4 * i)).take 4))

/-- One column mixed. -/
def mixColumn (c : List (BitVec 8)) : List (BitVec 8) :=
  let x (i : Nat) : BitVec 8 := c.getD (i % 4) 0
  (List.range 4).map (fun i => xtime (x i) ^^^ (xtime (x (i + 1)) ^^^ x (i + 1)) ^^^ x (i + 2) ^^^ x (i + 3))

/-- A block encrypted under a schedule. -/
def aesBlock (ws : List (List (BitVec 8))) (block : List (BitVec 8)) : List (BitVec 8) :=
  let rk (r : Nat) : List (BitVec 8) := ((ws.drop (4 * r)).take 4).flatten
  let sub (s : List (BitVec 8)) : List (BitVec 8) :=
    let t := s.map subByte
    (List.range 16).map (fun i => t.getD ((i % 4 + 4 * ((i / 4 + i % 4) % 4))) 0)
  let mid := (List.range 13).foldl (fun s r =>
    let t := sub s
    xorBytes ((List.range 4).flatMap (fun c => mixColumn ((t.drop (4 * c)).take 4))) (rk (r + 1))) (xorBytes block (rk 0))
  xorBytes (sub mid) (rk 14)

/-- The product in the field of GCM, whose bit 0 is the most significant. -/
def gcmMul (x y : BitVec 128) : BitVec 128 :=
  ((List.range 128).foldl (fun (z : BitVec 128 × BitVec 128) i =>
    (if x.getMsbD i then z.1 ^^^ z.2 else z.1,
     if z.2.getLsbD 0 then (z.2 >>> 1) ^^^ 0xE1000000000000000000000000000000#128 else z.2 >>> 1)) (0, y)).1

/-- A block as an element of that field. -/
def blockBits (b : List (BitVec 8)) : BitVec 128 := BitVec.ofNat 128 (bigNat b)

/-- Whole blocks of bytes, the last one filled with zeros. -/
def gcmBlocks (bs : List (BitVec 8)) : List (List (BitVec 8)) :=
  (List.range ((bs.length + 15) / 16)).map (fun i =>
    let b := (bs.drop (16 * i)).take 16
    b ++ List.replicate (16 - b.length) 0)

/-- The counter block of an IV. -/
def gcmCounter (iv : BitVec 96) (n : Nat) : List (BitVec 8) := bigBytes 12 iv.toNat ++ bigBytes 4 n

/-- The key stream of AES-256-GCM for n bytes. -/
def gcmBytes (key : BitVec 256) (iv : BitVec 96) (n : Nat) : List (BitVec 8) :=
  let ws := keyWords (bigBytes 32 key.toNat)
  ((List.range ((n + 15) / 16)).flatMap (fun i => aesBlock ws (gcmCounter iv (i + 2)))).take n

/-- The tag of AES-256-GCM over authenticated bytes and a cipher text. -/
def gcmMac (key : BitVec 256) (iv : BitVec 96) (aad text : List (BitVec 8)) : List (BitVec 8) :=
  let ws := keyWords (bigBytes 32 key.toNat)
  let h := blockBits (aesBlock ws (List.replicate 16 0))
  let len := bigBytes 8 (8 * aad.length) ++ bigBytes 8 (8 * text.length)
  let s := (gcmBlocks aad ++ gcmBlocks text ++ [len]).foldl (fun y b => gcmMul (y ^^^ blockBits b) h) 0
  bigBytes 16 (s ^^^ blockBits (aesBlock ws (gcmCounter iv 1))).toNat

/-- The key stream that encrypts a payload (R373). -/
def gcmStream (key : BitVec 256) (iv : BitVec 96) : BitVec 2048 := BitVec.ofNat 2048 (bytesNat (gcmBytes key iv 256))

/-- The 96-bit tag under key, IV, header and encrypted payload (R373). -/
def gcmTag (key : BitVec 256) (iv : BitVec 96) (header : BitVec 64) (payload : BitVec 2048) : BitVec 96 :=
  BitVec.ofNat 96 (bytesNat ((gcmMac key iv (natBytes 8 header.toNat) (natBytes 256 payload.toNat)).take 12))

/-- The round constants of Keccak. -/
def keccakRc : List (BitVec 64) :=
  [0x0000000000000001, 0x0000000000008082, 0x800000000000808A, 0x8000000080008000, 0x000000000000808B, 0x0000000080000001]
  ++ [0x8000000080008081, 0x8000000000008009, 0x000000000000008A, 0x0000000000000088, 0x0000000080008009, 0x000000008000000A]
  ++ [0x000000008000808B, 0x800000000000008B, 0x8000000000008089, 0x8000000000008003, 0x8000000000008002, 0x8000000000000080]
  ++ [0x000000000000800A, 0x800000008000000A, 0x8000000080008081, 0x8000000000008080, 0x0000000080000001, 0x8000000080008008]

/-- The rotations of Keccak, lane x + 5y. -/
def keccakRot : List Nat :=
  [0, 1, 62, 28, 27, 36, 44, 6, 55, 20, 3, 10, 43, 25, 39, 41, 45, 15, 21, 8, 18, 2, 61, 56, 14]

/-- One round of Keccak on 25 lanes. -/
def keccakRound (a : List (BitVec 64)) (rc : BitVec 64) : List (BitVec 64) :=
  let at_ (l : List (BitVec 64)) (x y : Nat) : BitVec 64 := l.getD (x % 5 + 5 * (y % 5)) 0
  let c := (List.range 5).map (fun x => at_ a x 0 ^^^ at_ a x 1 ^^^ at_ a x 2 ^^^ at_ a x 3 ^^^ at_ a x 4)
  let d := (List.range 5).map (fun x => c.getD ((x + 4) % 5) 0 ^^^ rotl64 (c.getD ((x + 1) % 5) 0) 1)
  let t := (List.range 25).map (fun i => rotl64 (a.getD i 0 ^^^ d.getD (i % 5) 0) (keccakRot.getD i 0))
  let b := (List.range 25).map (fun i => at_ t (i % 5 + 3 * (i / 5)) (i % 5))
  let r := (List.range 25).map (fun i => at_ b i (i / 5) ^^^ (~~~(at_ b (i % 5 + 1) (i / 5)) &&& at_ b (i % 5 + 2) (i / 5)))
  r.set 0 (r.getD 0 0 ^^^ rc)

/-- The permutation of Keccak. -/
def keccak (a : List (BitVec 64)) : List (BitVec 64) := keccakRc.foldl keccakRound a

/-- The first n bytes, at most 136, of SHAKE256 of a message (R380). -/
def shake256 (n : Nat) (msg : List (BitVec 8)) : List (BitVec 8) :=
  let pad := 136 - msg.length % 136
  let m := msg ++ (if pad = 1 then [0x9F#8] else 0x1F#8 :: List.replicate (pad - 2) 0 ++ [0x80#8])
  let s := (List.range (m.length / 136)).foldl (fun (a : List (BitVec 64)) i =>
    let blk := (m.drop (136 * i)).take 136
    keccak ((List.range 25).map (fun j => a.getD j 0 ^^^ (if j < 17 then BitVec.ofNat 64 (bytesNat ((blk.drop (8 * j)).take 8)) else 0))))
    (List.replicate 25 0)
  (s.flatMap (fun x => natBytes 8 x.toNat)).take n

end Sys2Proof.Machine
end

