-- ==== Sys2Proof/Machine/Flits.lean ====
section
/-! DEFINITION. Flits of an optical circuit: their layout, encryption and checks, and the two ends of a direction
(15 R371 to R374; 24 R461 to R465). -/

namespace Sys2Proof.Machine

/-- Fields of LINKCFG (Table 24.1). -/
def lcReplayMax (x : BitVec 64) : Nat := bits x.toNat 48 8
def lcAuthMax (x : BitVec 64) : Nat := bits x.toNat 40 8
def lcSetupMax (x : BitVec 64) : Nat := bits x.toNat 16 8
def lcDriftMax (x : BitVec 64) : Nat := bits x.toNat 0 16

/-- Fields of a flit's header (Table 15.3). -/
def flitCtr (f : FlitIn) : Nat := bits f.header.toNat 16 48
def flitSeq (f : FlitIn) : Nat := bits f.header.toNat 4 12
def flitSlot (f : FlitIn) : Bool := bitN f.header.toNat 3
def flitKind (f : FlitIn) : Nat := bits f.header.toNat 0 3

/-- A flit's header (Table 15.3). -/
def flitHeader (ctr seq : Nat) (slot : Bool) (kind : Nat) : BitVec 64 :=
  BitVec.ofNat 64 (ctr % 2 ^ 48 * 2 ^ 16 + seq % 4096 * 16 + b2n slot * 8 + kind % 8)

/-- The bits of a number of n bytes in the order in which the CRC takes them. -/
def crcBits (reflected : Bool) (bs : List (BitVec 8)) : List Bool :=
  bs.flatMap (fun b => (List.range 8).map (fun i => b.getLsbD (if reflected then i else 7 - i)))

/-- CRC-32 with the polynomial of Table 15.3 over bytes (log 30). -/
def crc32 (bs : List (BitVec 8)) : BitVec 32 :=
  let r := (crcBits Config.crcReflected bs).foldl (fun (c : BitVec 32) b =>
    let top := c.getLsbD 31 != b
    if top then (c <<< 1) ^^^ 0x04C11DB7#32 else c <<< 1) Config.crcStart
  r ^^^ Config.crcMask

/-- Bytes 0 to 275 of a flit. -/
def flitBytes (header : BitVec 64) (payload : BitVec 2048) (tag : BitVec 96) : List (BitVec 8) :=
  natBytes 8 header.toNat ++ natBytes 256 payload.toNat ++ natBytes 12 tag.toNat

/-- The 96-bit IV of a flit (R373). -/
def flitIv (salt : BitVec 48) (ctr : Nat) : BitVec 96 := salt ++ BitVec.ofNat 48 ctr

/-- A flit as it is sent: encrypted, authenticated and with its CRC (R373). -/
def sealFlit (key : BitVec 256) (salt : BitVec 48) (ctr seq : Nat) (slot : Bool) (kind : Nat) (text : BitVec 2048) : FlitIn :=
  let h := flitHeader ctr seq slot kind
  let iv := flitIv salt ctr
  let p := text ^^^ gcmStream key iv
  let tag := gcmTag key iv h p
  { header := h, payload := p, tag := tag, crc := crc32 (flitBytes h p tag), codewordOk := true, corrected := false }

/-- A key slot of a direction. -/
def SendDir.key (d : SendDir) (slot : Bool) : Option (BitVec 256) := if slot then d.key1 else d.key0
def SendDir.salt (d : SendDir) (slot : Bool) : BitVec 48 := if slot then d.salt1 else d.salt0
def RecvDir.key (d : RecvDir) (slot : Bool) : Option (BitVec 256) := if slot then d.key1 else d.key0
def RecvDir.salt (d : RecvDir) (slot : Bool) : BitVec 48 := if slot then d.salt1 else d.salt0
def RecvDir.last (d : RecvDir) (slot : Bool) : Option Nat := if slot then d.last1 else d.last0

/-- A slot's key replaced, its salt kept. -/
def SendDir.setKey (d : SendDir) (slot : Bool) (k : Option (BitVec 256)) : SendDir :=
  if slot then { d with key1 := k } else { d with key0 := k }
def RecvDir.setKey (d : RecvDir) (slot : Bool) (k : Option (BitVec 256)) : RecvDir :=
  if slot then { d with key1 := k } else { d with key0 := k }
def RecvDir.setLast (d : RecvDir) (slot : Bool) (n : Option Nat) : RecvDir :=
  if slot then { d with last1 := n } else { d with last0 := n }

/-- The counters that retire a slot and stop a sender (R374). -/
def ctrMarker : Nat := 2 ^ 47
def ctrStop : Nat := 2 ^ 48 - 2 ^ 16

/-- A new flit put into the stream under the current slot (R372, R373). -/
def SendDir.push (d : SendDir) (kind : Nat) (text : BitVec 2048) : SendDir :=
  match d.key d.slot with
  | none => d
  | some k =>
    let f := sealFlit k (d.salt d.slot) d.ctr d.seq d.slot kind text
    { d with unacked := d.unacked ++ [(f, text)]
             wire := d.wire ++ [f]
             ctr := d.ctr + 1, seq := (d.seq + 1) % 4096 }

/-- The key marker, when the counter has reached 2^47 and the other slot holds a key: the sender goes over to
that slot at CTR 0, and the retired slot can be loaded again (R374). -/
def SendDir.turnOver (d : SendDir) : SendDir :=
  if ctrMarker ≤ d.ctr ∧ (d.key (!d.slot)).isSome ∧ (d.key d.slot).isSome ∧ d.unacked.length < 2048 then
    let e := d.push 1 0
    { e.setKey d.slot none with slot := !d.slot, ctr := 0 }
  else d

/-- Whether a sender may send a new flit (R372, R374, R465). -/
def SendDir.open_ (d : SendDir) : Bool := !d.stopped && decide (d.unacked.length < 2048) && (d.key d.slot).isSome && decide (d.ctr < ctrStop)

/-- A new flit: a key marker goes first where one is due (R374). -/
def SendDir.send (d : SendDir) (kind : Nat) (text : BitVec 2048) : SendDir :=
  let d := if d.open_ then d.turnOver else d
  if d.open_ then d.push kind text else d

/-- The flits before a SEQ are acknowledged; a negative acknowledgement has the rest sent again with their stored bytes
(R372). -/
def SendDir.acked (d : SendDir) (seq : Nat) (negative : Bool) : SendDir :=
  let rest := d.unacked.dropWhile (fun f => flitSeq f.1 != seq)
  if rest ≠ [] ∨ seq = d.seq then { d with unacked := rest, wire := if negative then d.wire ++ rest.map (·.1) else d.wire } else d

/-- The unacknowledged flits go out again, over a circuit that was set up or bonded again (R466). -/
def SendDir.resend (d : SendDir) : SendDir := { d with wire := d.unacked.map (·.1) }

/-- The text of an acknowledgement flit: the SEQ expected, and whether it is negative (R372; log 37). -/
def ackText (seq : Nat) (negative : Bool) : BitVec 2048 := BitVec.ofNat 2048 (seq % 4096 + 4096 * b2n negative)

/-- The check that rejects a flit first (R462). -/
inductive FlitCheck where
  | codeword
  | crc
  | order
  | auth
  | passes
deriving DecidableEq, Repr

/-- The four checks of a flit in their order (R372, R373, R462). -/
def judge (d : RecvDir) (f : FlitIn) : FlitCheck :=
  if ¬ f.codewordOk then .codeword
  else if crc32 (flitBytes f.header f.payload f.tag) ≠ f.crc then .crc
  else if (flitSeq f) ≠ d.seq then .order
  else match d.key (flitSlot f) with
    | none => .auth
    | some k =>
      let fresh : Bool := match d.last (flitSlot f) with
        | some n => decide (n < (flitCtr f))
        | none => true
      if fresh ∧ gcmTag k (flitIv (d.salt (flitSlot f)) (flitCtr f)) f.header f.payload = f.tag then .passes else .auth

/-- A rejected flit: the first rejection, and each of the flit expected, returns a negative acknowledgement; only
rejections of the expected SEQ count towards REPLAYMAX (R372, R462; log 37). -/
def RecvDir.reject (d : RecvDir) (f : FlitIn) : RecvDir :=
  { d with nakSent := true, nakOwed := d.nakOwed || !d.nakSent || flitSeq f == d.seq
           rejects := if (flitSeq f) = d.seq then d.rejects + 1 else d.rejects }

/-- What a flit that passes says, decrypted (R373). -/
def RecvDir.text? (d : RecvDir) (f : FlitIn) : BitVec 2048 :=
  f.payload ^^^ gcmStream ((d.key (flitSlot f)).getD 0) (flitIv (d.salt (flitSlot f)) (flitCtr f))

/-- A flit accepted: its payload is delivered, or for a key marker its slot is erased (R372, R374). -/
def RecvDir.accept (d : RecvDir) (f : FlitIn) : RecvDir :=
  let text := d.text? f
  let e := { d.setLast (flitSlot f) (some (flitCtr f)) with
    seq := (d.seq + 1) % 4096, nakSent := false, nakOwed := false, rejects := 0, authFails := 0, rekeyed := false
    delivered := d.delivered + 1, ackOwed := d.ackOwed || flitKind f != 2 }
  if (flitKind f) = 1 then e.setKey (flitSlot f) none else if (flitKind f) = 0 then { e with text := some text } else e

/-- Unacknowledged flits encrypted again under slot 0 from CTR 0, in SEQ order (R464). -/
def resealAll (key : BitVec 256) (salt : BitVec 48) : Nat → List (FlitIn × BitVec 2048) → List (FlitIn × BitVec 2048)
  | _, [] => []
  | ctr, f :: r => (sealFlit key salt ctr (flitSeq f.1) false (flitKind f.1) f.2, f.2) :: resealAll key salt (ctr + 1) r

/-- A direction of a new circuit. -/
def SendDir.init : SendDir :=
  { key0 := none, key1 := none, salt0 := 0, salt1 := 0, slot := false, ctr := 0, seq := 0, unacked := [], wire := [], stopped := false }
def RecvDir.init : RecvDir :=
  { key0 := none, key1 := none, salt0 := 0, salt1 := 0, last0 := none, last1 := none, seq := 0, nakSent := false, nakOwed := false, ackOwed := false, rejects := 0
    authFails := 0, rekeyed := false, delivered := 0, text := none }

/-- Whether an established circuit leads to a package (R369). -/
def Circuit.leads (pkg : Nat) (c : Circuit) : Bool := c.far.toNat == pkg && c.state == .up

/-- Whether a circuit to a package can take a new flit now (R372). -/
def State.canSend (s : State) (pkg : Nat) : Bool := s.circuits.any (fun c => c.leads pkg && c.tx.open_)

/-- A data flit over a circuit to a package, which is idle no more (R369, R371). -/
def sendData (pkg : Nat) (text : BitVec 2048) (s : State) : State :=
  { s with circuits := modFirst (fun c => c.leads pkg && c.tx.open_) (fun c => { c with tx := c.tx.send 0 text, idle := 0 }) s.circuits }

/-- The payload of a message whose layout the manual does not give: free bytes (log 17). -/
def sendFree (pkg : Nat) (s : State) : State :=
  sendData pkg (BitVec.ofNat 2048 (bytesNat (freeBytesAt s.free 256))) { s with free := s.free + 256 }

end Sys2Proof.Machine
end

