-- ==== Sys2Proof/Machine/Flags.lean ====
section
/-! DEFINITION. The sticky floating-point flags (Table 03.8), the fault codes (Table 20.5), and the
INFO values of traps (Table 21.5, Table 21.6). -/

namespace Sys2Proof.Machine

/-- The flags one operation raises (Table 03.8). -/
structure FlagSet where
  nv : Bool
  dz : Bool
  of : Bool
  uf : Bool
  nx : Bool
  sat : Bool
deriving DecidableEq, Repr

/-- No flag raised. -/
def FlagSet.none : FlagSet := ⟨false, false, false, false, false, false⟩

/-- Invalid operation. -/
def FlagSet.onlyNv : FlagSet := { FlagSet.none with nv := true }

/-- Division by zero. -/
def FlagSet.onlyDz : FlagSet := { FlagSet.none with dz := true }

/-- An integer saturated. -/
def FlagSet.onlySat : FlagSet := { FlagSet.none with sat := true }

/-- Flags raised by either of two operations. -/
def FlagSet.or (a b : FlagSet) : FlagSet :=
  ⟨a.nv || b.nv, a.dz || b.dz, a.of || b.of, a.uf || b.uf, a.nx || b.nx, a.sat || b.sat⟩

/-- The flags in their places of FFLAGS (Table 03.8). -/
def FlagSet.bits (f : FlagSet) : BitVec 64 :=
  BitVec.ofNat 64 (b2n f.nv + 2 * b2n f.dz + 4 * b2n f.of + 8 * b2n f.uf + 16 * b2n f.nx + 32 * b2n f.sat)

/-- FFLAGS after an operation: the flags are sticky. -/
def raiseFlags (old : BitVec 64) (f : FlagSet) : BitVec 64 := old ||| f.bits

/-- A write to W1C bits: each 1 written clears that bit (R8). -/
def writeOneClear (old w mask : BitVec 64) : BitVec 64 := old &&& ~~~(w &&& mask)

def fcIllegalOpcode : BitVec 8 := 0x01
def fcIllegalOperand : BitVec 8 := 0x02
def fcIllegalEncoding : BitVec 8 := 0x03
def fcBranchTarget : BitVec 8 := 0x04
def fcSoftwareTrap : BitVec 8 := 0x05
def fcBreakpoint : BitVec 8 := 0x06
def fcWindowInvalid : BitVec 8 := 0x08
def fcWindowBound : BitVec 8 := 0x09
def fcWindowRights : BitVec 8 := 0x0A
def fcMisaligned : BitVec 8 := 0x0B
def fcLsBound : BitVec 8 := 0x0C
def fcLsRegion : BitVec 8 := 0x0D
def fcLsConflict : BitVec 8 := 0x0E
def fcObjectKind : BitVec 8 := 0x10
def fcObjectRights : BitVec 8 := 0x11
def fcShapeBound : BitVec 8 := 0x12
def fcTileMode : BitVec 8 := 0x14
def fcFormatUnderflow : BitVec 8 := 0x15
def fcRingMisuse : BitVec 8 := 0x16
def fcSketchMismatch : BitVec 8 := 0x17
def fcSemOverflow : BitVec 8 := 0x18
def fcGuardMisuse : BitVec 8 := 0x19
def fcGroupMisuse : BitVec 8 := 0x1A
def fcGroupMismatch : BitVec 8 := 0x1B
def fcMemberLost : BitVec 8 := 0x1C
def fcRankVacant : BitVec 8 := 0x1D
def fcDeadlock : BitVec 8 := 0x1E
def fcSigMismatch : BitVec 8 := 0x1F
def fcPageFault : BitVec 8 := 0x20
def fcPkgAbsent : BitVec 8 := 0x21
def fcSidelogFull : BitVec 8 := 0x22
def fcAperture : BitVec 8 := 0x23
def fcPreemptFail : BitVec 8 := 0x24
def fcSlipLimit : BitVec 8 := 0x25
def fcDataPoison : BitVec 8 := 0x28
def fcEccCorrected : BitVec 8 := 0x29
def fcEccUncorrected : BitVec 8 := 0x2A
def fcLinkReplay : BitVec 8 := 0x30
def fcAuthFail : BitVec 8 := 0x31
def fcCircuitFail : BitVec 8 := 0x32
def fcCtrExhaust : BitVec 8 := 0x33
def fcMcuWatchdog : BitVec 8 := 0x34
def fcDieLink : BitVec 8 := 0x35
def fcDrift : BitVec 8 := 0x36
def fcHostError : BitVec 8 := 0x38
def fcSpeedFloor : BitVec 8 := 0x3C

/-- ILLEGAL_OPERAND's INFO for a field code alone (Table 21.5, Table 21.6). -/
def fieldInfo (code : Nat) : BitVec 32 := BitVec.ofNat 32 code

/-- ILLEGAL_OPERAND's INFO for a value that failed: field code 0x10 and the operand (Table 21.5). -/
def valueInfo (operand : Nat) : BitVec 32 := BitVec.ofNat 32 (0x10 + 256 * operand)

/-- RING_MISUSE's INFO (Table 21.5). -/
def ringInfo (ring reason : Nat) : BitVec 32 := BitVec.ofNat 32 (ring + 256 * reason)

/-- GROUP_MISUSE's INFO (Table 21.5). -/
def groupInfo (rank reason : Nat) : BitVec 32 := BitVec.ofNat 32 (rank % 65536 + 65536 * reason)

/-- TILE_MODE's INFO (Table 21.5). -/
def tileInfo (tile held required : Nat) : BitVec 32 := BitVec.ofNat 32 (tile + 4 * held + 16 * required)

end Sys2Proof.Machine
end

