-- ==== Sys2Proof/Machine/Tasks.lean ====
section
/-! DEFINITION. Access to tasks, streams, semaphores, queues and events of a state. -/

namespace Sys2Proof.Machine

/-- A task's stream. -/
def Task.strm (t : Task) : Stream → Strm
  | .c => t.c
  | .a => t.a
  | .x => t.x
  | .s => t.s

/-- A task with one stream replaced. -/
def Task.setStrm (t : Task) (st : Stream) (r : Strm) : Task :=
  match st with
  | .c => { t with c := r }
  | .a => { t with a := r }
  | .x => { t with x := r }
  | .s => { t with s := r }

/-- The number of a stream: C 0, A 1, X 2, S 3 (R62). -/
def streamNum : Stream → Nat
  | .c => 0
  | .a => 1
  | .x => 2
  | .s => 3

/-- The four streams in the order C, A, X, S (R39). -/
def allStreams : List Stream := [.c, .a, .x, .s]

/-- The stream whose turn it is, of the task on the core modelled. -/
def State.strm (s : State) : Strm := s.task.strm s.cur

/-- The state with the current stream changed. -/
def modStrm (f : Strm → Strm) (s : State) : State :=
  { s with task := s.task.setStrm s.cur (f s.strm) }

/-- The state with the current task changed. -/
def modCur (f : Task → Task) (s : State) : State := { s with task := f s.task }

/-- The tasks of a package. -/
def Pack.tasks (p : Pack) : List Task := if p.task.status = .vacant then p.others else p.task :: p.others

/-- A package's number: PKGNUM.NUM, or 0 while PKGNUM.V is clear (R368). -/
def Pack.pkg (p : Pack) : Nat := if p.pkgnum.getLsbD 11 then p.pkgnum.toNat % 2048 else 0

/-- The packages that are modelled, this one first. -/
def State.packs (s : State) : List Pack := s.toPack :: s.peers

/-- Every package changed. -/
def mapPacks (f : Pack → Pack) (s : State) : State := { s with toPack := f s.toPack, peers := s.peers.map f }

/-- This package and the i-th other one change places. -/
def swapPack (i : Nat) (s : State) : State :=
  match s.peers[i]? with
  | some p => { s with toPack := p, peers := s.peers.set i s.toPack }
  | none => s

/-- What an operation does at the package a condition names; at this one where it names none. -/
def atPack (c : Pack → Bool) (f : State → State) (s : State) : State :=
  if c s.toPack then f s
  else match s.peers.findIdx? c with
    | some i => swapPack i (f (swapPack i s))
    | none => f s

/-- Whether a package is the numbered one of a number. -/
def Pack.isPkg (n : Nat) (p : Pack) : Bool := p.pkgnum.getLsbD 11 && p.pkgnum.toNat % 2048 == n

/-- Whether another package of a number is modelled. -/
def State.hasPeer (s : State) (n : Nat) : Bool := n != s.pkg && s.peers.any (Pack.isPkg n)

/-- A task of this package, by its number. -/
def ownTask? (s : State) (tid : Nat) : Option Task :=
  if s.task.tid = tid ∧ s.task.status ≠ .vacant then some s.task
  else s.others.find? (fun t => t.tid = tid)

/-- A task that exists, by its number, on whichever package. -/
def getTask? (s : State) (tid : Nat) : Option Task :=
  (ownTask? s tid).or (s.peers.findSome? (fun p => p.tasks.find? (fun t => t.tid = tid)))

/-- Every task of this package. -/
def allTasks (s : State) : List Task :=
  if s.task.status = .vacant then s.others else s.task :: s.others

/-- Every task of every package. -/
def everyTask (s : State) : List Task := allTasks s ++ s.peers.flatMap Pack.tasks

/-- Whether a package has a task. -/
def Pack.hasTask (tid : Nat) (p : Pack) : Bool := p.tasks.any (fun t => t.tid == tid)

/-- A package with one task changed; a number that names none changes nothing. -/
def Pack.modTask (tid : Nat) (f : Task → Task) (p : Pack) : Pack :=
  if p.task.tid = tid ∧ p.task.status ≠ .vacant then { p with task := f p.task }
  else { p with others := modFirst (fun t => t.tid = tid) f p.others }

/-- The state with one task changed, on whichever package it is; a number that names none changes nothing. -/
def modTask (tid : Nat) (f : Task → Task) (s : State) : State :=
  if s.task.tid = tid ∧ s.task.status ≠ .vacant then { s with task := f s.task }
  else { s with others := modFirst (fun t => t.tid = tid) f s.others
                peers := s.peers.map (Pack.modTask tid f) }

/-- What an operation does at the package of a task. -/
def atTask (tid : Nat) (f : State → State) (s : State) : State := atPack (Pack.hasTask tid) f s

/-- The package that has a task; this one where none has it. -/
def State.pkgOf (s : State) (tid : Nat) : Nat := ((s.packs.find? (Pack.hasTask tid)).map Pack.pkg).getD s.pkg

/-- What an operation does with a task of this package in front. -/
def withFront (tid : Nat) (f : State → State) (s : State) : State :=
  if s.task.tid = tid ∧ s.task.status ≠ .vacant then f s
  else match s.others.find? (fun t => t.tid == tid) with
    | none => s
    | some t =>
      let i := s.others.findIdx (fun t => t.tid == tid)
      if s.task.status = .vacant then
        let s' := f { s with task := t, others := s.others.eraseIdx i }
        { s' with task := s.task, others := s'.others.insertIdx i s'.task }
      else
        let s' := f { s with task := t, others := s.others.set i s.task }
        { s' with task := (s'.others.find? (fun u => u.tid == s.task.tid)).getD s.task
                  others := modFirst (fun u => u.tid == s.task.tid) (fun _ => s'.task) s'.others }

/-- What an operation does as a stream of a task, whichever package it is on. -/
def asTask (tid : Nat) (st : Stream) (f : State → State) (s : State) : State :=
  atTask tid (withFront tid (fun s => { f { s with cur := st } with cur := s.cur })) s

/-- The task resident on a core. -/
def residentOn (s : State) (core : Nat) : Option Task :=
  (allTasks s).find? (fun t => t.core = core && t.status == .resident)

/-- The live core positions in ascending order: logical core n stands at the n-th (R14, R378). -/
def Fuses.positions (f : Fuses) : List Nat := (List.range 192).filter (fun i => f.live.getLsbD i)

/-- The live cores of a package. -/
def Fuses.liveCount (f : Fuses) : Nat := f.positions.length

/-- The die of a logical core: 24 core positions a die (R13, R378). -/
def State.dieOf (s : State) (core : Nat) : Nat := s.fuses.positions.getD core core / 24 % 8

/-- Register g n of the current stream; g0 reads as zero (R50). -/
def State.readG (s : State) (n : Fin 32) : BitVec 64 := if n = 0 then 0 else s.strm.g[n]

/-- A write to g n; a write to g0 is discarded (R50). -/
def writeG (n : Fin 32) (v : BitVec 64) (s : State) : State :=
  if n = 0 then s else modStrm (fun r => { r with g := r.g.set n v }) s

/-- Predicate p n of the current stream; p0 reads as all ones (R51). -/
def State.readP (s : State) (n : Fin 8) : BitVec 64 := if n = 0 then BitVec.allOnes 64 else s.strm.p[n]

/-- A write to p n; a write to p0 is discarded (R51). -/
def writeP (n : Fin 8) (v : BitVec 64) (s : State) : State :=
  if n = 0 then s else modStrm (fun r => { r with p := r.p.set n v }) s

/-- Vector register v n. -/
def State.readV (s : State) (n : Fin 32) : BitVec 2048 := s.task.v[n]

/-- A write to v n. -/
def writeV (n : Fin 32) (v : BitVec 2048) (s : State) : State :=
  modCur (fun t => { t with v := t.v.set n v }) s

/-- The value of a special operand (Table 03.3). -/
def State.special (s : State) : Special → BitVec 64
  | .tile => s.task.tile
  | .core => BitVec.ofNat 64 s.task.core
  | .tick => BitVec.ofNat 64 s.tick
  | .speed => s.task.speed
  | .step => s.task.step
  | .patch => s.task.patch
  | .taskid => s.task.taskid
  | .node => BitVec.ofNat 64 (s.task.slot % 64 * 4096 + s.task.node % 4096)

/-- Flags raised in the current stream (R76, Table 03.8). -/
def raiseS (f : FlagSet) (s : State) : State :=
  modStrm (fun r => { r with fflags := raiseFlags r.fflags f }) s

/-- The queue's capacity (Table 02.2). -/
def queueDepth (q : Nat) : Nat :=
  if q < 9 then 16 else if q < 14 then 8 else if q = 14 then 16 else 64

/-- The source stream of a queue (Table 02.2); none for q15. -/
def queueSource (q : Nat) : Option Stream :=
  match q with
  | 0 | 1 | 2 | 14 => some .c
  | 3 | 4 | 5 | 12 => some .a
  | 6 | 7 | 9 | 13 => some .x
  | 8 | 10 | 11 => some .s
  | _ => none

/-- The destination stream of a queue (Table 02.2). -/
def queueDest (q : Nat) : Stream :=
  match q with
  | 0 | 9 | 10 => .a
  | 1 | 4 | 11 | 12 | 14 => .x
  | 2 | 5 | 7 | 13 => .s
  | _ => .c

/-- The elements of a scalar queue q0 to q11 or q14. -/
def Task.scalarQ (t : Task) (q : Nat) : List (BitVec 64) :=
  if h : q < 12 then t.qs[q] else if q = 14 then t.q14 else []

/-- A scalar queue replaced. -/
def Task.setScalarQ (t : Task) (q : Nat) (l : List (BitVec 64)) : Task :=
  if h : q < 12 then { t with qs := t.qs.set q l } else if q = 14 then { t with q14 := l } else t

/-- How many elements of a queue can be popped (R33, R176). -/
def Task.queueCount (t : Task) (q : Nat) : Nat :=
  if q = 12 then t.q12.length else if q = 13 then t.q13.length
  else if q = 15 then t.q15.length else (t.scalarQ q).length

/-- Entries reserved by outstanding RLD and RLDV, and values that stand behind them (R33, R207). -/
def Task.queueReserved (t : Task) (q : Nat) : Nat := (t.rlds.filter (fun r => r.q == q)).length

/-- Acknowledgement words that wait for q8 take no entry; a queue is full when its elements and its
reserved entries fill its depth (R33). -/
def Task.queueFull (t : Task) (q : Nat) : Bool :=
  queueDepth q ≤ t.queueCount q + t.queueReserved q

/-- Something is applied or delivered to a task: its stall interval restarts (R452). -/
def Task.deliver (t : Task) : Task := { t with stallTicks := 0, stallDone := false }

/-- An element put at the end of a queue: 64 bits, or 2,048 for q12 and q13. -/
def Task.appendQ (t : Task) (q : Nat) (v : BitVec 2048) : Task :=
  if q = 12 then { t with q12 := t.q12 ++ [v] }
  else if q = 13 then { t with q13 := t.q13 ++ [v] }
  else t.setScalarQ q (t.scalarQ q ++ [v.setWidth 64])

/-- A push: its element enters the queue behind every entry that an RLD or RLDV reserved before it (R207). -/
def Task.pushQ (t0 : Task) (q : Nat) (v : BitVec 2048) : Task :=
  let t := t0.deliver
  if t.rlds.any (fun r => r.q == q) then { t with rlds := t.rlds ++ [⟨q, v, true, false⟩] }
  else t.appendQ q v

/-- The entries of a queue that have their values, up to the first that waits for its reply, enter the queue. -/
def Task.settleRlds (q : Nat) : List Rld → Task → Task
  | [], t => { t with rlds := [] }
  | r :: rest, t =>
    if r.q ≠ q then
      let t' := Task.settleRlds q rest t
      { t' with rlds := r :: t'.rlds }
    else if r.ready then Task.settleRlds q rest (t.appendQ q r.val)
    else { t with rlds := r :: rest }

/-- The reply of the oldest outstanding RLD or RLDV arrives (R207). -/
def Task.replyRld (t : Task) : Task :=
  match t.rlds.find? (fun r => !r.ready) with
  | some r =>
    let rlds := modFirst (fun x => !x.ready) (fun x => { x with ready := true, off := false }) t.rlds
    Task.settleRlds r.q rlds t.deliver
  | none => t

/-- The head of a queue (zero when empty: popping checks first). -/
def Task.headQ (t : Task) (q : Nat) : BitVec 2048 :=
  if q = 12 then t.q12.headD 0
  else if q = 13 then t.q13.headD 0
  else ((t.scalarQ q).headD 0).setWidth 2048

/-- A queue without its head. -/
def Task.dropQ (t : Task) (q : Nat) : Task :=
  if q = 12 then { t with q12 := t.q12.tail }
  else if q = 13 then { t with q13 := t.q13.tail }
  else t.setScalarQ q (t.scalarQ q).tail

/-- An event's low half (Table 02.3). -/
def eventLow (tag source status kind : Nat) : Nat :=
  kind % 256 + 256 * (status % 256) + 2 ^ 16 * (source % 65536) + 2 ^ 32 * (tag % 2 ^ 32)

/-- A 128-bit event from its halves. -/
def eventOf (low high : Nat) : BitVec 128 := BitVec.ofNat 128 (low + 2 ^ 64 * (high % 2 ^ 64))

/-- Whether EVMASK suppresses an event kind (R36, R203). -/
def Task.suppressed (t : Task) (kind : Nat) : Bool :=
  (kind == 1 && t.evmask.getLsbD 0) || (kind == 2 && t.evmask.getLsbD 1) || (kind == 8 && t.evmask.getLsbD 2)

/-- An event of a unit for a task: delivered, held by the unit while q15 is full, or suppressed (R36).  A delivery
restarts the stall interval (R452). -/
def Task.pushEvent (t : Task) (g : EventSource) (e : BitVec 128) : Task :=
  if t.suppressed (e.toNat % 256) then t
  else if t.q15.length < 64 ∧ t.heldEvents = [] then
    { t with q15 := t.q15 ++ [e], stallTicks := 0, stallDone := false }
  else { t with heldEvents := t.heldEvents ++ [(g, e)] }

/-- An event of a unit for a task by number. -/
def pushEventTo (tid : Nat) (g : EventSource) (e : BitVec 128) (s : State) : State :=
  modTask tid (fun t => t.pushEvent g e) s

/-- A signal on a task's file that does not overflow (R37); none when it would pass 2^32 - 1 (R39). -/
def Task.signal? (t : Task) (k : BitVec 8) (inc : Nat) : Option Task :=
  let v := (t.k[k.toNat]'(k.isLt)).toNat + inc
  if v < 2 ^ 32 then
    some { t with k := t.k.set k.toNat (BitVec.ofNat 32 v) (k.isLt), stallTicks := 0, stallDone := false }
  else none

/-- The value of a semaphore. -/
def Task.sem (t : Task) (k : BitVec 8) : Nat := (t.k[k.toNat]'(k.isLt)).toNat

/-- Whether a wait is satisfied (R37). -/
def Task.semReady (t : Task) (w : SemWait) : Bool := w.granted || w.thr ≤ t.sem w.k

/-- A satisfied wait served: a consuming wait subtracts its threshold (R37). -/
def Task.serve (t : Task) (w : SemWait) : Task :=
  if w.consume ∧ ¬ w.granted then
    { t with k := t.k.set w.k.toNat (BitVec.ofNat 32 (t.sem w.k - w.thr)) (w.k.isLt) }
  else t

/-- A wait field: none for WMODE 0b00 (Table 02.4). -/
def waitOf (wmode : BitVec 2) (wsem : BitVec 8) (wthr : BitVec 16) : Option SemWait :=
  if wmode = 1#2 then some ⟨wsem, wthr.toNat, false, false⟩
  else if wmode = 2#2 then some ⟨wsem, wthr.toNat, true, false⟩
  else none

end Sys2Proof.Machine
end

