-- ==== Sys2Proof/Machine/Waits.lean ====
section
/-! DEFINITION. Serving the waiters of a semaphore in their order, and a signal with what it wakes
(02 R37 to R41). -/

namespace Sys2Proof.Machine

/-- A wait served against a counter's value, if it is satisfied: the wait granted, and what is left. -/
def SemWait.grant (k : BitVec 8) (w : SemWait) (v : Nat) : SemWait × Nat :=
  if w.k = k ∧ ¬ w.granted ∧ w.thr ≤ v then
    ({ w with granted := true }, if w.consume then v - w.thr else v)
  else (w, v)

/-- The same for a wait that may be absent. -/
def grantOpt (k : BitVec 8) (w : Option SemWait) (v : Nat) : Option SemWait × Nat :=
  match w with
  | some w => ((w.grant k v).1, (w.grant k v).2)
  | none => (none, v)

/-- The waits of a task's own streams, in the order C, A, X, S (R39). -/
def Task.grantStreams (t : Task) (k : BitVec 8) : Task × Nat :=
  allStreams.foldl (fun (x : Task × Nat) st =>
    let r := x.1.strm st
    if r.wait = some .sem then
      let g := grantOpt k r.semw x.2
      (x.1.setStrm st { r with semw := g.1 }, g.2)
    else x) (t, t.sem k)

/-- The wait of the job at the head of an idle channel (wait channel n). -/
def Chan.grant (c : Chan) (tid : Nat) (k : BitVec 8) (v : Nat) : Chan × Nat :=
  match c.run, c.queue with
  | none, j :: js =>
    if j.tid = some tid then
      let g := grantOpt k j.wait v
      ({ c with queue := { j with wait := g.1 } :: js }, g.2)
    else (c, v)
  | _, _ => (c, v)

/-- The wait of a Lighter's program, at its head or at a WWAIT (wait channel 32 + n). -/
def Lighter.grant (c : Lighter) (tid : Nat) (k : BitVec 8) (v : Nat) : Lighter × Nat :=
  match c.run, c.queue with
  | some r, _ =>
    if r.prog.tid = tid then
      let g := grantOpt k r.semw v
      ({ c with run := some { r with semw := g.1 } }, g.2)
    else (c, v)
  | none, p :: ps =>
    if p.tid = tid then
      let g := grantOpt k p.wait v
      ({ c with queue := { p with wait := g.1 } :: ps }, g.2)
    else (c, v)
  | none, [] => (c, v)

/-- Every Damask collective; one is kept by the package that keeps its group. -/
def State.collectives (s : State) : List DColl := s.packs.flatMap (fun p => p.damask)

/-- A collective by its key. -/
def getColl? (s : State) (key : CollKey) : Option DColl := s.collectives.find? (fun c => c.key == key)

/-- A collective changed. -/
def modColl (key : CollKey) (f : DColl → DColl) (s : State) : State :=
  mapPacks (fun p => { p with damask := modFirst (fun c => c.key == key) f p.damask }) s

/-- A member of a collective changed. -/
def modMember (key : CollKey) (tid : Nat) (f : DMember → DMember) (s : State) : State :=
  modColl key (fun c => { c with members := modFirst (fun m => m.tid == tid && !m.done) f c.members }) s

/-- The memberships of a task that have not started, in the order in which their waits began (R39). -/
def damaskWaits (s : State) (tid : Nat) : List (CollKey × DMember) :=
  (s.collectives.flatMap (fun c => (c.members.filter (fun m => m.tid == tid && !m.started && !m.done)).map (fun m => (c.key, m)))).mergeSort
    (fun x y => x.2.since ≤ y.2.since)

/-- The waits of a task's Damask memberships (wait channel 65). -/
def grantDamask (tid : Nat) (k : BitVec 8) (s : State) (v : Nat) : State × Nat :=
  (damaskWaits s tid).foldl (fun (x : State × Nat) (y : CollKey × DMember) =>
    let g := grantOpt k y.2.wait x.2
    (modMember y.1 tid (fun m => { m with wait := g.1 }) x.1, g.2)) (s, v)

/-- The waits of a task's arrivals of one kind, in the order in which they began (wait channels 66 to 68). -/
def grantArrivals (kind : CollKind) (k : BitVec 8) : List SendC → Nat → List SendC × Nat
  | [], v => ([], v)
  | .arrival p :: ps, v =>
    let g := if p.kind = kind then grantOpt k p.wait v else (p.wait, v)
    let r := grantArrivals kind k ps g.2
    (.arrival { p with wait := g.1 } :: r.1, r.2)
  | x :: ps, v =>
    let r := grantArrivals kind k ps v
    (x :: r.1, r.2)

/-- The waiters on one semaphore of a resident task of this package, served in the order of R39.  A task that is
not resident has its waits evaluated on resumption (R41). -/
def serveHere (tid : Nat) (k : BitVec 8) (s : State) : State :=
  match getTask? s tid with
  | none => s
  | some t =>
    if t.status ≠ .resident then s
    else
      let a := t.grantStreams k
      let b := (List.finRange 32).foldl (fun (x : Vector Chan 32 × Nat) (n : Fin 32) =>
        let g := x.1[n].grant tid k x.2
        (x.1.set n g.1, g.2)) (s.chans, a.2)
      let c := (List.finRange 32).foldl (fun (x : Vector Lighter 32 × Nat) (n : Fin 32) =>
        let g := x.1[n].grant tid k x.2
        (x.1.set n g.1, g.2)) (s.lighters, b.2)
      let j := match a.1.block with
        | some bl => let g := grantOpt k bl.semw c.2; (some { bl with semw := g.1 }, g.2)
        | none => (none, c.2)
      let d := grantDamask tid k { s with chans := b.1, lighters := c.1 } j.2
      let e1 := grantArrivals .bar k a.1.sendC d.2
      let e2 := grantArrivals .red k e1.1 e1.2
      let e3 := grantArrivals .bcast k e2.1 e2.2
      let t := { a.1 with
        block := j.1
        sendC := e3.1
        k := a.1.k.set k.toNat (BitVec.ofNat 32 e3.2) (k.isLt) }
      modTask tid (fun _ => t) d.1

/-- The waiters on one semaphore of a task, on whichever package it is. -/
def serveWaiters (tid : Nat) (k : BitVec 8) (s : State) : State := atTask tid (serveHere tid k) s

/-- A signal to a task's file and the waiters it serves; none when the counter would pass 2^32 - 1, which
leaves it as it was (R37, R39). -/
def signalTask (tid : Nat) (k : BitVec 8) (inc : Nat) (s : State) : Option State :=
  match getTask? s tid with
  | none => some s
  | some t =>
    match t.signal? k inc with
    | some t' => some (serveWaiters tid k (modTask tid (fun _ => t') s))
    | none => none

/-- What a held word popped goes back to the heads of its queues (R33, R47, R157). -/
def Task.unpop (l : List (Option Nat × BitVec 64)) (t : Task) : Task :=
  l.foldr (fun x t => match x.1 with
    | some q => t.setScalarQ q (x.2 :: t.scalarQ q)
    | none => t) t

/-- A word that traps after it was held gives back the threshold its consuming wait took and the elements it popped
(R157, R422). -/
def refundWait (s : State) : State :=
  let s := match s.strm.srcs with
    | some l => modStrm (fun r => { r with srcs := none }) (modCur (fun t => t.unpop l) s)
    | none => s
  match s.strm.semw with
  | some w =>
    if w.granted ∧ w.consume then
      modStrm (fun r => { r with semw := none })
        (modCur (fun t => { t with k := t.k.set w.k.toNat (BitVec.ofNat 32 (t.sem w.k + w.thr)) (w.k.isLt) }) s)
    else s
  | none => s

end Sys2Proof.Machine
end

