-- ==== Sys2Proof/Machine/Records.lean ====
section
/-! DEFINITION. Error records and the controller that holds them (spec 20, R406 to R408). -/

namespace Sys2Proof.Machine

/-- What goes into an error record (Table 20.4). -/
structure RecIn where
  code   : BitVec 8
  sev    : Nat
  mkind  : Nat
  stream : Nat := 7
  also   : BitVec 4 := 0
  kept   : Bool := false
  op     : BitVec 8 := 0
  unit   : Nat := 0
  core   : Nat := 0xFF
  die    : Nat := 0
  taskid : BitVec 64 := 0
  step   : BitVec 64 := 0
  node   : Nat := 0
  addr   : BitVec 64 := 0
  tag    : Nat := 0
  info   : BitVec 32 := 0
  pc     : BitVec 64 := 0
deriving DecidableEq, Repr

/-- The 512 bits of a record (Table 20.4). -/
def recordBits (s : State) (r : RecIn) : BitVec 512 :=
  let w0 := r.code.toNat + 2 ^ 8 * (r.mkind % 16) + 2 ^ 12 * (r.sev % 16) + 2 ^ 16 * (r.stream % 8)
    + 2 ^ 19 * b2n r.kept + 2 ^ 20 * r.also.toNat + 2 ^ 24 * r.op.toNat + 2 ^ 32 * s.errSeq.toNat
  let w2 := s.pkg + 2 ^ 11 * (r.die % 8) + 2 ^ 14 * (r.core % 256) + 2 ^ 22 * (r.unit % 32)
  let w4 := r.node % 2 ^ 18 + 2 ^ 32 * (r.step.toNat % 2 ^ 32)
  let w6 := r.info.toNat + 2 ^ 32 * (r.tag % 2 ^ 32)
  BitVec.ofNat 512 (packElems 64 [w0, s.tick, w2, r.taskid.toNat, w4, r.addr.toNat, w6, r.pc.toNat])

/-- SEV of a record. -/
def recordSev (r : BitVec 512) : Nat := bits r.toNat 12 4

/-- Drops counted by ERRLOST (R408). -/
def countLost (s : State) : State := { s with errLost := s.errLost + 1 }

/-- A record handed to the controller: SEQ numbers it; with 256 held, a SEV 0 record is dropped and
another replaces the oldest SEV 0 one (R408).  SEV 3 stops the package (R411, R472). -/
def addRecord (r : RecIn) (s0 : State) : State :=
  let b := recordBits s0 r
  let s := { s0 with errSeq := s0.errSeq + 1 }
  let s := if 3 ≤ r.sev then { s with stopped := true, aer := s.aer ++ [.internal] } else s
  if s.errHeld.length < 256 then { s with errHeld := s.errHeld ++ [b] }
  else if r.sev = 0 then countLost s
  else
    match s.errHeld.findIdx? (fun x => recordSev x == 0) with
    | some i => countLost { s with errHeld := s.errHeld.eraseIdx i ++ [b] }
    | none => countLost s

/-- The fields of a record that name a task (Table 20.4). -/
def ofTask (s : State) (t : Task) (r : RecIn) : RecIn :=
  { r with core := t.core, die := s.dieOf t.core, taskid := t.taskid, step := t.step
           node := t.slot % 64 * 4096 + t.node % 4096 }

/-- A record about a task, by its own package's controller, if it exists. -/
def addTaskRecord (tid : Nat) (r : RecIn) (s : State) : State :=
  atTask tid (fun s => match ownTask? s tid with
    | some t => addRecord (ofTask s t r) s
    | none => addRecord r s) s

/-- Who signals, as an error record names it (R429). -/
structure Signaller where
  mkind : Nat
  unit  : Nat
  addr  : BitVec 64 := 0
  rank  : Nat := 0xFFFFFFFF
  stream : Nat := 7
deriving DecidableEq, Repr

/-- A signal applied after its instruction has retired (R429): on overflow it is not applied and a
record against the sender is written. -/
def agentSignal (g : Signaller) (src dst : Nat) (k : BitVec 8) (inc : Nat) (s : State) : State :=
  match signalTask dst k inc s with
  | some s' => s'
  | none => addTaskRecord src
      { code := fcSemOverflow, sev := 1, mkind := g.mkind, unit := g.unit, addr := g.addr, tag := g.rank, stream := g.stream
        info := BitVec.ofNat 32 k.toNat } s

/-- One engine job of a task fewer (R23). -/
def Task.endJob (t : Task) : Task := { t with jobs := t.jobs - 1 }

end Sys2Proof.Machine
end

