-- ==== Sys2Proof/Machine/Context.lean ====
section
/-! DEFINITION. Context areas: the pool, what a saved or frozen task's area holds in memory, and its restoration
(02 R48, R49, Table 02.5; 03 R54; 23 R458; log 12). -/

namespace Sys2Proof.Machine

/-- Bytes of a context area: 1,704 KiB (R48). -/
def areaBytes : Nat := 1704 * 1024

/-- The key of the first byte of a context area: the pool lies at stack-physical addresses (R107; log 12). -/
def State.areaKey (s : State) (n : Nat) : Nat := (s.ctxBase + n * areaBytes) % 2 ^ 39

/-- The IA that names a context area (Table 20.3; log 12). -/
def State.areaIa (s : State) (n : Nat) : Nat := s.pkg * 2 ^ 47 + s.areaKey n

/-- Offsets in an area (Table 02.5). -/
def areaTiles : Nat := 1536 * 1024
def areaLog : Nat := 1632 * 1024
def areaVectors : Nat := 1652 * 1024

/-- Bytes of a tile's storage, and of a cell in a mode (R54, Table 03.2). -/
def tileBytes : Nat := 24576
def cellBytes (mode : BitVec 2) : Nat := if mode = 2#2 then 12 else 6

/-- Elements of a tile in a mode. -/
def cellCount (mode : BitVec 2) : Nat := if mode = 2#2 then 2048 else 4096

/-- An element as its cell holds it (Table 03.2). -/
def cellValue (mode : BitVec 2) (x : BitVec 66) : Nat :=
  match mode.toNat with
  | 0 => x.toNat % 2 ^ 34
  | 1 => ((x.setWidth 32).signExtend 48).toNat
  | _ => x.toNat

/-- A cell's value as an element (Table 03.2). -/
def cellElem (mode : BitVec 2) (n : Nat) : BitVec 66 :=
  match mode.toNat with
  | 0 => BitVec.ofNat 66 (n % 2 ^ 34)
  | 1 => BitVec.ofNat 66 (n % 2 ^ 32)
  | _ => BitVec.ofNat 66 n

/-- The bytes of a tile, its cells one after another (R54). -/
def Tile.cells (t : Tile) : List (BitVec 8) :=
  (t.el.toList.take (cellCount t.mode)).flatMap (fun x => natBytes (cellBytes t.mode) (cellValue t.mode x))

/-- A tile of a mode from its cells. -/
def Tile.ofCells (mode : BitVec 2) (ovf : Bool) (bs : Nat → Nat) : Tile :=
  { mode := mode, ovf := ovf
    el := Vector.ofFn (fun i => if i.val < cellCount mode then cellElem mode (bs (cellBytes mode * i.val)) else 0) }

/-- The least of some numbers, 0 of none. -/
def leastOf (l : List Nat) : Nat := l.foldl min (l.headD 0)

/-- The bytes of a side-log entry with their offsets in it: the element form for STVS and SCAT, else the contiguous form
(R436, Table 22.2). -/
def LogEntry.cells (e : LogEntry) : List (Nat × BitVec 8) :=
  match e.write with
  | [] => []
  | w :: _ =>
    let el : Bool := w.op == 0xD3#8 || w.op == 0xD4#8
    let low := leastOf (e.write.map (·.ia))
    let bytes := e.write.flatMap (·.bytes)
    let head := e.seq.toNat + 2 ^ 16 * w.size.toNat + (if el then 2 ^ 32 * e.write.length + 2 ^ 46 else 0)
      + 2 ^ 47 * b2n (e.write.any (·.tag)) + 2 ^ 48 * w.scope.toNat + 2 ^ 50 * w.ord.toNat + 2 ^ 52 * w.opk.toNat + 2 ^ 56 * w.op.toNat
    let words := natBytes 8 head ++ natBytes 8 (if el then e.page * 65536 else low)
      ++ natBytes 8 (leastOf (e.write.map (·.va.toNat))) ++ natBytes 8 w.pc.toNat
    let items := (List.range 16).zip e.write
    atAddr 0 words ++
      (if el then items.flatMap (fun x => atAddr (64 + 4 * x.1) (natBytes 4 (x.2.ia - e.page * 65536))
          ++ atAddr (128 + 8 * x.1) (x.2.bytes.map (·.2)))
        else atAddr 32 (natBytes 32 ((bytes.map (fun b => b.1 - low)).foldl (fun (m : BitVec 256) i => m ||| BitVec.ofNat 256 (2 ^ i)) 0).toNat)
          ++ (bytes.filter (fun b => decide (b.1 - low < 256))).map (fun b => (64 + (b.1 - low), b.2)))

/-- The bytes of a context with their offsets in the area: local store, tiles, side log and vector registers
(Table 02.5). -/
def Task.areaCells (t : Task) : List (Nat × BitVec 8) :=
  t.ls
    ++ ((List.range 64).zip t.sidelog).flatMap (fun x => x.2.cells.map (fun c => (areaLog + 320 * x.1 + c.1, c.2)))
    ++ (List.finRange 4).flatMap (fun k => atAddr (areaTiles + tileBytes * k.val) (t.t[k]).cells)
    ++ (List.finRange 32).flatMap (fun k => atAddr (areaVectors + 256 * k.val) (natBytes 256 (t.v[k]).toNat))

/-- The context of a task written into an area (R48). -/
def fillArea (n : Nat) (t : Task) (s : State) : State :=
  let k := s.areaKey n
  { s with mem := writeCells (zeroCells s.mem k (k + areaBytes)) (t.areaCells.map (fun c => (k + c.1, c.2))) }

/-- What an area's bytes make of a context: local store, tiles and vector registers (R49). -/
def Task.fromArea (m : List Host.Cell) (k : Nat) (t : Task) : Task :=
  { t with
    ls := (m.filter (fun c => decide (k ≤ c.1) && decide (c.1 < k + Config.lsBytes))).map (fun c => (c.1 - k, c.2))
    t := Vector.ofFn (fun i => Tile.ofCells t.t[i].mode t.t[i].ovf (fun o =>
      bytesNat (readCells m (k + areaTiles + tileBytes * i.val + o) (cellBytes t.t[i].mode))))
    v := Vector.ofFn (fun i => BitVec.ofNat 2048 (bytesNat (readCells m (k + areaVectors + 256 * i.val) 256))) }

/-- The areas in use. -/
def State.areasUsed (s : State) : List Nat :=
  (allTasks s).filterMap (fun t => if t.status = .saved ∨ t.status = .frozen then t.area else none)

/-- The lowest free area; a freeze may take one of the reserve, one for each live core, which lies above the pool's
other areas (R458). -/
def freeArea (s : State) (reserve : Bool) : Option Nat :=
  findBelow (fun n => !s.areasUsed.contains n) (s.ctxAreas + if reserve then s.fuses.liveCount else 0)

/-- A task's context put into an area of its own package. -/
def keepContext (tid : Nat) (reserve : Bool) (s : State) : State :=
  match ownTask? s tid, freeArea s reserve with
  | some t, some n => modTask tid (fun t => { t with area := some n }) (fillArea n t s)
  | _, _ => s

/-- A task's context taken back from its area. -/
def takeContext (tid : Nat) (s : State) : State :=
  match (ownTask? s tid).bind (·.area) with
  | some n => modTask tid (fun t => { t.fromArea s.mem (s.areaKey n) with area := none }) s
  | none => s

/-- The area of a saved task written again after its context has changed there (R41, R300). -/
def refreshArea (tid : Nat) (s : State) : State :=
  atTask tid (fun s => match ownTask? s tid with
    | some t => if t.status = .saved ∨ t.status = .frozen then match t.area with
        | some n => fillArea n t s
        | none => s
      else s
    | none => s) s

end Sys2Proof.Machine
end

