-- ==== Sys2Proof/Machine/Xpb.lean ====
section
/-! DEFINITION. The transpose parameter block, and the boxes, rows, phases and blocks it fixes
(13 R335 to R343). -/

namespace Sys2Proof.Machine

/-- An XPB's 1,024 bits from its two entries (R335). -/
structure Xpb where
  group : Nat
  n : List Nat
  rank0 : Nat
  gridA : Nat
  gridB : Nat
  nb : Nat
  rinc : Nat
  rsem : BitVec 8
  pinc : Nat
  psem : Nat
  pstep : Bool
  phases : Nat
  ring : Fin 8
  dstRing : Bool
  fmt : Nat
  axOut : Nat
  axIn : Nat
  dstOff : Nat
  srcOff : Nat
  pitchOut : Nat
  pitchIn : Nat
  lead : Nat
  tag : Nat
deriving DecidableEq, Repr

/-- The fields of an XPB (Table 13.1). -/
def xpbOf (x : Nat) : Xpb :=
  let w (n : Nat) : Nat := bits x (64 * n) 64
  { group := bits (w 0) 0 58, n := [bits (w 1) 0 20, bits (w 1) 20 20, bits (w 1) 40 20]
    rank0 := bits (w 2) 48 16, gridB := bits (w 2) 32 16, gridA := bits (w 2) 16 16, nb := bits (w 2) 0 16
    rinc := bits (w 3) 48 12, rsem := BitVec.ofNat 8 (bits (w 3) 40 8), pinc := bits (w 3) 28 12
    psem := bits (w 3) 20 8, pstep := bitN (w 3) 19, phases := bits (w 3) 13 6 + 1
    ring := Fin.ofNat 8 (bits (w 3) 10 3), dstRing := bitN (w 3) 9, fmt := bits (w 3) 4 5
    axOut := bits (w 3) 2 2, axIn := bits (w 3) 0 2, dstOff := bits (w 4) 32 21, srcOff := bits (w 4) 0 21
    pitchOut := bits (w 5) 21 21, pitchIn := bits (w 5) 0 21, lead := bits (w 6) 0 8, tag := bits (w 8) 0 32 }

/-- Whether the first entry of an XPB has its fields in range (Table 13.1). -/
def xpbFirstOk (x : Nat) : Bool :=
  let p := xpbOf x
  let w (n : Nat) : Nat := bits x (64 * n) 64
  bits (w 0) 58 6 == 0 && p.group % 64 == 0 && bits (w 1) 60 4 == 0 && p.n.all (fun n => n != 0)
    && p.gridA != 0 && p.gridB != 0 && p.nb != 0 && bits (w 3) 60 4 == 0 && p.pinc != 0
    && bits (w 4) 53 11 == 0 && bits (w 4) 21 11 == 0 && p.dstOff % 32 == 0 && p.srcOff % 32 == 0
    && (!p.dstRing || p.dstOff == 0) && bits (w 5) 42 22 == 0 && p.pitchOut % 32 == 0 && p.pitchIn % 32 == 0
    && bits (w 6) 8 56 == 0 && w 7 == 0

/-- Whether the second entry of an XPB has its reserved fields zero (Table 13.1). -/
def xpbSecondOk (x : Nat) : Bool := bits x 32 480 == 0

/-- Element size of an XPB's format; zero for a format that Damask does not move (Table 13.1). -/
def Xpb.z (p : Xpb) : Nat :=
  if p.fmt = 9 ∨ p.fmt = 2 ∨ p.fmt = 6 then 4
  else if p.fmt = 8 ∨ p.fmt = 3 ∨ p.fmt = 7 ∨ p.fmt = 0x10 then 8
  else 0

/-- The number of members. -/
def Xpb.size (p : Xpb) : Nat := p.gridA * p.gridB

/-- The index range of part j of an axis of length n split over `parts` (R337). -/
def partOf (n parts j : Nat) : Nat × Nat :=
  let q := (n + parts - 1) / parts
  (j * q, min ((j + 1) * q) n)

/-- The lower- and the higher-numbered axis other than the pencil axis (R337). -/
def lowAxis (x : Nat) : Nat := if x = 0 then 1 else 0
def highAxis (x : Nat) : Nat := if x = 2 then 1 else 2

/-- Field length along an axis. -/
def Xpb.len (p : Xpb) (ax : Nat) : Nat := p.n.getD ax 1

/-- The index range of member k (its rank less RANK0) along an axis, with pencil axis x (R337). -/
def Xpb.box (p : Xpb) (x k ax : Nat) : Nat × Nat :=
  if ax = x then (0, p.len ax)
  else if ax = lowAxis x then partOf (p.len ax) p.gridA (k % p.gridA)
  else partOf (p.len ax) p.gridB (k / p.gridA)

/-- Extent of a box along an axis. -/
def Xpb.extent (p : Xpb) (x k ax : Nat) : Nat := (p.box x k ax).2 - (p.box x k ax).1

/-- Rows of a member with pencil axis x (R338). -/
def Xpb.rows (p : Xpb) (x k : Nat) : Nat := p.extent x k (lowAxis x) * p.extent x k (highAxis x) * p.nb

/-- The row of coordinates c in batch β (R338). -/
def Xpb.row (p : Xpb) (x k : Nat) (c : Nat → Nat) (batch : Nat) : Nat :=
  let l := lowAxis x
  let h := highAxis x
  (c l - (p.box x k l).1) + p.extent x k l * ((c h - (p.box x k h).1) + p.extent x k h * batch)

/-- The axis that is neither AXIN nor AXOUT (R343). -/
def Xpb.axr (p : Xpb) : Nat := 3 - p.axIn - p.axOut

/-- The phase of a value of the third axis and a batch index at member k (R343). -/
def Xpb.phaseOf (p : Xpb) (k third batch : Nat) : Nat :=
  let e := p.extent p.axOut k p.axr
  ((third - (p.box p.axOut k p.axr).1) + e * batch) * p.phases / (e * p.nb)

/-- The phase of a row of member k's after box (R343). -/
def Xpb.rowPhase (p : Xpb) (k row : Nat) : Nat :=
  let l := lowAxis p.axOut
  let el := p.extent p.axOut k l
  let eh := p.extent p.axOut k (highAxis p.axOut)
  let third := (if p.axr = l then row % el else row / el % eh) + (p.box p.axOut k p.axr).1
  p.phaseOf k third (row / (el * eh))

/-- The rows of a phase, ascending. -/
def Xpb.phaseRows (p : Xpb) (k phase : Nat) : List Nat :=
  (List.range (p.rows p.axOut k)).filter (fun r => p.rowPhase k r == phase)

/-- Bytes from the start of a region of `n` rows to the end of its last pencil (R338). -/
def rowSpan (pitch z len n : Nat) : Nat := if n = 0 then 0 else pitch * (n - 1) + z * len

/-- The checks of R336 that an XPB's own fields decide. -/
def Xpb.geomOk (p : Xpb) : Bool :=
  let split (x : Nat) : Bool :=
    decide ((p.gridA - 1) * ((p.len (lowAxis x) + p.gridA - 1) / p.gridA) < p.len (lowAxis x))
      && decide ((p.gridB - 1) * ((p.len (highAxis x) + p.gridB - 1) / p.gridB) < p.len (highAxis x))
  p.axIn != p.axOut && p.axIn != 3 && p.axOut != 3 && p.z != 0
    && decide (p.size ≤ 65536) && decide (p.rank0 + p.size ≤ 65536) && split p.axIn && split p.axOut
    && decide (p.z * p.len p.axIn ≤ p.pitchIn) && decide (p.z * p.len p.axOut ≤ p.pitchOut)
    && (!p.pstep || decide (p.psem + p.phases - 1 ≤ 255))

/-- The slot bytes the largest phase of member k needs (R336, R339). -/
def Xpb.slotNeed (p : Xpb) (k : Nat) : Nat :=
  ((List.range p.phases).map (fun q => rowSpan p.pitchOut p.z (p.len p.axOut) (p.phaseRows k q).length)).foldl max 0

/-- The indices two ranges share. -/
def shared (a b : Nat × Nat) : Nat × Nat := (max a.1 b.1, min a.2 b.2)

/-- The elements of a block along AXOUT; along AXIN it has eight (R340). -/
def Xpb.blockOut (p : Xpb) : Nat := if p.z = 4 then 8 else 4

/-- The corners and extents of the blocks along one axis of a rectangle (R340). -/
def cutRange (r : Nat × Nat) (n : Nat) : List (Nat × Nat) :=
  (List.range ((r.2 - r.1 + n - 1) / n)).map (fun i => (r.1 + n * i, min n (r.2 - (r.1 + n * i))))

/-- The blocks from member ks to member kd (R340), named by rank. -/
def Xpb.blocks (p : Xpb) (ks kd : Nat) : List DamaskBlock :=
  let r (ax : Nat) : Nat × Nat := shared (p.box p.axIn ks ax) (p.box p.axOut kd ax)
  let t := r p.axr
  (List.range p.nb).flatMap (fun β => (span t.1 (t.2 - t.1)).flatMap (fun third =>
    (cutRange (r p.axIn) 8).flatMap (fun i => (cutRange (r p.axOut) p.blockOut).map (fun o =>
      { src := p.rank0 + ks, dst := p.rank0 + kd, phase := p.phaseOf kd third β, third := third, batch := β
        inLo := i.1, inN := i.2, outLo := o.1, outN := o.2 }))))

/-- The blocks bound for a member, and the blocks it sends. -/
def Xpb.inbound (p : Xpb) (k : Nat) : List DamaskBlock := (List.range p.size).flatMap (fun j => p.blocks j k)
def Xpb.outbound (p : Xpb) (k : Nat) : List DamaskBlock := (List.range p.size).flatMap (fun j => p.blocks k j)

/-- The source and destination offsets of each element of a block; `base` and `rowAt` place a destination row
(R338, R339). -/
def Xpb.moves (p : Xpb) (b : DamaskBlock) (rowAt : Nat → Nat) : List (Nat × Nat) :=
  let ks := b.src - p.rank0
  let kd := b.dst - p.rank0
  (span b.inLo b.inN).flatMap (fun i => (span b.outLo b.outN).map (fun o =>
    let c (ax : Nat) : Nat := if ax = p.axIn then i else if ax = p.axOut then o else b.third
    (p.srcOff + p.pitchIn * p.row p.axIn ks c b.batch + p.z * i,
     rowAt (p.row p.axOut kd c b.batch) + p.z * o)))

end Sys2Proof.Machine
end

