-- ==== Sys2Proof/Machine/Groups.lean ====
section
/-! DEFINITION. Groups at the Quay die, the loss of a member, and the policy of a frozen task's node
(02 R42 to R44; 23 R453 to R457). -/

namespace Sys2Proof.Machine

/-- Every group; one is kept by the Quay die of its object's package (R42). -/
def State.allGroups (s : State) : List Group := s.packs.flatMap (fun p => p.groups)

/-- The group kept for a group object; an absent one is empty (R42). -/
def getGroup (s : State) (ia : Nat) : Group :=
  (s.allGroups.find? (fun g => g.ia == ia)).getD { ia := ia, members := [], colls := [], history := [] }

/-- A group stored; one without members, open operations or history is not listed. -/
def putGroup (g : Group) (s : State) : State :=
  atPack (fun p => p.pkg == bits g.ia 47 11) (fun s =>
    let rest := s.groups.filter (fun x => x.ia != g.ia)
    { s with groups := if g.members = [] ∧ g.colls = [] ∧ g.history = [] then rest else rest ++ [g] }) s

/-- The rank of a task in a group (R42). -/
def Group.rankOf (g : Group) (tid : Nat) : Option Nat := (g.members.find? (fun m => m.2 == tid)).map (·.1)

/-- The task that holds a rank. -/
def Group.holder (g : Group) (rank : Nat) : Option Nat := (g.members.find? (fun m => m.1 == rank)).map (·.2)

/-- The lowest vacant rank (R42). -/
def Group.vacant (g : Group) : Option Nat := findBelow (fun r => g.members.all (fun m => m.1 != r)) 65536

/-- A join: the existing rank, the lowest vacant one, or none when the group is full (R189). -/
def joinGroup (ia tid : Nat) (s : State) : State × Option Nat :=
  let g := getGroup s ia
  match g.rankOf tid with
  | some r => (s, some r)
  | none =>
    match g.vacant with
    | some r => (putGroup { g with members := g.members ++ [(r, tid)] } s, some r)
    | none => (s, none)

/-- Whether a member has arrived at an operation. -/
def Coll.arrived (c : Coll) (tid : Nat) : Bool := c.arrivals.any (fun a => a.tid == tid)

/-- Whether an operation counts a member. -/
def Coll.counts (c : Coll) (tid : Nat) : Bool := c.expect.any (fun e => e.2 == tid)

/-- An operation that a member leaves: one that has not arrived is dropped from the count; `lose` when it
was removed and so is lost, arrived or not (R44, R455; log 25). -/
def Coll.drop (lose : Bool) (rank tid : Nat) (c : Coll) : Coll :=
  if c.counts tid then
    { c with expect := if c.arrived tid then c.expect else c.expect.filter (fun e => e.2 != tid)
             lost := if lose then c.lost ++ [(rank, tid)] else c.lost }
  else c

/-- A member leaves by GLEAVE or at task end: it is not counted further (R43, R44). -/
def leaveGroup (ia tid : Nat) (s : State) : State :=
  let g := getGroup s ia
  match g.rankOf tid with
  | none => s
  | some r =>
    putGroup { g with members := g.members.filter (fun m => m.2 != tid)
                      colls := (g.colls.map (Coll.drop false r tid)).filter (fun c => c.expect ≠ []) } s

/-- The kind-0x04 event of a Damask member (R344, R456). -/
def damaskEvent (c : DColl) (m : DMember) (status : BitVec 8) : BitVec 128 :=
  let tag := (m.xpb.extractLsb' 512 32).toNat
  eventOf (eventLow tag c.key.xpb.toNat status.toNat 4)
    (m.flits % 2 ^ 32 + 2 ^ 32 * (m.phases % 65536) + 2 ^ 48 * min m.slips 65535)

/-- The end of a membership: its event, its signal field, and one engine job fewer (R342, R344, R456). -/
def endMembership (c : DColl) (status : BitVec 8) (m : DMember) (s : State) : State :=
  if m.done then s
  else
    let s := modTask m.tid Task.endJob s
    let s := agentSignal { mkind := 4, unit := 0, stream := 0 } m.tid m.tid m.ssem m.sinc.toNat s
    pushEventTo m.tid .damask (damaskEvent c m status) s

/-- DEPTHM1, SLOTSZ in bytes and BASE of a ring configuration (Table 03.5). -/
def ringSlots (cfg : BitVec 64) : Nat := bits cfg.toNat 48 4 + 1
def ringSlotBytes (cfg : BitVec 64) : Nat := bits cfg.toNat 32 12 * 256
def ringBase (cfg : BitVec 64) : Nat := bits cfg.toNat 0 21

/-- A member's destination bytes of the phases not signalled become undefined, started or not (R342, R456); a ring
slot whose fill has ended so stays void (R446), and the ring has no membership to fill it (R215). -/
def spoilMember (m : DMember) (s : State) : State :=
  if m.done then s
  else
    let p := xpbOf m.xpb.toNat
    let k := m.rank - p.rank0
    let z := p.z * p.len p.axOut
    match getTask? s m.tid with
    | none => s
    | some t =>
      let open_ := m.slots.filter (fun x => m.phases ≤ x.2)
      let ring := t.rings[p.ring]
      let rows := if p.dstRing then open_.flatMap (fun x => (List.range (p.phaseRows k x.2).length).map (fun i =>
          ringBase ring.cfg + x.1.val * ringSlotBytes ring.cfg + p.pitchOut * i))
        else ((List.range (p.rows p.axOut k)).filter (fun r => m.phases ≤ p.rowPhase k r)).map
          (fun r => p.dstOff + p.pitchOut * r)
      let cells := rows.flatMap (fun r => span r z)
      let ring := if p.dstRing then { ring with
        void := open_.foldl (fun (v : BitVec 16) x => v ||| BitVec.ofNat 16 (2 ^ x.1.val)) ring.void
        fillers := ring.fillers.erase 1 } else ring
      refreshArea m.tid (modTask m.tid (fun t => { t with
        ls := writeCells t.ls (cells.zip (freeBytesAt s.free cells.length))
        rings := t.rings.set p.ring ring }) { s with free := s.free + cells.length })

/-- The end of a Damask collective for all members, but for a lost one, which receives nothing
(R342, R456). -/
def endCollective (status : BitVec 8) (lost : Option Nat) (c : DColl) (s : State) : State :=
  let s := c.members.foldl (fun s m => spoilMember m s) s
  let s := c.members.foldl (fun s m =>
    if m.done then s
    else if lost = some m.tid then modTask m.tid Task.endJob s
    else endMembership c status m s) s
  modColl c.key (fun d => { d with ended := some status, members := d.members.map (fun m => { m with done := true }) }) s

/-- A vacant member of open Damask collectives ends them (R456). -/
def damaskLost (ia tid : Nat) (status : BitVec 8) (s : State) : State :=
  (s.collectives.filter (fun c => c.key.group == ia && c.ended.isNone && c.members.any (fun m => m.tid == tid && !m.done))).foldl
    (fun s c => endCollective status (some tid) c s) s

/-- The removal of a member outside GLEAVE and task end (R453): it is lost to the open operations that count
it, with one record (R455), and ends its Damask collectives (R456). -/
def removeMember (ia tid : Nat) (s : State) : State :=
  let g := getGroup s ia
  match g.rankOf tid with
  | none => s
  | some r =>
    let s := if g.colls.any (fun c => c.counts tid) then addTaskRecord tid
      { code := fcMemberLost, sev := 1, mkind := 1, tag := r, addr := BitVec.ofNat 64 ia } s else s
    let s := putGroup { g with members := g.members.filter (fun m => m.2 != tid)
                               colls := (g.colls.map (Coll.drop true r tid)).filter (fun c => c.expect ≠ []) } s
    damaskLost ia tid fcMemberLost s

/-- The removal of a task from every group (R453, R457). -/
def removeFromGroups (tid : Nat) (s : State) : State :=
  (s.allGroups.map (·.ia)).foldl (fun s ia => removeMember ia tid s) s

/-- The group IAs a task belongs to. -/
def groupsOf (s : State) (tid : Nat) : List Nat :=
  (s.allGroups.filter (fun g => (g.rankOf tid).isSome)).map (·.ia)

/-- A residence slot changed. -/
def modSlot (slot : Nat) (f : GSlot → GSlot) (s : State) : State :=
  if h : slot < 64 then { s with gslots := s.gslots.set slot (f s.gslots[slot]) } else s

/-- A residence slot. -/
def getSlot (s : State) (slot : Nat) : GSlot := if h : slot < 64 then s.gslots[slot] else GSlot.init

/-- One node of a resident graph changed. -/
def modNode (slot node : Nat) (f : NodeSt → NodeSt) (s : State) : State :=
  modSlot slot (fun g => { g with nodes := g.nodes.modify node f }) s

/-- ND.FAILG (Table 14.2). -/
def NodeSt.failg (n : NodeSt) : Bool := n.record.getLsbD (64 * 5 + 12)

/-- SYNCCFG.RERUN (Table 23.1). -/
def State.rerun (s : State) : Nat := bits s.syncCfg.toNat 36 4

/-- The graph slot of a queue item. -/
def QItem.slot : QItem → Nat
  | .tile slot _ _ => slot
  | .resume slot _ _ => slot

/-- A saved task whose context is freed: it leaves its groups and exists no more (R457). -/
def freeContext (tid : Nat) (s : State) : State :=
  modTask tid (fun t => { t with status := .ended }) (removeFromGroups tid s)

/-- The weights of the cores: speed entries in units of 10 MHz (R357). -/
def State.weights (s : State) : List Nat := s.cores.toList.map (fun c => c.speed / 10)

/-- A start begins: it takes the next bank and reads the weights (R350, R354, R357). -/
def beginStart (s : State) (x : Start) (g : GSlot) : GSlot :=
  { g with
    running := some { x with step := 0, bank := g.nextBank, weights := s.weights }
    nextBank := !g.nextBank
    inStep := false
    failed := false }

/-- A failed graph becomes idle once no task of it is resident (R457); a start queued after the failure
then begins (R350). -/
def settleFailed (slot : Nat) (s : State) : State :=
  if (getSlot s slot).failed ∧ (allTasks s).all (fun t => t.slot != slot || t.status != .resident) then
    modSlot slot (fun g => match g.queued with
      | some q => beginStart s q { g with queued := none }
      | none => { g with failed := false, running := none, inStep := false }) s
  else s

/-- ND.TILES, ND.SPAWNCAP and ND.NDEP of a node record (Table 14.2). -/
def NodeSt.tileCount (n : NodeSt) : Nat := bits n.record.toNat (64 * 5 + 32) 32
def NodeSt.spawnCap (n : NodeSt) : Nat := bits n.record.toNat (64 * 5 + 16) 16
def NodeSt.ndep (n : NodeSt) : Nat := bits n.record.toNat (64 * 5) 12

/-- A node with its queues emptied. -/
def NodeSt.clear (n : NodeSt) : NodeSt :=
  { n with tiles := [], nextTile := n.tileCount, spawnq := [], resume := [], nextSpawn := [] }

/-- A tile of a node is reported complete (R352, R360). -/
def reportTile (slot node : Nat) (s : State) : State :=
  modNode slot node (fun n => { n with
    reported := n.reported + 1
    firstTick := if n.reported = 0 then s.tick else n.firstTick
    lastTick := s.tick }) s

/-- A graph fails (R457, policy 1). -/
def failGraph (slot : Nat) (code : BitVec 8) (node : Nat) (s : State) : State :=
  let g := getSlot s slot
  if g.failed ∨ g.running = none then s
  else
    let tids := ((allTasks s).filter (fun t => t.slot == slot && t.status == .saved)).map (·.tid)
    let s := addRecord { code := code, sev := 1, mkind := 1, node := slot % 64 * 4096 + node % 4096
                         tag := if g.queued = none then 1 else 2 } s
    let s := tids.foldl (fun s tid => freeContext tid s) s
    let s := { s with cores := s.cores.map (fun c => { c with queue := c.queue.filter (fun q => q.slot != slot) }) }
    let s := modSlot slot (fun g => { g with
      failed := true
      queued := none
      nodes := g.nodes.map NodeSt.clear }) s
    settleFailed slot s

/-- The policy of a frozen task's node (R401, R457). -/
def applyPolicy (tid : Nat) (code : BitVec 8) (s0 : State) : State :=
  let s := removeFromGroups tid s0
  match getTask? s tid with
  | none => s
  | some t =>
    let g := getSlot s t.slot
    match g.nodes[t.node]? with
    | none => s
    | some n =>
      if g.failed ∨ g.running = none then settleFailed t.slot s
      else
        let times := ((n.reruns.find? (fun r => r.1 == t.tile)).map (·.2)).getD 0
        if n.failg ∨ s.rerun ≤ times then settleFailed t.slot (failGraph t.slot code t.node s)
        else
          modNode t.slot t.node (fun n =>
            { n with tiles := t.tile :: n.tiles
                     reported := if t.nodeRel then n.reported - 1 else n.reported
                     reruns := (t.tile, times + 1) :: n.reruns.filter (fun r => r.1 != t.tile) }) s

/-- A saved task that freezes or goes leaves the queues it waits in. -/
def unqueue (tid : Nat) (s : State) : State :=
  { s with
    cores := s.cores.map (fun c => { c with queue := c.queue.filter (fun q => match q with
      | .resume _ _ n => n != tid
      | .tile _ _ _ => true) })
    gslots := s.gslots.map (fun g => { g with nodes := g.nodes.map (fun n =>
      { n with resume := n.resume.filter (fun x => x != tid) }) }) }

/-- A ring of a task changed; a fill restarts the stall interval (R452). -/
def Task.modRing (t : Task) (n : Fin 8) (f : Ring → Ring) : Task :=
  { t.deliver with rings := t.rings.set n (f t.rings[n]) }

/-- STATE of a ring (Table 03.5). -/
def Ring.state (r : Ring) : BitVec 64 :=
  BitVec.ofNat 64 (r.full.toNat + 2 ^ 16 * r.lock.toNat + 2 ^ 32 * (r.head % 16) + 2 ^ 36 * (r.tail % 16) + 2 ^ 40 * b2n r.en)

/-- Whether slot TAIL can be claimed (R60). -/
def Ring.claimable (r : Ring) : Bool := r.en && !r.lock.getLsbD r.tail

/-- A claim of slot TAIL (R60). -/
def Ring.claim (r : Ring) : Ring :=
  { r with lock := r.lock ||| BitVec.ofNat 16 (2 ^ r.tail), tail := (r.tail + 1) % ringSlots r.cfg }

/-- A fill of a slot is complete (R60). -/
def Ring.setFull (r : Ring) (slot : Nat) : Ring := { r with full := r.full ||| BitVec.ofNat 16 (2 ^ slot) }

/-- A failed fill leaves its slot void (R446). -/
def Ring.setVoid (r : Ring) (slot : Nat) : Ring := { r with void := r.void ||| BitVec.ofNat 16 (2 ^ slot) }

/-- A pop of slot HEAD (R60). -/
def Ring.pop (r : Ring) : Ring :=
  let m := ~~~BitVec.ofNat 16 (2 ^ r.head)
  { r with lock := r.lock &&& m, full := r.full &&& m, head := (r.head + 1) % ringSlots r.cfg }

/-- Whether slot HEAD is full. -/
def Ring.headFull (r : Ring) : Bool := r.full.getLsbD r.head

/-- LS offset of a slot (R59). -/
def Ring.slotAt (r : Ring) (slot : Nat) : Nat := ringBase r.cfg + slot * ringSlotBytes r.cfg

/-- A channel changed. -/
def modChan (n : Fin 32) (f : Chan → Chan) (s : State) : State := { s with chans := s.chans.set n (f s.chans[n]) }

/-- A Lighter changed. -/
def modLighter (n : Fin 32) (f : Lighter → Lighter) (s : State) : State :=
  { s with lighters := s.lighters.set n (f s.lighters[n]) }

/-- A signal of a unit for a job that a stream of a task started; for a record of a command block the sender is the C
stream of the task whose RENQ sent it (R429). -/
def unitSignal (mkind unit stream : Nat) (tid : Nat) (block : Bool) (sem : BitVec 8) (inc : Nat) (s : State) : State :=
  match if block then (getTask? s tid).bind (·.block) else none with
  | some b => agentSignal { mkind := mkind, unit := unit, addr := BitVec.ofNat 64 b.group, rank := b.rank.toNat, stream := 0 } b.src tid sem inc s
  | none => agentSignal { mkind := mkind, unit := unit, stream := stream } tid tid sem inc s

/-- The running program of a Lighter changed. -/
def modLRun (n : Fin 32) (f : LRun → LRun) (s : State) : State := modLighter n (fun c => { c with run := c.run.map f }) s

/-- The oldest push in flight sets FULL, then signals (R329). -/
def landPush (n : Fin 32) (s : State) : State :=
  match s.lighters[n].run with
  | none => s
  | some r => match r.flight with
    | [] => s
    | f :: fs =>
      let s := modLRun n (fun r => { r with flight := fs }) s
      let s := modTask r.prog.tid (fun t => t.modRing f.ring (fun g => g.setFull f.slot)) s
      if f.sinc = 0 then s else unitSignal 3 n.val 1 r.prog.tid r.prog.block f.ssem f.sinc.toNat s

/-- The pushes in flight of a task's Lighters land (R47). -/
def landAll (tid : Nat) (s : State) : State :=
  (List.finRange 32).foldl (fun s n => match s.lighters[n].run with
    | some r => if r.prog.tid = tid then (List.range r.flight.length).foldl (fun s _ => landPush n s) s else s
    | none => s) s

/-- Whether a unit is not one of those that stop. -/
def unitStays (units lunits : List Nat) : Engine → Bool
  | .bte n => !units.contains n.val
  | .lighter n => !lunits.contains n.val

/-- Whether an access stays held when BTE channels and Lighters stop. -/
def keepsHeld (units lunits : List Nat) : Requester → Bool
  | .bte n => unitStays units lunits (.bte n)
  | .lighter n => unitStays units lunits (.lighter n)
  | _ => true

/-- The engine jobs of a task stop at their saved positions, once their Lighters' pushes in flight have landed (R47, R333, R400); a start or an LGO that waits
for its unit is discarded, and issues again on resumption; a unit that holds a completion record keeps it. -/
def stopEngines (tid : Nat) (s0 : State) : State :=
  let s := landAll tid s0
  let waiting := (s.aperture.filter (fun x => x.2.2 == some tid)).length + (s.lgos.filter (fun x => x.2.tid == tid)).length
  let runs := (List.finRange 32).filterMap (fun n =>
    match s.chans[n].run with
    | some r => if r.job.tid = some tid ∧ s.chans[n].held = none then some (n.val, r) else none
    | none => none)
  let queued := (List.finRange 32).flatMap (fun n =>
    (s.chans[n].queue.filter (fun j => j.tid == some tid)).map (fun j => (n.val, j)))
  let progs := (List.finRange 32).filterMap (fun n =>
    match s.lighters[n].run with
    | some r => if r.prog.tid = tid ∧ s.lighters[n].held = none then some (n.val, r) else none
    | none => none)
  let pq := (List.finRange 32).flatMap (fun n =>
    (s.lighters[n].queue.filter (fun j => j.tid == tid)).map (fun j => (n.val, j)))
  let units := runs.map Prod.fst
  let lunits := progs.map Prod.fst
  let s := { s with
    aperture := s.aperture.filter (fun x => x.2.2 != some tid)
    lgos := s.lgos.filter (fun x => x.2.tid != tid)
    held := s.held.filter (fun h => keepsHeld units lunits h.by_)
    peers := s.peers.map (fun p => { p with held := p.held.filter (fun h => match h.by_ with
      | .remote n e => n != s.pkg || unitStays units lunits e
      | _ => true) })
    chans := s.chans.map (fun c => { c with
      run := match c.run with
        | some r => if r.job.tid = some tid ∧ c.held = none then none else some r
        | none => none
      queue := c.queue.filter (fun j => j.tid != some tid) })
    lighters := s.lighters.map (fun c => { c with
      run := match c.run with
        | some r => if r.prog.tid = tid ∧ c.held = none then none else some r
        | none => none
      queue := c.queue.filter (fun j => j.tid != tid) }) }
  modTask tid (fun t => { t with jobs := t.jobs - waiting, savedJobs := t.savedJobs ++ runs, savedQueue := t.savedQueue ++ queued
                                 savedProgs := t.savedProgs ++ progs, savedProgQueue := t.savedProgQueue ++ pq
                                 lstat := t.lstat.map (fun l =>
                                   if progs.any (fun p => p.1 == l.unit) then { l with state := 3 } else l) }) s

end Sys2Proof.Machine
end

