-- ==== Sys2Proof/Machine/Ops.lean ====
section
/-! DEFINITION. Shared operations: freezing a task, taking a trap and going back from one, moving
control, retiring and issuing an instruction word (02, 03 R63, 20 R399 to R402, 21 R421, R422). -/

namespace Sys2Proof.Machine

/-- What a task that leaves its core keeps of one stream's held word: a word discarded gives back a consuming
wait that was served; one whose effect elsewhere is already decided (a grant, a reply, SWAIT's signal) retires
on resumption (R47, R400). -/
def Strm.discard (keep : Bool) (r : Strm) : Strm :=
  if keep then r else { r with wait := none, semw := none, await := none, srcs := none }

/-- What a discarded word gives back: the threshold its served consuming wait took, and the elements it popped. -/
def Strm.refund (keep : Bool) (r : Strm) (t0 : Task) : Task :=
  let t := if keep then t0 else t0.unpop (r.srcs.getD [])
  match r.semw with
  | some w =>
    if w.granted ∧ w.consume ∧ ¬ keep then
      { t with k := t.k.set w.k.toNat (BitVec.ofNat 32 (t.sem w.k + w.thr)) (w.k.isLt) }
    else t
  | none => t

/-- Whether a held word's effect is already decided. -/
def wordDecided (s : State) (t : Task) (st : Stream) : Bool :=
  let r := t.strm st
  match r.wait with
  | some .guarded => s.packs.all (fun p => p.guardQ.all (fun q => q.tid != t.tid))
  | some .gate => s.packs.any (fun p => p.commits.any (fun c => c.tid == t.tid && c.reply.isSome))
  | some .reply => st == .s && r.semw.isSome && t.sendS == []
  | some .sem => r.swaitSig
  | _ => false

/-- The unretired words of a task are discarded (R47, R435). -/
def discardUnretired (tid : Nat) (s : State) : State :=
  match getTask? s tid with
  | none => s
  | some t =>
    let keep (st : Stream) : Bool := wordDecided s t st
    let t1 := allStreams.foldl (fun (x : Task) st =>
      let r := x.strm st
      (r.refund (keep st) x).setStrm st (r.discard (keep st))) t
    let t1 := { t1 with
      watch := none, deadline := none
      sendS := if t.s.wait = some .reply ∧ ¬ keep .s then t.sendS.filter (fun m => match m with
        | .rrput _ => false
        | .rstv _ _ => true) else t.sendS }
    modTask tid (fun _ => t1) (mapPacks (fun p => { p with
      guardQ := p.guardQ.filter (fun q => q.tid != tid)
      commits := p.commits.filter (fun c => c.tid != tid || c.reply.isSome)
      held := p.held.filter (fun h => match h.by_ with
        | .stream n _ => n != tid
        | .stash n => n != tid
        | _ => true) }) s)

/-- A task freezes (R400 to R402): its engine jobs stop, its context is kept in the first free entry
of the frozen-context table or lost, one record is written, and the node's policy applies unless a
BREAKPOINT freeze is kept. -/
def freezeHere (tid : Nat) (f : FreezeCause) (tag : Nat) (pc : BitVec 64) (s0 : State) : State :=
  match ownTask? s0 tid with
  | none => s0
  | some t =>
    let bkpt := f.code == fcBreakpoint
    let entry := findBelow (fun n => match s0.frozen[n]? with | some e => !e.v | none => false) 16
    let s := stopEngines tid (discardUnretired tid (unqueue tid s0))
    let s := addRecord (ofTask s t
      { code := f.code, sev := 1, mkind := 1, op := f.op, also := f.also, kept := entry.isSome
        stream := match f.st with | some st => streamNum st | none => 7
        addr := f.addr, info := f.info, tag := tag, pc := pc }) s
    match entry with
    | some n =>
      let s := modTask tid (fun t => { t with status := .frozen, bkpt := bkpt }) s
      let s := keepContext tid true s
      let s := { s with frozen := s.frozen.setIfInBounds n ⟨tid, bkpt, true, (((ownTask? s tid).bind (·.area)).map s.areaIa).getD 0⟩ }
      if bkpt then settleFailed t.slot s else applyPolicy tid f.code s
    | none =>
      let s := modTask tid (fun t => { t with status := .frozen }) s
      let s := applyPolicy tid f.code s
      modTask tid (fun t => { t with status := .ended }) s

/-- A task freezes, on whichever package it is (R400). -/
def freezeTask (tid : Nat) (f : FreezeCause) (tag : Nat) (pc : BitVec 64) (s : State) : State :=
  atTask tid (freezeHere tid f tag pc) s

/-- Entering the trap section of the current stream, in one step (R63): TRAPCAUSE and TRAPPC are
written, TRAPSEC.V is cleared, and control goes to the header at TRAPSEC.ADDR. -/
def Strm.enterTrap (r : Strm) (code op : BitVec 8) (info : BitVec 32) (pc : BitVec 64) : Strm :=
  { r with trapcause := info ++ 0#16 ++ op ++ code
           trappc := pc
           trapsec := r.trapsec &&& ~~~1#64
           pc := r.trapsec &&& ~~~3#64
           arrive := .atHeader, wait := none, semw := none, swaitSig := false, await := none, srcs := none }

/-- A precise trap of the current stream at VA `pc` (R63): into the trap section when TRAPSEC.V is
set, else the task freezes (R400); the loss of a circuit is no trap and always freezes it (R467). -/
def takeTrapAt (code op : BitVec 8) (info : BitVec 32) (addr pc : BitVec 64) (s0 : State) : State :=
  let s := refundWait s0
  if s.strm.trapsec.getLsbD 0 ∧ code ≠ fcCircuitFail then modStrm (fun r => r.enterTrap code op info pc) s
  else freezeTask s.task.tid ⟨code, op, some s.cur, 0, info, addr⟩ 0 pc s

/-- A precise trap at the word the stream stands at. -/
def takeTrap (code op : BitVec 8) (info : BitVec 32) (addr : BitVec 64) (s : State) : State :=
  takeTrapAt code op info addr s.strm.pc s

/-- The current section retires and control leaves it (R22, R27, R30). -/
def leaveSection (a : Arrive) (pc : BitVec 64) (s : State) : State :=
  let r := s.strm
  let s := modStrm (fun r => { r with
    rsecValid := true, rsec := r.sec.secno, pc := pc, arrive := a, wait := none, await := none, srcs := none
    fin := r.fin || r.sec.last }) s
  if s.cur = .c ∧ r.sec.fmtend then modCur (fun t => { t with fmtDone := true }) s else s

/-- The VA after the last word of the current section: its successor's lead unit (R132). -/
def Section.endVa (x : Section) : BitVec 64 := x.lead + 12 + 12 * x.len.setWidth 64

/-- A word retires: control goes to the next word, or leaves the section past its last word (R26, R27). -/
def retire (s : State) : State :=
  let next := s.strm.pc + 12
  if next = s.strm.sec.endVa then leaveSection .atLead next s
  else modStrm (fun r => { r with pc := next, wait := none, await := none, srcs := none }) s

/-- The stream stays at its word and waits. -/
def setWait (w : Wait) (s : State) : State := modStrm (fun r => { r with wait := some w }) s

/-- The stream finishes and its section retires with it (R22, R182). -/
def finishStream (s : State) : State :=
  modStrm (fun r => { r with fin := true }) (leaveSection .inSection s.strm.pc s)

/-- How R29 classifies a taken branch's target. -/
inductive Target where
  | word
  | lead
  | header
  | bad
deriving DecidableEq, Repr

/-- The classification of a target by the current section's 12-byte grid (R29). -/
def targetKind (x : Section) (va : BitVec 64) : Target :=
  let d : Int := (va.toNat : Int) - (x.lead.toNat : Int)
  let inside := 12 ≤ d ∧ d < 12 + 12 * (x.len.toNat : Int)
  if d % 12 = 0 then (if inside then .word else .lead)
  else if d % 12 = 4 then
    (if d = 4 ∨ ¬ (0 ≤ d ∧ d < 12 + 12 * (x.len.toNat : Int)) then .header else .bad)
  else .bad

/-- Control goes to a legal target: a word of the section, or out of it to a lead unit or a header
(R29, R133). -/
def jumpTo (va : BitVec 64) (s : State) : State :=
  match targetKind s.strm.sec va with
  | .word => modStrm (fun r => { r with pc := va, wait := none }) s
  | .lead => leaveSection .atLead va s
  | _ => leaveSection .atHeader va s

/-- Why an instruction's own effect does not come about in this step. -/
inductive Stop where
  | trap (code : BitVec 8) (info : BitVec 32) (addr : BitVec 64)
  | wait (w : Wait)
  | sem (w : SemWait)
  | page (die page ia : Nat) (by_ : Requester)
  | hostLine (line : Nat)
  | circuit (pkg : Nat)
  | fault (f : Fault)
  | refused (r : Refusal)
deriving DecidableEq, Repr

/-- The effect of an instruction: a change of state, or a stop that leaves the state as it was
(R157, R422). -/
abbrev M := StateT State (Except Stop)

/-- What follows an instruction's effect: the word retires; the stream stays and waits; control goes
elsewhere; the stream finishes; a breakpoint freezes the task after the word; or a trap follows the effect (stage 12 of R421). -/
inductive Flow where
  | seq
  | hold (w : Wait)
  | branch (va : BitVec 64)
  | finish
  | breakpoint (info : BitVec 32)
  | trapAfter (code : BitVec 8) (info : BitVec 32)
deriving DecidableEq, Repr

/-- An effect at the package a condition names, which is this one where it names none. -/
def onPack {α : Type} (c : Pack → Bool) (m : M α) : M α := fun s =>
  if c s.toPack then m s
  else match s.peers.findIdx? c with
    | some i => match m (swapPack i s) with
      | .ok (a, s') => .ok (a, swapPack i s')
      | .error e => .error e
    | none => m s

/-- The effect stops. -/
def stop {α : Type} (e : Stop) : M α := fun _ => .error e

/-- A trap with an INFO and no address. -/
def trap {α : Type} (code : BitVec 8) (info : BitVec 32) : M α := stop (.trap code info 0)

/-- ILLEGAL_OPERAND on the value of an operand (Table 21.5, field code 0x10). -/
def badValue {α : Type} (operand : Nat) : M α := trap fcIllegalOperand (valueInfo operand)

/-- The effect waits, changing nothing. -/
def block {α : Type} (w : Wait) : M α := stop (.wait w)

/-- The current state. -/
def getS : M State := fun s => .ok (s, s)

/-- The state changed. -/
def modS (f : State → State) : M Unit := fun s => .ok ((), f s)

/-- A check: the trap unless the condition holds. -/
def ensure (c : Bool) (code : BitVec 8) (info : BitVec 32) : M Unit := if c then pure () else trap code info

/-- A check of an operand's value. -/
def ensureValue (c : Bool) (operand : Nat) : M Unit := if c then pure () else badValue operand

/-- Which streams issue an opcode (Table 21.1). -/
def issuedBy (op : BitVec 8) (st : Stream) : Bool :=
  let n := op.toNat
  if n < 0x30 then true
  else match st with
    | .c => decide (0x40 ≤ n ∧ n < 0x58)
    | .a => decide (0x60 ≤ n ∧ n < 0x78)
    | .x => decide ((0x80 ≤ n ∧ n < 0xB8) ∨ (0xC0 ≤ n ∧ n < 0xD0))
    | .s => decide (0xD0 ≤ n ∧ n < 0xE8)

/-- The PRED test (R135). -/
def predHolds (p : Pred) (s : State) : Bool :=
  (s.readP (Fin.ofNat 8 p.p.toNat)).getLsbD 0 != p.neg

/-- The die a requester's router belongs to (R433). -/
def requesterDie (s : State) : Requester → Nat
  | .stream tid _ => ((getTask? s tid).map (fun t => s.dieOf t.core)).getD 0
  | .bte n => n.val / 4
  | .lighter n => n.val / 4
  | .stash tid => ((getTask? s tid).map (fun t => s.dieOf t.core)).getD 0
  | .replay tid => ((getTask? s tid).map (fun t => s.dieOf t.core)).getD 0
  | .remote _ (.bte n) => n.val / 4
  | .remote _ (.lighter n) => n.val / 4
  | .gate => 0
  | .quay => 0
  | .host => 0

/-- The word an access comes from: its opcode, its stream and its VA (Table 20.4). -/
structure AccessWord where
  op     : BitVec 8
  stream : Nat
  pc     : BitVec 64
deriving DecidableEq, Repr

/-- The word a logged write comes from; a stash write-back has none (Table 22.2). -/
def LogWrite.word (w : LogWrite) : Option AccessWord := if w.op = 0xE1#8 then none else some ⟨w.op, 3, w.pc⟩

/-- The word of the logged write to an IA that a task replays. -/
def replayWord (s : State) (by_ : Requester) (ia : Nat) : Option AccessWord :=
  match by_ with
  | .replay tid => (getTask? s tid).bind (fun t =>
      ((t.sidelog.flatMap (·.write)).find? (fun w => w.bytes.any (fun b => b.1 == ia))).bind LogWrite.word)
  | _ => none

/-- The record of a translation fault (R433, Table 25.3). -/
def pageRecord (s : State) (by_ : Requester) (ia : Nat) (w : Option AccessWord) : RecIn :=
  let r : RecIn := { code := fcPageFault, sev := 0, mkind := 6, addr := BitVec.ofNat 64 ia }
  let r := match w with
    | some x => { r with op := x.op, stream := x.stream, pc := x.pc }
    | none => r
  match by_ with
  | .stream tid _ | .stash tid | .replay tid => match getTask? s tid with
    | some t => ofTask s t r
    | none => r
  | .bte n => { r with unit := n.val, die := n.val / 4 }
  | .lighter n => { r with unit := n.val, die := n.val / 4 }
  | .remote _ (.bte n) => { r with unit := n.val, die := n.val / 4 }
  | .remote _ (.lighter n) => { r with unit := n.val, die := n.val / 4 }
  | _ => r

/-- Writes of one page of a task put at the end of its log, or waiting for an entry while 64 are in use
(R436, R439). -/
def appendLog (tid page : Nat) (ws : List LogWrite) (s : State) : State :=
  match getTask? s tid with
  | none => s
  | some t =>
    if t.sidelog.length < 64 ∧ t.logWait = [] then
      let s := refreshArea tid (modTask tid (fun t => { t with
        sidelog := t.sidelog ++ [⟨t.logSeq, page, ws, false⟩]
        logSeq := t.logSeq + 1 }) s)
      if t.sidelog.length = 63 then addTaskRecord tid
        { code := fcSidelogFull, sev := 0, mkind := 6, addr := BitVec.ofNat 64 (page * 65536) } s else s
    else modTask tid (fun t => { t with logFull := true, logWait := t.logWait ++ [⟨0, page, ws, false⟩] }) s

/-- The poisoned words of a line of a task's local store, by number in the line (R411). -/
def Task.lineBad (t : Task) (off : Nat) : List Nat := (List.range 16).filter (fun i => t.lsPoison.contains (off / 8 + i))

/-- The LS offset of a task's dirty stash copy of a line. -/
def Task.dirtyCopy (t : Task) (line : Nat) : Option Nat :=
  (t.stash.find? (fun m => decide (m.ia ≤ line) && decide (line < m.ia + m.len)
    && m.lines.any (fun l => l.dirty && m.ia + l.off == line))).map (fun m => m.lsOff + (line - m.ia))

/-- A recall whose write-back faults: the copy is invalidated and the write-back enters its owner's log (R441). -/
def logRecall (tid line : Nat) (s : State) : State :=
  match (getTask? s tid).bind (fun t => (t.dirtyCopy line).map (fun off => (t, off))) with
  | none => s
  | some (t, off) =>
    let w : LogWrite := { op := 0xE1, opk := 0, ord := 0, scope := 0, size := 0, tag := false, pc := 0, va := 0, ia := line
                          bytes := atAddr line (readCells t.ls off 128), red := false, id := t.wnext, after := []
                          bad := t.lineBad off }
    appendLog tid (line / 65536) [w] (modTask tid (fun t => { t with
      stash := t.stash.map (fun m => { m with lines := m.lines.filter (fun l => m.ia + l.off != line) })
      wnext := t.wnext + 1 }) s)

/-- An access of a word held at a walker, which remembers that the page has no entry; the first one that a die
holds on a page writes a record (R94, R433; log 53). -/
def holdWord (w : Option AccessWord) (die page ia : Nat) (by_ : Requester) (s : State) : State :=
  atPack (fun p => p.pkg == page / 2 ^ 31) (fun s =>
    if s.held.any (fun h => h.page == page && h.by_ == by_) then s
    else
      let first := s.held.all (fun h => h.page != page || h.die != die)
      let s := { s with
        held := s.held ++ [⟨die, page, by_, ia⟩],
        noWalks := if s.noWalks.contains (die, page % 2 ^ 31) || decide (8 ≤ (lookupD 0xF#4 (page % 2 ^ 31 / 32) s.homeMap).toNat)
          then s.noWalks else (die, page % 2 ^ 31) :: s.noWalks }
      if first then addRecord (pageRecord s by_ ia w) s else s) s

/-- An access that met a translation fault is held; a recall's write-back goes to its owner's log besides (R433,
R441). -/
def holdFault (die page ia : Nat) (by_ : Requester) (s : State) : State :=
  let s := holdWord (replayWord s by_ ia) die page ia by_ s
  match by_ with
  | .replay tid => logRecall tid (ia / 128 * 128) s
  | _ => s

/-- The current word's access that met a translation fault is held. -/
def holdCurrent (op : BitVec 8) (die page ia : Nat) (by_ : Requester) (s : State) : State :=
  match by_ with
  | .stream _ _ => holdWord (some ⟨op, streamNum s.cur, s.strm.pc⟩) die page ia by_ s
  | _ => holdFault die page ia by_ s

/-- The home slice asks the host to give up its copy of a line (R127). -/
def askHost (line : Nat) (s : State) : State :=
  atPack (fun p => p.pkg == bits line 47 11) (fun s =>
    if s.backInval.any (fun x => x.1 == line) then s else { s with backInval := s.backInval ++ [(line, s.tick)] }) s

/-- A circuit to a package is wanted (R369). -/
def demandCircuit (pkg : Nat) (s : State) : State :=
  if s.demand.contains pkg then s else { s with demand := s.demand ++ [pkg] }

/-- What the step does with an instruction's effect.  A branch target that R29 rejects traps BRANCH_TARGET
and leaves the state as it was (R157, R171). -/
def finishFlow (op : BitVec 8) (s : State) (r : Except Stop (Flow × State)) : Host.Outcome State Fault Refusal :=
  match r with
  | .ok (.seq, s') => .next (retire s')
  | .ok (.hold w, s') => .next (setWait w s')
  | .ok (.branch va, s') =>
    if targetKind s.strm.sec va = .bad then .next (takeTrap fcBranchTarget op (va.setWidth 32) va s)
    else .next (jumpTo va s')
  | .ok (.breakpoint info, s') =>
    .next (freezeTask s.task.tid ⟨fcBreakpoint, op, some s.cur, 0, info, 0⟩ 0 s.strm.pc (retire s'))
  | .ok (.finish, s') => .next (finishStream s')
  | .ok (.trapAfter c i, s') => .next (takeTrap c op i 0 s')
  | .error (.trap c i a) => .next (takeTrap c op i a s)
  | .error (.wait w) => .next (setWait w s)
  | .error (.sem w) => .next (modStrm (fun r => { r with wait := some .sem, semw := some w }) s)
  | .error (.page d p ia b) => .next (setWait (.page d p) (holdCurrent op d p ia b s))
  | .error (.hostLine l) => .next (setWait .memory (askHost l s))
  | .error (.circuit p) => .next (setWait .memory (demandCircuit p s))
  | .error (.fault f) => .fault f
  | .error (.refused r) => .refused r

/-- Issuing a word whose opcode is assigned: the stream check, the decode checks of stage 4, the PRED
test, then its effect (Table 21.4).  `check` answers the INFO of the first field rule broken. -/
def issue (op : BitVec 8) (p : Pred) (check : State → Option (BitVec 32)) (body : M Flow) (s : State) :
    Host.Outcome State Fault Refusal :=
  if ¬ issuedBy op s.cur then .next (takeTrap fcIllegalOpcode op 1 0 s)
  else match check s with
    | some info => .next (takeTrap fcIllegalOperand op info 0 s)
    | none => if predHolds p s then finishFlow op s (body s) else .next (retire s)

/-- The first of a list of field rules that is broken, as its field code (R421, stage 4). -/
def firstBroken : List (Bool × Nat) → Option (BitVec 32)
  | [] => none
  | (ok, code) :: r => if ok then firstBroken r else some (fieldInfo code)

/-- A frozen BREAKPOINT task goes back to run (R402): it joins its node's resume queue; the entry is
cleared; in a graph that has failed its context is freed (R457).  This is the return from the freeze; a trap section returns by ordinary branches (R63). -/
def resumeFrozen (n : Nat) (s : State) : State :=
  match s.frozen[n]? with
  | some e =>
    if e.v ∧ e.bkpt then
      let s := { s with frozen := s.frozen.setIfInBounds n ⟨0, false, false, 0⟩ }
      match getTask? s e.tid with
      | some t =>
        let g := getSlot s t.slot
        if g.failed ∨ g.running = none then freeContext e.tid s else
        let s := modTask e.tid (fun t => { t with status := .saved, bkpt := false }) s
        modNode t.slot t.node (fun nd => { nd with resume := nd.resume ++ [e.tid] }) s
      | none => s
    else s
  | none => s

/-- An event that changes the state and never stops. -/
def occur (f : State → State) (s : State) : Host.Outcome State Fault Refusal := .next (f s)

end Sys2Proof.Machine
end

