-- ==== Sys2Proof/Machine/Memory.lean ====
section
/-! DEFINITION. Memory: cells in canonical form, windows, memory-side translation, the L1, the write and
read events of a home slice, and the coherence of stash copies (05, 06, 22). -/

namespace Sys2Proof.Machine

/-- The key of a stack-physical address. -/
def stackKey (die addr : Nat) : Nat := die * 2 ^ 36 + addr

/-- The key of a byte of another package, by its IA (log 12). -/
def remoteKey (ia : Nat) : Nat := 2 ^ 58 + ia

/-- The key of a byte of host memory, by its 64-bit host address. -/
def hostKey (addr : Nat) : Nat := 2 ^ 60 + addr

/-- The start of the device span and of the host aperture (R88, R376). -/
def deviceSpan : Nat := 0x7F0000000000
def hostAperture : Nat := 0x7F8000000000

/-- PKG and OFFSET of an IA (Table 05.1). -/
def iaPkg (ia : Nat) : Nat := bits ia 47 11
def iaOff (ia : Nat) : Nat := ia % 2 ^ 47

/-- Whether a package is present in the system map (R368). -/
def State.present (s : State) (pkg : Nat) : Bool :=
  pkg == s.pkg || (s.pkgnum.getLsbD 11 && s.pkgmap.getLsbD pkg)

/-- The home map's entry of a region (R90). -/
def State.homeOf (s : State) (off : Nat) : Nat := (lookupD 0xF#4 (off / 2 ^ 21) s.homeMap).toNat

/-- The home slice of an IA within its die (R91). -/
def sliceOf (ia : Nat) : Nat :=
  let h := bits ia 7 14
  (h ^^^ (h / 16) ^^^ (h / 256) ^^^ (h / 4096)) % 16

/-- The translation entry at a stack-physical address. -/
def readPte (s : State) (die addr : Nat) : Nat := bytesNat (readCells s.mem (stackKey die addr) 8)

/-- Whether an entry's reserved fields are zero and it is valid (Table 05.3). -/
def pteValid (e : Nat) : Bool := bitN e 0 && bits e 36 28 == 0 && bits e 5 11 == 0

/-- PTE.ADDR as an address. -/
def pteAddr (e : Nat) : Nat := bits e 16 20 * 65536

/-- Whether a line has a home slice on this package: the device span has none (R88, R376). -/
def State.homedHere (s : State) (ia : Nat) : Bool := iaPkg ia == s.pkg && decide (iaOff ia < deviceSpan)

/-- The walk of the three levels for an offset on its home die (R93); none is a translation fault. -/
def walk (s : State) (die off : Nat) : Option WalkEntry :=
  let page := off / 65536
  let root := ((s.roots[die % 8]'(Nat.mod_lt _ (by decide))).toNat) % 2 ^ 36
  let e0 := readPte s die (root + 8 * bits off 34 13)
  if ¬ pteValid e0 ∨ bitN e0 1 then none
  else
    let a1 := pteAddr e0 + 8 * bits off 21 13
    let e1 := readPte s die a1
    if ¬ pteValid e1 then none
    else if bitN e1 1 then
      if bits e1 16 5 ≠ 0 ∨ s.frameFenced.contains (die, pteAddr e1 / 65536 + bits off 16 5) then none
      else some ⟨page, die, pteAddr e1 + bits off 16 5 * 65536, a1, true, bitN e1 2⟩
    else
      let a2 := pteAddr e1 + 8 * bits off 16 5
      let e2 := readPte s die a2
      if ¬ pteValid e2 ∨ ¬ bitN e2 1 ∨ s.frameFenced.contains (die, pteAddr e2 / 65536) then none
      else some ⟨page, die, pteAddr e2, a2, false, bitN e2 2⟩

/-- Where a byte lies. -/
inductive Place where
  | stack (e : WalkEntry) (key : Nat)
  | flat (key : Nat)
  | device (off : Nat)
  | away
  | absent
  | lost
  | fault (die : Option Nat)
deriving DecidableEq, Repr

/-- Whether the circuit to a package has ended and no later one is up (R467). -/
def Pack.circuitLost (s : Pack) (pkg : Nat) : Bool :=
  s.circuits.any (fun c => c.far.toNat == pkg && c.state == .ended)
    && s.circuits.all (fun c => c.far.toNat != pkg || c.state != .up)

/-- The place of an IA: another package's memory, the device span, or a page on the home die's stack, through
what its walker has cached, be it an entry or that the page has none (R88, R90, R93, R94, R442; log 53). -/
def locate (s : State) (ia : Nat) : Place :=
  let pkg := iaPkg ia
  let off := iaOff ia
  if ¬ s.present pkg then .absent
  else if pkg ≠ s.pkg ∧ s.circuitLost pkg then .lost
  else if hostAperture ≤ off then
    (if pkg = s.pkg then .flat (hostKey ((s.hwbase.toNat + (off - hostAperture)) % 2 ^ 64))
     else if s.hasPeer pkg then .away else .flat (remoteKey ia))
  else if deviceSpan ≤ off then .device off
  else if pkg ≠ s.pkg then (if s.hasPeer pkg then .away else .flat (remoteKey ia))
  else
    let d := s.homeOf off
    if 8 ≤ d then .fault none
    else
      match s.walks.find? (fun e => e.page == off / 65536 && e.die == d) with
      | some e => .stack e (stackKey d (e.frame + off % 65536))
      | none =>
        if s.noWalks.contains (d, off / 65536) then .fault (some d) else
        match walk s d off with
        | some e => .stack e (stackKey d (e.frame + off % 65536))
        | none => .fault (some d)

/-- A walk entry kept by its walker (R94). -/
def cacheWalk (e : WalkEntry) (s : State) : State :=
  if s.walks.contains e then s else { s with walks := e :: s.walks }

/-- Whether a requester's access to a page is held and not yet resolved (R433). -/
def isHeld (s : State) (page : Nat) (by_ : Requester) : Bool :=
  s.held.any (fun h => h.page == page && h.by_ == by_)

/-- Whether the region of an IA is migrating, so that routers hold new accesses to it (R96). -/
def State.moving (s : State) (ia : Nat) : Bool :=
  s.homedHere ia && s.migrating.any (fun m => m.region == iaOff ia / 2 ^ 21)

/-- The place of a byte for a requester: a translation fault, an access of it that is held, or a migration of
its region stops the access (R96, R433, R435). -/
def place (by_ : Requester) (ia : Nat) : M Place := fun s =>
  if s.moving ia then .error (.wait .memory) else
  match locate s ia with
  | .fault d =>
    let die := d.getD (requesterDie s by_)
    .error (.page die (ia / 65536) ia by_)
  | .stack e key =>
    if isHeld s (ia / 65536) by_ then .error (.page e.die (ia / 65536) ia by_)
    else .ok (.stack e key, cacheWalk e s)
  | .absent => .error (.trap fcPkgAbsent 0 (BitVec.ofNat 64 ia))
  | .device _ => .error (.trap fcAperture 0 (BitVec.ofNat 64 ia))
  | .lost => .error (.trap fcCircuitFail 0 (BitVec.ofNat 64 ia))
  | p => .ok (p, s)

/-- Whether the page of an entry is discarded, as the walker knows it (R94, R108). -/
def discarded (e : WalkEntry) : Bool := e.disc

/-- The byte a read event returns (R108, R111). -/
def byteAt (s : State) : Place → BitVec 8
  | .stack e key => if discarded e then 0 else readCell s.mem key
  | .flat key => readCell s.mem key
  | _ => 0

/-- The key of a place. -/
def Place.key : Place → Nat
  | .stack _ k => k
  | .flat k => k
  | _ => 0

/-- The access counter of a requester: its die, or 8 for another package; the host's accesses count as another
package's (R92; log 54). -/
def counterOf (s : State) (by_ : Requester) : Nat :=
  match by_ with
  | .host | .remote _ _ => 8
  | .stream tid _ | .stash tid | .replay tid => if (ownTask? s tid).isSome then requesterDie s by_ else 8
  | b => requesterDie s b

/-- The task on whose behalf a requester of this package accesses memory. -/
def requesterTask (s : State) (by_ : Requester) : Option Nat :=
  match by_ with
  | .stream tid _ | .stash tid | .replay tid => some tid
  | .bte n => s.chans[n].run.bind (·.job.tid)
  | .lighter n => s.lighters[n].run.map (·.prog.tid)
  | _ => none

/-- The placement engine has counts for the node of a task (R355). -/
def markNode (by_ : Requester) (s : State) : State :=
  match requesterTask s by_ with
  | some tid => atTask tid (fun s => match ownTask? s tid with
      | some t => modNode t.slot t.node (fun n => { n with counted := true }) s
      | none => s) s
  | none => s

/-- One access of a page homed here counted for the placement engine (R92, R355). -/
def countAccess (by_ : Requester) (ia : Nat) (s : State) : State :=
  if ¬ s.homedHere ia then s else
  let page := ia / 65536
  let who := counterOf s by_
  let old := ((s.counters.find? (fun c => c.1 == page && c.2.1 == who)).map (·.2.2)).getD 0
  let rest := s.counters.filter (fun c => !(c.1 == page && c.2.1 == who))
  markNode by_ { s with counters := (page, who, min 65535 (old + 1)) :: rest }

/-- The line of an IA (R89). -/
def lineOf (ia : Nat) : Nat := ia / 128 * 128

/-- PTE.DISC of a leaf set or cleared by the walker, in its cached entries too (R93, R108). -/
def setDisc (e : WalkEntry) (v : Bool) (s : State) : State :=
  let p := stackKey e.die e.leaf
  { s with
    mem := writeCell s.mem p (if v then readCell s.mem p ||| 0x04#8 else readCell s.mem p &&& 0xFB#8)
    walks := s.walks.map (fun w => if w.die = e.die ∧ w.leaf = e.leaf then { w with disc := v } else w) }

/-- A discarded page made resident again, every byte of it zero and none poisoned (R108). -/
def revive (e : WalkEntry) (s : State) : State :=
  let base := stackKey e.die (if e.big then e.frame / 2 ^ 21 * 2 ^ 21 else e.frame)
  let size := if e.big then 2 ^ 21 else 65536
  setDisc e false { s with
    mem := zeroCells s.mem base (base + size)
    poison := s.poison.filter (fun k => !(decide (base ≤ 8 * k) && decide (8 * k < base + size))) }

/-- The bytes of one line written at their places; the first write to a discarded page makes it
resident (R108); a whole-line write clears poison (R411). -/
def putBytes (ws : List (Place × BitVec 8)) (s : State) : State :=
  let s := match ws.head?.map (·.1) with
    | some (.stack e _) => if discarded e then revive e s else s
    | _ => s
  let s := { s with mem := writeCells s.mem (ws.map (fun w => (w.1.key, w.2))) }
  if ws.length = 128 then { s with poison := s.poison.filter (fun k => !(ws.any (fun w => w.1.key / 8 == k))) } else s

/-- A SLEEP that watches one of the lines of a range sees the write event (R111, R200). -/
def noteRange (ia len : Nat) (s : State) : State :=
  let f (t : Task) : Task := match t.watch with
    | some w => if ia ≤ w.line ∧ w.line < ia + len then { t with watch := some { w with hit := true } } else t
    | none => t
  mapPacks (fun p => { p with task := f p.task, others := p.others.map f }) s

/-- A SLEEP that watches a line sees the write (R200). -/
def noteWatch (line : Nat) (s : State) : State := noteRange line 1 s

/-- The slice sequence counter of a line (R114): its value is the event's tag, then it advances. -/
def nextTag (ia : Nat) (s : State) : BitVec 32 × State :=
  let i := (s.homeOf (iaOff ia) % 8 * 16 + sliceOf ia) % 128
  let v := s.sliceSeq[i]'(Nat.mod_lt _ (by decide))
  (v, { s with sliceSeq := s.sliceSeq.set i (v + 1) (Nat.mod_lt _ (by decide)) })

/-- The migration count of a region (R114, R218). -/
def State.migOf (s : State) (off : Nat) : Nat := lookupD 0 (off / 2 ^ 21) s.migCount

/-- The acknowledgement word of a write event (Table 06.2). -/
def ackWord (s : State) (ia : Nat) (tag : BitVec 32) : BitVec 64 :=
  let off := iaOff ia
  BitVec.ofNat 64 (s.migOf off % 2 ^ 14 + 2 ^ 14 * sliceOf ia + 2 ^ 18 * (s.homeOf off % 8) + 2 ^ 21 * iaPkg ia
    + 2 ^ 32 * tag.toNat)

/-- Every byte of one line's access with its place, the access being held on a fault. -/
def places (by_ : Requester) : List Nat → M (List Place)
  | [] => pure []
  | ia :: r => do
    let p ← place by_ ia
    let ps ← places by_ r
    pure (p :: ps)

/-- Whether a place reads as a discarded page, which has no poison (R108). -/
def Place.gone : Place → Bool
  | .stack e _ => discarded e
  | _ => false

/-- DATA_POISON for a read of a poisoned byte (R411): INFO is the byte's offset in its line. -/
def checkPoison (ias : List Nat) (ps : List Place) : M Unit := fun s =>
  match (ias.zip ps).find? (fun x => !x.2.gone && s.poison.contains (x.2.key / 8)) with
  | some (ia, _) => .error (.trap fcDataPoison (BitVec.ofNat 32 (ia % 128)) (BitVec.ofNat 64 ia))
  | none => .ok ((), s)

/-- The dirty or clean stash line of a mapping that covers an IA line. -/
def Stash.lineAt (m : Stash) (line : Nat) : Option StashLine :=
  if m.ia ≤ line ∧ line < m.ia + m.len then m.lines.find? (fun l => m.ia + l.off == line) else none

/-- A task's stash mappings without a line. -/
def Task.dropStash (line : Nat) (t : Task) : Task :=
  { t with stash := t.stash.map (fun m => { m with lines := m.lines.filter (fun l => m.ia + l.off != line) }) }

/-- The tasks that hold a copy of a line, with its LS offset and whether it is dirty. -/
def stashHolders (s : State) (line : Nat) : List (Nat × Nat × Bool) :=
  (everyTask s).flatMap (fun t => t.stash.filterMap (fun m =>
    (m.lineAt line).map (fun l => (t.tid, m.lsOff + l.off, l.dirty))))

/-- Whether an IA lies in this package's host aperture (R376). -/
def State.inAperture (s : State) (ia : Nat) : Bool := decide (hostAperture ≤ iaOff ia) && iaPkg ia == s.pkg

/-- A write to the host while its link is down is dropped, with one record per link-down event (R473). -/
def dropHostWrite (s : State) : State :=
  if s.hostDropped then s
  else addRecord { code := fcHostError, sev := 1, mkind := 8 } { s with hostDropped := true }

/-- A line whose copy the host holds is asked back before the device changes it (R127). -/
def gateHost (by_ : Requester) (line : Nat) : M Unit := fun s =>
  if by_ ≠ .host ∧ s.hostLines.contains line then .error (.hostLine line) else .ok ((), s)

/-- The acknowledgement word of a write event: its slice's tag, or a free value where no home slice applies it
(R88, R114, R376; log 55). -/
def tagWord (ia : Nat) (s : State) : BitVec 64 × State :=
  if s.homedHere ia then
    let r := nextTag ia s
    (ackWord s ia r.1, r.2)
  else (BitVec.ofNat 64 (Config.freeNat 8 s.free s.tick), { s with free := s.free + 1 })

/-- The bytes of a write event applied at their home slice, with its acknowledgement word (R111, R114). -/
def applyLine (by_ : Requester) (ws : List (Nat × BitVec 8)) : M (BitVec 64) := do
  match ws with
  | [] => pure 0
  | (ia, _) :: _ =>
    let ps ← places by_ (ws.map (·.1))
    gateHost by_ (lineOf ia)
    let s ← getS
    if s.inAperture ia ∧ ¬ s.hostUp then
      modS dropHostWrite
      pure 0
    else
    let r := tagWord ia (noteWatch (lineOf ia) (countAccess by_ ia (putBytes (ps.zip (ws.map (·.2))) s)))
    modS (fun _ => r.2)
    pure r.1

/-- Whether a line of an IA has an entry in a task's log, or a write waiting for one (R437). -/
def Task.lineLogged (t : Task) (line : Nat) : Bool :=
  (t.sidelog ++ t.logWait).any (fun e => e.write.any (fun w => lineOf w.ia == line))

/-- Words of a line marked poisoned at its home slice, as the copy written back there is (R411). -/
def carryPoison (line : Nat) (ws : List Nat) (s : State) : State :=
  let mark (key : Nat) : State := { s with poison := s.poison ++ (ws.map (fun i => key / 8 + i)).filter (fun k => !s.poison.contains k) }
  match locate s line with
  | .stack _ key => mark key
  | .flat key => mark key
  | _ => s

/-- The stash copies of a line recalled before another agent's access: dirty ones are written back and
invalidated, in the order of their tasks; a write, a write-back among them, invalidates every other copy.
`keep` is the task whose own write-back this is (R104; log 56). -/
def recallLine (line : Nat) (isWrite : Bool) (keep : Option Nat) : M Unit := do
  let s ← getS
  let hs := (stashHolders s line).filter (fun h => keep != some h.1)
  for h in hs do
    if h.2.2 then
      let t := (getTask? s h.1).getD s.task
      if t.lineLogged line then stop (.wait .log)
      let _ ← applyLine (.replay h.1) (atAddr line (readCells t.ls h.2.1 128))
      modS (fun s => modTask h.1 (Task.dropStash line) (carryPoison line (t.lineBad h.2.1) s))
    else pure ()
  if isWrite || hs.any (fun h => h.2.2) then modS (fun s => hs.foldl (fun s h => modTask h.1 (Task.dropStash line) s) s)
  else pure ()

/-- Whether a task's log holds a stash write-back of a line that will be replayed (R441). -/
def Task.backLogged (t : Task) (line : Nat) : Bool :=
  (t.sidelog ++ t.logWait).any (fun e => !e.dead && e.write.any (fun w => w.op == 0xE1#8 && lineOf w.ia == line))

/-- An access to a line whose recalled stash copy stands in a log waits for the replay (R441). -/
def gateRecall (by_ : Requester) (line : Nat) : M Unit := fun s =>
  match by_ with
  | .replay _ => .ok ((), s)
  | _ => if (everyTask s).any (fun t => t.backLogged line) then .error (.wait .log) else .ok ((), s)

/-- A load of a task to a page its log still holds a write for waits for the replay (R437, R438). -/
def gateReplay (by_ : Requester) (line : Nat) : M Unit := fun s =>
  let t? := match by_ with
    | .stream tid _ | .stash tid => getTask? s tid
    | _ => none
  match t? with
  | some t =>
    if (t.sidelog ++ t.logWait).any (fun e => e.page == line / 65536) then .error (.wait .log) else gateRecall by_ line s
  | none => gateRecall by_ line s

/-- A requester as another package knows it (R364). -/
def abroad (pkg : Nat) : Requester → Requester
  | .bte n => .remote pkg (.bte n)
  | .lighter n => .remote pkg (.lighter n)
  | b => b

/-- Whether a circuit to a package is up (R369). -/
def State.circuitUp (s : State) (pkg : Nat) : Bool := s.circuits.any (Circuit.leads pkg)

/-- An access that leaves the package travels over a circuit in a data flit, for which it waits while the circuit takes
none; while there is no circuit the access waits in its optical engine and one is set up on demand (R364, R369, R372). -/
def gateLink (pkg : Nat) : M Unit := fun s =>
  if pkg = s.pkg ∨ ¬ s.present pkg ∨ s.circuitLost pkg then .ok ((), s)
  else if s.circuitUp pkg then (if s.canSend pkg then .ok ((), sendFree pkg s) else .error (.wait .memory))
  else .error (.circuit pkg)

/-- Whether nothing of this package reaches another one any more (R467). -/
def Pack.cutFrom (s : Pack) (pkg : Nat) : Bool := pkg != s.pkg && s.circuitLost pkg

/-- The same for the package of an IA; a request that can no more reach it freezes its task (R467). -/
def gateCircuit (ia : Nat) : M Unit := fun s =>
  if s.cutFrom (iaPkg ia) then .error (.trap fcCircuitFail 0 (BitVec.ofNat 64 ia)) else gateLink (iaPkg ia) s

/-- What the package of an IA does for a requester: this one, or another one over a circuit (R364). -/
def atHome {α : Type} (by_ : Requester) (ia : Nat) (m : Requester → M α) : M α := fun s =>
  if iaPkg ia = s.pkg then m by_ s
  else match gateCircuit ia s with
    | .error e => .error e
    | .ok (_, s) => onPack (Pack.isPkg (iaPkg ia)) (m (abroad s.pkg by_)) s

/-- One read event: the bytes of an access within one line (R89, R111), `count` when the placement engine
counts it. -/
def readEvent (count : Bool) (by_ : Requester) (ias : List Nat) : M (List (BitVec 8)) := do
  match ias with
  | [] => pure []
  | ia :: _ =>
    gateReplay by_ (lineOf ia)
    recallLine (lineOf ia) false none
    let ps ← places by_ ias
    checkPoison ias ps
    let s ← getS
    if s.inAperture ia ∧ ¬ s.hostUp then
      stop (.trap fcDataPoison (BitVec.ofNat 32 (ia % 128)) (BitVec.ofNat 64 ia))
    if count then modS (countAccess by_ ia) else pure ()
    pure (ps.map (byteAt s))

/-- A read event at the line's home slice (R89, R111, R364). -/
def readLine (by_ : Requester) (ias : List Nat) : M (List (BitVec 8)) :=
  atHome by_ (ias.headD 0) (fun b => readEvent true b ias)

/-- One write event of a line at its home slice (R89, R111, R364): copies are recalled first; its acknowledgement
word is returned. -/
def writeLine (by_ : Requester) (ws : List (Nat × BitVec 8)) : M (BitVec 64) :=
  match ws with
  | [] => pure 0
  | (ia, _) :: _ => atHome by_ ia (fun b => do
    gateRecall b (lineOf ia)
    recallLine (lineOf ia) true none
    applyLine b ws)

/-- A read and a write in one step of line order (R92, R111): the bytes that `f` makes of the old ones are
applied; it answers the acknowledgement word and f's result. -/
def updateLine {α : Type} (by_ : Requester) (ias : List Nat) (f : List (BitVec 8) → List (BitVec 8) × α) : M (BitVec 64 × α) :=
  atHome by_ (ias.headD 0) (fun b => do
    recallLine (lineOf (ias.headD 0)) true none
    let old ← readEvent false b ias
    let r := f old
    let w ← applyLine b (ias.zip r.1)
    pure (w, r.2))

/-- An access cut at line boundaries (R89): the first line's part and the rest, `n` bytes in all. -/
def splitLines : Nat → List Nat → List (List Nat)
  | 0, _ => []
  | fuel + 1, l =>
    match l with
    | [] => []
    | a :: _ => l.takeWhile (fun b => lineOf b == lineOf a) :: splitLines fuel (l.dropWhile (fun b => lineOf b == lineOf a))

/-- The IAs of n bytes from an IA (modulo 2^58), by line. -/
def lineParts (ia n : Nat) : List (List Nat) :=
  splitLines (n + 1) ((span ia n).map (fun a => a % 2 ^ 58))

/-- A read of n bytes, line by line. -/
def readIa (by_ : Requester) (ia n : Nat) : M (List (BitVec 8)) := do
  let parts ← (lineParts ia n).mapM (readLine by_)
  pure parts.flatten

/-- A write of bytes, line by line; the acknowledgement words in address order. -/
def writeIa (by_ : Requester) (ia : Nat) (bs : List (BitVec 8)) : M (List (Nat × BitVec 64)) := do
  let ws := (lineParts ia bs.length)
  let rec go : List (List Nat) → List (BitVec 8) → M (List (Nat × BitVec 64))
    | [], _ => pure []
    | p :: ps, d => do
      let t ← writeLine by_ (p.zip d)
      let r ← go ps (d.drop p.length)
      pure ((p.headD 0, t) :: r)
  go ws bs

/-- Bytes of a lock word written at their home slice: no write event of R111, so no tag (R121). -/
def pokeIa (by_ : Requester) (ia : Nat) (bs : List (BitVec 8)) : M Unit :=
  atHome by_ ia (fun b => do
    gateRecall b (lineOf ia)
    recallLine (lineOf ia) true none
    let ps ← places b (span ia bs.length)
    gateHost b (lineOf ia)
    modS (fun s => noteWatch (lineOf ia) (putBytes (ps.zip bs) s)))

/-- The window of a number. -/
def State.window (s : State) (n : Nat) : Window := s.task.win[n % 8]'(Nat.mod_lt _ (by decide))

/-- The rights a window can grant (Table 03.4). -/
inductive Right where
  | r | w | a | x
deriving DecidableEq, Repr

/-- Whether a window grants a right. -/
def Window.grants (x : Window) : Right → Bool
  | .r => x.r
  | .w => x.w
  | .a => x.a
  | .x => x.x

/-- The result of R58: the IA, or the fault code and the lowest failing byte. -/
def translate (x : Window) (va size : Nat) (right : Right) : Except (BitVec 8 × Nat) Nat :=
  let lo := x.base.toNat * 4096
  let hi := x.limit.toNat * 4096 + 4095
  if ¬ x.v ∨ hi < lo then .error (fcWindowInvalid, va)
  else if va < lo then .error (fcWindowBound, va)
  else if hi < va + size - 1 then .error (fcWindowBound, if hi < va then va else hi + 1)
  else if ¬ x.grants right then .error (fcWindowRights, va)
  else .ok ((va + x.offset.toNat * 4096) % 2 ^ 58)

/-- The kind of an access to the device span (R443). -/
inductive SpanUse where
  | plain
  | atomic
deriving DecidableEq, Repr

/-- The INFO of a trap for which no table gives one: a free value (log 23). -/
def State.freeInfo (s : State) : BitVec 32 := BitVec.ofNat 32 (Config.freeNat 4 s.free s.tick)

/-- Stage 9 for one element: the window, then the package and the device span (R58, R442, R443).
`elem` is the element's index when the access has several (Table 21.5). -/
def windowIa (n : Nat) (va size : Nat) (right : Right) (use : SpanUse) (elem : Option Nat) : M Nat := do
  let s ← getS
  match translate (s.window n) va size right with
  | .error (code, low) => stop (.trap code (BitVec.ofNat 32 (elem.getD low)) (BitVec.ofNat 64 low))
  | .ok ia =>
    let info := BitVec.ofNat 32 (elem.getD va)
    match locate s ia with
    | .absent => stop (.trap fcPkgAbsent info (BitVec.ofNat 64 va))
    | .device _ => stop (.trap fcAperture s.freeInfo (BitVec.ofNat 64 va))
    | _ =>
      if use = .atomic ∧ hostAperture ≤ iaOff ia then stop (.trap fcAperture s.freeInfo (BitVec.ofNat 64 va)) else pure ia

/-- Who the current stream is, as a requester. -/
def State.self (s : State) : Requester := .stream s.task.tid s.cur

/-- Whether an IA lies in the host aperture, which is never cached (R376). -/
def inHost (ia : Nat) : Bool := decide (hostAperture ≤ iaOff ia)

/-- The L1 copy of a line (R106). -/
def l1Find (s : State) (line : Nat) : Option (List (BitVec 8)) :=
  (s.l1.find? (fun l => l.core == s.task.core && l.line == line)).map (·.data)

/-- A line allocated in the L1, in the set that IA bits 12 to 7 name; in a full set a free choice of victim leaves
(R106; log 7). -/
def l1Fill (line : Nat) (data : List (BitVec 8)) (s : State) : State :=
  let core := s.task.core
  let set := line / 128 % 64
  let same := s.l1.filter (fun l => l.core == core && l.line / 128 % 64 == set)
  if same.length < 8 then { s with l1 := ⟨core, line, data⟩ :: s.l1 }
  else
    let v := (same[Config.freeNat 5 s.free s.tick % 8]?.map (·.line)).getD line
    { s with free := s.free + 1
             l1 := ⟨core, line, data⟩ :: s.l1.filter (fun l => !(l.core == core && l.line == v)) }

/-- A core's L1 emptied (R110). -/
def l1Drop (core : Nat) (s : State) : State := { s with l1 := s.l1.filter (fun l => l.core != core) }

/-- The lines of an IA range dropped from a core's L1 (R109, R121). -/
def l1DropRange (core ia len : Nat) (s : State) : State :=
  { s with l1 := s.l1.filter (fun l => !(l.core == core && ia ≤ l.line && l.line < ia + len)) }

/-- Lines dropped from a core's L1. -/
def l1DropLines (core : Nat) (lines : List Nat) (s : State) : State :=
  { s with l1 := s.l1.filter (fun l => !(l.core == core && lines.contains l.line)) }

/-- An acquire's own action at a scope: at .die and wider the core's L1 is invalidated (Table 06.1). -/
def acquireAt (scope : BitVec 2) (s : State) : State := if scope = 0#2 then s else l1Drop s.task.core s

/-- The state with the package in front that homes an IA, where it is modelled. -/
def State.homeView (s : State) (ia : Nat) : State :=
  if iaPkg ia = s.pkg then s
  else match s.peers.findIdx? (Pack.isPkg (iaPkg ia)) with
    | some i => swapPack i s
    | none => s

/-- The bytes of a whole line as its home slice holds them; none when it cannot be read or a word of it is
poisoned. -/
def lineNow (s0 : State) (line : Nat) : Option (List (BitVec 8)) :=
  let s := s0.homeView line
  match locate s line with
  | .stack e key =>
    if discarded e then some (List.replicate 128 0)
    else if (span (key / 8) 16).any (fun k => s.poison.contains k) then none
    else some (readCells s.mem key 128)
  | .flat key => if (span (key / 8) 16).any (fun k => s.poison.contains k) then none else some (readCells s.mem key 128)
  | _ => none

/-- After a core's store to a line its resident L1 copy holds the line as it now is (R106, R113). -/
def l1Refresh (core line : Nat) (s : State) : State :=
  if s.l1.any (fun l => l.core == core && l.line == line) then
    match lineNow s line with
    | some d => { s with l1 := s.l1.map (fun l => if l.core = core ∧ l.line = line then { l with data := d } else l) }
    | none => l1DropLines core [line] s
  else s

/-- A scalar load of one line's part through the L1 (R106, R113): a hit serves the copy; a miss fills it, but not
with a line that holds poison (R411). -/
def loadL1 (ias : List Nat) : M (List (BitVec 8)) := do
  match ias with
  | [] => pure []
  | ia :: _ =>
    let s ← getS
    match l1Find s (lineOf ia) with
    | some d =>
      gateReplay s.self (lineOf ia)
      pure (ias.map (fun a => d.getD (a % 128) 0))
    | none =>
      let d ← readLine s.self ias
      modS (fun s => match lineNow s (lineOf ia) with
        | some l => l1Fill (lineOf ia) l s
        | none => s)
      pure d

/-- A load that passes the L1 by: no copy of its lines stays behind it (R113; log 19). -/
def loadPast (ia n : Nat) : M (List (BitVec 8)) := do
  let s ← getS
  let bs ← readIa s.self ia n
  modS (l1DropLines s.task.core ((lineParts ia n).map (fun p => lineOf (p.headD 0))))
  pure bs

/-- A scalar load of n bytes at an IA, through the L1 when it may be. -/
def loadScalar (ia n : Nat) (useL1 : Bool) : M (List (BitVec 8)) := do
  if useL1 ∧ ¬ inHost ia then
    let parts ← (lineParts ia n).mapM loadL1
    pure parts.flatten
  else loadPast ia n

end Sys2Proof.Machine
end

