-- ==== Sys2Proof/Machine/Fetch.lean ====
section
/-! DEFINITION. Fetching code units, entering a section, and the traps of fetch and of the code format
(02 R26 to R30, 07 R132 to R134, 21 R418, R420, R423). -/

namespace Sys2Proof.Machine

/-- What a fetch finds: bytes, a trap at a unit's VA, an access held by a translation fault, or a wait for a migration
or for a circuit to a package. -/
inductive Fetch where
  | bytes (bs : List (BitVec 8))
  | trap (code : BitVec 8) (info : BitVec 32) (va : BitVec 64)
  | hold (die page ia : Nat)
  | wait (circuit : Option Nat)
deriving DecidableEq, Repr

/-- Whether a valid window covers a 4-byte unit. -/
def Window.covers (x : Window) (va : Nat) : Bool :=
  x.v && decide (x.base.toNat * 4096 ≤ va) && decide (va + 3 ≤ x.limit.toNat * 4096 + 4095)

/-- The windows w0 to w7 in order. -/
def State.windows8 (s : State) : List Window := (List.finRange 8).map (fun i => s.task.win[i])

/-- One code unit: through the lowest-numbered valid window with X that covers it (R58, R420). -/
def fetchUnit (s : State) (va : BitVec 64) : Fetch :=
  match s.windows8.find? (fun x => x.x && x.covers va.toNat) with
  | none =>
    .trap (if s.windows8.any (fun x => x.covers va.toNat) then fcWindowRights else fcWindowBound) 0 va
  | some x =>
    let ia := (va.toNat + x.offset.toNat * 4096) % 2 ^ 58
    match locate s ia with
    | .absent => .trap fcPkgAbsent 0 va
    | .device _ => .trap fcAperture s.freeInfo va
    | .lost => .trap fcCircuitFail 0 va
    | _ =>
      let h := s.homeView ia
      if iaPkg ia ≠ s.pkg ∧ ¬ s.circuitUp (iaPkg ia) then .wait (some (iaPkg ia))
      else if h.moving ia then .wait none
      else match locate h ia with
      | .fault d => .hold (d.getD (s.dieOf s.task.core)) (ia / 65536) ia
      | p =>
        if isHeld h (ia / 65536) s.self then .hold (s.dieOf s.task.core) (ia / 65536) ia
        else if p.gone then .bytes [0, 0, 0, 0]
        else if h.poison.contains (p.key / 8) then .trap fcDataPoison (BitVec.ofNat 32 (ia % 128)) va
        else .bytes (readCells h.mem p.key 4)

/-- Consecutive code units in ascending order; the first one that fails decides. -/
def fetchUnits (s : State) (va : BitVec 64) : Nat → Fetch
  | 0 => .bytes []
  | n + 1 =>
    match fetchUnit s va with
    | .bytes bs =>
      match fetchUnits s (va + 4) n with
      | .bytes cs => .bytes (bs ++ cs)
      | f => f
    | f => f

/-- A translation fault of a fetch holds the stream (log 15). -/
def holdFetch (die page ia : Nat) (s : State) : State :=
  setWait (.page die page) (holdWord (some ⟨0, streamNum s.cur, s.strm.pc⟩) die page ia s.self s)

/-- A fetch that waits for a migration or for a circuit, which is then wanted (R96, R369). -/
def waitFetch (circuit : Option Nat) (s : State) : State :=
  setWait .memory (match circuit with
    | some p => demandCircuit p s
    | none => s)

/-- The lowest bit position of an offending field of a section header (Table 21.2, Table 21.5). -/
def headerFault (h : Nat) : Option Nat :=
  if bits h 0 10 = 0x3FF then some 0
  else if bits h 16 12 = 0 then some 16
  else if bitN h 30 then some 30
  else if bitN h 31 then some 31
  else if bits h 62 2 ≠ 0 then some 62
  else none

/-- The streams that DEP1, DEP2 and DEP3 name (R134). -/
def depStreams : Stream → List Stream
  | .c => [.a, .x, .s]
  | .a => [.c, .x, .s]
  | .x => [.c, .a, .s]
  | .s => [.c, .a, .x]

/-- dep_ok of R28. -/
def depOk (r : Strm) (d : Nat) : Bool :=
  d == 0x3FF || r.fin || (r.rsecValid && decide ((r.rsec.toNat % 1024 + 1024 - d) % 1024 < 512))

/-- The first stream whose dependency is not satisfied. -/
def unmetDep (s : State) (h : Nat) : Option Stream :=
  ((depStreams s.cur).zip [bits h 32 10, bits h 42 10, bits h 52 10]).findSome? (fun x =>
    if depOk (s.task.strm x.1) x.2 then none else some x.1)

/-- Control reaches a lead unit, or a header with no lead unit before it that is fetched: what is reached is
checked, the dependencies are evaluated, and the section begins (R28, R133, R134, R420). -/
def enterSection (s : State) : State :=
  if s.strm.fin ∨ s.strm.arrive = .inSection then s
  else
    let atLead := s.strm.arrive == .atLead
    let lead := if atLead then s.strm.pc else s.strm.pc - 4
    match if atLead then fetchUnits s lead 1 else .bytes [] with
    | .trap c i va => takeTrapAt c 0 i va va s
    | .hold d p ia => holdFetch d p ia s
    | .wait c => waitFetch c s
    | .bytes bs =>
      if bytesNat bs ≠ 0 then takeTrapAt fcIllegalEncoding 0 0x80000000 lead lead s
      else match fetchUnits s (lead + 4) 2 with
      | .trap c i va => takeTrapAt c 0 i va va s
      | .hold d p ia => holdFetch d p ia s
      | .wait c => waitFetch c s
      | .bytes hs =>
        let h := bytesNat hs
        match headerFault h with
        | some b => takeTrapAt fcIllegalEncoding 0 (BitVec.ofNat 32 (0x40000000 + b)) (lead + 4) (lead + 4) s
        | none =>
          match unmetDep s h with
          | some st => setWait (.dep st) s
          | none =>
            modStrm (fun r => { r with
              sec := ⟨lead, BitVec.ofNat 16 h, BitVec.ofNat 12 (bits h 16 12), bitN h 28, bitN h 29⟩
              arrive := .inSection, pc := lead + 12, wait := none }) s

/-- A change made as one stream of the task. -/
def withStream (st : Stream) (f : State → State) (s : State) : State :=
  { f { s with cur := st } with cur := s.cur }

/-- SECTION_ENTRY: control reaches a section header (R27, R28, R420). -/
def execSectionEntry (st : Stream) (s : State) : Host.Outcome State Fault Refusal :=
  occur (withStream st enterSection) s

/-- TRAP_ENTRY: a precise trap is taken at the word a stream stands at (R63, R405, R423). -/
def execTrapEntry (st : Stream) (code op : BitVec 8) (info : BitVec 32) (s : State) :
    Host.Outcome State Fault Refusal :=
  occur (withStream st (takeTrap code op info 0)) s

/-- UNASSIGNED_OPCODE: ILLEGAL_OPCODE with INFO 0 in every stream (R416). -/
def execUnassignedOpcode (op : BitVec 8) (_ : BitVec 88) (s : State) : Host.Outcome State Fault Refusal :=
  occur (takeTrap fcIllegalOpcode op 0 0) s

/-- The trap of a word that the code format forbids, after the stream check (Table 21.4, stages 2 and 3). -/
def formatTrap (bs : List (BitVec 8)) (e : DecodeError) (s : State) : State :=
  let op := bs.getD 11 0
  if issuedBy op s.cur then takeTrap fcIllegalEncoding op (BitVec.ofNat 32 e.bit) 0 s
  else takeTrap fcIllegalOpcode op 1 0 s

end Sys2Proof.Machine
end

