-- ==== Sys2Proof/Machine/Background.lean ====
section
/-! DEFINITION. What happens beside the instruction streams: time passing, the order of turns, and which
event of an engine or of the Quay die comes about next (log 5, log 6). -/

namespace Sys2Proof.Machine

/-- The stream a wait is internally held on (R450); none for an external wait. -/
def heldOn (w : Wait) : Option Stream :=
  match w with
  | .pop q => if q < 14 then queueSource q else none
  | .push q => if q < 14 then some (queueDest q) else none
  | .dep st => some st
  | .format => some .c
  | _ => none

/-- The stream that an unfinished stream is internally held on. -/
def Task.holdOf (t : Task) (st : Stream) : Option Stream :=
  if (t.strm st).fin then none else (t.strm st).wait.bind heldOn

/-- Certain deadlock (R451). -/
def Task.deadlocked (t : Task) : Bool :=
  allStreams.any (fun st => !(t.strm st).fin) &&
  allStreams.all (fun st => (t.strm st).fin ||
    (match t.holdOf st with
     | some u => !(t.strm u).fin && (t.holdOf u).isSome
     | none => false))

/-- Every unfinished stream is blocked and no engine job is outstanding (R452). -/
def Task.stalled (t : Task) : Bool :=
  allStreams.any (fun st => !(t.strm st).fin) &&
  allStreams.all (fun st => (t.strm st).fin || (t.strm st).wait.isSome) && t.jobs == 0

/-- One cycle of a resident task (Table 03.13, R451, R452). -/
def Task.cycle (t : Task) : Task :=
  if t.status = .resident then
    { t with
      cycles := t.cycles + 1
      dlCycles := if t.deadlocked then t.dlCycles + 1 else 0
      stallTicks := if t.stalled then t.stallTicks + 1 else 0
      stallDone := t.stallDone && t.stalled }
  else t

/-- The steps of TICK in one tick: one, but for a slew of at most one in 2^16 ticks, never backwards (R56, R370). -/
def tickStep (s : State) : Nat × Int :=
  if s.syncAge % 2 ^ 16 = 2 ^ 16 - 1 then
    if 0 < s.slew then (2, s.slew - 1) else if s.slew < 0 then (0, s.slew + 1) else (1, 0)
  else (1, s.slew)

/-- One tick of package time (R4, R55, R369, R370, R470). -/
def advanceTime (s : State) : State :=
  { s with
    tick := s.tick + (tickStep s).1
    slew := (tickStep s).2
    task := s.task.cycle
    others := s.others.map Task.cycle
    syncAge := s.syncAge + 1
    circuits := s.circuits.map (fun c => { c with idle := c.idle + 1 }) }

/-- The next core's task comes to the front (log 5). -/
def rotate (s : State) : State :=
  let rest := s.others.filter (fun t => t.status != .ended)
  match rest.find? (fun t => t.status == .resident) with
  | none => { s with others := rest }
  | some t =>
    let back := if s.task.status = .vacant ∨ s.task.status = .ended then [] else [s.task]
    { s with task := t, others := rest.filter (fun u => u.tid != t.tid) ++ back }

/-- The turn passes to the next stream, then to the engines, then to the next task (log 5). -/
def nextTurn (s : State) : State :=
  if s.bg then { rotate s with bg := false, cur := .c }
  else match s.cur with
    | .c => { s with cur := .a }
    | .a => { s with cur := .x }
    | .x => { s with cur := .s }
    | .s => { s with bg := true }

end Sys2Proof.Machine
end

