-- ==== Sys2Proof/Machine/Operands.lean ====
section
/-! DEFINITION. Operand forms: which specifier may stand where (R157, R419), the decode checks of the
forms (R137, R421 stage 4), the queue conditions of stage 6 (R33, R424), and reading and writing operands. -/

namespace Sys2Proof.Machine

/-- How an instruction uses an operand field. -/
inductive Use where
  | unused
  | src
  | dst
  | dstP
  | pred
  | greg
  | vec
  | vsrc
  | vdst
  | vany
  | tile
  | tileOrG
  | any
deriving DecidableEq, Repr

/-- A queue the current stream may name as a scalar source (R32, Table 21.3). -/
def popOk (s : State) (q : Nat) : Bool := decide (q < 12) && queueDest q == s.cur

/-- A queue the current stream may name as a scalar destination (R32, R199). -/
def pushOk (s : State) (q : Nat) : Bool :=
  (decide (q < 12) && queueSource q == some s.cur) || (q == 14 && s.cur == .c && !s.task.fmtDone)

/-- A scalar source (R157). -/
def srcOk (s : State) : Operand → Bool
  | .g _ | .p _ | .sp _ => true
  | .q n => popOk s n.val
  | _ => false

/-- A scalar destination (R157). -/
def dstOk (s : State) : Operand → Bool
  | .g _ => true
  | .q n => pushOk s n.val
  | _ => false

/-- A vector source: a v register, or q12 popped (R32, R220). -/
def vsrcOk (s : State) : Operand → Bool
  | .v _ => s.cur == .x
  | .q n => n.val == 12 && s.cur == .x
  | _ => false

/-- Whether a specifier is legal at all in the stream (R139). -/
def specOk (s : State) : Operand → Bool
  | .rsv _ => false
  | .v _ | .t _ => s.cur == .x
  | _ => true

/-- Whether an operand may stand in its field (R419). -/
def Use.ok (u : Use) (s : State) (o : Operand) : Bool :=
  match u with
  | .unused => specOk s o
  | .any => specOk s o
  | .src => srcOk s o
  | .dst => dstOk s o
  | .dstP => dstOk s o || (match o with | .p _ => true | _ => false)
  | .pred => match o with | .p _ => true | _ => false
  | .greg => match o with | .g _ => true | _ => false
  | .vec => match o with | .v _ => s.cur == .x | _ => false
  | .vsrc => vsrcOk s o
  | .vdst => match o with | .v _ => s.cur == .x | .q n => n.val == 13 && s.cur == .x | _ => false
  | .vany => vsrcOk s o || srcOk s o
  | .tile => match o with | .t _ => s.cur == .x | _ => false
  | .tileOrG => match o with | .t _ => s.cur == .x | .g _ => true | _ => false

/-- A field that must hold 0x00 does (R137). -/
def Use.blank (u : Use) (o : Operand) : Bool := u != .unused || o == .g 0

/-- The field rules of an R form with the ALU layout. -/
structure AluRule where
  d  : Use
  a  : Use
  b  : Use
  c  : Use
  ty  : BitVec 5 → Bool
  sub : BitVec 8 → Bool
  rm   : Bool
  sat  : Bool
  immb : Bool

/-- RM and RBM1 where an instruction rounds: a code of Table 07.8, and random bits only under SR. -/
def rmFieldOk (rounds : Bool) (rm : BitVec 3) (rbm1 : BitVec 4) : Bool :=
  if rounds then decide (rm.toNat ≤ 5) && (rm == 4#3 || rbm1 == 0#4) else rm == 0#3 && rbm1 == 0#4

/-- The decode checks of an R form with the ALU layout (R421 stage 4). -/
def aluCheck (r : AluRule) (f : RAlu) (s : State) : Option (BitVec 32) :=
  firstBroken [
    (r.d.ok s f.d, 1), (r.a.ok s f.a, 2),
    (if f.immb then specOk s f.b else r.b.ok s f.b, 3), (r.c.ok s f.c, 4),
    (r.ty f.ty, 8), (r.sub f.sub, 9), (rmFieldOk r.rm f.rm f.rbm1, 0xA),
    ((r.sat || !f.sat) && (r.immb || !f.immb), 0xB), (f.immb || f.imm == 0#32, 0xC),
    (r.d.blank f.d, 1), (r.a.blank f.a, 2), (if f.immb then f.b == .g 0 else r.b.blank f.b, 3), (r.c.blank f.c, 4)]

/-- The field rules of an R form with the system layout.  `ring1`, `ring2`: whether the field may be valid. -/
structure SysRule where
  d : Use
  a : Use
  b : Use
  c : Use
  sub : BitVec 8 → Bool
  imm : BitVec 32 → Bool := fun i => i == 0#32
  rm  : Bool := false
  tag : Bool := false
  scope : Bool := false
  ring1 : BitVec 4 → Bool := fun r => r == 0#4
  ring2 : BitVec 4 → Bool := fun r => r == 0#4

/-- The decode checks of an R form with the system layout (R421 stage 4). -/
def sysCheck (r : SysRule) (f : RSys) (s : State) : Option (BitVec 32) :=
  firstBroken [
    (r.d.ok s f.d, 1), (r.a.ok s f.a, 2), (r.b.ok s f.b, 3), (r.c.ok s f.c, 4),
    (r.sub f.sub, 9), (rmFieldOk r.rm f.rm 0, 0xA),
    ((r.tag || !f.tag) && (r.scope || f.scope == 0#2), 0xB), (r.imm f.imm, 0xC),
    (r.ring1 f.ring1 && r.ring2 f.ring2, 0xD),
    (r.d.blank f.d, 1), (r.a.blank f.a, 2), (r.b.blank f.b, 3), (r.c.blank f.c, 4)]

/-- The field rules of an E form. -/
structure ERule where
  a : Use
  b : Use
  sub : BitVec 4 → Bool
  wait : Bool
  sig  : Bool
  obj  : Bool
  tag  : Bool := false
  scope : Bool := false

/-- The decode checks of an E form (R421 stage 4).  Where WMODE is 0b00, WSEM and WTHR must be zero (R137). -/
def eCheck (r : ERule) (f : EForm) (s : State) : Option (BitVec 32) :=
  firstBroken [
    (r.a.ok s f.a, 2), (r.b.ok s f.b, 3), (r.sub f.sub, 9),
    ((r.tag || !f.tag) && (r.scope || f.scope == 0#2), 0xB),
    ((if r.wait ∧ f.wmode ≠ 0#2 then true else f.wmode == 0#2 && f.wsem == 0#8 && f.wthr == 0#16)
      && (r.sig || (f.ssem == 0#8 && f.sinc == 0#12)) && (r.obj || f.obj == 0#16), 0xE),
    (r.a.blank f.a, 2), (r.b.blank f.b, 3)]

/-- Whether an acknowledgement word is owed to q8: a tagged write of the task is on its way, in its log, or, for an
RSTV, still in the send queue (R114, R300, R436). -/
def Task.wordOwed (t : Task) : Bool :=
  t.acks.any (·.tag) || (t.sidelog ++ t.logWait).any (fun e => e.write.any (·.tag))
    || t.sendS.any (fun m => match m with
      | .rstv _ m => m.tag
      | .rrput _ => false)

/-- Whether the source stream of an empty queue will push nothing more (R424): it has finished and nothing it issued
is still on its way; a pop of q8 waits for the words that are owed (R398; log 57). -/
def popHopeless (s : State) (q : Nat) : Bool :=
  match queueSource q with
  | some st => q < 14 && (s.task.strm st).fin && s.task.queueReserved q == 0 && !(q == 8 && s.task.wordOwed)
  | none => false

/-- Whether the destination stream of a full queue has finished (R424). -/
def pushHopeless (s : State) (q : Nat) : Bool := q < 14 && (s.task.strm (queueDest q)).fin

/-- Stage 6 for the queues an instruction pops (R33, R424). -/
def gatePops (all : List Nat) : List Nat → M Unit
  | [] => pure ()
  | q :: r => do
    let s ← getS
    if s.task.queueCount q < all.count q then
      (if popHopeless s q then trap fcIllegalOperand (fieldInfo 0x12) else block (.pop q))
    else gatePops all r

/-- Stage 6 for the queues an instruction pushes (R33, R424). -/
def gatePushes : List Nat → M Unit
  | [] => pure ()
  | q :: r => do
    let s ← getS
    if s.task.queueFull q then
      (if pushHopeless s q then trap fcIllegalOperand (fieldInfo 0x13) else block (.push q))
    else gatePushes r

/-- The queue a specifier names. -/
def queueOf : Operand → List Nat
  | .q n => [n.val]
  | _ => []

/-- Stage 6 for source operands and destination operands. -/
def gate (srcs dsts : List Operand) : M Unit := do
  let pops := srcs.flatMap queueOf
  gatePops pops pops
  gatePushes (dsts.flatMap queueOf)

/-- A scalar source operand read; a queue is popped (R33, R157). -/
def readSrc (o : Operand) : M (BitVec 64) := fun s =>
  match o with
  | .g n => .ok (s.readG n, s)
  | .p n => .ok (s.readP n, s)
  | .sp x => .ok (s.special x, s)
  | .q n => .ok ((s.task.headQ n.val).setWidth 64, modCur (fun t => t.dropQ n.val) s)
  | _ => .ok (0, s)

/-- The sources of a word that may wait after it has issued: they are read, and their queues popped, in its issue cycle,
and a word that is held finds them again (R33). -/
def heldSources (os : List Operand) : M (List (BitVec 64)) := do
  let s ← getS
  match s.strm.srcs with
  | some l => pure (l.map (·.2))
  | none =>
    gate os []
    let vs ← os.mapM (fun o => do
      let v ← readSrc o
      pure ((queueOf o).head?, v))
    modS (modStrm (fun r => { r with srcs := some vs }))
    pure (vs.map (·.2))

/-- The value a scalar source operand holds, with nothing popped. -/
def State.peekSrc (s : State) (o : Operand) : BitVec 64 :=
  match o with
  | .g n => s.readG n
  | .p n => s.readP n
  | .sp x => s.special x
  | .q n => (s.task.headQ n.val).setWidth 64
  | _ => 0

/-- The state after a source has been read: a queue has lost its head (R33). -/
def took (o : Operand) (s : State) : State :=
  match o with
  | .q n => modCur (fun t => t.dropQ n.val) s
  | _ => s

/-- A scalar destination operand written; a queue is pushed, a predicate takes all 64 bits. -/
def writeDst (o : Operand) (v : BitVec 64) : M Unit := fun s =>
  match o with
  | .g n => .ok ((), writeG n v s)
  | .p n => .ok ((), writeP n v s)
  | .q n => .ok ((), modCur (fun t => t.pushQ n.val (v.setWidth 2048)) s)
  | _ => .ok ((), s)

/-- A vector source operand read; q12 is popped. -/
def readVSrc (o : Operand) : M (BitVec 2048) := fun s =>
  match o with
  | .v n => .ok (s.readV n, s)
  | .q n => .ok (s.task.headQ n.val, modCur (fun t => t.dropQ n.val) s)
  | _ => .ok (0, s)

/-- A vector destination operand written; q13 is pushed. -/
def writeVDst (o : Operand) (v : BitVec 2048) : M Unit := fun s =>
  match o with
  | .v n => .ok ((), writeV n v s)
  | .q n => .ok ((), modCur (fun t => t.pushQ n.val v) s)
  | _ => .ok ((), s)

/-- A predicate or g destination of a single truth value: all ones or zero in a predicate, 1 or 0
elsewhere (R51, R164). -/
def boolResult (o : Operand) (b : Bool) : BitVec 64 :=
  match o with
  | .p _ => predBits b
  | _ => if b then 1 else 0

/-- Flags raised by the current stream's instruction. -/
def raise (f : FlagSet) : M Unit := modS (raiseS f)

/-- The signal fields an instruction applies at its own retirement (R39, R422): its effect stands,
and a trap follows when the signal overflows. -/
def ownSignal (k : BitVec 8) (inc : Nat) : M Flow := fun s =>
  match signalTask s.task.tid k inc s with
  | some s' => .ok (.seq, s')
  | none => .ok (.trapAfter fcSemOverflow (BitVec.ofNat 32 k.toNat), s)

/-- A wait field that gates issue, served in the stream's place (R39): a consuming wait subtracts. -/
def gateWait (w : Option SemWait) : M Unit := fun s =>
  match w with
  | none => .ok ((), s)
  | some w =>
    let w := match s.strm.semw with
      | some g => if g.k = w.k ∧ g.thr = w.thr ∧ g.consume = w.consume then g else w
      | none => w
    if s.task.semReady w then
      .ok ((), modStrm (fun r => { r with semw := none }) { s with task := s.task.serve w })
    else .error (.sem w)

/-- The stream stays at its word and waits with the word's wait field already served; a word that is later
discarded gives it back (R157, R422). -/
def holdServed (w : Option SemWait) (x : Wait) : M Flow := fun s =>
  .ok (.hold x, modStrm (fun r => { r with semw := w.map (fun w => { w with granted := true }) }) s)

end Sys2Proof.Machine
end

