-- ==== Sys2Proof/Machine/Alu.lean ====
section
/-! DEFINITION. Integer, move, compare, select and predicate instructions (08 R144, R158 to R166). -/

namespace Sys2Proof.Machine

/-- An integer TYPE: 0x00 to 0x07 (Table 07.7). -/
def intTy (ty : BitVec 5) : Bool := decide (ty.toNat < 8)

/-- The width of an integer TYPE. -/
def intWidth (ty : BitVec 5) : Nat := 8 * 2 ^ (ty.toNat % 4)

/-- Whether an integer TYPE is signed (.i). -/
def intSigned (ty : BitVec 5) : Bool := decide (ty.toNat < 4)

/-- A source read as an integer of TYPE (R158). -/
def intVal (ty : BitVec 5) (x : BitVec 64) : Int :=
  if intSigned ty then sxInt (intWidth ty) x.toNat else ((x.toNat % 2 ^ intWidth ty : Nat) : Int)

/-- ext(T) of the low W bits of an integer (R158). -/
def intExt (ty : BitVec 5) (r : Int) : BitVec 64 :=
  let low := wrapN (intWidth ty) r
  if intSigned ty then BitVec.ofInt 64 (sxInt (intWidth ty) low) else BitVec.ofNat 64 low

/-- min_of(T) and max_of(T). -/
def intMin (ty : BitVec 5) : Int := if intSigned ty then -((2 ^ (intWidth ty - 1) : Nat) : Int) else 0
def intMax (ty : BitVec 5) : Int :=
  if intSigned ty then ((2 ^ (intWidth ty - 1) : Nat) : Int) - 1 else ((2 ^ intWidth ty : Nat) : Int) - 1

/-- The result written, and whether it saturated (R160). -/
def intResult (ty : BitVec 5) (sat : Bool) (r : Int) : BitVec 64 × FlagSet :=
  if sat then
    let c := satInt (intMin ty) (intMax ty) r
    (intExt ty c, if c = r then FlagSet.none else FlagSet.onlySat)
  else (intExt ty r, FlagSet.none)

/-- IMM32 as an integer operand: sign-extended to 64 bits (R140). -/
def immInt (imm : BitVec 32) : BitVec 64 := imm.signExtend 64

/-- Operand B of an ALU word: IMM32, or the B field. -/
def readB (f : RAlu) : M (BitVec 64) := if f.immb then pure (immInt f.imm) else readSrc f.b

/-- The sources of a two-operand ALU word. -/
def srcsAB (f : RAlu) : List Operand := if f.immb then [f.a] else [f.a, f.b]

/-- The rule of a two-operand integer word (R159, R160). -/
def intRule2 (sat : Bool) : AluRule :=
  { d := .dst, a := .src, b := .src, c := .unused, ty := intTy, sub := fun x => x == 0#8
    rm := false, sat := sat, immb := true }

/-- The rule of a one-operand integer word. -/
def intRule1 : AluRule :=
  { d := .dst, a := .src, b := .unused, c := .unused, ty := intTy, sub := fun x => x == 0#8
    rm := false, sat := false, immb := false }

/-- The effect of a two-operand integer word: its result and flags from both values (R159, R160). -/
def intBody2 (f : RAlu) (g : BitVec 64 → BitVec 64 → BitVec 64 × FlagSet) : M Flow := do
  gate (srcsAB f) [f.d]
  let x ← readSrc f.a
  let y ← readB f
  let r := g x y
  raise r.2
  writeDst f.d r.1
  pure .seq

/-- A two-operand integer word of opcode `op` whose unbounded result is `g x y`. -/
def intOp2 (op : BitVec 8) (sat : Bool) (f : RAlu) (g : Int → Int → Int) (s : State) :
    Host.Outcome State Fault Refusal :=
  issue op f.pred (aluCheck (intRule2 sat) f)
    (intBody2 f (fun x y => intResult f.ty f.sat (g (intVal f.ty x) (intVal f.ty y)))) s

/-- A one-operand integer word whose unbounded result is `g x`. -/
def intOp1 (op : BitVec 8) (f : RAlu) (g : BitVec 64 → Int) (s : State) : Host.Outcome State Fault Refusal :=
  issue op f.pred (aluCheck intRule1 f) (do
    gate [f.a] [f.d]
    let x ← readSrc f.a
    writeDst f.d (intExt f.ty (g x))
    pure .seq) s

/-- NOP (R182). -/
def nopRule : SysRule := { d := .unused, a := .unused, b := .unused, c := .unused, sub := fun x => x == 0#8 }

/-- NOP: retires without effect (R182). -/
def execNop (f : RSys) (s : State) : Host.Outcome State Fault Refusal :=
  issue 0x00 f.pred (sysCheck nopRule f) (pure .seq) s

/-- LI: D := IMM64; D may also be a predicate (R144, R159). -/
def execLi (f : IForm) (s : State) : Host.Outcome State Fault Refusal :=
  issue 0x01 f.pred (fun s => firstBroken [(Use.ok .dstP s f.d, 1), (specOk s f.a, 2), (f.a == .g 0, 2)]) (do
    gate [] [f.d]
    writeDst f.d f.imm
    pure .seq) s

/-- ADDI: D := A + IMM64 modulo 2^64 (R144, R159). -/
def execAddi (f : IForm) (s : State) : Host.Outcome State Fault Refusal :=
  issue 0x04 f.pred (fun s => firstBroken [(Use.ok .dstP s f.d, 1), (Use.ok .src s f.a, 2)]) (do
    gate [f.a] [f.d]
    let x ← readSrc f.a
    writeDst f.d (x + f.imm)
    pure .seq) s

/-- The rule of MOV in the form its operands select (R163). -/
def movCheck (f : RAlu) (s : State) : Option (BitVec 32) :=
  if f.sub = 1#8 ∧ s.cur = .x then
    aluCheck { d := .vec, a := .vsrc, b := .unused, c := .unused, ty := fun t => t == 0#5
               sub := fun _ => true, rm := false, sat := false, immb := false } f s
  else if f.a = .q 15 then
    firstBroken [
      (match f.d with | .g n => n.val % 2 == 0 && n.val != 0 | _ => false, 1), (s.cur == .c, 2),
      (specOk s f.b, 3), (specOk s f.c, 4), (f.ty == 3#5 || f.ty == 7#5, 8), (f.sub == 0#8, 9),
      (f.rm == 0#3 && f.rbm1 == 0#4, 0xA), (!f.sat && !f.immb, 0xB), (f.imm == 0#32, 0xC), (f.b == .g 0, 3), (f.c == .g 0, 4)]
  else aluCheck { intRule1 with d := .dstP } f s

/-- The two halves of an event into an even register and the next one (R34). -/
def writeEvent (n : Fin 32) (e : BitVec 128) : M Unit := do
  modS (writeG n (e.extractLsb' 0 64))
  modS (writeG (Fin.ofNat 32 (n.val + 1)) (e.extractLsb' 64 64))

/-- MOV: the integer copy, the predicate load, the event move and the vector move (R163). -/
def execMov (f : RAlu) (s : State) : Host.Outcome State Fault Refusal :=
  issue 0x02 f.pred (movCheck f) (do
    let s ← getS
    if f.sub = 1#8 ∧ s.cur = .x then
      gate [f.a] []
      let x ← readVSrc f.a
      writeVDst f.d x
      pure .seq
    else match f.a, f.d with
    | .q ⟨15, _⟩, .g n =>
      gate [f.a] []
      writeEvent n (s.task.q15.headD 0)
      modS (modCur (fun t => { t with q15 := t.q15.tail }))
      pure .seq
    | _, .p _ =>
      gate [f.a] []
      let x ← readSrc f.a
      writeDst f.d x
      pure .seq
    | _, _ =>
      gate [f.a] [f.d]
      let x ← readSrc f.a
      writeDst f.d (intExt f.ty (intVal f.ty x))
      pure .seq) s

/-- ADD: x + y (Table 08.1). -/
def execAdd (f : RAlu) (s : State) : Host.Outcome State Fault Refusal := intOp2 0x03 true f (· + ·) s

/-- SUB: x - y (Table 08.1). -/
def execSub (f : RAlu) (s : State) : Host.Outcome State Fault Refusal := intOp2 0x05 true f (· - ·) s

/-- MUL: x · y, low W bits kept (Table 08.1). -/
def execMul (f : RAlu) (s : State) : Host.Outcome State Fault Refusal := intOp2 0x06 true f (· * ·) s

/-- MULH: the exact product shifted right by W (Table 08.1). -/
def execMulh (f : RAlu) (s : State) : Host.Outcome State Fault Refusal :=
  intOp2 0x07 false f (fun x y => (x * y) / ((2 ^ intWidth f.ty : Nat) : Int)) s

/-- DIV and REM never trap; division by zero raises DZ (R161). -/
def divResult (ty : BitVec 5) (sat : Bool) (x y : BitVec 64) : BitVec 64 × FlagSet :=
  if intVal ty y = 0 then (intExt ty (-1), FlagSet.onlyDz)
  else intResult ty sat ((intVal ty x).tdiv (intVal ty y))

/-- The remainder of R161. -/
def remResult (ty : BitVec 5) (x y : BitVec 64) : BitVec 64 × FlagSet :=
  if intVal ty y = 0 then (intExt ty (intVal ty x), FlagSet.onlyDz)
  else (intExt ty ((intVal ty x).tmod (intVal ty y)), FlagSet.none)

/-- DIV: x / y truncated toward zero (R161). -/
def execDiv (f : RAlu) (s : State) : Host.Outcome State Fault Refusal :=
  issue 0x08 f.pred (aluCheck (intRule2 true) f) (intBody2 f (divResult f.ty f.sat)) s

/-- REM: x - (x / y) · y (R161). -/
def execRem (f : RAlu) (s : State) : Host.Outcome State Fault Refusal :=
  issue 0x09 f.pred (aluCheck (intRule2 false) f) (intBody2 f (remResult f.ty)) s

/-- A bitwise word: the operation on the 64-bit operands, extended from W bits. -/
def bitOp2 (op : BitVec 8) (f : RAlu) (g : BitVec 64 → BitVec 64 → BitVec 64) (s : State) :
    Host.Outcome State Fault Refusal :=
  issue op f.pred (aluCheck (intRule2 false) f)
    (intBody2 f (fun x y => (intExt f.ty ((g x y).toNat : Int), FlagSet.none))) s

/-- AND (Table 08.1). -/
def execAnd (f : RAlu) (s : State) : Host.Outcome State Fault Refusal := bitOp2 0x0A f (· &&& ·) s

/-- OR (Table 08.1). -/
def execOr (f : RAlu) (s : State) : Host.Outcome State Fault Refusal := bitOp2 0x0B f (· ||| ·) s

/-- XOR (Table 08.1). -/
def execXor (f : RAlu) (s : State) : Host.Outcome State Fault Refusal := bitOp2 0x0C f (· ^^^ ·) s

/-- ANDN: x & ~y (Table 08.1). -/
def execAndn (f : RAlu) (s : State) : Host.Outcome State Fault Refusal := bitOp2 0x0D f (fun x y => x &&& ~~~y) s

/-- The shift count: y & (W - 1) (R162). -/
def shiftCount (ty : BitVec 5) (y : BitVec 64) : Nat := y.toNat % intWidth ty

/-- A shift word: the unbounded result from x and the count. -/
def shiftOp (op : BitVec 8) (f : RAlu) (g : BitVec 64 → Nat → Int) (s : State) : Host.Outcome State Fault Refusal :=
  issue op f.pred (aluCheck (intRule2 false) f)
    (intBody2 f (fun x y => (intExt f.ty (g x (shiftCount f.ty y)), FlagSet.none))) s

/-- SHL: x << n (R162). -/
def execShl (f : RAlu) (s : State) : Host.Outcome State Fault Refusal :=
  shiftOp 0x0E f (fun x n => intVal f.ty x * ((2 ^ n : Nat) : Int)) s

/-- SHR: zx(x, W) >> n (R162). -/
def execShr (f : RAlu) (s : State) : Host.Outcome State Fault Refusal :=
  shiftOp 0x0F f (fun x n => ((x.toNat % 2 ^ intWidth f.ty / 2 ^ n : Nat) : Int)) s

/-- SAR: sx(x, W) >> n (R162). -/
def execSar (f : RAlu) (s : State) : Host.Outcome State Fault Refusal :=
  shiftOp 0x10 f (fun x n => sxInt (intWidth f.ty) x.toNat / ((2 ^ n : Nat) : Int)) s

/-- Rotation left by n within W bits. -/
def rotN (w x n : Nat) : Nat := (x % 2 ^ w * 2 ^ (n % w) + x % 2 ^ w / 2 ^ (w - n % w)) % 2 ^ w

/-- ROT: x rotated left by n within W bits (R162). -/
def execRot (f : RAlu) (s : State) : Host.Outcome State Fault Refusal :=
  shiftOp 0x11 f (fun x n => ((rotN (intWidth f.ty) x.toNat n : Nat) : Int)) s

/-- Leading zero bits of the low w bits, 0 to w. -/
def clzN (w x : Nat) : Nat := w - (if x % 2 ^ w = 0 then 0 else Nat.log2 (x % 2 ^ w) + 1)

/-- One bits of the low w bits. -/
def popcN : Nat → Nat → Nat
  | 0, _ => 0
  | w + 1, x => x % 2 + popcN w (x / 2)

/-- CLZ (Table 08.1). -/
def execClz (f : RAlu) (s : State) : Host.Outcome State Fault Refusal :=
  intOp1 0x12 f (fun x => ((clzN (intWidth f.ty) x.toNat : Nat) : Int)) s

/-- POPC (Table 08.1). -/
def execPopc (f : RAlu) (s : State) : Host.Outcome State Fault Refusal :=
  intOp1 0x13 f (fun x => ((popcN (intWidth f.ty) x.toNat : Nat) : Int)) s

/-- The bits of x at the positions of y's ones, packed upwards (BEXT). -/
def bextN : Nat → Nat → Nat → Nat
  | 0, _, _ => 0
  | w + 1, x, y => if y % 2 = 1 then x % 2 + 2 * bextN w (x / 2) (y / 2) else bextN w (x / 2) (y / 2)

/-- The low bits of x at the positions of y's ones (BDEP). -/
def bdepN : Nat → Nat → Nat → Nat
  | 0, _, _ => 0
  | w + 1, x, y => if y % 2 = 1 then x % 2 + 2 * bdepN w (x / 2) (y / 2) else 2 * bdepN w x (y / 2)

/-- BEXT (Table 08.1). -/
def execBext (f : RAlu) (s : State) : Host.Outcome State Fault Refusal :=
  bitOp2 0x14 f (fun x y => BitVec.ofNat 64 (bextN (intWidth f.ty) x.toNat y.toNat)) s

/-- BDEP (Table 08.1). -/
def execBdep (f : RAlu) (s : State) : Host.Outcome State Fault Refusal :=
  bitOp2 0x15 f (fun x y => BitVec.ofNat 64 (bdepN (intWidth f.ty) x.toNat y.toNat)) s

/-- MIN (Table 08.1). -/
def execMin (f : RAlu) (s : State) : Host.Outcome State Fault Refusal :=
  intOp2 0x16 false f (fun x y => if x ≤ y then x else y) s

/-- MAX (Table 08.1). -/
def execMax (f : RAlu) (s : State) : Host.Outcome State Fault Refusal :=
  intOp2 0x17 false f (fun x y => if x ≤ y then y else x) s

/-- A condition code of 0x1 to 0x6, 0xA and 0xB on integers (Table 07.9). -/
def condInt (cc : Nat) (x y : Int) : Bool :=
  match cc with
  | 0x1 => x == y
  | 0x2 => x != y
  | 0x3 => decide (x < y)
  | 0x4 => decide (x ≤ y)
  | 0x5 => decide (y < x)
  | 0x6 => decide (y ≤ x)
  | 0xA => x == 0
  | 0xB => x != 0
  | _ => false

/-- The codes CMP takes (R164). -/
def cmpCodes (sub : BitVec 8) : Bool := (decide (1 ≤ sub.toNat) && decide (sub.toNat ≤ 6)) || sub == 0xA#8 || sub == 0xB#8

/-- Whether a condition code looks at A only. -/
def zeroTest (sub : BitVec 8) : Bool := sub == 0xA#8 || sub == 0xB#8

/-- CMP (R164). -/
def execCmp (f : RAlu) (s : State) : Host.Outcome State Fault Refusal :=
  let z := zeroTest f.sub
  issue 0x18 f.pred (aluCheck { d := .dstP, a := .src, b := if z then .unused else .src, c := .unused, ty := intTy
                                sub := cmpCodes, rm := false, sat := false, immb := !z } f) (do
    gate (if z then [f.a] else srcsAB f) [f.d]
    let x ← readSrc f.a
    let y ← if z then pure 0 else readB f
    writeDst f.d (boolResult f.d (condInt f.sub.toNat (intVal f.ty x) (intVal f.ty y)))
    pure .seq) s

/-- PLOG's truth table on one position (R166). -/
def plogBits (table : Nat) (a b : BitVec 64) : BitVec 64 :=
  let m (i : Nat) (x : BitVec 64) : BitVec 64 := if bitN table i then x else 0
  m 0 (~~~a &&& ~~~b) ||| m 1 (~~~a &&& b) ||| m 2 (a &&& ~~~b) ||| m 3 (a &&& b)

/-- PLOG (R166). -/
def execPlog (f : RAlu) (s : State) : Host.Outcome State Fault Refusal :=
  issue 0x1E f.pred (aluCheck { d := .pred, a := .pred, b := .pred, c := .unused, ty := fun t => t == 0#5
                                sub := fun x => decide (x.toNat < 16), rm := false, sat := false, immb := false } f) (do
    let a ← readSrc f.a
    let b ← readSrc f.b
    writeDst f.d (plogBits f.sub.toNat a b)
    pure .seq) s

/-- MADD: x · y + z (Table 08.1). -/
def execMadd (f : RAlu) (s : State) : Host.Outcome State Fault Refusal :=
  issue 0x1A f.pred (aluCheck { intRule2 true with c := .src } f) (do
    gate (srcsAB f ++ [f.c]) [f.d]
    let x ← readSrc f.a
    let y ← readB f
    let z ← readSrc f.c
    let r := intResult f.ty f.sat (intVal f.ty x * intVal f.ty y + intVal f.ty z)
    raise r.2
    writeDst f.d r.1
    pure .seq) s

end Sys2Proof.Machine
end

