-- ==== Sys2Proof/Machine/Float.lean ====
section
/-! DEFINITION. Number formats and arithmetic (spec 04): exact values, rounding in the five modes, flags,
the extended forms, and stochastic rounding. -/

namespace Sys2Proof.Machine

/-- A value before rounding: a NaN (signalling or not), an infinity, or ±(m + ε)·2^e with 0 < ε < 1
exactly when `sticky`. -/
inductive FVal where
  | nan (sig : Bool)
  | inf (neg : Bool)
  | fin (neg : Bool) (m : Nat) (e : Int) (sticky : Bool)
deriving DecidableEq, Repr

/-- How a format uses its codes (Table 04.1). -/
inductive FKind where
  | ieee
  | e4m3
  | e2m1
deriving DecidableEq, Repr

/-- A floating-point format: exponent bits, fraction bits, bias, kind (Table 04.1, Table 04.3). -/
structure Fmt where
  eb   : Nat
  fb   : Nat
  bias : Nat
  kind : FKind
deriving DecidableEq, Repr

def fmtF64 : Fmt := ⟨11, 52, 1023, .ieee⟩
def fmtF32 : Fmt := ⟨8, 23, 127, .ieee⟩
def fmtF16 : Fmt := ⟨5, 10, 15, .ieee⟩
def fmtBf16 : Fmt := ⟨8, 7, 127, .ieee⟩
def fmtE5m2 : Fmt := ⟨5, 2, 15, .ieee⟩
def fmtE4m3 : Fmt := ⟨4, 3, 7, .e4m3⟩
def fmtE2m1 : Fmt := ⟨2, 1, 1, .e2m1⟩
def fmtE2m3 : Fmt := ⟨2, 3, 1, .e2m1⟩
def fmtE3m2 : Fmt := ⟨3, 2, 3, .e2m1⟩
def fmtF32X : Fmt := ⟨10, 23, 511, .ieee⟩
def fmtF64X : Fmt := ⟨13, 52, 4095, .ieee⟩

/-- Width of a format in bits. -/
def Fmt.width (f : Fmt) : Nat := 1 + f.eb + f.fb

/-- Exponent of the smallest normal value. -/
def Fmt.emin (f : Fmt) : Int := 1 - (f.bias : Int)

/-- The largest finite value, as a significand in units of 2^(exponent). -/
def Fmt.maxM (f : Fmt) : Nat := match f.kind with
  | .ieee => 2 ^ (f.fb + 1) - 1
  | .e4m3 => 2 ^ (f.fb + 1) - 2
  | .e2m1 => 2 ^ (f.fb + 1) - 1

/-- Exponent of the last place of the largest finite value. -/
def Fmt.maxE (f : Fmt) : Int := match f.kind with
  | .ieee => (2 ^ f.eb - 2 : Nat) - (f.bias : Int) - f.fb
  | .e4m3 => (2 ^ f.eb - 1 : Nat) - (f.bias : Int) - f.fb
  | .e2m1 => (2 ^ f.eb - 1 : Nat) - (f.bias : Int) - f.fb

/-- The canonical NaN (Table 04.2). -/
def Fmt.nanBits (f : Fmt) : Nat := match f.kind with
  | .ieee => (2 ^ f.eb - 1) * 2 ^ f.fb + 2 ^ (f.fb - 1)
  | .e4m3 => 0x7F
  | .e2m1 => 0

/-- The format of a floating-point TYPE code (Table 07.7). -/
def floatFmt (ty : Nat) : Fmt :=
  match ty with
  | 0x08 => fmtF64
  | 0x09 | 0x10 => fmtF32
  | 0x0A => fmtF16
  | 0x0B => fmtBf16
  | 0x0C => fmtE4m3
  | 0x0D => fmtE5m2
  | _ => fmtF64

/-- Decode a pattern (R66, R67). -/
def fdecode (f : Fmt) (x : Nat) : FVal :=
  let neg := bitN x (f.eb + f.fb)
  let e := bits x f.fb f.eb
  let m := x % 2 ^ f.fb
  if f.kind = .ieee ∧ e = 2 ^ f.eb - 1 then
    (if m = 0 then .inf neg else .nan (!bitN m (f.fb - 1)))
  else if f.kind = .e4m3 ∧ e = 2 ^ f.eb - 1 ∧ m = 2 ^ f.fb - 1 then .nan false
  else if e = 0 then .fin neg m (f.emin - f.fb) false
  else .fin neg (2 ^ f.fb + m) ((e : Int) - f.bias - f.fb) false

/-- A rounding mode with the random bits drawn for it (R75, R79). -/
inductive RMode where
  | rne
  | rtz
  | rup
  | rdn
  | sr (r R : Nat)
deriving DecidableEq, Repr

/-- Whether the value is zero. -/
def FVal.isZero : FVal → Bool
  | .fin _ m _ st => m == 0 && !st
  | _ => false

/-- Whether the value is a NaN. -/
def FVal.isNan : FVal → Bool
  | .nan _ => true
  | _ => false

/-- Whether the value is a signalling NaN. -/
def FVal.isSnan : FVal → Bool
  | .nan b => b
  | _ => false

/-- The sign of a value; a NaN counts as positive. -/
def FVal.neg : FVal → Bool
  | .inf n => n
  | .fin n _ _ _ => n
  | .nan _ => false

/-- The value with the sign given; a NaN stays a NaN. -/
def FVal.withSign (n : Bool) : FVal → FVal
  | .inf _ => .inf n
  | .fin _ m e s => .fin n m e s
  | v => v

/-- The value negated. -/
def FVal.negate (v : FVal) : FVal := v.withSign (!v.neg)

/-- An integer as an exact value. -/
def FVal.ofInt (x : Int) : FVal := .fin (decide (x < 0)) x.natAbs 0 false

/-- NV for a signalling NaN read (R67). -/
def snanFlag (v : FVal) : FlagSet := if v.isSnan then FlagSet.onlyNv else FlagSet.none

/-- A magnitude m·2^e (+ε) cut at the last place 2^q: the kept integer, the discarded fraction as
`rem / 2^sh`, and whether more lies below. -/
def cutAt (m : Nat) (e q : Int) (sticky : Bool) : Nat × Nat × Nat × Bool :=
  if e ≤ q then
    let sh := (q - e).toNat
    (m / 2 ^ sh, m % 2 ^ sh, sh, sticky)
  else (m * 2 ^ (e - q).toNat, 0, 0, sticky)

/-- Whether the kept magnitude goes up by one in its last place (R75, R80). -/
def roundsUp (mode : RMode) (neg : Bool) (n rem sh : Nat) (sticky : Bool) : Bool :=
  let inexact := rem != 0 || sticky
  match mode with
  | .rne =>
    if sh = 0 then false
    else
      let half := 2 ^ (sh - 1)
      decide (half < rem) || (rem == half && (sticky || n % 2 == 1))
  | .rtz => false
  | .rup => inexact && !neg
  | .rdn => inexact && neg
  | .sr r R => inexact && decide (2 ^ R ≤ rem * 2 ^ R / 2 ^ sh + r)

/-- The exponent of the last place of a value in a format: the precision, or the subnormal limit. -/
def lastPlace (f : Fmt) (m : Nat) (e : Int) : Int :=
  max ((Nat.log2 m : Int) + e) f.emin - f.fb

/-- Compare m1·2^e1 with m2·2^e2. -/
def cmpMag (m1 : Nat) (e1 : Int) (m2 : Nat) (e2 : Int) : Ordering :=
  let e := min e1 e2
  compare (m1 * 2 ^ (e1 - e).toNat) (m2 * 2 ^ (e2 - e).toNat)

/-- The pattern of ±n·2^q, which the format holds exactly. -/
def fpack (f : Fmt) (neg : Bool) (n : Nat) (q : Int) : Nat :=
  let s := b2n neg * 2 ^ (f.eb + f.fb)
  if n = 0 then s
  else
    -- normalise so that n has fb+1 bits, or q is the subnormal last place
    let l := Nat.log2 n
    let ex := (l : Int) + q
    if ex < f.emin then s + n * 2 ^ (q - (f.emin - f.fb)).toNat
    else
      let frac := if f.fb ≤ l then n / 2 ^ (l - f.fb) else n * 2 ^ (f.fb - l)
      s + (ex + f.bias).toNat * 2 ^ f.fb + frac % 2 ^ f.fb

/-- The pattern of an infinity (E4M3 gives ±448, R75). -/
def finfBits (f : Fmt) (neg : Bool) : Nat :=
  match f.kind with
  | .ieee => b2n neg * 2 ^ (f.eb + f.fb) + (2 ^ f.eb - 1) * 2 ^ f.fb
  | _ => fpack f neg f.maxM f.maxE

/-- An overflowed result (Table 04.5). -/
def overflowBits (f : Fmt) (mode : RMode) (neg : Bool) : Nat :=
  let big := fpack f neg f.maxM f.maxE
  if f.kind ≠ .ieee then big
  else match mode with
  | .rne => finfBits f neg
  | .sr _ _ => finfBits f neg
  | .rtz => big
  | .rup => if neg then big else finfBits f neg
  | .rdn => if neg then finfBits f neg else big

/-- round(x, F, mode) (R75, R76): the pattern and the flags of the conversion. -/
def fround (f : Fmt) (mode : RMode) (v : FVal) : Nat × FlagSet :=
  match v with
  | .nan sig => (f.nanBits, if sig then FlagSet.onlyNv else FlagSet.none)
  | .inf neg =>
    (finfBits f neg, if f.kind = .ieee then FlagSet.none else { FlagSet.none with of := true, nx := true })
  | .fin neg m e sticky =>
    if m = 0 then (b2n neg * 2 ^ (f.eb + f.fb), FlagSet.none)
    else
      let q := lastPlace f m e
      let (n, rem, sh, st) := cutAt m e q sticky
      let inexact := rem != 0 || st
      let n' := if roundsUp mode neg n rem sh st then n + 1 else n
      let tiny := decide ((Nat.log2 m : Int) + e < f.emin)
      if cmpMag n' q f.maxM f.maxE = .gt then
        (overflowBits f mode neg, { FlagSet.none with of := true, nx := true })
      else (fpack f neg n' q, { FlagSet.none with nx := inexact, uf := tiny && inexact })

/-- Round and read back: a value of the format. -/
def froundV (f : Fmt) (mode : RMode) (v : FVal) : FVal × FlagSet :=
  let r := fround f mode v
  (match v with | .nan _ => .nan false | _ => fdecode f r.1, r.2)

/-- Round to an integer (R77): the integer and whether it is exact. -/
def roundInt (mode : RMode) (neg : Bool) (m : Nat) (e : Int) (sticky : Bool) : Int × Bool :=
  let (n, rem, sh, st) := cutAt m e 0 sticky
  let n' := if roundsUp mode neg n rem sh st then n + 1 else n
  (if neg then -(n' : Int) else n', rem == 0 && !st)

/-- A conversion to an integer TYPE (R77): NaN gives 0 with NV; out of range saturates with SAT and NX. -/
def floatToInt (ty : BitVec 5) (mode : RMode) (v : FVal) : Int × FlagSet :=
  match v with
  | .nan _ => (0, FlagSet.onlyNv)
  | .inf neg => (if neg then intMin ty else intMax ty, { FlagSet.none with sat := true, nx := true })
  | .fin neg m e st =>
    let (x, exact) := roundInt mode neg m e st
    let c := satInt (intMin ty) (intMax ty) x
    if c = x then (x, { FlagSet.none with nx := !exact })
    else (c, { FlagSet.none with sat := true, nx := true })

/-- A signed integer scaled: n·2^e as a value; `zneg` is the sign a zero takes. -/
def ofScaled (n : Int) (e : Int) (zneg : Bool) : FVal :=
  if n = 0 then .fin zneg 0 0 false else .fin (decide (n < 0)) n.natAbs e false

/-- The exact sum; an exact zero of opposite signs is +0, or -0 toward -∞ (R67). -/
def faddE (rdn : Bool) (a b : FVal) : FVal × FlagSet :=
  match a, b with
  | .nan x, .nan y => (.nan false, if x || y then FlagSet.onlyNv else FlagSet.none)
  | .nan x, _ => (.nan false, if x then FlagSet.onlyNv else FlagSet.none)
  | _, .nan y => (.nan false, if y then FlagSet.onlyNv else FlagSet.none)
  | .inf x, .inf y => if x = y then (.inf x, FlagSet.none) else (.nan false, FlagSet.onlyNv)
  | .inf x, _ => (.inf x, FlagSet.none)
  | _, .inf y => (.inf y, FlagSet.none)
  | .fin n1 m1 e1 _, .fin n2 m2 e2 _ =>
    if m1 = 0 ∧ m2 = 0 then (.fin (if n1 = n2 then n1 else rdn) 0 0 false, FlagSet.none)
    else
      let e := if m1 = 0 then e2 else if m2 = 0 then e1 else min e1 e2
      let i1 : Int := m1 * 2 ^ (e1 - e).toNat
      let i2 : Int := m2 * 2 ^ (e2 - e).toNat
      (ofScaled ((if n1 then -i1 else i1) + (if n2 then -i2 else i2)) e rdn, FlagSet.none)

/-- The exact product. -/
def fmulE (a b : FVal) : FVal × FlagSet :=
  match a, b with
  | .nan x, .nan y => (.nan false, if x || y then FlagSet.onlyNv else FlagSet.none)
  | .nan x, _ => (.nan false, if x then FlagSet.onlyNv else FlagSet.none)
  | _, .nan y => (.nan false, if y then FlagSet.onlyNv else FlagSet.none)
  | .inf x, .inf y => (.inf (x != y), FlagSet.none)
  | .inf x, .fin y m _ _ => if m = 0 then (.nan false, FlagSet.onlyNv) else (.inf (x != y), FlagSet.none)
  | .fin x m _ _, .inf y => if m = 0 then (.nan false, FlagSet.onlyNv) else (.inf (x != y), FlagSet.none)
  | .fin n1 m1 e1 _, .fin n2 m2 e2 _ => (.fin (n1 != n2) (m1 * m2) (e1 + e2) false, FlagSet.none)

/-- The exact a·b + c.  A signalling NaN in any operand, or 0·∞, raises NV. -/
def fmaE (rdn : Bool) (a b c : FVal) : FVal × FlagSet :=
  let p := fmulE a b
  let r := faddE rdn p.1 c
  (r.1, p.2.or r.2)

/-- The quotient to 160 bits with a sticky tail; x/0 gives ±∞ with DZ, 0/0 and ∞/∞ a NaN with NV. -/
def fdivE (a b : FVal) : FVal × FlagSet :=
  match a, b with
  | .nan x, .nan y => (.nan false, if x || y then FlagSet.onlyNv else FlagSet.none)
  | .nan x, _ => (.nan false, if x then FlagSet.onlyNv else FlagSet.none)
  | _, .nan y => (.nan false, if y then FlagSet.onlyNv else FlagSet.none)
  | .inf _, .inf _ => (.nan false, FlagSet.onlyNv)
  | .inf x, .fin y _ _ _ => (.inf (x != y), FlagSet.none)
  | .fin x _ _ _, .inf y => (.fin (x != y) 0 0 false, FlagSet.none)
  | .fin n1 m1 e1 _, .fin n2 m2 e2 _ =>
    if m2 = 0 then
      (if m1 = 0 then (.nan false, FlagSet.onlyNv) else (.inf (n1 != n2), FlagSet.onlyDz))
    else if m1 = 0 then (.fin (n1 != n2) 0 0 false, FlagSet.none)
    else
      let k := 160 + Nat.log2 m2
      let q := m1 * 2 ^ k / m2
      (.fin (n1 != n2) q (e1 - e2 - k) (m1 * 2 ^ k % m2 != 0), FlagSet.none)

/-- The integer square root of a number below 4^fuel, bit by bit. -/
def isqrtAux : Nat → Nat → Nat → Nat
  | 0, _, r => r
  | k + 1, x, r =>
    let c := r + 2 ^ k
    isqrtAux k x (if c * c ≤ x then c else r)

/-- The integer square root. -/
def isqrt (x : Nat) : Nat := isqrtAux (Nat.log2 x / 2 + 1) x 0

/-- The square root to 80 bits or more with a sticky tail; -0 gives -0, below it a NaN with NV (R76). -/
def fsqrtE (a : FVal) : FVal × FlagSet :=
  match a with
  | .nan x => (.nan false, if x then FlagSet.onlyNv else FlagSet.none)
  | .inf n => if n then (.nan false, FlagSet.onlyNv) else (.inf false, FlagSet.none)
  | .fin n m e _ =>
    if m = 0 then (.fin n 0 0 false, FlagSet.none)
    else if n then (.nan false, FlagSet.onlyNv)
    else
      let sh : Nat := 240 + (if e % 2 = 0 then 0 else 1)
      let x := m * 2 ^ sh
      let r := isqrt x
      (.fin false r ((e - sh) / 2) (r * r != x), FlagSet.none)

/-- 1/√a to 130 bits or more with a sticky tail: ±0 gives ±∞ with DZ, below -0 a NaN with NV, +∞ gives +0
(R226, R227). -/
def frsqrtE (a : FVal) : FVal × FlagSet :=
  match a with
  | .nan x => (.nan false, if x then FlagSet.onlyNv else FlagSet.none)
  | .inf n => if n then (.nan false, FlagSet.onlyNv) else (.fin false 0 0 false, FlagSet.none)
  | .fin n m e _ =>
    if m = 0 then (.inf n, FlagSet.onlyDz)
    else if n then (.nan false, FlagSet.onlyNv)
    else
      let m2 := if e % 2 = 0 then m else 2 * m
      let e2 := if e % 2 = 0 then e else e - 1
      let r := isqrt (2 ^ 400 / m2)
      (.fin false r (-200 - e2 / 2) (r * r * m2 != 2 ^ 400), FlagSet.none)

/-- Order of two values that are no NaNs; -0 and +0 equal. -/
def fcompare (a b : FVal) : Ordering :=
  match a, b with
  | .inf x, .inf y => if x = y then .eq else if x then .lt else .gt
  | .inf x, _ => if x then .lt else .gt
  | _, .inf y => if y then .gt else .lt
  | .fin n1 m1 e1 _, .fin n2 m2 e2 _ =>
    if m1 = 0 ∧ m2 = 0 then .eq
    else if m1 = 0 then (if n2 then .gt else .lt)
    else if m2 = 0 then (if n1 then .lt else .gt)
    else if n1 ≠ n2 then (if n1 then .lt else .gt)
    else if n1 then cmpMag m2 e2 m1 e1 else cmpMag m1 e1 m2 e2
  | _, _ => .eq

/-- min and max with NaN rules and -0 below +0 (R168). -/
def fminmax (isMax : Bool) (a b : FVal) : FVal × FlagSet :=
  let fl := (snanFlag a).or (snanFlag b)
  match a.isNan, b.isNan with
  | true, true => (.nan false, fl)
  | true, false => (b, fl)
  | false, true => (a, fl)
  | false, false =>
    let less := match fcompare a b with
      | .lt => true
      | .gt => false
      | .eq => a.neg || !b.neg
    (if less != isMax then a else b, fl)

/-- A comparison by condition code, with NV for the ordered ones on any NaN (R170). -/
def fcond (cc : Nat) (a b : FVal) : Bool × FlagSet :=
  let nan := a.isNan || b.isNan
  let sig := a.isSnan || b.isSnan
  let ordered := decide (3 ≤ cc ∧ cc ≤ 6)
  let fl := if sig || (ordered && nan) then FlagSet.onlyNv else FlagSet.none
  let o := fcompare a b
  let r := match cc with
    | 0x1 => !nan && o == .eq
    | 0x2 => nan || o != .eq
    | 0x3 => !nan && o == .lt
    | 0x4 => !nan && o != .gt
    | 0x5 => !nan && o == .gt
    | 0x6 => !nan && o != .lt
    | 0x7 => nan
    | _ => false
  (r, fl)

/-- xs_next (R78). -/
def xsNext (x0 : BitVec 64) : BitVec 64 :=
  let x1 := x0 ^^^ (x0 <<< 13)
  let x2 := x1 ^^^ (x1 >>> 7)
  x2 ^^^ (x2 <<< 17)

/-- rand_field (R79). -/
def randField (state : BitVec 64) (lane m R width : Nat) : Nat :=
  let w := (rotl64 state (7 * lane % 64)).toNat
  if width = 4 then w / 2 ^ (56 - 8 * m) % 256 / 2 ^ (8 - min R 8)
  else w / 2 ^ (48 - 16 * m) % 65536 / 2 ^ (16 - R)

/-- The random bits supplied for a result of a width: R, capped at 8 for 4-bit results (R79). -/
def srBits (R width : Nat) : Nat := if width = 4 then min R 8 else R

/-- What RM selects: a mode code 0 to 4 and the number of random bits (Table 07.8, R75, Table 03.7). -/
def roundSel (s : State) (rm : BitVec 3) (rbm1 : BitVec 4) : Nat × Nat :=
  if rm = 5#3 then (s.strm.sctl.toNat % 8, bits s.strm.sctl.toNat 4 4 + 1) else (rm.toNat, rbm1.toNat + 1)

/-- The mode of one element drawn from an advanced generator state (R79). -/
def modeOf (sel : Nat × Nat) (state : BitVec 64) (lane m width : Nat) : RMode :=
  match sel.1 with
  | 0 => .rne
  | 1 => .rtz
  | 2 => .rup
  | 3 => .rdn
  | _ => .sr (randField state lane m sel.2 width) (srBits sel.2 width)

/-- The stream's generator, advanced when the mode is SR (R78); the state the elements draw from. -/
def advanceSeed (sel : Nat × Nat) : M (BitVec 64) := fun s =>
  if sel.1 = 4 then
    let x := xsNext s.strm.seed
    .ok (x, modStrm (fun r => { r with seed := x }) s)
  else .ok (s.strm.seed, s)

/-- The matrix converter's generator, advanced when the mode is SR (R78, R263). -/
def advanceSeedM (sel : Nat × Nat) : M (BitVec 64) := fun s =>
  if sel.1 = 4 then
    let x := xsNext s.task.seedm
    .ok (x, modCur (fun t => { t with seedm := x }) s)
  else .ok (s.task.seedm, s)

/-- A scalar floating-point TYPE: .f64, .f32, .f16 or .bf16 (R158). -/
def scalarFloatTy (ty : BitVec 5) : Bool := decide (8 ≤ ty.toNat ∧ ty.toNat ≤ 0xB)

/-- A 64-bit source read as a value of a format. -/
def readF (f : Fmt) (x : BitVec 64) : FVal := fdecode f (x.toNat % 2 ^ f.width)

/-- IMM32 as a floating-point operand: an FP32 pattern, rounded RNE to a narrower TYPE (R140). -/
def immFloat (f : Fmt) (imm : BitVec 32) : FVal :=
  let v := fdecode fmtF32 imm.toNat
  if f.fb < 23 then (match v with | .nan b => .nan b | v => (froundV f .rne v).1) else v

/-- Whether a FOP function takes a B operand, and a C operand (Table 08.3). -/
def fopUsesB (sub : BitVec 8) : Bool := !(sub == 7#8 || sub == 0xA#8 || sub == 0xB#8)
def fopUsesC (sub : BitVec 8) : Bool := sub == 5#8 || sub == 6#8

/-- The exact result of a FOP function before rounding (Table 08.3, R168); `bneg` is b's sign bit, which a NaN
has as well. -/
def fopE (sub : Nat) (bneg rdn : Bool) (a b c : FVal) : FVal × FlagSet :=
  match sub with
  | 1 => faddE rdn a b
  | 2 => faddE rdn a b.negate
  | 3 => fmulE a b
  | 4 => fdivE a b
  | 5 => fmaE rdn a b c
  | 6 => fmaE rdn a b c.negate
  | 7 => fsqrtE a
  | 8 => fminmax false a b
  | 9 => fminmax true a b
  | 0xA => (a.withSign false, snanFlag a)
  | 0xB => (a.negate, snanFlag a)
  | _ => (a.withSign bneg, (snanFlag a).or (snanFlag b))

/-- The rounded result of a FOP function (R69, R75, R76). -/
def fopResult (ty : BitVec 5) (sub : Nat) (bneg : Bool) (mode : RMode) (a b c : FVal) : BitVec 64 × FlagSet :=
  let e := fopE sub bneg (mode == .rdn) a b c
  let r := fround (floatFmt ty.toNat) mode e.1
  (BitVec.ofNat 64 r.1, e.2.or r.2)

/-- Operand B of a floating-point ALU word, with its sign bit. -/
def readFB (f : RAlu) : M (FVal × Bool) := do
  let fm := floatFmt f.ty.toNat
  if f.immb then pure (immFloat fm f.imm, if fm.fb = 23 then f.imm.msb else (immFloat fm f.imm).neg) else
    let x ← readSrc f.b
    pure (readF fm x, x.getLsbD (fm.width - 1))

/-- SCTL.RMODE never holds a reserved code (R61), so a dynamic selection is a mode of Table 03.7. -/
def execFop (f : RAlu) (s : State) : Host.Outcome State Fault Refusal :=
  let ub := fopUsesB f.sub
  let uc := fopUsesC f.sub
  issue 0x1B f.pred (aluCheck { d := .dst, a := .src, b := if ub then .src else .unused, c := if uc then .src else .unused
                                ty := scalarFloatTy, sub := fun x => decide (1 ≤ x.toNat ∧ x.toNat ≤ 0xC)
                                rm := true, sat := false, immb := ub } f) (do
    gate ((if ub then srcsAB f else [f.a]) ++ (if uc then [f.c] else [])) [f.d]
    let s ← getS
    let fm := floatFmt f.ty.toNat
    let a ← readSrc f.a
    let b ← if ub then readFB f else pure (.nan false, false)
    let c ← if uc then readSrc f.c else pure 0
    let sel := roundSel s f.rm f.rbm1
    let st ← advanceSeed sel
    let r := fopResult f.ty f.sub.toNat b.2 (modeOf sel st 0 0 fm.width) (readF fm a) b.1 (readF fm c)
    raise r.2
    writeDst f.d r.1
    pure .seq) s

/-- The result of FCVT (R169): from source type S to destination type T. -/
def fcvtResult (t src : BitVec 5) (sat : Bool) (mode : RMode) (x : BitVec 64) : BitVec 64 × FlagSet :=
  if intTy t then
    (if intTy src then intResult t sat (intVal src x)
     else
       let r := floatToInt t mode (readF (floatFmt src.toNat) x)
       (intExt t r.1, r.2))
  else
    let v := if intTy src then FVal.ofInt (intVal src x) else readF (floatFmt src.toNat) x
    let r := fround (floatFmt t.toNat) mode v
    (BitVec.ofNat 64 r.1, r.2)

/-- FCVT (R169).  A conversion in mode SR advances SEED even if it draws nothing (R78); SAT with a floating-point
source or destination is accepted and has no effect (DESIGN CHOICE, log 63). -/
def execFcvt (f : RAlu) (s : State) : Host.Outcome State Fault Refusal :=
  issue 0x1C f.pred (aluCheck { d := .dst, a := .src, b := .unused, c := .unused, ty := fun t => decide (t.toNat < 0xE)
                                sub := fun x => decide (x.toNat < 0xE), rm := true, sat := true, immb := false } f) (do
    gate [f.a] [f.d]
    let s ← getS
    let src : BitVec 5 := f.sub.setWidth 5
    let x ← readSrc f.a
    let sel := roundSel s f.rm f.rbm1
    let st ← advanceSeed sel
    let w := if intTy f.ty then intWidth f.ty else (floatFmt f.ty.toNat).width
    let r := fcvtResult f.ty src f.sat (modeOf sel st 0 0 w) x
    raise r.2
    writeDst f.d r.1
    pure .seq) s

/-- FCMP (R170). -/
def execFcmp (f : RAlu) (s : State) : Host.Outcome State Fault Refusal :=
  issue 0x1D f.pred (aluCheck { d := .dstP, a := .src, b := .src, c := .unused, ty := scalarFloatTy
                                sub := fun x => decide (1 ≤ x.toNat ∧ x.toNat ≤ 7), rm := false, sat := false, immb := true } f) (do
    gate (srcsAB f) [f.d]
    let x ← readSrc f.a
    let b ← readFB f
    let r := fcond f.sub.toNat (readF (floatFmt f.ty.toNat) x) b.1
    raise r.2
    writeDst f.d (boolResult f.d r.1)
    pure .seq) s

/-- The value SEL writes (R165). -/
def selResult (ty : BitVec 5) (v : BitVec 64) : BitVec 64 :=
  if intTy ty then intExt ty (intVal ty v) else BitVec.ofNat 64 (v.toNat % 2 ^ (floatFmt ty.toNat).width)

/-- SEL: a bit move (R165); the immediate of a floating-point TYPE is read as R140 states. -/
def execSel (f : RAlu) (s : State) : Host.Outcome State Fault Refusal :=
  issue 0x19 f.pred (aluCheck { d := .dst, a := .src, b := .src, c := .pred, ty := fun t => decide (t.toNat < 0xC)
                                sub := fun x => x == 0#8, rm := false, sat := false, immb := true } f) (do
    gate (srcsAB f) [f.d]
    let x ← readSrc f.a
    let y ← if f.immb ∧ ¬ intTy f.ty then
        (let fm := floatFmt f.ty.toNat
         let v := immFloat fm f.imm
         pure (if fm = fmtF32 then f.imm.setWidth 64 else BitVec.ofNat 64 (fround fm .rne v).1))
      else readB f
    let c ← readSrc f.c
    writeDst f.d (selResult f.ty (if c.getLsbD 0 then x else y))
    pure .seq) s

end Sys2Proof.Machine
end

