-- ==== Sys2Proof/Machine/Control.lean ====
section
/-! DEFINITION. Branches, calls and loops, queue and semaphore instructions, fences, control words, traps
and STOP (08 R171 to R182). -/

namespace Sys2Proof.Machine

/-- The target of a B-form branch (R138). -/
def branchVa (s : State) (off : BitVec 48) : BitVec 64 := s.strm.pc + 12 + 12 * off.signExtend 64

/-- The decode checks of a B form: the uses of A and B, and the condition codes allowed. -/
def bCheck (ua ub : Use) (cc : Bool) (f : BForm) (s : State) : Option (BitVec 32) :=
  firstBroken [(ua.ok s f.a, 2), (ub.ok s f.b, 3), (cc, 9), (ua.blank f.a, 2), (ub.blank f.b, 3)]

/-- BR (R171). -/
def execBr (f : BForm) (s : State) : Host.Outcome State Fault Refusal :=
  issue 0x1F f.pred (bCheck .unused .unused (f.cc == 0#4) f) (do
    let s ← getS
    pure (.branch (branchVa s f.off))) s

/-- The condition of BRC on 64-bit values (Table 07.9, R171). -/
def brcCond (cc : Nat) (x y : BitVec 64) : Bool :=
  match cc with
  | 0x8 => x.getLsbD 0
  | 0x9 => !x.getLsbD 0
  | 0xC => decide (x.toNat < y.toNat)
  | 0xD => decide (y.toNat ≤ x.toNat)
  | c => condInt c x.toInt y.toInt

/-- BRC (R171). -/
def execBrc (f : BForm) (s : State) : Host.Outcome State Fault Refusal :=
  let cc := f.cc.toNat
  let onPred := f.cc == 8#4 || f.cc == 9#4
  let one := onPred || f.cc == 0xA#4 || f.cc == 0xB#4
  issue 0x20 f.pred (bCheck (if onPred then .pred else .src) (if one then .unused else .src)
      (decide (1 ≤ cc ∧ cc ≤ 6) || decide (8 ≤ cc ∧ cc ≤ 0xD)) f) (do
    gate (if one then [f.a] else [f.a, f.b]) []
    let s ← getS
    let x ← readSrc f.a
    let y ← if one then pure 0 else readSrc f.b
    pure (if brcCond cc x y then .branch (branchVa s f.off) else .seq)) s

/-- CALL: the address of the next word into A, then the branch (R172). -/
def execCall (f : BForm) (s : State) : Host.Outcome State Fault Refusal :=
  issue 0x21 f.pred (bCheck .greg .unused (f.cc == 0#4) f) (do
    let s ← getS
    writeDst f.a (s.strm.pc + 12)
    pure (.branch (branchVa s f.off))) s

/-- RET: the branch to the address in A (R172). -/
def execRet (f : RSys) (s : State) : Host.Outcome State Fault Refusal :=
  issue 0x22 f.pred (sysCheck { nopRule with a := .src } f) (do
    gate [f.a] []
    let x ← readSrc f.a
    pure (.branch x)) s

/-- LOOP: A counts down; the branch is taken while it is not zero (R173). -/
def execLoop (f : BForm) (s : State) : Host.Outcome State Fault Refusal :=
  issue 0x23 f.pred (fun s => firstBroken [
      (Use.ok .greg s f.a && f.a != .g 0, 2), (specOk s f.b, 3), (f.cc == 0#4, 9), (f.b == .g 0, 3)]) (do
    let s ← getS
    let x ← readSrc f.a
    let n := x - 1
    writeDst f.a n
    pure (if n = 0 then .seq else .branch (branchVa s f.off))) s

/-- Whether D and A of a popping QTRY or a QPEEK fit each other (R174, R34). -/
def qpopOk (s : State) (d a : Operand) : Bool × Bool :=
  match a with
  | .q ⟨15, _⟩ => (match d with | .g n => n.val % 2 == 0 && n.val != 0 | _ => false, s.cur == .c)
  | .q ⟨12, _⟩ => (match d with | .v _ => s.cur == .x | o => dstOk s o, s.cur == .x && (match d with | .v _ => true | _ => false))
  | .q n =>
    (match d with
     | .v _ => s.cur == .x && n.val == 11
     | o => dstOk s o, popOk s n.val)
  | _ => (dstOk s d, false)

/-- The decode checks of QTRY's pop form and of QPEEK. -/
def qpopCheck (f : RSys) (s : State) : Option (BitVec 32) :=
  firstBroken [
    ((qpopOk s f.d f.a).1, 1), ((qpopOk s f.d f.a).2, 2), (Use.ok .pred s f.b, 3), (specOk s f.c, 4),
    (f.sub == 0#8, 9), (f.rm == 0#3, 0xA), (!f.tag && f.scope == 0#2, 0xB), (f.imm == 0#32, 0xC),
    (f.ring1 == 0#4 && f.ring2 == 0#4, 0xD), (f.c == .g 0, 4)]

/-- A 64-bit element replicated into every 64-bit position (R174, R221). -/
def bcast64 (x : BitVec 64) : BitVec 2048 := vecOf 64 (List.replicate 32 x.toNat)

/-- The element at the head of queue A delivered to D (R174). -/
def deliver (q : Nat) (d : Operand) : M Unit := do
  let s ← getS
  match d with
  | .v n => if q = 12 then modS (writeV n (s.task.headQ 12)) else modS (writeV n (bcast64 ((s.task.headQ q).setWidth 64)))
  | .g n =>
    if q = 15 then writeEvent n (s.task.q15.headD 0)
    else writeDst d ((s.task.headQ q).setWidth 64)
  | _ => writeDst d ((s.task.headQ q).setWidth 64)

/-- Popping the head of any queue, q15 included. -/
def Task.dropAny (t : Task) (q : Nat) : Task := if q = 15 then { t with q15 := t.q15.tail } else t.dropQ q

/-- The pop form of QTRY (`take`) and QPEEK (R174, R175). -/
def qpop (take : Bool) (f : RSys) : M Flow := do
  let s ← getS
  let q := (queueOf f.a).headD 0
  let ready := decide (0 < s.task.queueCount q) && (queueOf f.d).all (fun d => !s.task.queueFull d)
  if ready then
    deliver q f.d
    if take then modS (modCur (fun t => t.dropAny q)) else pure ()
    writeDst f.b (BitVec.allOnes 64)
  else writeDst f.b 0
  pure .seq

/-- QTRY: a pop that never blocks (R174). -/
def execQtry (f : RSys) (s : State) : Host.Outcome State Fault Refusal :=
  issue 0x24 f.pred (qpopCheck f) (qpop true f) s

/-- QPEEK: reads the head and leaves it (R175). -/
def execQpeek (f : RSys) (s : State) : Host.Outcome State Fault Refusal :=
  issue 0x26 f.pred (qpopCheck f) (qpop false f) s

/-- The decode checks of QTRY.push: D a queue the stream pushes, or q13 for a vector in X (R174). -/
def qpushCheck (f : RSys) (s : State) : Option (BitVec 32) :=
  let vec := match f.a with | .v _ => true | _ => false
  firstBroken [
    (match f.d with | .q n => (if n.val = 13 then s.cur == .x && vec else pushOk s n.val && !vec) | _ => false, 1),
    (if vec then s.cur == .x else srcOk s f.a, 2), (Use.ok .pred s f.b, 3), (specOk s f.c, 4),
    (f.sub == 1#8, 9), (f.rm == 0#3, 0xA), (!f.tag && f.scope == 0#2, 0xB), (f.imm == 0#32, 0xC),
    (f.ring1 == 0#4 && f.ring2 == 0#4, 0xD), (f.c == .g 0, 4)]

/-- QTRY.push: a push that never blocks (R174). -/
def execQtryPush (f : RSys) (s : State) : Host.Outcome State Fault Refusal :=
  issue 0x24 f.pred (qpushCheck f) (do
    let s ← getS
    let ready := (queueOf f.d).all (fun d => !s.task.queueFull d)
      && (queueOf f.a).all (fun q => decide (0 < s.task.queueCount q))
    if ready then
      (match f.a with
       | .v n => writeVDst f.d (s.readV n)
       | a => do
         let x ← readSrc a
         writeDst f.d x)
      writeDst f.b (BitVec.allOnes 64)
    else writeDst f.b 0
    pure .seq) s

/-- Whether the current stream is either end of a queue (R176). -/
def queueEnd (s : State) (q : Nat) : Bool := queueDest q == s.cur || queueSource q == some s.cur

/-- QCNT (R176); it waits while D is a full queue and raises neither fault of R424 (log 57). -/
def execQcnt (f : RSys) (s : State) : Host.Outcome State Fault Refusal :=
  issue 0x25 f.pred (fun s => firstBroken [
      (Use.ok .dst s f.d, 1), (match f.a with | .q n => queueEnd s n.val | _ => false, 2), (specOk s f.b, 3),
      (specOk s f.c, 4), (f.sub == 0#8, 9), (f.rm == 0#3, 0xA), (!f.tag && f.scope == 0#2, 0xB), (f.imm == 0#32, 0xC),
      (f.ring1 == 0#4 && f.ring2 == 0#4, 0xD), (f.b == .g 0, 3), (f.c == .g 0, 4)]) (do
    let s ← getS
    match (queueOf f.d).find? s.task.queueFull with
    | some q => block (.push q)
    | none => pure ()
    writeDst f.d (BitVec.ofNat 64 (s.task.queueCount ((queueOf f.a).headD 0)))
    pure .seq) s

/-- Whether an E-form semaphore word is in its .reg form (R177). -/
def regForm (f : EForm) : Bool := f.sub.getLsbD 0

/-- The low 32 bits of A in the .reg form, else the field (R177). -/
def semAmount (f : EForm) (field : Nat) : M Nat := do
  if regForm f then
    let x ← readSrc f.a
    pure (x.toNat % 2 ^ 32)
  else pure field

/-- The decode checks that SSIG, SWAIT and STRY share. -/
def semCheck (ub : Use) (field : Bool) (f : EForm) (s : State) : Option (BitVec 32) :=
  let ua : Use := if regForm f then .src else .unused
  firstBroken [
    (ua.ok s f.a, 2), (ub.ok s f.b, 3), (decide (f.sub.toNat < 2), 9), (!f.tag && f.scope == 0#2, 0xB),
    (field && f.obj == 0#16, 0xE), (ua.blank f.a, 2), (ub.blank f.b, 3)]

/-- SSIG: a stream signal (R177); one that would overflow is not applied and traps (R39, R429). -/
def execSsig (f : EForm) (s : State) : Host.Outcome State Fault Refusal :=
  issue 0x27 f.pred (semCheck .unused
      (f.wmode == 0#2 && f.wsem == 0#8 && f.wthr == 0#16 && (!regForm f || f.sinc == 0#12)) f) (do
    gate (if regForm f then [f.a] else []) []
    let n ← semAmount f f.sinc.toNat
    let s ← getS
    match signalTask s.task.tid f.ssem n s with
    | some s' => modS (fun _ => s'); pure .seq
    | none => trap fcSemOverflow (BitVec.ofNat 32 f.ssem.toNat)) s

/-- SWAIT: blocks until satisfied; a signal it carries is applied in the next cycle, and its overflow
is judged then (R177, R422). -/
def execSwait (f : EForm) (s : State) : Host.Outcome State Fault Refusal :=
  issue 0x28 f.pred (semCheck .unused
      ((f.wmode == 1#2 || f.wmode == 2#2) && (!regForm f || f.wthr == 0#16)) f) (do
    let s ← getS
    if s.strm.swaitSig then
      modS (modStrm (fun r => { r with swaitSig := false }))
      ownSignal f.ssem f.sinc.toNat
    else
      gate (if regForm f then [f.a] else []) []
      let n ← semAmount f f.wthr.toNat
      gateWait (some ⟨f.wsem, n, f.wmode == 2#2, false⟩)
      if f.sinc = 0 then pure .seq
      else
        modS (modStrm (fun r => { r with swaitSig := true }))
        pure (.hold .sem)) s

/-- STRY: the wait tested once (R177). -/
def execStry (f : EForm) (s : State) : Host.Outcome State Fault Refusal :=
  issue 0x29 f.pred (semCheck .pred
      ((f.wmode == 1#2 || f.wmode == 2#2) && (!regForm f || f.wthr == 0#16) && f.ssem == 0#8 && f.sinc == 0#12) f) (do
    gate (if regForm f then [f.a] else []) []
    let n ← semAmount f f.wthr.toNat
    let s ← getS
    let w : SemWait := ⟨f.wsem, n, f.wmode == 2#2, false⟩
    if s.task.semReady w then
      modS (fun s => { s with task := s.task.serve w })
      writeDst f.b (BitVec.allOnes 64)
    else writeDst f.b 0
    pure .seq) s

/-- The numbers of a task's writes that are not performed at a scope (R110, R118, R300, R438): at every scope the RSTVs
on their way, and at .die and wider the writes whose acknowledgements have not arrived or which its log holds. -/
def Task.openWrites (t : Task) (scope : BitVec 2) : List Nat :=
  t.sendS.filterMap (fun m => match m with
    | .rstv id _ => some id
    | .rrput _ => none)
  ++ (if scope = 0#2 then [] else t.acks.map (·.id) ++ (t.sidelog ++ t.logWait).flatMap (fun e => e.write.map (·.id)))

/-- Whether the task's writes are performed at a scope (R110, R118, R300, R438). -/
def writesPerformed (t : Task) (scope : BitVec 2) : Bool := (t.openWrites scope).isEmpty

/-- A word waits for the writes that are open when it begins to wait, and for no later one (R118, R302): whether they
are done, `now` being those still open. -/
def awaitWrites (begin_ now : List Nat) : M Bool := do
  let s ← getS
  let rest := (s.strm.await.getD begin_).filter (fun n => now.contains n)
  modS (modStrm (fun r => { r with await := some rest }))
  pure rest.isEmpty

/-- FENCE (R178, Table 06.4). -/
def execFence (f : RSys) (s : State) : Host.Outcome State Fault Refusal :=
  issue 0x2A f.pred (sysCheck { nopRule with sub := fun x => decide (x.toNat ≤ 2), scope := true } f) (do
    let s ← getS
    let open_ := s.task.openWrites f.scope
    let done ← if f.sub = 2#8 then pure true else awaitWrites open_ open_
    if !done then pure (.hold .fence)
    else if f.sub ≠ 1#8 ∧ s.cur = .a ∧ s.task.rlds.any (fun r => !r.ready) then pure (.hold .fence)
    else
      if f.sub ≠ 1#8 then modS (acquireAt f.scope) else pure ()
      pure .seq) s

/-- ACCST as a view of the tiles (Table 03.12). -/
def Task.accst (t : Task) : BitVec 64 :=
  BitVec.ofNat 64 ((List.finRange 4).foldl (fun n i => n + 2 ^ (8 * i.val) * (t.t[i].mode.toNat + 4 * b2n t.t[i].ovf)) 0)

/-- SECR as CTLR reads it (Table 03.10). -/
def Strm.secr (r : Strm) : BitVec 64 := BitVec.ofNat 64 (r.rsec.toNat + 65536 * b2n r.rsecValid)

/-- Whether a control word exists in a stream (Table 03.6). -/
def ctlExists (st : Stream) (n : BitVec 8) : Bool :=
  match n.toNat with
  | 3 | 9 => st == .x
  | k => decide (k ≤ 0xA)

/-- A control word's value (Table 03.6). -/
def State.readCtl (s : State) (n : BitVec 8) : BitVec 64 :=
  match n.toNat with
  | 0 => s.strm.sctl
  | 1 => s.strm.fflags
  | 2 => s.strm.seed
  | 3 => s.task.seedm
  | 4 => s.strm.trapsec
  | 5 => s.strm.trapcause
  | 6 => s.strm.trappc
  | 7 => s.strm.secr
  | 8 => s.task.lscfg
  | 9 => s.task.accst
  | 0xA => s.task.cycles
  | _ => 0

/-- LSCFG's fields (Table 03.11). -/
def lscfgBase (x : BitVec 64) : Nat := bits x.toNat 0 21
def lscfgSwz (x : BitVec 64) : Nat := bits x.toNat 21 2
def lscfgSize (x : BitVec 64) : Nat := bits x.toNat 32 21

/-- Whether a write of LSCFG is legal (R61, R64). -/
def lscfgOk (t : Task) (v : BitVec 64) : Bool :=
  lscfgSwz v != 3 && t.stash.isEmpty && (List.finRange 8).all (fun i => !t.rings[i].en)
    && lscfgBase v % 128 == 0 && lscfgSize v % 128 == 0
    && (lscfgSize v == 0 || decide (lscfgBase v + lscfgSize v ≤ 0x180000))

/-- A write of a control word (R8, R61, R62, R64): none for an illegal write, which traps.  LSCFG is written by C alone,
and a write that breaks R64 traps in every stream; every word issued later sees the new value (R65; log 58). -/
def writeCtl (n : BitVec 8) (v : BitVec 64) (s : State) : Option State :=
  match n.toNat with
  | 0 => if bits v.toNat 0 3 ≤ 4 then some (modStrm (fun r => { r with sctl := v &&& 0xF7#64 }) s) else none
  | 1 => some (modStrm (fun r => { r with fflags := writeOneClear r.fflags v 0x3F }) s)
  | 2 => some (modStrm (fun r => { r with seed := storeSeed v }) s)
  | 3 => some (modCur (fun t => { t with seedm := storeSeed v }) s)
  | 4 => some (modStrm (fun r => { r with trapsec := v &&& ~~~2#64 }) s)
  | 8 =>
    if ¬ lscfgOk s.task v then none
    else if s.cur = .c then some (modCur (fun t => { t with lscfg := v &&& 0x001FFFFF007FFFFF#64 }) s)
    else some s
  | 9 => some (modCur (fun t => { t with
      t := Vector.ofFn (fun i => { t.t[i] with ovf := t.t[i].ovf && !v.getLsbD (8 * i.val + 2) }) }) s)
  | _ => some s

/-- CTLR (R179). -/
def execCtlr (f : RSys) (s : State) : Host.Outcome State Fault Refusal :=
  issue 0x2B f.pred (fun s => (sysCheck { nopRule with d := .dst, sub := fun _ => true } f s).or
      (firstBroken [(ctlExists s.cur f.sub, 0x14)])) (do
    gate [] [f.d]
    let s ← getS
    writeDst f.d (s.readCtl f.sub)
    pure .seq) s

/-- CTLW: the word written under R61 and R8; D receives the value before (R179). -/
def execCtlw (f : RSys) (s : State) : Host.Outcome State Fault Refusal :=
  issue 0x2C f.pred (fun s => (sysCheck { nopRule with d := .dst, a := .src, sub := fun _ => true } f s).or
      (firstBroken [(ctlExists s.cur f.sub, 0x14)])) (do
    gate [f.a] [f.d]
    let s ← getS
    let v ← readSrc f.a
    let s' ← getS
    match writeCtl f.sub v s' with
    | none => trap fcIllegalOperand (fieldInfo 0x14)
    | some s'' =>
      modS (fun _ => s'')
      writeDst f.d (s.readCtl f.sub)
      pure .seq) s

/-- The decode checks of TRAP and BKPT (R144, R180). -/
def codeCheck (f : IForm) (s : State) : Option (BitVec 32) :=
  firstBroken [(specOk s f.d, 1), (specOk s f.a, 2), (f.imm.extractLsb' 32 32 == 0#32, 0xC), (f.d == .g 0, 1), (f.a == .g 0, 2)]

/-- TRAP: SOFTWARE_TRAP with INFO from IMM64 (R180). -/
def execTrap (f : IForm) (s : State) : Host.Outcome State Fault Refusal :=
  issue 0x2D f.pred (codeCheck f) (trap fcSoftwareTrap (f.imm.setWidth 32)) s

/-- BKPT: NOP, or with BOOTST.DBGEN set a freeze at the word after it (R181, R402). -/
def execBkpt (f : IForm) (s : State) : Host.Outcome State Fault Refusal :=
  issue 0x2E f.pred (codeCheck f) (do
    let s ← getS
    pure (if s.bootst.getLsbD 4 then .breakpoint (f.imm.setWidth 32) else .seq)) s

/-- STOP: the stream finishes and its section retires (R182). -/
def execStop (f : RSys) (s : State) : Host.Outcome State Fault Refusal :=
  issue 0x2F f.pred (sysCheck nopRule f) (pure .finish) s

end Sys2Proof.Machine
end

