-- ==== Sys2Proof/Machine/LocalStore.lean ====
section
/-! DEFINITION. The local store: regions, banks, operand checks, stash lines, and the operand rings
(03 R59, R60, R64; 05 R98 to R105; 21 R426). -/

namespace Sys2Proof.Machine

/-- The bank of a byte offset under LSCFG.SWZ (R64). -/
def lsBank (swz a : Nat) : Nat :=
  let u := a / 32
  if swz = 1 then (u ^^^ (a / 2 ^ 11)) % 64
  else if swz = 2 then (u ^^^ (a / 2 ^ 14)) % 64
  else u % 64

/-- The end of a ring's slots. -/
def ringEnd (cfg : BitVec 64) : Nat := ringBase cfg + ringSlots cfg * ringSlotBytes cfg

/-- Whether a byte lies in a slot of an enabled ring (R99). -/
def Task.inRing (t : Task) (a : Nat) : Bool :=
  (List.finRange 8).any (fun i => t.rings[i].en && decide (ringBase t.rings[i].cfg ≤ a) && decide (a < ringEnd t.rings[i].cfg))

/-- Whether a byte lies in the stash area (R99). -/
def Task.inStashArea (t : Task) (a : Nat) : Bool :=
  decide (lscfgBase t.lscfg ≤ a) && decide (a < lscfgBase t.lscfg + lscfgSize t.lscfg)

/-- The mapping that covers a byte of the stash area; where two do, the earlier serves (R102; log 59). -/
def Task.stashAt (t : Task) (a : Nat) : Option Stash :=
  t.stash.find? (fun m => decide (m.lsOff ≤ a) && decide (a < m.lsOff + m.len))

/-- Which regions an LS operand may lie in (R99, R190, R426). -/
inductive LsUse where
  | plain
  | noStash
  | any
deriving DecidableEq, Repr

/-- Whether one byte lies in a region the operand may lie in. -/
def LsUse.allows (u : LsUse) (t : Task) (a : Nat) : Bool :=
  match u with
  | .plain => !t.inStashArea a && !t.inRing a
  | .noStash => !t.inStashArea a
  | .any => !t.inStashArea a || (t.stashAt a).isSome

/-- Where a region changes: region checks at these offsets and at the operand's first byte decide all. -/
def Task.lsEdges (t : Task) : List Nat :=
  [lscfgBase t.lscfg, lscfgBase t.lscfg + lscfgSize t.lscfg]
    ++ (List.finRange 8).flatMap (fun i => [ringBase t.rings[i].cfg, ringEnd t.rings[i].cfg])
    ++ t.stash.flatMap (fun m => [m.lsOff, m.lsOff + m.len])

/-- The lowest byte of a range that lies outside the regions allowed. -/
def lsBadByte (u : LsUse) (t : Task) (off n : Nat) : Option Nat :=
  let cand := (off :: t.lsEdges).filter (fun a => off ≤ a && a < off + n && !u.allows t a)
  cand.foldl (fun m a => match m with
    | none => some a
    | some b => some (min a b)) none

/-- The result of stage 10's bound and region checks for one LS operand: a fault code and the lowest
failing byte. -/
def lsJudge (u : LsUse) (t : Task) (off n : Nat) : Option (BitVec 8 × Nat) :=
  if n = 0 then none
  else if 0x180000 < off + n then some (fcLsBound, max off 0x180000)
  else (lsBadByte u t off n).map (fun a => (fcLsRegion, a))

/-- Whether an operand of n bytes passes the end of the local store. -/
def lsOver (off n : Nat) : Bool := n != 0 && decide (0x180000 < off + n)

/-- Stage 10: bound, then region (R421, R426). -/
def lsCheck (u : LsUse) (off n : Nat) : M Unit := fun s =>
  match lsJudge u s.task off n with
  | some (code, a) => .error (.trap code (BitVec.ofNat 32 (a % 2 ^ 21)) 0)
  | none => .ok ((), s)

/-- Stage 10 for several operands: the bound of each, then the region of each (R421, R426). -/
def lsChecks (rs : List (LsUse × Nat × Nat)) : M Unit := fun s =>
  let bad := (rs.filter (fun r => lsOver r.2.1 r.2.2)).head?.or ((rs.filter (fun r => (lsJudge r.1 s.task r.2.1 r.2.2).isSome)).head?)
  match bad.bind (fun r => lsJudge r.1 s.task r.2.1 r.2.2) with
  | some (code, a) => .error (.trap code (BitVec.ofNat 32 (a % 2 ^ 21)) 0)
  | none => .ok ((), s)

/-- The LS bytes of a task, with no stash line touched. -/
def Task.lsRead (t : Task) (off n : Nat) : List (BitVec 8) := readCells t.ls off n

/-- Bytes written into a task's local store; a line written whole is poisoned no more (R411). -/
def Task.lsWrite (t : Task) (off : Nat) (bs : List (BitVec 8)) : Task :=
  { t with
    ls := writeCells t.ls (atAddr off bs)
    lsPoison := t.lsPoison.filter (fun k => !(decide (off ≤ k / 16 * 128) && decide (k / 16 * 128 + 128 ≤ off + bs.length))) }

/-- The lowest poisoned byte that rows of n bytes of a task's local store hold. -/
def Task.lsBadRow (t : Task) (off pitch rows n : Nat) : Option Nat :=
  let hit (r : Nat) (k : Nat) : Option Nat :=
    let lo := off + pitch * r
    if lo < 8 * k + 8 ∧ 8 * k < lo + n then some (max lo (8 * k)) else none
  (t.lsPoison.flatMap (fun k => (List.range rows).filterMap (fun r => hit r k))).min?

/-- A stream that reads a poisoned byte of its local store traps, with the byte's offset in its line (R411). -/
def lsCleanRows (off pitch rows n : Nat) : M Unit := fun s =>
  match s.task.lsBadRow off pitch rows n with
  | some a => .error (.trap fcDataPoison (BitVec.ofNat 32 (a % 128)) (BitVec.ofNat 64 (a % 128)))
  | none => .ok ((), s)

/-- The same for one range. -/
def lsClean (off n : Nat) : M Unit := lsCleanRows off 0 1 n

/-- A line of a mapping replaced or added, by offset. -/
def Stash.putLine (m : Stash) (l : StashLine) : Stash :=
  { m with lines := l :: m.lines.filter (fun x => x.off != l.off) }

/-- A task with a stash line's state set. -/
def Task.putStashLine (t : Task) (num off : Nat) (dirty : Bool) : Task :=
  { t with stash := t.stash.map (fun m => if m.num = num then m.putLine ⟨off, dirty⟩ else m) }

/-- A stash line fetched from its home slice into the local store, valid and clean (R103). -/
def fillStash (tid : Nat) (m : Stash) (off : Nat) : M Unit := do
  let bs ← readLine (.stash tid) (span (m.ia + off) 128)
  modS (modTask tid (fun t => (t.lsWrite (m.lsOff + off) bs).putStashLine m.num off false))

/-- The stash lines a range touches: mapping and line offset. -/
def Task.stashTouched (t : Task) (off n : Nat) : List (Stash × Nat) :=
  if t.stash = [] ∨ n = 0 then []
  else ((List.range (n / 128 + 2)).map (fun i => off / 128 * 128 + 128 * i)).filterMap (fun a =>
    if a < off + n then (t.stashAt a).map (fun m => (m, a - m.lsOff)) else none)

/-- One stash line touched by the current task: its rights, and its fill (R102, R103); a store's line leaves the core's
L1, so that the task's own later loads read it (R110, R126). -/
def touchStash (off : Nat) (isStore : Bool) (x : Stash × Nat) : M Unit := do
  let m := x.1
  let va := m.va.toNat + (max off (m.lsOff + x.2) - m.lsOff)
  if ¬ (if isStore then m.w else m.r) then
    stop (.trap fcWindowRights (BitVec.ofNat 32 va) (BitVec.ofNat 64 va))
  let s ← getS
  if m.lines.any (fun l => l.off == x.2) then pure ()
  else fillStash s.task.tid m x.2
  if isStore then modS (fun s => l1DropLines s.task.core [m.ia + x.2] (modCur (fun t => t.putStashLine m.num x.2 true) s))
  else pure ()

/-- An LS read of the current task, after its checks (R98 to R104). -/
def lsLoad (off n : Nat) : M (List (BitVec 8)) := do
  let s ← getS
  let _ ← (s.task.stashTouched off n).mapM (touchStash off false)
  lsClean off n
  let s ← getS
  pure (s.task.lsRead off n)

/-- An LS write of the current task, after its checks (R98 to R104). -/
def lsStore (off : Nat) (bs : List (BitVec 8)) : M Unit := do
  let s ← getS
  let _ ← (s.task.stashTouched off bs.length).mapM (touchStash off true)
  modS (modCur (fun t => t.lsWrite off bs))

/-- The 32-byte units of ranges, ascending and without repeats, as unit numbers. -/
def lsUnits (rs : List (Nat × Nat)) : List Nat :=
  let us := rs.flatMap (fun r => if r.2 = 0 then [] else span (r.1 / 32) ((r.1 + r.2 - 1) / 32 - r.1 / 32 + 1))
  ((us.mergeSort (· ≤ ·)).foldl (fun (acc : List Nat) u => if acc.head? = some u then acc else u :: acc) []).reverse

/-- The first pair of units, by lower then higher index, that share a bank. -/
def bankPair (swz : Nat) (us : List Nat) : Option (Nat × Nat × Nat) :=
  let bs := us.map (fun u => lsBank swz (32 * u))
  (List.range bs.length).findSome? (fun i =>
    ((List.range bs.length).find? (fun j => decide (i < j) && bs[j]? == bs[i]?)).map (fun j => (i, j, bs.getD i 0)))

/-- The conflict check of a `.cf` read (R100, Table 21.5). -/
def cfCheck (rs : List (Nat × Nat)) : M Unit := fun s =>
  match bankPair (lscfgSwz s.task.lscfg) (lsUnits rs) with
  | some (i, j, b) => .error (.trap fcLsConflict (BitVec.ofNat 32 (b + 256 * (i % 256) + 65536 * (j % 256))) 0)
  | none => .ok ((), s)

/-- A ring of the current task. -/
def State.ringOf (s : State) (n : Fin 8) : Ring := s.task.rings[n]

/-- Whether a ring configuration is valid beside the other enabled rings and the stash area (R59, R99). -/
def Task.ringCfgOk (t : Task) (n : Nat) (cfg : BitVec 64) : Bool :=
  let x := cfg.toNat
  let lo := ringBase cfg
  let hi := ringEnd cfg
  bits x 52 12 == 0 && bits x 44 4 == 0 && bits x 21 11 == 0 && ringSlotBytes cfg != 0 && lo % 256 == 0
    && decide (hi ≤ 0x180000)
    && (List.finRange 8).all (fun i => i.val == n || !t.rings[i].en
          || decide (hi ≤ ringBase t.rings[i].cfg) || decide (ringEnd t.rings[i].cfg ≤ lo))
    && (lscfgSize t.lscfg == 0 || decide (hi ≤ lscfgBase t.lscfg) || decide (lscfgBase t.lscfg + lscfgSize t.lscfg ≤ lo))

/-- A ring number from a RING field. -/
def ringField (r : BitVec 4) : Fin 8 := Fin.ofNat 8 (r.toNat % 8)

end Sys2Proof.Machine
end

