-- ==== Sys2Proof/Machine/Objects.lean ====
section
/-! DEFINITION. The object table: its checks, and the layouts of its entries (12 R315 to R322, R327; 11 R303;
13 R335, R336; 14 R348). -/

namespace Sys2Proof.Machine

/-- Bytes of an element of a TYPE code (Table 07.7); zero for a code with no whole-byte element. -/
def tyBytes (ty : Nat) : Nat :=
  match ty with
  | 0x00 | 0x04 | 0x0C | 0x0D | 0x0F => 1
  | 0x01 | 0x05 | 0x0A | 0x0B => 2
  | 0x02 | 0x06 | 0x09 => 4
  | 0x03 | 0x07 | 0x08 | 0x10 => 8
  | 0x11 => 16
  | _ => 0

/-- The entry of an object index; a free one where the table lists none (R315, R316). -/
def objEntry (s : State) (idx : BitVec 16) : BitVec 8 × BitVec 512 :=
  match s.objs.find? (fun e => e.index == idx) with
  | some e => (e.kind, e.body)
  | none => (0, 0)

/-- Whether a task's object list covers an index: it lists it, or lists the even index before it, whose entry is
an XPB's (R317, check 1). -/
def hasObj (s : State) (t : Task) (idx : BitVec 16) : Bool :=
  t.objs.any (fun o => o.1 == idx || (idx.getLsbD 0 && o.1 == idx - 1 && (objEntry s (idx - 1)).1 == 3#8))

/-- The checks of R317 in order for a use by a task, or by the host when `tid` is none: the fault code, or
the entry's body. -/
def objCheck (s : State) (t : Option Task) (idx : BitVec 16) (kind : BitVec 8) (valid rights : Nat → Bool) :
    Except (BitVec 8) Nat :=
  let e := objEntry s idx
  let listed : Bool := match t with
    | some t => hasObj s t idx
    | none => true
  if listed = false ∨ e.1 ≠ kind then .error fcObjectKind
  else if ¬ valid e.2.toNat then .error fcIllegalOperand
  else if ¬ rights e.2.toNat then .error fcObjectRights
  else .ok e.2.toNat

/-- The INFO of a trap on an object (Table 21.5). -/
def objInfo (code : BitVec 8) (idx : BitVec 16) : BitVec 32 :=
  if code = fcIllegalOperand then idx ++ 0x000F#16 else idx.setWidth 32

/-- Stage 7 for one object of the current task (R317, R421). -/
def useObj (idx : BitVec 16) (kind : BitVec 8) (valid rights : Nat → Bool) : M Nat := fun s =>
  match objCheck s (some s.task) idx kind valid rights with
  | .ok b => .ok (b, s)
  | .error c => .error (.trap c (objInfo c idx) 0)

/-- A shape record (Table 12.2). -/
structure Shape where
  base : Nat
  rank : Nat
  r : Bool
  w : Bool
  a : Bool
  fmt  : Nat
  dims : List Nat
  strides : List Int
  lo0 : Nat
  hi0 : Nat
  lo1 : Nat
  hi1 : Nat
deriving DecidableEq, Repr

/-- DIMd of a shape record. -/
def shDim (x d : Nat) : Nat :=
  match d with
  | 0 => bits x 72 20
  | 1 => bits x 92 20
  | d => bits x (16 * d + 80) 16

/-- STRIDEd of a shape record, in elements; 1 for dimension 0 (R319). -/
def shStride (x d : Nat) : Int := if d = 0 then 1 else sxInt 32 (bits x (32 * d + 176) 32)

/-- A shape record's fields. -/
def shapeOf (x : Nat) : Shape :=
  let rank := bits x 58 3 + 1
  { base := bits x 0 58, rank := rank, r := bitN x 61, w := bitN x 62, a := bitN x 63, fmt := bits x 64 5
    dims := (List.range rank).map (shDim x), strides := (List.range rank).map (shStride x)
    lo0 := bits x 432 20, hi0 := bits x 452 20, lo1 := bits x 472 20, hi1 := bits x 492 20 }

/-- The element size of a shape. -/
def Shape.z (h : Shape) : Nat := tyBytes h.fmt

/-- Whether a shape record is valid (R318, R319). -/
def shapeOk (x : Nat) : Bool :=
  let h := shapeOf x
  bits x 69 3 == 0 && h.z != 0
    && h.dims.all (fun d => d != 0)
    && (List.range 8).all (fun d => decide (d < h.rank) || (shDim x d == 0 && shStride x d == 0))
    && h.base % h.z == 0 && (h.rank != 1 || (h.lo1 == 0 && h.hi1 == 0))

/-- The IA of the element at coordinates (R319). -/
def Shape.addr (h : Shape) (c : List Nat) : Int :=
  h.base + h.z * ((c.zip h.strides).map (fun x => (x.1 : Int) * x.2)).sum

/-- The greatest and least byte addresses of a shape lie in the pageable span of its package, or in its
host aperture (R319, R443). -/
def Shape.inBounds (h : Shape) : Bool :=
  let ext := h.dims.zip h.strides
  let least := h.base + h.z * (ext.map (fun x => min 0 (((x.1 : Int) - 1) * x.2))).sum
  let most := h.base + h.z * (ext.map (fun x => max 0 (((x.1 : Int) - 1) * x.2))).sum + h.z - 1
  let org : Int := (iaPkg h.base * 2 ^ 47 : Nat)
  (decide (org ≤ least) && decide (most < org + deviceSpan))
    || (decide (org + hostAperture ≤ least) && decide (most < org + (2 ^ 47 : Nat)))

/-- Whether an element lies inside the dimensions. -/
def Shape.inside (h : Shape) (c : List Nat) : Bool := (c.zip h.dims).all (fun x => decide (x.1 < x.2))

/-- Whether an element lies in the clip box (R320). -/
def Shape.boxed (h : Shape) (c : List Nat) : Bool :=
  decide (h.lo0 ≤ c.getD 0 0) && decide (c.getD 0 0 < h.hi0) &&
    decide (h.lo1 ≤ c.getD 1 0) && decide (c.getD 1 0 < h.hi1)

/-- Whether an element is clipped (R320). -/
def Shape.clipped (h : Shape) (c : List Nat) : Bool := !h.inside c || h.boxed c

/-- Whether a copy template's fields are in range (R321). -/
def templateOk (x : Nat) : Bool :=
  let mode := bits x 32 2
  let n := bits x 112 4
  bits x 448 64 == 0 && bits x 116 12 == 0 && bits x 68 4 == 0 && bits x 45 3 == 0 && !bitN x 39
    && decide (8 ≤ bits x 40 5) && decide (bits x 40 5 ≤ 18)
    && (mode == 2 || (bits x 192 256 == 0 && n == 0))
    && (mode != 2 || bits x 16 16 == 0) && (mode != 3 || bits x 0 16 == 0)
    && (mode != 2 || bits x (192 + 16 * (n + 1)) (256 - 16 * (n + 1)) == 0)
    && (!bitN x 34 || bits x 16 16 == 0)

/-- MODE of a copy template. -/
def templateMode (x : Nat) : Nat := bits x 32 2

/-- Whether a Lighter program entry's fields are in range (R327). -/
def lprogOk (x : Nat) : Bool :=
  bits x 90 422 == 0 && !bitN x 80 && bits x 64 16 != 0 && bits x 58 6 == 0 && bits x 0 58 % 8 == 0

/-- Whether a sketch descriptor's fields are in range (R303). -/
def sketchOk (x : Nat) : Bool :=
  let rows := bits x 64 4
  let logw := bits x 68 5
  let base := bits x 0 58
  bits x 58 6 == 0 && bits x 82 45 == 0 && bits x 192 320 == 0 && base % 128 == 0
    && (rows == 3 || rows == 5 || rows == 7 || rows == 9) && decide (8 ≤ logw) && decide (logw ≤ 24)
    && decide (iaOff base + rows * 2 ^ logw * 4 ≤ deviceSpan)

/-- Whether a graph header's fields are in range (Table 14.1). -/
def graphOk (x : Nat) : Bool :=
  let size := bits x 192 16
  let cap := bits x 208 16
  bits x 58 6 == 0 && bits x 0 58 % 128 == 0 && bits x 117 11 == 0 && bits x 85 32 != 0
    && decide (1 ≤ bits x 64 13) && decide (bits x 64 13 ≤ 4096)
    && bits x 186 6 == 0 && bits x 128 58 % 128 == 0 && (bits x 128 58 == 0) == (size == 0)
    && bits x 224 32 == 0 && size % 16 == 0 && (cap == 0) == (size == 0)
    && bits x 314 6 == 0 && bits x 256 58 % 128 == 0 && bits x 320 192 == 0

end Sys2Proof.Machine
end

