-- ==== Sys2Proof/Machine/Graphs.lean ====
section
/-! DEFINITION. C stream: graphs and tiles (08 R184 to R188, 14 R350 to R354). -/

namespace Sys2Proof.Machine

/-- The residence slot that holds a graph object (R349). -/
def slotOf (s : State) (obj : BitVec 16) : Option Nat :=
  findBelow (fun n => (getSlot s n).v && (getSlot s n).obj == obj) 64

/-- Fields of a graph header (Table 14.1). -/
def GSlot.nodesIa (g : GSlot) : Nat := bits g.header.toNat 0 58
def GSlot.stepCount (g : GSlot) : Nat := bits g.header.toNat 85 32
def GSlot.plfix (g : GSlot) : Bool := bitN g.header.toNat 84
def GSlot.prio (g : GSlot) : Nat := bits g.header.toNat 77 7
def GSlot.nnodes (g : GSlot) : Nat := bits g.header.toNat 64 13
def GSlot.patchArea (g : GSlot) : Nat := bits g.header.toNat 128 58
def GSlot.patchCap (g : GSlot) : Nat := bits g.header.toNat 208 16
def GSlot.patchSize (g : GSlot) : Nat := bits g.header.toNat 192 16
def GSlot.stepLog (g : GSlot) : Nat := bits g.header.toNat 256 58

/-- The IA of a patch slot of a bank (R354). -/
def GSlot.patchIa (g : GSlot) (bank : Bool) (slot : Nat) : Nat :=
  g.patchArea + (b2n bank * g.patchCap + slot) * g.patchSize

/-- A start of a graph for `n` steps, or the stored count when `n` is 0: the status of R350. -/
def startGraph (slot n : Nat) (sig : Option (Nat × BitVec 8 × BitVec 12)) (s : State) : State × Nat :=
  let g := getSlot s slot
  let x : Start := { steps := if n = 0 then g.stepCount else n, step := 0, bank := false, sig := sig
                     begin_ := 0, weights := [] }
  if g.running = none then (modSlot slot (beginStart s x) s, 0)
  else if g.queued = none then (modSlot slot (fun g => { g with queued := some x }) s, 1)
  else (s, 2)

/-- Stage 7 for a graph object of GSTART, GPATCH or GQUERY: the entry's checks, then residence (R184, R349; log 63). -/
def useGraph (obj : BitVec 16) : M Nat := do
  let _ ← useObj obj 8 graphOk (fun _ => true)
  let s ← getS
  match slotOf s obj with
  | some n => pure n
  | none => trap fcObjectKind (objInfo fcObjectKind obj)

/-- GSTART (R184, R350). -/
def execGstart (f : EForm) (s : State) : Host.Outcome State Fault Refusal :=
  issue 0x40 f.pred (eCheck { a := .src, b := .dst, sub := fun x => x == 0#4, wait := true, sig := true, obj := true } f) (do
    gate [f.a] [f.b]
    gateWait (waitOf f.wmode f.wsem f.wthr)
    let slot ← useGraph f.obj
    let n ← readSrc f.a
    ensureValue (decide (n.toNat < 2 ^ 32)) 2
    let s ← getS
    let r := startGraph slot n.toNat (some (s.task.tid, f.ssem, f.sinc)) s
    modS (fun _ => r.1)
    writeDst f.b (BitVec.ofNat 64 r.2)
    pure .seq) s

/-- The decode checks of a system word that names an object in IMM32[15:0]. -/
def objImm (i : BitVec 32) : Bool := i.extractLsb' 16 16 == 0#16

/-- GPATCH (R185, R354). -/
def execGpatch (f : RSys) (s : State) : Host.Outcome State Fault Refusal :=
  issue 0x41 f.pred (sysCheck { d := .dst, a := .src, b := .src, c := .src, sub := fun x => x == 0#8, imm := objImm } f) (do
    gate [f.a, f.b, f.c] [f.d]
    let slot ← useGraph (f.imm.setWidth 16)
    let a ← readSrc f.a
    let b ← readSrc f.b
    let c ← readSrc f.c
    let s ← getS
    let g := getSlot s slot
    ensureValue (decide (b.toNat ≤ g.patchSize)) 3
    ensureValue (decide (c.toNat < g.patchCap)) 4
    ensureValue (decide (a.toNat + b.toNat ≤ 0x180000)) 2
    lsCheck .any a.toNat b.toNat
    if g.queued.isSome then writeDst f.d 2
    else
      let bs ← lsLoad a.toNat b.toNat
      let _ ← writeIa .quay (g.patchIa g.nextBank c.toNat) bs
      writeDst f.d 0
    pure .seq) s

/-- The word GQUERY reads (R186). -/
def GSlot.query (g : GSlot) : BitVec 64 :=
  let state := if g.running.isNone then 0 else if g.queued.isNone then 1 else 2
  let done := match g.running with
    | some r => r.step
    | none => 0
  BitVec.ofNat 64 (state + 4 * g.prio + 2 ^ 32 * done)

/-- GQUERY (R186). -/
def execGquery (f : RSys) (s : State) : Host.Outcome State Fault Refusal :=
  issue 0x42 f.pred (sysCheck { d := .dst, a := .unused, b := .unused, c := .unused, sub := fun x => x == 0#8, imm := objImm } f) (do
    gate [] [f.d]
    let slot ← useGraph (f.imm.setWidth 16)
    let s ← getS
    writeDst f.d (getSlot s slot).query
    pure .seq) s

/-- TSPAWN's effect on a node of a running graph, and its status (R187, R353).  A failed graph deals no
more tiles and counts as not running (log 24). -/
def spawnTile (slot node : Nat) (tile : BitVec 64) (s : State) : State × Nat :=
  let g := getSlot s slot
  match g.running, g.nodes[node]? with
  | some r, some n =>
    if g.failed then (s, 2)
    else if g.inStep ∧ ¬ n.complete then
      if n.spawnCap ≤ n.spawned then (s, 1)
      else (modNode slot node (fun n => { n with
              spawnq := n.spawnq ++ [tile], spawned := n.spawned + 1, total := n.total + 1 }) s, 0)
    else if ¬ g.inStep ∨ r.step + 1 < r.steps ∨ g.queued.isSome then
      if n.spawnCap ≤ n.nextSpawn.length then (s, 1)
      else (modNode slot node (fun n => { n with nextSpawn := n.nextSpawn ++ [tile] }) s, 0)
    else (s, 2)
  | _, _ => (s, 2)

/-- TSPAWN (R187). -/
def execTspawn (f : RSys) (s : State) : Host.Outcome State Fault Refusal :=
  issue 0x49 f.pred (sysCheck { d := .dst, a := .src, b := .src, c := .unused, sub := fun x => x == 0#8 } f) (do
    gate [f.a, f.b] [f.d]
    let a ← readSrc f.a
    let b ← readSrc f.b
    let s ← getS
    let slot := bits a.toNat 12 6
    let node := bits a.toNat 0 12
    let g := getSlot s slot
    ensureValue (decide (a.toNat < 2 ^ 18) && !(g.v && decide (g.nnodes ≤ node))) 2
    let r := if g.v then spawnTile slot node b s else (s, 2)
    modS (fun _ => r.1)
    writeDst f.d (BitVec.ofNat 64 r.2)
    pure .seq) s

/-- NODEREL: once the task's writes are performed at .pkg, its tile is reported complete (R188). -/
def execNoderel (f : RSys) (s : State) : Host.Outcome State Fault Refusal :=
  issue 0x56 f.pred (sysCheck nopRule f) (do
    let s ← getS
    if s.task.nodeRel then pure .seq
    else if ¬ writesPerformed s.task 2#2 then block .fence
    else
      modS (reportTile s.task.slot s.task.node)
      modS (modCur (fun t => { t with nodeRel := true }))
      pure .seq) s

end Sys2Proof.Machine
end

