-- ==== Sys2Proof/Machine/SideLog.lean ====
section
/-! DEFINITION. Write events of a task: applied at their home slices with their acknowledgements, or retired
into the side log when a page faults (06 R114; 22 R436 to R439, R441), and the write-back of stash lines. -/

namespace Sys2Proof.Machine

/-- The home-slice value of an integer or floating-point atomic operation on an old value (R297): `size`
bytes, `flt` when the operand type is a float.  Operation 9 (cas) compares with `expected`. -/
def atomicNew (opk : BitVec 4) (size : Nat) (old operand expected : Nat) : Nat :=
  let w := 8 * size
  let a := old % 2 ^ w
  let b := operand % 2 ^ w
  let sa := sxInt w a
  let sb := sxInt w b
  let fm := if size = 4 then fmtF32 else fmtF64
  let flt (sub : Nat) : Nat :=
    (fopResult (if size = 4 then 9#5 else 8#5) sub false .rne (fdecode fm a) (fdecode fm b) (.nan false)).1.toNat
  match opk.toNat with
  | 0x0 => (a + b) % 2 ^ w
  | 0x1 => a &&& b
  | 0x2 => a ||| b
  | 0x3 => a ^^^ b
  | 0x4 => if sa ≤ sb then a else b
  | 0x5 => if sb ≤ sa then a else b
  | 0x6 => min a b
  | 0x7 => max a b
  | 0x8 => b
  | 0x9 => if a = expected % 2 ^ w then b else a
  | 0xA => flt 1
  | 0xB => flt 8
  | _ => flt 9

/-- Whether an access leaves the die of a task's core: the device span and other packages lie off it (R363). -/
def leavesDie (s : State) (tid ia : Nat) : Bool :=
  !(s.homedHere ia) || ((ownTask? s tid).map (fun t => s.dieOf t.core != s.homeOf (iaOff ia))).getD true

/-- The starts of a task that wait for a unit of another die (R209, R210, R363). -/
def State.startsOff (s : State) (t : Task) : Nat :=
  (s.aperture.filter (fun x => x.2.2 == some t.tid && x.1 / 4 != s.dieOf t.core)).length
    + (s.lgos.filter (fun x => x.2.tid == t.tid && x.1 / 4 != s.dieOf t.core)).length

/-- The requests of a task's core that have left its die and are not answered: remote loads, writes, starts and the
sends of the fabric send queues (R363). -/
def State.offDie (s : State) (t : Task) : Nat :=
  (t.acks.filter (·.off)).length + (t.rlds.filter (fun r => r.off && !r.ready)).length + t.sendC.length + t.sendS.length
    + s.startsOff t

/-- A stream's n requests that leave its die wait for free reservations of the 64; an instruction with more than 64 uses
the same ones again (R363; log 61). -/
def gateReserve (n : Nat) : M Unit := fun s =>
  if n ≠ 0 ∧ 64 < s.offDie s.task + min n 64 then .error (.wait .memory) else .ok ((), s)

/-- An engine's request that leaves its die waits for one of the die's 128 reservations, which the accesses of its
engines that are held or wait for a circuit keep (R363; log 61). -/
def poolFree (s : State) (die : Nat) : Bool :=
  decide ((s.packs.flatMap (·.held)).countP (fun h => match h.by_ with
    | .bte n => n.val / 4 == die
    | .lighter n => n.val / 4 == die
    | _ => false) < 128)

/-- An acknowledgement on its way to a task, with the number of its write (R114, R363). -/
def addAck (tid : Nat) (word : BitVec 64) (w : LogWrite) (s : State) : State :=
  let off := leavesDie s tid w.ia && ((ownTask? s tid).map (fun t => decide (s.offDie t < 64))).getD true
  modTask tid (fun t => { t with acks := t.acks ++ [⟨word, w.tag, w.id, w.after, off⟩] }) s

/-- A write event of one line applied at its home slice: a store's bytes, or a reduction (R111, R297). -/
def applyWrite (by_ : Requester) (w : LogWrite) : M (BitVec 64) := do
  if w.red then
    let n := w.bytes.length
    let r ← updateLine by_ (w.bytes.map (·.1)) (fun old =>
      (natBytes n (atomicNew w.opk n (bytesNat old) (bytesNat (w.bytes.map (·.2))) 0), ()))
    pure r.1
  else
    let r ← writeLine by_ w.bytes
    if w.bad ≠ [] then atHome by_ w.ia (fun _ => modS (carryPoison w.ia w.bad))
    pure r

/-- A page's write of a task held at its walker, with its record for the first (R433, R436). -/
def holdWrite (tid : Nat) (w : Option AccessWord) (ia : Nat) (s : State) : State :=
  let die := match locate (s.homeView ia) ia with
    | .fault d => d.getD (requesterDie s (.replay tid))
    | .stack e _ => e.die
    | _ => requesterDie s (.replay tid)
  holdWord w die (ia / 65536) ia (.replay tid) s

/-- Writes of one page enter the side log of their task, or wait for an entry when 64 are in use (R436, R439). -/
def enterLog (tid page : Nat) (ws : List LogWrite) (s0 : State) : State :=
  appendLog tid page ws (holdWrite tid (ws.head?.bind LogWrite.word) ((ws.head?.map (·.ia)).getD 0) s0)

/-- Writes grouped by page in the order in which pages first occur. -/
def groupPages (ws : List LogWrite) : List (Nat × List LogWrite) :=
  let pages := (ws.map (fun w => w.ia / 65536)).foldl (fun (acc : List Nat) p => if acc.contains p then acc else acc ++ [p]) []
  pages.map (fun p => (p, ws.filter (fun w => w.ia / 65536 == p)))

/-- Neighbouring parts kept together while `join` allows it of the first part and the group behind it. -/
def joinParts (join : LogWrite → List LogWrite → Bool) : List LogWrite → List (List LogWrite)
  | [] => []
  | w :: r => match joinParts join r with
    | [] => [[w]]
    | g :: gs => if join w g then (w :: g) :: gs else [w] :: g :: gs

/-- The parts of one element: it may cross one line (R89, R436). -/
def elementJoin (w : LogWrite) (g : List LogWrite) : Bool :=
  match g with
  | [y] => y.ia == w.ia + w.bytes.length && decide (w.bytes.length + y.bytes.length ≤ 2 ^ w.size.toNat)
  | _ => false

/-- Lists cut into pieces of k (R436). -/
def cutBy (k : Nat) : Nat → List (List LogWrite) → List (List LogWrite)
  | 0, _ => []
  | n + 1, ws => if ws = [] then [] else (ws.take k).flatten :: cutBy k n (ws.drop k)

/-- The entries that the parts of one access in one page become: sixteen elements to one in the element form, and in the
contiguous form one for each 256 bytes (R436, Table 22.2; log 71). -/
def logPieces (elements : Bool) (ws : List LogWrite) : List (List LogWrite) :=
  if elements then cutBy 16 ws.length (joinParts elementJoin ws)
  else joinParts (fun w g => g.all (fun x => decide (x.ia + x.bytes.length ≤ w.ia + 256))) ws

/-- Whether a write of a task to an IA meets a translation fault (R433, R436). -/
def writeFaults (s0 : State) (ia : Nat) : Bool :=
  match locate (s0.homeView ia) ia with
  | .fault _ => true
  | _ => false

/-- The writes of one instruction numbered in their task; a tagged one is reported after its lower parts (R114). -/
def numberWrites (t : Task) (parts : List LogWrite) : List LogWrite :=
  ((List.range parts.length).zip parts).map (fun (x : Nat × LogWrite) => { x.2 with
    id := t.wnext + x.1, after := if x.2.tag then (List.range x.1).map (fun i => t.wnext + i) else [] })

/-- What a stream's writes do to its core's L1: a resident copy of a line takes the line as it now is; the copy of a
line that was reduced, or whose write is logged, leaves (R106, R113; log 19). -/
def l1Writes (core : Nat) (parts logged : List LogWrite) (s : State) : State :=
  let gone := (parts.filter (·.red) ++ logged).map (fun w => lineOf w.ia)
  ((parts.map (fun w => lineOf w.ia)).filter (fun l => !gone.contains l)).foldl (fun s l => l1Refresh core l s)
    (l1DropLines core gone s)

/-- The parts of one instruction's writes applied in order; those that fault, or that follow a logged
write to their line, are logged by page, elements sixteen to an entry (R436, R437; log 71). -/
def writeEvents (tid : Nat) (by_ : Requester) (elements : Bool) (parts0 : List LogWrite) : M Unit := do
  let s0 ← getS
  let parts := match getTask? s0 tid with
    | some t => numberWrites t parts0
    | none => parts0
  match by_ with
  | .stream _ _ => gateReserve (parts.countP (fun w => leavesDie s0 tid w.ia))
  | _ => pure ()
  modS (modTask tid (fun t => { t with wnext := t.wnext + parts.length }))
  let rec go : List LogWrite → List LogWrite → M (List LogWrite)
    | [], logged => pure logged
    | w :: r, logged => do
      let s ← getS
      let behind := ((getTask? s tid).map (fun t => t.lineLogged (lineOf w.ia))).getD false
        || logged.any (fun x => lineOf x.ia == lineOf w.ia)
      if behind || writeFaults s w.ia then go r (logged ++ [w])
      else
        let word ← applyWrite by_ w
        modS (addAck tid word w)
        go r logged
  let logged ← go parts []
  modS (fun s => match by_, getTask? s tid with
    | .stream _ _, some t => l1Writes t.core parts logged s
    | _, _ => s)
  modS (fun s => (groupPages logged).foldl (fun s g =>
    (logPieces elements g.2).foldl (fun s ws => enterLog tid g.1 ws s) s) s)

/-- Write events hold at issue while a write of the task waits for a log entry (R439). -/
def gateLog : M Unit := do
  let s ← getS
  if s.task.logWait ≠ [] then block .log

/-- The line parts of a contiguous write of the current stream's word. -/
def writeParts (op : BitVec 8) (ord scope : BitVec 2) (va ia : Nat) (bs : List (BitVec 8)) (tag : Bool) (s : State) : List LogWrite :=
  let rec go : List (List Nat) → List (BitVec 8) → List LogWrite
    | [], _ => []
    | p :: ps, d =>
      { op := op, opk := 0, ord := ord, scope := scope, size := 0, tag := tag, pc := s.strm.pc, va := BitVec.ofNat 64 (va + (p.headD ia - ia))
        ia := p.headD ia, bytes := p.zip d, red := false, id := 0, after := [], bad := [] } :: go ps (d.drop p.length)
  go (lineParts ia bs.length) bs

/-- A stash line written back whole: other tasks' copies are recalled first, the task's own stays valid and clean; one
that faults enters the side log of the owning task (R103, R104, R441).  Its core's L1 copy leaves (R113; log 19).
It answers the number of the write. -/
def writeBackLine (tid : Nat) (m : Stash) (off : Nat) : M Nat := do
  let s ← getS
  match getTask? s tid with
  | none => pure 0
  | some t =>
    let ia := m.ia + off
    let w : LogWrite := { op := 0xE1, opk := 0, ord := 0, scope := 0, size := 0, tag := false, pc := 0, va := 0, ia := ia
                          bytes := atAddr ia (t.lsRead (m.lsOff + off) 128), red := false, id := t.wnext, after := []
                          bad := t.lineBad (m.lsOff + off) }
    modS (modTask tid (fun t => { t.putStashLine m.num off false with wnext := t.wnext + 1 }))
    modS (atTask tid (l1DropLines t.core [ia]))
    let s ← getS
    if writeFaults s ia || t.lineLogged ia then modS (enterLog tid (ia / 65536) [w])
    else
      let word ← atHome (.stash tid) ia (fun b => do
        gateRecall b ia
        recallLine ia true (some tid)
        let r ← applyLine b w.bytes
        modS (carryPoison ia w.bad)
        pure r)
      modS (addAck tid word w)
    pure t.wnext

/-- The dirty stash lines of a task that a condition on their IA selects. -/
def Task.dirtyLines (t : Task) (f : Nat → Bool) : List (Stash × Nat) :=
  t.stash.flatMap (fun m => (m.lines.filter (fun l => l.dirty && f (m.ia + l.off))).map (fun l => (m, l.off)))

/-- Those lines written back: the numbers of the writes. -/
def writeBackLines (tid : Nat) (f : Nat → Bool) : M (List Nat) := do
  let s ← getS
  let ls := ((getTask? s tid).map (fun t => t.dirtyLines f)).getD []
  ls.mapM (fun x => writeBackLine tid x.1 x.2)

/-- A side-log entry that may be replayed: its page is not aborted, and no earlier one shares a line (R434, R437). -/
def Task.replayable (t : Task) (seq : BitVec 16) : Option LogEntry :=
  match t.sidelog.findIdx? (fun e => e.seq == seq) with
  | none => none
  | some i =>
    match t.sidelog[i]? with
    | none => none
    | some e =>
      if !e.dead && (t.sidelog.take i).all (fun x => x.write.all (fun a => e.write.all (fun b => lineOf a.ia != lineOf b.ia)))
      then some e else none

/-- The first waiting write takes a free entry; the log is full no more once none waits (R439). -/
def Task.takeEntry (t : Task) : Task :=
  match t.logWait with
  | w :: r =>
    if t.sidelog.length < 64 then
      { t with sidelog := t.sidelog ++ [{ w with seq := t.logSeq }], logSeq := t.logSeq + 1, logWait := r
               logFull := t.logFull && decide (r ≠ []) }
    else t
  | [] => { t with logFull := false }

/-- The writes of an entry applied as new write events with their acknowledgements, and the entry freed (R437). -/
def replayEntry (tid : Nat) (e : LogEntry) : M Unit := do
  for w in e.write do
    let word ← applyWrite (.replay tid) w
    modS (addAck tid word w)
  modS (fun s => refreshArea tid (modTask tid (fun t => { t with sidelog := t.sidelog.filter (fun x => x.seq != e.seq) }) s))

end Sys2Proof.Machine
end

