-- ==== Sys2Proof/Machine/GroupOps.lean ====
section
/-! DEFINITION. C stream: groups, collectives, remote work and signals, and the Quay die's side of them
(02 R40 to R45; 08 R183, R189 to R195; 15 R365; 23 R453 to R455). -/

namespace Sys2Proof.Machine

/-- The IA of an object named by `[wN: gA]` from its VA, aligned and translated at stages 8 and 9 (R183, R425); one of
another package is reached over a circuit (R369). -/
def objectIa (va : BitVec 64) (win size align : Nat) (right : Right) : M Nat := do
  ensureValue (va.toNat % align == 0) 2
  let ia ← windowIa win va.toNat size right .atomic none
  gateCircuit ia
  pure ia

/-- The IA of a group object (R183). -/
def groupVa (a : Operand) (win : Nat) : M Nat := do
  let va ← readSrc a
  objectIa va win 64 64 .a

/-- The field rule of a membership word. -/
def memberRule : SysRule := { d := .dst, a := .src, b := .unused, c := .unused, sub := fun x => decide (x.toNat < 8) }

/-- GJOIN: after the sends before it have been applied, the rank the Quay die answers (R42, R189, R365). -/
def execGjoin (f : RSys) (s : State) : Host.Outcome State Fault Refusal :=
  issue 0x43 f.pred (sysCheck memberRule f) (do
    gate [f.a] [f.d]
    let s ← getS
    if s.task.sendC ≠ [] then block .reply
    gateReserve 1
    let ia ← groupVa f.a f.sub.toNat
    let s ← getS
    let r := joinGroup ia s.task.tid s
    modS (fun _ => r.1)
    writeDst f.d (match r.2 with
      | some k => BitVec.ofNat 64 k
      | none => BitVec.allOnes 64)
    pure .seq) s

/-- Whether a message of the send queue is an arrival at a group, of a kind where one is named. -/
def SendC.arrivesAt (ia : Nat) (kind : Option CollKind) : SendC → Bool
  | .arrival p => p.group == some ia && (kind.map (fun k => p.kind == k)).getD true
  | _ => false

/-- Whether a task has arrived at an open operation of a group, or is about to. -/
def arrivedOpen (s : State) (ia tid : Nat) : Bool :=
  (getGroup s ia).colls.any (fun c => c.arrived tid)
    || ((getTask? s tid).map (fun t => t.sendC.any (SendC.arrivesAt ia none))).getD false

/-- Whether a task belongs to an open Damask collective of a group (R347, R430). -/
def openDamask (s : State) (ia tid : Nat) : Bool :=
  s.collectives.any (fun c => c.key.group == ia && c.ended.isNone && c.members.any (fun m => m.tid == tid && !m.done))

/-- GLEAVE: blocks while the member has arrived at an open collective or belongs to an open Damask
collective, then leaves (R44, R189, R430). -/
def execGleave (f : RSys) (s : State) : Host.Outcome State Fault Refusal :=
  issue 0x44 f.pred (sysCheck memberRule f) (do
    gate [f.a] [f.d]
    let s ← getS
    if s.task.sendC ≠ [] then block .reply
    gateReserve 1
    let ia ← groupVa f.a f.sub.toNat
    let s ← getS
    if arrivedOpen s ia s.task.tid || openDamask s ia s.task.tid then block .collective
    if ((getGroup s ia).rankOf s.task.tid).isSome then
      modS (leaveGroup ia s.task.tid)
      writeDst f.d 0
    else writeDst f.d 1
    pure .seq) s

/-- GMEMB: the member count and the caller's rank (R43, R189). -/
def execGmemb (f : RSys) (s : State) : Host.Outcome State Fault Refusal :=
  issue 0x45 f.pred (sysCheck memberRule f) (do
    gate [f.a] [f.d]
    let ia ← groupVa f.a f.sub.toNat
    let s ← getS
    let g := getGroup s ia
    writeDst f.d (BitVec.ofNat 64 (g.members.length * 2 ^ 32 + (g.rankOf s.task.tid).getD 0xFFFFFFFF))
    pure .seq) s

/-- STRAGQ: an entry of the group's last eight GBAR completions (R193). -/
def execStragq (f : RSys) (s : State) : Host.Outcome State Fault Refusal :=
  issue 0x57 f.pred (sysCheck { memberRule with b := .src } f) (do
    gate [f.a, f.b] [f.d]
    let ia ← groupVa f.a f.sub.toNat
    let b ← readSrc f.b
    let s ← getS
    writeDst f.d (if b.toNat < 8 then (getGroup s ia).history.getD b.toNat 0 else 0)
    pure .seq) s

/-- The fields of a collective record (Table 08.6). -/
structure CollRec where
  root  : Nat
  op    : Nat
  ty    : Nat
  count : Nat
  dst   : Nat
  src   : Nat
deriving DecidableEq, Repr

/-- A collective record's fields. -/
def collRec (r : BitVec 128) : CollRec :=
  let x := r.toNat
  { root := bits x 112 16, op := bits x 104 4, ty := bits x 96 5, count := bits x 64 32
    dst := bits x 32 21, src := bits x 0 21 }

/-- Bytes of a record's operand. -/
def CollRec.size (c : CollRec) : Nat := c.count * tyBytes c.ty

/-- Whether a record is well formed: reserved bits, OP, TYPE, COUNT, and ROOT for GRED (R190, R191, R430).
The sketch sum belongs to GRED. -/
def collRecOk (kind : CollKind) (r : BitVec 128) : Bool :=
  let c := collRec r
  let x := r.toNat
  bits x 108 4 == 0 && bits x 101 3 == 0 && bits x 53 11 == 0 && bits x 21 11 == 0
    && decide (c.op ≤ 3) && (kind != .red || c.root == 0)
    && (if c.op = 3 then kind == .red && c.count == 0 && c.ty == 0 && c.dst == 0 && c.src == 0
        else (c.ty == 2 || c.ty == 3 || c.ty == 6 || c.ty == 7 || c.ty == 8 || c.ty == 9)
          && decide (1 ≤ c.count) && decide (c.count ≤ 2 ^ 20))

/-- An arrival that reaches the Quay die (R44, R191, R453): an operation opens with the membership of that
moment; a task outside it takes part from the next generation. -/
def applyArrival (a : GroupArrival) (s : State) : State :=
  let g := getGroup s a.group
  match g.colls.find? (fun c => c.kind == a.kind) with
  | some c =>
    match c.expect.find? (fun e => e.2 == a.tid) with
    | some e =>
      if c.arrived a.tid then s
      else putGroup { g with colls := modFirst (fun c => c.kind == a.kind) (fun c =>
        { c with arrivals := c.arrivals ++ [a], first := if c.arrivals = [] then s.tick else c.first
                 last := s.tick, lastRank := e.1 }) g.colls } s
    | none => s
  | none =>
    match g.rankOf a.tid with
    | some r => putGroup { g with colls := g.colls ++
        [{ kind := a.kind, expect := g.members, arrivals := [a], lost := [], first := s.tick, last := s.tick
           lastRank := r }] } s
    | none => s

/-- Whether an arrival can be counted now: no operation of its kind is open, or the open one counts its
task and has not seen it (R44). -/
def arrivalFits (s : State) (a : GroupArrival) : Bool :=
  match (getGroup s a.group).colls.find? (fun c => c.kind == a.kind) with
  | some c => c.counts a.tid && !c.arrived a.tid
  | none => true

/-- Bytes read from the local store as a little-endian number. -/
def lsNumber (off n : Nat) : M Nat := do
  let bs ← lsLoad off n
  pure (bytesNat bs)

/-- Whether an earlier operation of the same kind on the same group is not complete for a task (R191). -/
def collBusy (s : State) (ia : Nat) (kind : CollKind) (tid : Nat) : Bool :=
  (getGroup s ia).colls.any (fun c => c.kind == kind && c.arrived tid)
    || ((getTask? s tid).map (fun t => t.sendC.any (SendC.arrivesAt ia (some kind)))).getD false

/-- A message entered in the C-stream send queue, which holds 16; each keeps a reservation (R363, R365). -/
def sendFromC (i : SendC) : M Unit := do
  let s ← getS
  if 16 ≤ s.task.sendC.length then block .reply
  gateReserve 1
  modS (modCur (fun t => { t with sendC := t.sendC ++ [i] }))

/-- GBAR, GRED and GBCAST at issue: the arrival enters the send queue, and C goes on (R191, R365; log 62). -/
def collIssue (kind : CollKind) (f : EForm) : M Flow := do
  gate [f.a, f.b] []
  let va ← readSrc f.a
  let b ← readSrc f.b
  let s ← getS
  let group := match translate (s.window f.sub.toNat) va.toNat 64 .a with
    | .ok ia => some ia
    | .error _ => none
  if (group.map (fun ia => collBusy s ia kind s.task.tid)).getD false then block .collective
  sendFromC (.arrival ⟨kind, group, va, f.sub.toNat, b, f.obj, f.ssem, f.sinc, s.strm.pc, waitOf f.wmode f.wsem f.wthr⟩)
  pure .seq

/-- The collective record of an arrival that it can read (R190, R421): a GBAR has none. -/
def arrivalRecord (p : PendingArrival) : M (Option (BitVec 128)) := do
  let s ← getS
  if p.kind = .bar then pure (some 0)
  else if p.off.toNat % 16 ≠ 0 ∨ (lsJudge .any s.task p.off.toNat 16).isSome then pure none
  else
    let r ← lsNumber p.off.toNat 16
    pure (some (BitVec.ofNat 128 r))

/-- The checks of a collective word when it retires, in the order of R421, and what arrives at the Quay die: the record
and the operand as they are then (R190, R191, R430; log 62). -/
def arrivalOf (p : PendingArrival) : M GroupArrival := do
  let r? ← arrivalRecord p
  let r := r?.getD 0
  let c := collRec r
  let sketch := p.kind == .red && c.op == 3
  if sketch then
    let _ ← useObj p.obj 5 sketchOk (fun x => bitN x 81)
  ensureValue (p.va.toNat % 64 == 0) 2
  if p.kind ≠ .bar then
    ensureValue (p.off.toNat % 16 == 0) 3
    ensure (r?.isNone || collRecOk p.kind r) fcIllegalOperand (fieldInfo 0x11)
    ensure (r?.isNone || sketch || p.obj == 0#16) fcIllegalOperand (fieldInfo 0xE)
  let ia ← objectIa p.va p.win 64 64 .a
  let s ← getS
  if p.kind ≠ .bar then
    lsChecks [(.any, p.off.toNat, 16), (.noStash, c.src, c.size), (.noStash, c.dst, c.size)]
  if ((getGroup s ia).rankOf s.task.tid).isNone then trap fcGroupMisuse (groupInfo 0xFFFF 1)
  lsClean c.src c.size
  pure ⟨ia, p.kind, s.task.tid, r, if sketch then p.obj else 0, s.task.lsRead c.src c.size, p.ssem, p.sinc, s.pkg⟩

/-- The field rule of the collectives. -/
def collRule : ERule := { a := .src, b := .src, sub := fun x => decide (x.toNat < 8), wait := true, sig := true, obj := true }

/-- GBAR (R191). -/
def execGbar (f : EForm) (s : State) : Host.Outcome State Fault Refusal :=
  issue 0x46 f.pred (eCheck { collRule with b := .unused, obj := false } f) (collIssue .bar f) s

/-- GRED (R191). -/
def execGred (f : EForm) (s : State) : Host.Outcome State Fault Refusal :=
  issue 0x47 f.pred (eCheck collRule f) (collIssue .red f) s

/-- GBCAST (R191). -/
def execGbcast (f : EForm) (s : State) : Host.Outcome State Fault Refusal :=
  issue 0x48 f.pred (eCheck { collRule with obj := false } f) (collIssue .bcast f) s

/-- One element of a reduction: accumulator and operand (R168, R191). -/
def reduceElem (op ty : Nat) (acc x : Nat) : Nat :=
  let t : BitVec 5 := BitVec.ofNat 5 ty
  if ty < 8 then
    let a := intVal t (BitVec.ofNat 64 acc)
    let b := intVal t (BitVec.ofNat 64 x)
    let r := if op = 0 then a + b else if op = 1 then min a b else max a b
    wrapN (intWidth t) r
  else
    let fm := floatFmt ty
    let a := fdecode fm acc
    let b := fdecode fm x
    (fopResult t (if op = 0 then 1 else if op = 1 then 8 else 9) false .rne a b (.nan false)).1.toNat

/-- Elements of `z` bytes of a byte list. -/
def bytesElems (z : Nat) : Nat → List (BitVec 8) → List Nat
  | 0, _ => []
  | n + 1, bs => bytesNat (bs.take z) :: bytesElems z n (bs.drop z)

/-- Bytes of elements of `z` bytes. -/
def elemsBytes (z : Nat) (xs : List Nat) : List (BitVec 8) := xs.flatMap (natBytes z)

/-- The reduction of the members' operands in rank order (R191). -/
def reduceAll (c : CollRec) : List (List (BitVec 8)) → List (BitVec 8)
  | [] => []
  | o :: os =>
    let z := tyBytes c.ty
    elemsBytes z (os.foldl (fun acc x => (acc.zip (bytesElems z c.count x)).map (fun p => reduceElem c.op c.ty p.1 p.2))
      (bytesElems z c.count o))

/-- Geometry of a sketch: ROWS, LOGW, SCALE and SEED (R308). -/
def sketchGeom (x : Nat) : Nat × Nat × Nat := (bits x 64 9, bits x 73 7, bits x 128 64)

/-- Counters of a sketch. -/
def sketchCount (x : Nat) : Nat := bits x 64 4 * 2 ^ bits x 68 5

/-- The key of byte `off` of an object's body in the table's body array (R315; log 28). -/
def bodyKey (s : State) (obj : BitVec 16) (off : Nat) : Nat := (s.bodyBase.toNat + 64 * obj.toNat + off) % 2 ^ 39

/-- SK.SAT of a descriptor set or cleared, in the unit's copy and in the table. -/
def setSketchSat (obj : BitVec 16) (v : Bool) (s : State) : State :=
  let f (e : ObjEntry) : ObjEntry :=
    if e.index = obj then
      { e with body := if v then e.body ||| BitVec.ofNat 512 (2 ^ 127) else e.body &&& ~~~BitVec.ofNat 512 (2 ^ 127) }
    else e
  let k := bodyKey s obj 15
  { s with
    objs := s.objs.map f
    mem := if s.bodyBase = 0 then s.mem
      else writeCell s.mem k (if v then readCell s.mem k ||| 0x80#8 else readCell s.mem k &&& 0x7F#8) }

/-- Two counters added with saturation to the int32 range (R308), and whether it saturated. -/
def satCounter (a b : Int) : Int × Bool :=
  let s := satInt (-(2 ^ 31 : Nat)) ((2 ^ 31 : Nat) - 1) (a + b)
  (s, s != a + b)

/-- The counters of a sketch as 32-bit integers. -/
def readSketch (by_ : Requester) (x : Nat) : M (List Int) := do
  let bs ← readIa by_ (bits x 0 58) (4 * sketchCount x)
  pure ((bytesElems 4 (sketchCount x) bs).map (fun v => sxInt 32 v))

/-- Counters added pair by pair, and whether any addition saturated. -/
def addSketch (acc : List Int × Bool) (x : List Int) : List Int × Bool :=
  let ps : List (Int × Bool) := (acc.1.zip x).map (fun p => satCounter p.1 p.2)
  (ps.map Prod.fst, acc.2 || ps.any Prod.snd)

/-- The body of an object in a package's table (R315). -/
def bodyAt (s : State) (x : Nat × BitVec 16) : Nat :=
  match s.packs.find? (fun p => p.pkg == x.1) with
  | some p => ((p.objs.find? (fun e => e.index == x.2)).map (·.body.toNat)).getD 0
  | none => 0

/-- The sketch sum of GRED: every member's sketch, named by its package and its object, receives the saturated sum, and
every SAT is set if any addition saturated (R191, R315). -/
def sketchSum (objs : List (Nat × BitVec 16)) : M Unit := do
  let s ← getS
  let bodies := objs.map (bodyAt s)
  let cs ← bodies.mapM (readSketch .quay)
  let sum : List Int × Bool := match cs with
    | [] => ([], false)
    | c :: r => r.foldl addSketch (c, false)
  for b in bodies do
    let _ ← writeIa .quay (bits b 0 58) (elemsBytes 4 (sum.1.map (wrapN 32)))
  if sum.2 then modS (fun s => objs.foldl (fun s o => atPack (fun p => p.pkg == o.1) (setSketchSat o.2 true) s) s) else pure ()

/-- OPKIND of a collective (R192). -/
def collCode : CollKind → Nat
  | .bar => 0
  | .red => 1
  | .bcast => 2

/-- The arrivals of an operation with their ranks, in rank order. -/
def Coll.ranked (c : Coll) : List (Nat × GroupArrival) :=
  (c.arrivals.filterMap (fun a => (c.expect.find? (fun e => e.2 == a.tid)).map (fun e => (e.1, a)))).mergeSort
    (fun x y => x.1 ≤ y.1)

/-- Whether the members disagree in OP, TYPE, COUNT or ROOT, or in sketch geometry (R191). -/
def collMismatch (s : State) (as : List GroupArrival) : Bool :=
  let key (a : GroupArrival) : Nat × Nat × Nat × Nat :=
    let c := collRec a.record
    (c.op, c.ty, c.count, c.root)
  match as with
  | [] => false
  | a :: r => r.any (fun b => key b != key a) ||
      ((collRec a.record).op == 3 &&
        r.any (fun b => sketchGeom (bodyAt s (b.pkg, b.obj)) != sketchGeom (bodyAt s (a.pkg, a.obj))))

/-- What a member receives at completion: its result, its events, its acquire and its signal (R191, R192, R455). -/
def deliverColl (c : Coll) (ia : Nat) (status : BitVec 8) (spread : Nat) (result : Option (List (BitVec 8)))
    (sameCore : Bool) (a : GroupArrival) (s : State) : State :=
  let src := ia / 64 % 65536
  let high (sp lostn last : Nat) : Nat := last % 65536 + 65536 * collCode c.kind + 2 ^ 20 * lostn + 2 ^ 32 * sp
  let lost := (c.lost.mergeSort (fun x y => x.1 ≤ y.1)).take 16
  let s := match result with
    | some bs => refreshArea a.tid (modTask a.tid (fun t => t.lsWrite (collRec a.record).dst bs) s)
    | none => s
  let s := lost.foldl (fun s l => pushEventTo a.tid .quay (eventOf (eventLow 0 src fcMemberLost.toNat 5) (high 0 0 l.1)) s) s
  let s := pushEventTo a.tid .quay (eventOf (eventLow 0 src status.toNat 5)
    (high spread (min c.lost.length 4095) (if c.kind = .bar then c.lastRank else 0))) s
  let s := atTask a.tid (fun s => match ownTask? s a.tid with
    | some t => if sameCore then s else l1Drop t.core s
    | none => s) s
  agentSignal { mkind := 1, unit := 0, stream := 0 } a.tid a.tid a.ssem a.sinc.toNat s

/-- The completion of an operation (R44, R191 to R193, R455); a member that no message reaches is removed (R467); a GBCAST whose ROOT names no member leaves every DST as it
is (log 63). -/
def completeColl (ia : Nat) (c : Coll) : M Unit := do
  let s ← getS
  let ranked := c.ranked
  let as := ranked.map (·.2)
  let mismatch := c.kind != .bar && collMismatch s as
  let first := collRec ((as.headD ⟨0, c.kind, 0, 0, 0, [], 0, 0, 0⟩).record)
  let result : Option (List (BitVec 8)) :=
    if c.kind = .bar ∨ mismatch ∨ first.op = 3 then none
    else if c.kind = .red then some (reduceAll first (as.map (·.operand)))
    else (ranked.find? (fun x => x.1 == first.root)).map (fun x => x.2.operand)
  if c.kind = .red ∧ ¬ mismatch ∧ first.op = 3 then sketchSum (as.map (fun a => (a.pkg, a.obj))) else pure ()
  let status := if mismatch then fcGroupMismatch else if c.lost ≠ [] then fcMemberLost else 0
  let spread := if c.kind = .bar then min (c.last - c.first) (2 ^ 32 - 1) else 0
  let s ← getS
  let g := getGroup s ia
  let cores := as.filterMap (fun a => (getTask? s a.tid).map (fun t => (s.pkgOf a.tid, t.core)))
  let sameCore := cores.all (fun x => some x == cores.head?)
  let high := BitVec.ofNat 64 (c.lastRank % 65536 + 2 ^ 20 * min c.lost.length 4095 + 2 ^ 32 * spread)
  let g' := { g with
    colls := g.colls.filter (fun x => x.kind != c.kind)
    history := if c.kind = .bar ∧ as ≠ [] then (high :: g.history).take 8 else g.history }
  modS (fun s => (as.filter (fun a => (g.rankOf a.tid).isSome)).foldl
    (fun s a => if s.cutFrom a.pkg then removeMember ia a.tid s
      else deliverColl c ia status spread result sameCore a s) (putGroup g' s))

/-- Whether an operation is complete: every member it still counts has arrived. -/
def Coll.full (c : Coll) : Bool := c.expect.all (fun e => c.arrived e.2)

/-- An event's effect that may wait at the memory side: a wait changes only the access held there (log 14). -/
def finishEvent (s : State) (r : Except Stop (Unit × State)) : Host.Outcome State Fault Refusal :=
  match r with
  | .ok (_, s') => .next s'
  | .error (.page d p ia b) => .next (holdFault d p ia b s)
  | .error (.hostLine l) => .next (askHost l s)
  | .error (.circuit p) => .next (demandCircuit p s)
  | .error (.fault f) => .fault f
  | .error (.refused r) => .refused r
  | .error _ => .next s

/-- GROUP_COLLECTIVE_COMPLETE (R191, R192, R455); an operation that is not complete changes nothing (log 14). -/
def execGroupCollectiveComplete (group : Nat) (kind : CollKind) (s : State) : Host.Outcome State Fault Refusal :=
  match (getGroup s group).colls.find? (fun c => c.kind == kind) with
  | some c => if c.full then finishEvent s (completeColl group c s) else .next s
  | none => .next s

/-- Whether a task's members' release is to be performed within one core (R117). -/
def State.groupScope (s : State) (ia : Nat) : BitVec 2 :=
  let at_ := (getGroup s ia).members.map (fun m => (s.pkgOf m.2, ((getTask? s m.2).map (·.core)).getD 0))
  if at_.all (fun x => some x == at_.head?) then 0#2 else 2#2

/-- The arrival at the head of the current task's send queue retires: its wait is served, the task's writes are
performed, and it is counted (R39, R117, R191, R365). -/
def arriveHead (p : PendingArrival) : M Unit := do
  let s ← getS
  match p.wait with
  | some w =>
    if s.task.semReady w then modS (fun s => { s with task := s.task.serve w }) else block .sem
  | none => pure ()
  if ¬ writesPerformed s.task ((p.group.map s.groupScope).getD 2#2) then block .fence
  let a ← arrivalOf p
  if ¬ arrivalFits s a then block .collective
  modS (modCur (fun t => { t with sendC := t.sendC.tail }))
  modS (applyArrival a)

/-- The opcode of a collective word. -/
def collOp : CollKind → BitVec 8
  | .bar => 0x46
  | .red => 0x47
  | .bcast => 0x48

/-- A task's rings with the marker of a Damask membership that fills one (R215). -/
def fillMark (p : Xpb) (on : Bool) (t : Task) : Task :=
  if p.dstRing then
    t.modRing p.ring (fun g => { g with fillers := if on then g.fillers ++ [1] else g.fillers.erase 1 })
  else t

/-- A message that is discarded before it is sent: a job counts no more, and a ring is no more to be filled (R23, R215). -/
def unsend (t : Task) : SendC → Task
  | .block _ => t.endJob
  | .start _ _ m => (fillMark (xpbOf m.xpb.toNat) false t).endJob
  | _ => t

/-- A collective word that traps when it retires: the words after it are discarded with what they would send (R25, R63,
R422; log 62). -/
def arrivalTrap (p : PendingArrival) (code : BitVec 8) (info : BitVec 32) (addr : BitVec 64) (s : State) : State :=
  takeTrapAt code (collOp p.kind) info addr p.pc
    (modStrm (fun r => { r with fin := false }) (modCur (fun t => { t.sendC.foldl unsend t with sendC := [] }) s))

/-- What becomes of the state when the current task's head arrival is tried; a member whose arrival reaches the group's
package no more is removed from the group (R467). -/
def finishArrival (p : PendingArrival) (s : State) : State :=
  match arriveHead p s with
  | .ok (_, s') => s'
  | .error (.trap c i a) =>
    if c = fcCircuitFail then
      let s := modCur (fun t => { t with sendC := t.sendC.tail }) s
      (p.group.map (fun ia => removeMember ia s.task.tid s)).getD s
    else arrivalTrap p c i a s
  | .error (.page d g ia b) => holdWord (some ⟨collOp p.kind, 0, p.pc⟩) d g ia b s
  | .error (.hostLine l) => askHost l s
  | .error (.circuit k) => demandCircuit k s
  | .error _ => s

/-- An arrival of a tick is counted. -/
def arriveNow (s : State) (a : GroupArrival) : State := applyArrival a s

/-- QUAY_GROUP_TICK: arrivals, then removals, then joins (R453). -/
def execQuayGroupTick (arrivals : List GroupArrival) (removals joins : List (Nat × Nat)) (s : State) :
    Host.Outcome State Fault Refusal :=
  occur (fun s =>
    let s := arrivals.foldl arriveNow s
    let s := removals.foldl (fun s r => removeMember r.1 r.2 s) s
    joins.foldl (fun s j => (joinGroup j.1 j.2 s).1) s) s

/-- The head of a task's C-stream send queue goes when it is the event that happens (R365). -/
def popSendC (tid : Nat) (i : SendC) (s : State) : State :=
  modTask tid (fun t => if t.sendC.head? = some i then { t with sendC := t.sendC.tail } else t) s

/-- What an operation does that needs a circuit to a package: it waits for one, and `lost` when the circuit has ended
(R364, R369, R467). -/
def overLink (pkg : Nat) (lost f : State → State) (s : State) : State :=
  if s.cutFrom pkg then lost s
  else match gateLink pkg s with
  | .ok (_, s') => f s'
  | .error (.circuit p) => demandCircuit p s
  | .error _ => s

/-- The scope at which a release to a rank's task must be performed: .core within one core, else .pkg or
wider, which the model does not tell apart (R117). -/
def scopeTo (s : State) (dst : Option Task) : BitVec 2 :=
  match dst with
  | some t => if t.core = s.task.core ∧ (ownTask? s t.tid).isSome then 0#2 else 2#2
  | none => 2#2

/-- The task that holds a rank. -/
def rankTask (s : State) (ia rank : Nat) : Option Task := ((getGroup s ia).holder rank).bind (getTask? s)

/-- RSIG (R40, R117, R195). -/
def execRsig (f : EForm) (s : State) : Host.Outcome State Fault Refusal :=
  issue 0x4B f.pred (eCheck { collRule with obj := false } f) (do
    gate [f.a, f.b] []
    gateWait (waitOf f.wmode f.wsem f.wthr)
    let ia ← groupVa f.a f.sub.toNat
    let b ← readSrc f.b
    let s ← getS
    let rank : BitVec 16 := b.setWidth 16
    if ¬ writesPerformed s.task (scopeTo s (rankTask s ia rank.toNat)) then block .fence
    sendFromC (.signal ⟨s.task.tid, s.cur, ia, rank, f.ssem, f.sinc.toNat⟩)
    pure .seq) s

/-- The record of a message that meets a vacant rank (R454). -/
def vacantRecord (src : Nat) (st ia : Nat) (rank : BitVec 16) (s : State) : State :=
  addTaskRecord src { code := fcRankVacant, sev := 0, mkind := 0, stream := st, tag := rank.toNat, addr := BitVec.ofNat 64 ia } s

/-- The record of a message that no circuit takes to its target any more (R467). -/
def cutRecord (src : Nat) (st ia : Nat) (rank : BitVec 16) (s : State) : State :=
  addTaskRecord src { code := fcCircuitFail, sev := 1, mkind := 0, stream := st, tag := rank.toNat, addr := BitVec.ofNat 64 ia } s

/-- REMOTE_SIGNAL_APPLY (R40, R41, R195, R429, R454, R467). -/
def execRemoteSignalApply (m : RemoteSignal) (s : State) : Host.Outcome State Fault Refusal :=
  occur (fun s =>
    match rankTask s m.group m.rank.toNat with
    | none => vacantRecord m.src (streamNum m.st) m.group m.rank (popSendC m.src (.signal m) s)
    | some t => overLink (s.pkgOf t.tid) (fun s => cutRecord m.src (streamNum m.st) m.group m.rank (popSendC m.src (.signal m) s)) (fun s =>
      let s := popSendC m.src (.signal m) s
      agentSignal { mkind := 0, unit := 0, addr := BitVec.ofNat 64 m.group, rank := m.rank.toNat,
                    stream := streamNum m.st } m.src t.tid m.sem m.inc s) s) s

/-- Whether a command block's header is well formed (R331). -/
def headerOk (h : Nat) : Bool :=
  bits h 5 59 == 0 && bits h 96 32 == 0 && decide (1 ≤ bits h 0 5) && decide (bits h 0 5 ≤ 16)

/-- The header of a command block; none where it lies outside a plain region (R331, R421). -/
def blockHeader (off : Nat) : M (Option Nat) := do
  let s ← getS
  if (lsJudge .plain s.task off 16).isSome then pure none
  else
    let h ← lsNumber off 16
    pure (some h)

/-- RENQ: a command block of the issuer's plain region sent to a rank's inbound queue (R45, R194, R331). -/
def execRenq (f : EForm) (s : State) : Host.Outcome State Fault Refusal :=
  issue 0x4A f.pred (eCheck { collRule with obj := false, sig := false } f) (do
    gate [f.a, f.b] []
    gateWait (waitOf f.wmode f.wsem f.wthr)
    let s ← getS
    if 16 ≤ s.task.jobs then block .jobs
    if ¬ writesPerformed s.task 2#2 then block .fence
    let va ← readSrc f.a
    let b ← readSrc f.b
    ensureValue (va.toNat % 64 == 0) 2
    let off := bits b.toNat 32 21
    ensureValue (bits b.toNat 53 11 == 0 && bits b.toNat 16 16 == 0 && off % 16 == 0) 3
    let h ← blockHeader off
    let count := bits (h.getD 1) 0 5
    ensure (headerOk (h.getD 1)) fcIllegalOperand (fieldInfo 0x11)
    let ia ← objectIa va f.sub.toNat 64 64 .a
    lsCheck .plain off (16 + 16 * count)
    let s ← getS
    let rank : BitVec 16 := b.setWidth 16
    match rankTask s ia rank.toNat with
    | none => trap fcGroupMisuse (groupInfo rank.toNat 3)
    | some t =>
      if 8 ≤ t.inbound.length then block .reply
      lsClean off (16 + 16 * count)
      sendFromC (.block ⟨s.task.tid, ia, rank, s.task.lsRead off (16 + 16 * count)⟩)
      modS (modCur (fun t => { t with jobs := t.jobs + 1 }))
      pure .seq) s

/-- RENQ_BLOCK_ARRIVAL: the block enters its target's inbound queue of 8, or waits while that is full; one
that meets a vacant rank, or that no circuit takes there, is dropped with a record, and the issuer's job ends (R45, R194,
R454, R467). -/
def execRenqBlockArrival (m : BlockMsg) (s : State) : Host.Outcome State Fault Refusal :=
  occur (fun s =>
    match rankTask s m.group m.rank.toNat with
    | none => vacantRecord m.src 0 m.group m.rank (modTask m.src Task.endJob (popSendC m.src (.block m) s))
    | some t =>
      if 8 ≤ t.inbound.length then s
      else overLink (s.pkgOf t.tid) (fun s => cutRecord m.src 0 m.group m.rank (modTask m.src Task.endJob (popSendC m.src (.block m) s))) (fun s =>
        modTask t.tid (fun t => { t with inbound := t.inbound ++ [m] }) (popSendC m.src (.block m) s)) s) s

end Sys2Proof.Machine
end

