-- ==== Sys2Proof/Machine/Guards.lean ====
section
/-! DEFINITION. C stream: guards and bindings (06 R119 to R122; 08 R183, R196, R197). -/

namespace Sys2Proof.Machine

/-- GUARD_MISUSE with its reason (Table 21.5). -/
def guardMisuse {α : Type} (reason : Nat) : M α := trap fcGuardMisuse (BitVec.ofNat 32 reason)

/-- Whether a task holds a guard. -/
def Task.holdsGuard (t : Task) (ia : Nat) : Bool := t.guards.any (fun g => g.1 == ia)

/-- The region's IA: its window must grant R or W over the whole length (R120). -/
def regionIa (win va len : Nat) : M Nat := do
  let s ← getS
  let right : Right := if (s.window win).r then .r else .w
  windowIa win va (max len 1) right .plain none

/-- BIND (R120, R196). -/
def execBind (f : RSys) (s : State) : Host.Outcome State Fault Refusal :=
  issue 0x4C f.pred (sysCheck { d := .unused, a := .src, b := .src, c := .src, sub := fun x => decide (x.toNat < 64) } f) (do
    gate [f.a, f.b, f.c] []
    let gva ← readSrc f.a
    let va ← readSrc f.b
    let len ← readSrc f.c
    let guard ← objectIa gva (bits f.sub.toNat 0 3) 8 8 .a
    let region ← regionIa (bits f.sub.toNat 3 3) va.toNat len.toNat
    let s ← getS
    if 8 ≤ s.task.bindings.length then guardMisuse 1
    if s.task.bindings.any (fun b => decide (region < b.ia + b.len) && decide (b.ia < region + len.toNat)) then guardMisuse 2
    if va.toNat % 128 ≠ 0 ∨ len.toNat % 128 ≠ 0 ∨ len = 0 then guardMisuse 3
    modS (modCur (fun t => { t with bindings := t.bindings ++ [⟨guard, va, region, len.toNat⟩] }))
    pure .seq) s

/-- The IA of a VA in a window, whatever right that grants; none outside it. -/
def windowAt (s : State) (win va : Nat) : Option Nat :=
  match translate (s.window win) va 1 (if (s.window win).r then .r else .w) with
  | .ok ia => some ia
  | .error _ => none

/-- UNBIND (R120, R196): the binding whose region starts at the VA in the window. -/
def execUnbind (f : RSys) (s : State) : Host.Outcome State Fault Refusal :=
  issue 0x4D f.pred (sysCheck { d := .unused, a := .unused, b := .src, c := .unused
                                sub := fun x => decide (x.toNat < 64) && x.toNat % 8 == 0 } f) (do
    gate [f.b] []
    let va ← readSrc f.b
    let s ← getS
    match s.task.bindings.find? (fun b => b.va == va && windowAt s (bits f.sub.toNat 3 3) va.toNat == some b.ia) with
    | none => guardMisuse 4
    | some b =>
      if s.task.holdsGuard b.guard then guardMisuse 5
      modS (modCur (fun t => { t with bindings := t.bindings.erase b }))
      pure .seq) s

/-- ACQ: the request goes to the guard's home slice, and the word retires once it is granted (R121, R197). -/
def execAcq (f : RSys) (s : State) : Host.Outcome State Fault Refusal :=
  issue 0x4E f.pred (sysCheck { d := .unused, a := .src, b := .unused, c := .unused, sub := fun x => decide (x.toNat < 16) } f) (do
    let vs ← heldSources [f.a]
    let s ← getS
    let ia ← objectIa (vs.headD 0) (bits f.sub.toNat 0 3) 8 8 .a
    if s.strm.wait = some .guarded then
      pure (if s.task.holdsGuard ia then .seq else .hold .guarded)
    else
      if s.task.holdsGuard ia then guardMisuse 6
      if s.task.bindings.all (fun b => b.guard != ia) then guardMisuse 7
      let q : GuardReq := ⟨ia, s.task.tid, f.sub.getLsbD 3⟩
      modS (atPack (Pack.isPkg (iaPkg ia)) (fun s => { s with guardQ := s.guardQ ++ [q] }))
      pure (.hold .guarded)) s

/-- The lock word's fields (Table 06.5). -/
def guardExcl (w : Nat) : Bool := bitN w 63
def guardShr (w : Nat) : Nat := bits w 32 16
def guardGen (w : Nat) : Nat := bits w 0 32

/-- A lock word from its fields. -/
def guardWord (excl : Bool) (shr gen : Nat) : Nat := gen % 2 ^ 32 + 2 ^ 32 * (shr % 65536) + 2 ^ 63 * b2n excl

/-- The lock word freed by a holder: an exclusive release counts a generation (R121). -/
def freeGuard (shared : Bool) (w : Nat) : Nat :=
  if shared then guardWord (guardExcl w) (guardShr w - 1) (guardGen w)
  else guardWord false (guardShr w) (guardGen w + 1)

/-- A holder's release of a guard at its home slice (R121, step 3). -/
def applyRelease (tid ia : Nat) : M Unit := do
  let s ← getS
  let shared := ((getTask? s tid).bind (fun t => t.guards.find? (fun g => g.1 == ia))).map (·.2) |>.getD false
  let w ← readIa (.stream tid .c) ia 8
  pokeIa (.stream tid .c) ia (natBytes 8 (freeGuard shared (bytesNat w)))
  modS (modTask tid (fun t => { t with guards := t.guards.filter (fun g => g.1 != ia) }))

/-- Whether a line lies in a region a task has bound to a guard. -/
def Task.boundTo (t : Task) (guard line : Nat) : Bool :=
  t.bindings.any (fun b => b.guard == guard && decide (b.ia ≤ line) && decide (line < b.ia + b.len))

/-- REL: the task's writes are performed, its dirty stash lines of the bound regions are written back, and
the lock word is updated (R121, R197, R438). -/
def execRel (f : RSys) (s : State) : Host.Outcome State Fault Refusal :=
  issue 0x4F f.pred (sysCheck { d := .unused, a := .src, b := .unused, c := .unused, sub := fun x => decide (x.toNat < 8) } f) (do
    let vs ← heldSources [f.a]
    let s ← getS
    let ia ← objectIa (vs.headD 0) f.sub.toNat 8 8 .a
    if ¬ s.task.holdsGuard ia then guardMisuse 8
    let open_ := s.task.openWrites 3#2
    let before ← awaitWrites open_ open_
    if !before then pure (.hold .fence)
    else
      let ids ← writeBackLines s.task.tid (fun line => s.task.boundTo ia line)
      modS (modStrm (fun r => { r with await := some ids }))
      let s ← getS
      let after ← awaitWrites [] (s.task.openWrites 3#2)
      if !after then pure (.hold .fence)
      else
        applyRelease s.task.tid ia
        pure .seq) s

/-- Whether a request can be granted on a lock word (R121); SHR holds no more than 65,535, at which a shared request
waits (log 60). -/
def grantable (shared : Bool) (w : Nat) : Bool :=
  if shared then !guardExcl w && decide (guardShr w < 65535) else !guardExcl w && guardShr w == 0

/-- GUARD_GRANT: the first waiting request of a guard is granted when its lock word allows it (R121, R122);
otherwise nothing changes (log 14). -/
def execGuardGrant (ia : Nat) (s : State) : Host.Outcome State Fault Refusal :=
  match s.guardQ.find? (fun q => q.ia == ia) with
  | none => .next s
  | some q => finishEvent s ((do
      let b ← readIa (.stream q.tid .c) ia 8
      let w := bytesNat b
      if grantable q.shared w then
        let w' := if q.shared then guardWord false (guardShr w + 1) (guardGen w) else guardWord true 0 (guardGen w)
        pokeIa (.stream q.tid .c) ia (natBytes 8 w')
        modS (fun s =>
          let s := { s with guardQ := s.guardQ.erase q }
          let s := modTask q.tid (fun t => { t.deliver with guards := t.guards ++ [(ia, q.shared)] }) s
          atTask q.tid (fun s => match ownTask? s q.tid with
            | some t => l1Drop t.core s
            | none => s) s)
      else pure ()) s)

end Sys2Proof.Machine
end

