-- ==== Sys2Proof/Machine/TimeOps.lean ====
section
/-! DEFINITION. C stream: format end, time, speed and event masks (08 R199 to R203). -/

namespace Sys2Proof.Machine

/-- FMTEND (R199). -/
def execFmtend (f : RSys) (s : State) : Host.Outcome State Fault Refusal :=
  issue 0x51 f.pred (sysCheck nopRule f) (do
    modS (modCur (fun t => { t with fmtDone := true }))
    pure .seq) s

/-- The lowest cause of SLEEP that holds: an event in q15, a write seen on the watched line, the tick (R200). -/
def sleepCause (s : State) (w : Option Watch) (b : BitVec 64) : Option Nat :=
  if s.task.q15 ≠ [] then some 1
  else if (w.map (·.hit)).getD false then some 2
  else if b ≠ 0 ∧ b.toNat ≤ s.tick then some 3
  else none

/-- SLEEP (R200).  While it waits nothing is popped; the line watch starts when it issues. -/
def execSleep (f : RSys) (s : State) : Host.Outcome State Fault Refusal :=
  issue 0x52 f.pred (sysCheck { d := .dst, a := .src, b := .src, c := .unused, sub := fun x => decide (x.toNat < 8) } f) (do
    let s0 ← getS
    gate [f.a, f.b] [f.d]
    let va ← readSrc f.a
    let b ← readSrc f.b
    let w ← if f.a = .g 0 then pure none else do
      let ia ← windowIa f.sub.toNat va.toNat 1 .r .plain none
      pure (some ((s0.task.watch).getD ⟨lineOf ia, false⟩))
    match sleepCause s0 w b with
    | some c =>
      modS (modCur (fun t => { t with watch := none, deadline := none }))
      writeDst f.d (BitVec.ofNat 64 c)
      pure .seq
    | none =>
      modS (fun _ => { s0 with task := { s0.task with
        watch := w
        deadline := if b = 0 then none else some b.toNat } })
      pure (.hold .time)) s

/-- TICKWAIT (R201). -/
def execTickwait (f : RSys) (s : State) : Host.Outcome State Fault Refusal :=
  issue 0x53 f.pred (sysCheck { nopRule with d := .dst, a := .src } f) (do
    let a := (← heldSources [f.a]).headD 0
    gate [] [f.d]
    let s ← getS
    if a.toNat ≤ s.tick then
      modS (modCur (fun t => { t with deadline := none }))
      writeDst f.d (BitVec.ofNat 64 s.tick)
      pure .seq
    else
      modS (modCur (fun t => { t with deadline := some a.toNat }))
      pure (.hold .time)) s

/-- TICK_TIMEOUT: package time has reached the tick a SLEEP or TICKWAIT waits for, so its stream is no
longer held (R200, R201); before that tick nothing changes (log 14). -/
def execTickTimeout (tid : Nat) (s : State) : Host.Outcome State Fault Refusal :=
  occur (modTask tid (fun t =>
    if (t.deadline.map (fun d => decide (d ≤ s.tick))).getD false ∧ t.c.wait = some .time then
      { t with deadline := none, c := { t.c with wait := none } }
    else t)) s

/-- Whether a core is live and not fenced (R14, R404). -/
def State.liveCore (s : State) (n : Nat) : Bool :=
  decide (n < s.fuses.liveCount) && ((s.cores[n]?).map (fun c => !c.fenced)).getD false

/-- The speed entry of a live core, or 0 (R202).  A fenced core keeps its number and its entry (R378, R404; log 13). -/
def State.speedOf (s : State) (n : Nat) : Nat :=
  match s.cores[n]? with
  | some c => if n < s.fuses.liveCount then c.speed else 0
  | none => 0

/-- The placement set of the current task's node (R355). -/
def State.nodeCores (s : State) : List Nat :=
  (((getSlot s s.task.slot).nodes[s.task.node]?).map (·.placement)).getD []

/-- SPEEDQ (R202). -/
def execSpeedq (f : RSys) (s : State) : Host.Outcome State Fault Refusal :=
  issue 0x54 f.pred (sysCheck { nopRule with d := .dst, a := .src, sub := fun x => decide (x.toNat < 3) } f) (do
    gate [f.a] [f.d]
    let a ← readSrc f.a
    let s ← getS
    let v := match f.sub.toNat with
      | 0 => s.speedOf a.toNat
      | 1 => (s.nodeCores.map s.speedOf).sum
      | _ => ((List.range 192).map s.speedOf).sum
    writeDst f.d (BitVec.ofNat 64 v)
    pure .seq) s

/-- EVMASK (R203). -/
def execEvmask (f : RSys) (s : State) : Host.Outcome State Fault Refusal :=
  issue 0x55 f.pred (sysCheck { nopRule with d := .dst, a := .src } f) (do
    gate [f.a] [f.d]
    let a ← readSrc f.a
    ensureValue (decide (a.toNat < 8)) 2
    let s ← getS
    modS (modCur (fun t => { t with evmask := a.setWidth 3 }))
    writeDst f.d (s.task.evmask.setWidth 64)
    pure .seq) s

end Sys2Proof.Machine
end

