-- ==== Sys2Proof/Machine/Access.lean ====
section
/-! DEFINITION. The M form's decode checks and address, and the A stream's loads (07 R143; 08 R204 to R208). -/

namespace Sys2Proof.Machine

/-- The field rules of an M form.  `dOk`, `indexOk`: which specifiers may stand in D and INDEX. -/
structure MRule where
  dOk     : State → Operand → Bool
  indexOk : State → Operand → Bool := fun s o => srcOk s o
  size    : BitVec 3 → Bool
  opk     : BitVec 4 → Bool := fun x => x == 0#4
  scale   : Bool := true
  lsel    : Bool := false
  onlyLs  : Bool := false
  ord     : BitVec 2 → Bool := fun x => x == 0#2
  scope   : Bool := false
  tag     : Bool := false
  cf      : Bool := false
  disp    : Bool := true
  hint    : Bool := true

/-- The decode checks of an M form (R421 stage 4). -/
def mCheck (r : MRule) (f : MForm) (s : State) : Option (BitVec 32) :=
  firstBroken [
    (r.dOk s f.d, 1), (srcOk s f.base, 5), (r.indexOk s f.index, 6), (r.scale || f.scale == 0#3, 6),
    (r.size f.size, 8), (r.opk f.opk, 9),
    ((if f.lsel then r.lsel && f.win == 0#3 else !r.onlyLs) && (r.hint || f.hint == 0#3) && r.ord f.ord && (r.scope || f.scope == 0#2)
      && (r.tag || !f.tag) && (!f.cf || (r.cf && f.lsel)), 0xB),
    (r.disp || f.disp == 0#40, 0xC)]

/-- An operand that must be a queue of a number. -/
def isQueue (n : Nat) (o : Operand) : Bool := match o with
  | .q k => k.val == n
  | _ => false

/-- An operand that is a g register. -/
def isG (o : Operand) : Bool := match o with
  | .g _ => true
  | _ => false

/-- Bytes of an element for a SIZE code (R143). -/
def sizeBytes (size : BitVec 3) : Nat := if size = 7#3 then 256 else 2 ^ size.toNat

/-- BASE + INDEX·2^SCALE + DISP (R143). -/
def mAddr (f : MForm) (base index : BitVec 64) : BitVec 64 :=
  base + index * BitVec.ofNat 64 (2 ^ f.scale.toNat) + f.disp.signExtend 64

/-- BASE + DISP. -/
def mBase (f : MForm) (base : BitVec 64) : BitVec 64 := base + f.disp.signExtend 64

/-- A loaded value of n bytes as a register holds it: sign- or zero-extended (R204). -/
def extendLoad (sign : Bool) (bs : List (BitVec 8)) : BitVec 64 :=
  if sign then BitVec.ofInt 64 (sxInt (8 * bs.length) (bytesNat bs)) else BitVec.ofNat 64 (bytesNat bs)

/-- The elements of a load from the local store: `none` makes no access and yields zero (R100, R206). -/
def loadLs (cf : Bool) (n : Nat) (addrs : List (Option Nat)) : M (List (BitVec 8)) := do
  lsChecks ((addrs.filterMap id).map (fun a => (.any, a, n)))
  if cf then cfCheck ((addrs.filterMap id).map (fun a => (a, n)))
  let vs ← addrs.mapM (fun a => match a with
    | some a => lsLoad a n
    | none => pure (List.replicate n (0 : BitVec 8)))
  pure vs.flatten

/-- The windows of a load's elements in ascending order (R58, R421 stage 9). -/
def loadIas (win n : Nat) (several : Bool) (addrs : List (Option Nat)) : M (List (Option Nat)) :=
  let rec go : Nat → List (Option Nat) → M (List (Option Nat))
    | _, [] => pure []
    | i, none :: r => do
      let t ← go (i + 1) r
      pure (none :: t)
    | i, some a :: r => do
      let ia ← windowIa win a n .r .plain (if several then some i else none)
      let t ← go (i + 1) r
      pure (some ia :: t)
  go 0 addrs

/-- A load of elements from memory at their home slices (R204 to R206). -/
def loadMem (win n : Nat) (several useL1 : Bool) (addrs : List (Option Nat)) : M (List (BitVec 8)) := do
  let ias ← loadIas win n several addrs
  let s ← getS
  gateReserve (if ias.any (fun a => (a.map (leavesDie s s.task.tid)).getD false) then 1 else 0)
  let vs ← ias.mapM (fun a => match a with
    | some ia => loadScalar ia n useL1
    | none => pure (List.replicate n (0 : BitVec 8)))
  pure vs.flatten

/-- The elements of a load, from the local store or from memory. -/
def loadElems (f : MForm) (several useL1 : Bool) (addrs : List (BitVec 64)) : M (List (BitVec 8)) :=
  let as := addrs.map (fun a => some a.toNat)
  if f.lsel then loadLs f.cf (sizeBytes f.size) as else loadMem f.win.toNat (sizeBytes f.size) several useL1 as

/-- The bytes of a 256-byte vector as a register (R53). -/
def vecBytes (bs : List (BitVec 8)) : BitVec 2048 := BitVec.ofNat 2048 (bytesNat bs)

/-- The address of a load with BASE and INDEX. -/
def readAddr (f : MForm) : M (BitVec 64) := do
  let b ← readSrc f.base
  let i ← readSrc f.index
  pure (mAddr f b i)

/-- A scalar element size, and its OPK in a load. -/
def scalarSize (x : BitVec 3) : Bool := decide (x.toNat < 4)
def loadOpk (x : BitVec 4) : Bool := decide (x.toNat < 2)

/-- LD (R106, R204). -/
def execLd (f : MForm) (s : State) : Host.Outcome State Fault Refusal :=
  issue 0x60 f.pred (mCheck { dOk := fun _ o => isG o, size := scalarSize, opk := loadOpk, lsel := true, cf := true } f) (do
    gate [f.base, f.index] []
    let va ← readAddr f
    let bs ← loadElems f false (f.hint != 1#3) [va]
    writeDst f.d (extendLoad (f.opk.getLsbD 0) bs)
    pure .seq) s

/-- LDACQ: served at the home slice, then an acquire (R117, R204). -/
def execLdacq (f : MForm) (s : State) : Host.Outcome State Fault Refusal :=
  issue 0x61 f.pred (mCheck { dOk := fun _ o => isG o, size := scalarSize, opk := loadOpk, scope := true } f) (do
    gate [f.base, f.index] []
    let va ← readAddr f
    let bs ← loadElems f false false [va]
    writeDst f.d (extendLoad (f.opk.getLsbD 0) bs)
    modS (acquireAt f.scope)
    pure .seq) s

/-- LDV (R204, R205). -/
def execLdv (f : MForm) (s : State) : Host.Outcome State Fault Refusal :=
  issue 0x62 f.pred (mCheck { dOk := fun _ o => isQueue 12 o, size := fun x => x == 7#3, lsel := true, cf := true } f) (do
    gate [f.base, f.index] [f.d]
    let va ← readAddr f
    let bs ← loadElems f false false [va]
    writeVDst f.d (vecBytes bs)
    pure .seq) s

/-- The addresses of LDVS and STVS: base + disp + i·stride (R205). -/
def stridedAddrs (f : MForm) (base stride : BitVec 64) : List (BitVec 64) :=
  (List.range (256 / sizeBytes f.size)).map (fun i => mBase f base + BitVec.ofNat 64 i * stride)

/-- LDVS (R205). -/
def execLdvs (f : MForm) (s : State) : Host.Outcome State Fault Refusal :=
  issue 0x63 f.pred (mCheck { dOk := fun _ o => isQueue 12 o, indexOk := fun _ o => isG o, size := scalarSize, opk := loadOpk
                              scale := false, lsel := true, cf := true } f) (do
    gate [f.base] [f.d]
    let b ← readSrc f.base
    let g ← readSrc f.index
    let bs ← loadElems f true false (stridedAddrs f b g)
    writeVDst f.d (vecBytes bs)
    pure .seq) s

/-- The addresses of GATH and SCAT from their index vector; none for index 0x8000_0000 (R206). -/
def indexedAddrs (f : MForm) (base : BitVec 64) (idx : List Nat) : List (Option Nat) :=
  idx.map (fun i => if i = 0x80000000 then none
    else some (mBase f base + BitVec.ofInt 64 (sxInt 32 i * 2 ^ f.scale.toNat)).toNat)

/-- GATH (R206). -/
def execGath (f : MForm) (s : State) : Host.Outcome State Fault Refusal :=
  issue 0x64 f.pred (mCheck { dOk := fun _ o => isQueue 12 o, indexOk := fun _ o => isG o, size := scalarSize, opk := loadOpk
                              lsel := true, cf := true } f) (do
    gate [f.base] [f.d]
    let b ← readSrc f.base
    let g ← readSrc f.index
    let n := 256 / sizeBytes f.size
    lsCheck .plain g.toNat (4 * n)
    let ix ← lsLoad g.toNat (4 * n)
    let addrs := indexedAddrs f b (bytesElems 4 n ix)
    let bs ← if f.lsel then loadLs f.cf (sizeBytes f.size) addrs
      else loadMem f.win.toNat (sizeBytes f.size) true false addrs
    writeVDst f.d (vecBytes bs)
    pure .seq) s

/-- An outstanding remote load: its entry is reserved, and its value is pushed when the reply arrives (R207); a request
that leaves the die keeps a reservation until then (R363). -/
def issueRld (q : Nat) (v : BitVec 2048) (off : Bool) : M Unit :=
  modS (modCur (fun t => { t with rlds := t.rlds ++ [⟨q, v, false, off⟩] }))

/-- Whether a load's first byte lies off the core's die (R363). -/
def loadLeaves (s : State) (win : Nat) (va : BitVec 64) : Bool :=
  match translate (s.window win) va.toNat 1 .r with
  | .ok ia => leavesDie s s.task.tid ia
  | .error _ => false

/-- RLD (R207). -/
def execRld (f : MForm) (s : State) : Host.Outcome State Fault Refusal :=
  issue 0x66 f.pred (mCheck { dOk := fun _ o => isQueue 3 o || isQueue 4 o || isQueue 5 o, size := scalarSize, opk := loadOpk } f) (do
    gate [f.base, f.index] [f.d]
    let va ← readAddr f
    let bs ← loadElems f false false [va]
    let s ← getS
    issueRld ((queueOf f.d).headD 0) ((extendLoad (f.opk.getLsbD 0) bs).setWidth 2048) (loadLeaves s f.win.toNat va)
    pure .seq) s

/-- RLDV (R207). -/
def execRldv (f : MForm) (s : State) : Host.Outcome State Fault Refusal :=
  issue 0x67 f.pred (mCheck { dOk := fun _ o => isQueue 12 o, size := fun x => x == 7#3 } f) (do
    gate [f.base, f.index] [f.d]
    let va ← readAddr f
    let bs ← loadElems f false false [va]
    let s ← getS
    issueRld 12 (vecBytes bs) (loadLeaves s f.win.toNat va)
    pure .seq) s

/-- LOAD_REPLY_ARRIVAL: the oldest outstanding RLD or RLDV of a task has its value, which enters the queue at its
reserved entry, in issue order for each queue (R204, R207). -/
def execLoadReplyArrival (tid : Nat) (s : State) : Host.Outcome State Fault Refusal :=
  occur (modTask tid Task.replyRld) s

/-- Whether a prefetch's address is readable and mapped: none where it is dropped (R208). -/
def prefetchIa (s : State) (win va : Nat) : Option Nat :=
  match translate (s.window win) va 1 .r with
  | .ok ia => (match locate s ia with
    | .stack _ _ => some ia
    | .flat _ => if inHost ia then none else some ia
    | _ => none)
  | .error _ => none

/-- PREF: the line enters the L1 when HINT is 0; a prefetch that fails any check is dropped (R208). -/
def execPref (f : MForm) (s : State) : Host.Outcome State Fault Refusal :=
  issue 0x65 f.pred (mCheck { dOk := fun _ o => o == .g 0, size := fun x => x == 0#3 } f) (do
    gate [f.base, f.index] []
    let va ← readAddr f
    let s ← getS
    match prefetchIa s f.win.toNat va.toNat with
    | some ia =>
      if f.hint = 0#3 ∧ l1Find s (lineOf ia) = none then
        (fun s => match (do
            let d ← readLine s.self (span (lineOf ia) 128)
            modS (l1Fill (lineOf ia) d) : M Unit) s with
          | .ok r => .ok r
          | .error _ => .ok ((), s))
      else pure ()
    | none => pure ()
    pure .seq) s

end Sys2Proof.Machine
end

