-- ==== Sys2Proof/Machine/Launch.lean ====
section
/-! DEFINITION. A stream: starting and stopping engine jobs, and bounds checks (08 R209 to R212; 12 R324, R330). -/

namespace Sys2Proof.Machine

/-- The data of a copy-aperture start (Table 12.4). -/
def startData (f : EForm) (tag : BitVec 32) (mask : BitVec 16) : BitVec 128 :=
  0#16 ++ mask ++ tag ++ 0#2 ++ f.sinc ++ f.ssem ++ f.wmode ++ f.wthr ++ f.wsem ++ f.obj

/-- The job a start's data describes (Table 12.4). -/
def jobOf (d : BitVec 128) (tid : Option Nat) : BteJob :=
  { tid := tid, tmpl := d.extractLsb' 0 16, tag := d.extractLsb' 64 32, mask := d.extractLsb' 96 16
    wait := waitOf (d.extractLsb' 40 2) (d.extractLsb' 16 8) (d.extractLsb' 24 16)
    ssem := d.extractLsb' 42 8, sinc := d.extractLsb' 50 12, drain := none, block := false
    code := if d.extractLsb' 112 16 ≠ 0#16 ∨ d.extractLsb' 62 2 ≠ 0#2 ∨ d.extractLsb' 40 2 = 3#2
        ∨ (tid.isNone ∧ (d.extractLsb' 40 2 ≠ 0#2 ∨ d.extractLsb' 42 20 ≠ 0#20)) then fcIllegalOperand else 0
    multi := none }

/-- A start that reaches a channel: it joins the queue of 16, or waits behind the starts that wait (R323, R324). -/
def reachChan (n : Fin 32) (d : BitVec 128) (tid : Option Nat) (s : State) : State :=
  if s.chans[n].queue.length < 16 ∧ s.aperture.all (fun x => x.1 != n.val) then
    modChan n (fun c => { c with queue := c.queue ++ [jobOf d tid] }) s
  else { s with aperture := s.aperture ++ [(n.val, d, tid)] }

/-- Whether a task's start still waits for a channel. -/
def startWaits (s : State) : Bool := s.aperture.any (fun x => x.2.2 == some s.task.tid)

/-- The release of an engine command push, and the limit of 16 jobs (R23, R123, R438). -/
def gateJob : M Unit := do
  let s ← getS
  if 16 ≤ s.task.jobs then block .jobs
  if ¬ writesPerformed s.task 2#2 then block .fence

/-- A start that goes to a unit of another die needs a reservation (R363). -/
def gateStart (unit : Nat) : M Unit := do
  let s ← getS
  gateReserve (if unit / 4 = s.dieOf s.task.core then 0 else 1)

/-- CPYGO and CPYMC: the copy-aperture store (a fenced channel traps, R404); the word waits with a start that the channel cannot take. -/
def copyBody (multi : Bool) (f : EForm) : M Flow := do
  let s ← getS
  if s.strm.wait = some .unit then pure (if startWaits s then .hold .unit else .seq)
  else
    let vs ← heldSources [f.a, f.b]
    gateLog
    gateJob
    let t ← useObj f.obj 2 templateOk (fun _ => true)
    ensure ((templateMode t == 2) == multi) fcObjectKind (objInfo fcObjectKind f.obj)
    let a := (vs.headD 0).toNat
    let mask := bits a 32 32
    ensureValue (bits a 5 27 == 0 && (if multi then decide (mask < 2 ^ (bits t 112 4 + 1)) else mask == 0)) 2
    ensureValue (!s.chans[Fin.ofNat 32 (a % 32)].fenced) 2
    gateStart (a % 32)
    let d := startData f ((vs.getD 1 0).setWidth 32) (BitVec.ofNat 16 mask)
    modS (fun s =>
      let s := reachChan (Fin.ofNat 32 (a % 32)) d (some s.task.tid) s
      { s with task := { s.task with jobs := s.task.jobs + 1 } })
    let s ← getS
    pure (if startWaits s then .hold .unit else .seq)

/-- The field rule of a job start. -/
def jobRule : ERule := { a := .src, b := .src, sub := fun x => x == 0#4, wait := true, sig := true, obj := true }

/-- CPYGO (R209, R324). -/
def execCpygo (f : EForm) (s : State) : Host.Outcome State Fault Refusal :=
  issue 0x6B f.pred (eCheck jobRule f) (copyBody false f) s

/-- CPYMC (R209, R324). -/
def execCpymc (f : EForm) (s : State) : Host.Outcome State Fault Refusal :=
  issue 0x6C f.pred (eCheck jobRule f) (copyBody true f) s

/-- COPY_APERTURE_START: a start that reaches its channel (R324). -/
def execCopyApertureStart (chan : Fin 32) (data : BitVec 128) (tid : Option Nat) (s : State) :
    Host.Outcome State Fault Refusal := occur (reachChan chan data tid) s

/-- The first start that waits at a channel is taken once the queue has room (R324). -/
def takeStart (n : Fin 32) (s : State) : State :=
  match s.aperture.find? (fun x => x.1 == n.val) with
  | some x =>
    if s.chans[n].queue.length < 16 then
      modChan n (fun c => { c with queue := c.queue ++ [jobOf x.2.1 x.2.2] }) { s with aperture := s.aperture.erase x }
    else s
  | none => s

/-- Whether a task's LGO still waits for a Lighter. -/
def lgoWaits (s : State) : Bool := s.lgos.any (fun x => x.2.tid == s.task.tid)

/-- A program that reaches a Lighter: it joins the queue of four, or waits behind those that wait (R330). -/
def reachLighter (n : Fin 32) (p : LProg) (s : State) : State :=
  if s.lighters[n].queue.length < 4 ∧ s.lgos.all (fun x => x.1 != n.val) then
    modLighter n (fun c => { c with queue := c.queue ++ [p] }) s
  else { s with lgos := s.lgos ++ [(n.val, p)] }

/-- LGO (R210, R330). -/
def execLgo (f : EForm) (s : State) : Host.Outcome State Fault Refusal :=
  issue 0x6D f.pred (eCheck jobRule f) (do
    let s ← getS
    if s.strm.wait = some .unit then pure (if lgoWaits s then .hold .unit else .seq)
    else
      let vs ← heldSources [f.a, f.b]
      gateLog
      gateJob
      let _ ← useObj f.obj 7 lprogOk (fun _ => true)
      let n : Fin 32 := Fin.ofNat 32 ((vs.headD 0).toNat % 32)
      ensureValue (!s.lighters[n].fenced) 2
      gateStart n.val
      let p : LProg := { tid := s.task.tid, obj := f.obj, tag := (vs.getD 1 0).setWidth 32, wait := waitOf f.wmode f.wsem f.wthr
                         ssem := f.ssem, sinc := f.sinc, block := false, halt := false }
      modS (fun s =>
        let s := reachLighter n p s
        { s with task := { s.task with jobs := s.task.jobs + 1 } })
      let s ← getS
      pure (if lgoWaits s then .hold .unit else .seq)) s

/-- A Lighter whose program of a task, running or queued, is to stop (R210). -/
def Lighter.haltOf (tid : Nat) (c : Lighter) : Lighter :=
  match c.run with
  | some r =>
    if r.prog.tid = tid then { c with run := some { r with halted := true } }
    else { c with queue := modFirst (fun p => p.tid == tid) (fun p => { p with halt := true }) c.queue }
  | none => { c with queue := modFirst (fun p => p.tid == tid) (fun p => { p with halt := true }) c.queue }

/-- A task whose program stopped by a pre-emption, running or queued then, is to stop (R49, R210). -/
def Task.haltSaved (t : Task) (n : Nat) : Task :=
  if t.savedProgs.any (fun x => x.1 == n) then
    { t with savedProgs := modFirst (fun x => x.1 == n) (fun x => (x.1, { x.2 with halted := true })) t.savedProgs }
  else { t with savedProgQueue := modFirst (fun x => x.1 == n) (fun x => (x.1, { x.2 with halt := true })) t.savedProgQueue }

/-- LHALT: the program this task runs, has queued, or is to continue on a Lighter is to stop (R210). -/
def execLhalt (f : RSys) (s : State) : Host.Outcome State Fault Refusal :=
  issue 0x6E f.pred (sysCheck { nopRule with a := .src } f) (do
    gate [f.a] []
    let a ← readSrc f.a
    let s ← getS
    let n : Fin 32 := Fin.ofNat 32 (a.toNat % 32)
    let tid := s.task.tid
    let c := s.lighters[n]
    modS (if (c.run.map (fun r => r.prog.tid == tid)).getD false then modLighter n (Lighter.haltOf tid)
      else if s.task.savedProgs.any (fun x => x.1 == n.val) then modCur (fun t => t.haltSaved n.val)
      else if c.queue.any (fun p => p.tid == tid) then modLighter n (Lighter.haltOf tid)
      else modCur (fun t => t.haltSaved n.val))
    pure .seq) s

/-- What LSTAT kept of a Lighter for a task: zero where nothing was kept. -/
def LStat.word (l : Option LStat) : BitVec 64 :=
  match l with
  | some l => BitVec.ofNat 64 (l.state.toNat + 2 ^ 8 * l.status.toNat + 2 ^ 32 * (l.chunks % 2 ^ 32))
  | none => 0

/-- The LSTAT word of a Lighter as a task sees it: a program stopped by a pre-emption, and not yet continued, is in
STATE 3 (R212, R333). -/
def lstatWord (s : State) (n : Fin 32) : BitVec 64 :=
  let old := LStat.word (s.task.lstat.find? (fun l => l.unit == n.val))
  let kept := match s.task.savedProgs.find? (fun x => x.1 == n.val) with
    | some x => BitVec.ofNat 64 (3 + 2 ^ 32 * (x.2.chunks % 2 ^ 32))
    | none => old
  match s.lighters[n].run with
  | some r =>
    if r.prog.tid = s.task.tid then
      BitVec.ofNat 64 ((if r.waiting.isSome || r.semw.isSome then 2 else 1) + 2 ^ 32 * (r.chunks % 2 ^ 32))
    else kept
  | none => kept

/-- LSTAT (R212). -/
def execLstat (f : RSys) (s : State) : Host.Outcome State Fault Refusal :=
  issue 0x77 f.pred (sysCheck { nopRule with d := .dst, a := .src } f) (do
    gate [f.a] [f.d]
    let a ← readSrc f.a
    let s ← getS
    writeDst f.d (lstatWord s (Fin.ofNat 32 (a.toNat % 32)))
    pure .seq) s

/-- BCHK: the checks of a shape's use, then the coordinates (R211, R320, R427). -/
def execBchk (f : EForm) (s : State) : Host.Outcome State Fault Refusal :=
  issue 0x75 f.pred (eCheck { a := .src, b := .pred, sub := fun x => x == 0#4, wait := false, sig := false, obj := true } f) (do
    gate [f.a] []
    let x ← useObj f.obj 1 shapeOk (fun _ => true)
    let h := shapeOf x
    let s ← getS
    ensure h.inBounds fcShapeBound s.freeInfo
    let a ← readSrc f.a
    lsCheck .any a.toNat (4 * h.rank)
    let bs ← lsLoad a.toNat (4 * h.rank)
    writeDst f.b (predBits (!h.clipped (bytesElems 4 h.rank bs)))
    pure .seq) s

end Sys2Proof.Machine
end

