-- ==== Sys2Proof/Machine/AccessLs.lean ====
section
/-! DEFINITION. A stream: stash, discard, rings, windows, pages and translation (08 R213 to R219; 05 R102 to
R109; 03 R57 to R60). -/

namespace Sys2Proof.Machine

/-- Whether an LS range lies in the stash area; the lowest byte outside it. -/
def stashRange (t : Task) (off n : Nat) : M Unit :=
  if 0x180000 < off + n then trap fcLsBound (BitVec.ofNat 32 (max off 0x180000 % 2 ^ 21))
  else if ¬ t.inStashArea off then trap fcLsRegion (BitVec.ofNat 32 off)
  else if lscfgBase t.lscfg + lscfgSize t.lscfg < off + n then
    trap fcLsRegion (BitVec.ofNat 32 (lscfgBase t.lscfg + lscfgSize t.lscfg))
  else pure ()

/-- STASH (R102, R213): the mapping takes the lowest free number (log 59). -/
def execStash (f : RSys) (s : State) : Host.Outcome State Fault Refusal :=
  issue 0x68 f.pred (sysCheck { d := .dst, a := .src, b := .src, c := .src, sub := fun x => decide (x.toNat < 8) } f) (do
    gate [f.a, f.b, f.c] [f.d]
    let a ← readSrc f.a
    let b ← readSrc f.b
    let c ← readSrc f.c
    let s ← getS
    let w := s.window f.sub.toNat
    ensureValue (a.toNat % 128 == 0) 2
    ensureValue (b.toNat % 128 == 0) 3
    ensureValue (c.toNat % 128 == 0 && c != 0) 4
    match findBelow (fun n => s.task.stash.all (fun m => m.num != n)) 8 with
    | none => badValue 0
    | some n =>
      let ia ← windowIa f.sub.toNat b.toNat c.toNat (if w.r then .r else .w) .atomic none
      if deviceSpan < iaOff ia + c.toNat then
        stop (.trap fcAperture s.freeInfo (b + BitVec.ofNat 64 (deviceSpan - iaOff ia)))
      stashRange s.task a.toNat c.toNat
      modS (modCur (fun t => { t with stash := t.stash ++ [⟨n, a.toNat, b, ia, c.toNat, w.r, w.w, []⟩] }))
      writeDst f.d (BitVec.ofNat 64 n)
      pure .seq) s

/-- The task's writes whose acknowledgements have not arrived; one that is in its log counts no more (R302, R441). -/
def Task.unacked (t : Task) : List Nat := t.acks.map (·.id)

/-- UNSTASH: the mapping's dirty lines are written back, and it goes once they are acknowledged (R103, R213, R441). -/
def execUnstash (f : RSys) (s : State) : Host.Outcome State Fault Refusal :=
  issue 0x69 f.pred (sysCheck { nopRule with a := .src } f) (do
    let vs ← heldSources [f.a]
    let s ← getS
    let a := (vs.headD 0).toNat
    ensureValue (s.task.stash.any (fun m => m.num == a)) 2
    let lines := (s.task.dirtyLines (fun _ => true)).filter (fun x => x.1.num == a)
    let ids ← lines.mapM (fun x => writeBackLine s.task.tid x.1 x.2)
    modS (modStrm (fun r => { r with await := some (r.await.getD [] ++ ids) }))
    let s ← getS
    let done ← awaitWrites [] s.task.unacked
    if !done then pure (.hold .fence)
    else
      modS (modCur (fun t => { t with stash := t.stash.filter (fun m => m.num != a) }))
      pure .seq) s

/-- Stash copies of a range of IA dropped without write-back, in every task (R109). -/
def dropStashRange (ia len : Nat) (s : State) : State :=
  let f (t : Task) : Task := { t with stash := t.stash.map (fun m =>
    { m with lines := m.lines.filter (fun l => !(decide (ia ≤ m.ia + l.off) && decide (m.ia + l.off < ia + len))) }) }
  mapPacks (fun p => { p with task := f p.task, others := p.others.map f }) s

/-- Lighter page registers that hold a page of a range of IA are invalidated (R95, R109). -/
def dropPageRegs (ia len : Nat) (s : State) : State :=
  let hit (p : Option Nat) : Option Nat := match p with
    | some p => if ia ≤ p * 65536 ∧ p * 65536 < ia + len then none else some p
    | none => none
  let f (r : LRun) : LRun := { r with curPage := hit r.curPage, nextPage := hit r.nextPage }
  mapPacks (fun p => { p with lighters := p.lighters.map (fun c => { c with run := c.run.map f }) }) s

/-- Every slice of a die takes one write event (R108, R114). -/
def tagSlices (die : Nat) (s : State) : State :=
  { s with sliceSeq := Vector.ofFn (fun i : Fin 128 => if i.val / 16 = die then s.sliceSeq[i] + 1 else s.sliceSeq[i]) }

/-- What a discarded page leaves behind elsewhere: no stash copy, no Lighter page register, and the DISCARD point is a
write event of each of its lines (R109, R111). -/
def dropPage (page size : Nat) (s : State) : State :=
  noteRange page size (dropPageRegs page size (dropStashRange page size s))

/-- The page of a range that starts at `page` discarded at its home package, if it lies wholly in the range, and its
bytes (R108, R214, R440). -/
def discardHere (ia len page : Nat) (s : State) : State × Nat :=
  match locate s page with
  | .stack e _ =>
    let size := if e.big then 2 ^ 21 else 65536
    if page % size ≠ 0 ∨ page < ia ∨ ia + len < page + size then (s, 0)
    else (tagSlices e.die (dropPage page size (setDisc e true s)), size)
  | .flat key =>
    if inHost page then (s, 0)
    else (dropPage page 65536 { s with
      mem := zeroCells s.mem key (key + 65536)
      poison := s.poison.filter (fun k => !(decide (key ≤ 8 * k) && decide (8 * k < key + 65536))) }, 65536)
  | _ => (s, 0)

/-- The same at whichever package homes the page. -/
def discardPage (ia len : Nat) (x : State × Nat) (page : Nat) : State × Nat :=
  let s := x.1
  let r := if iaPkg page = s.pkg ∨ ¬ s.hasPeer (iaPkg page) then discardHere ia len page s
    else match s.peers.findIdx? (Pack.isPkg (iaPkg page)) with
      | some i => let r := discardHere ia len page (swapPack i s); (swapPack i r.1, r.2)
      | none => (s, 0)
  (r.1, x.2 + r.2)

/-- A line of a range whose copy the host holds; it is asked back before the device changes it (R127). -/
def State.hostLineIn (s : State) (ia len : Nat) : Option Nat :=
  (s.packs.flatMap (·.hostLines)).find? (fun l => decide (ia ≤ l) && decide (l < ia + len))

/-- The pages that lie wholly in a range of IA discarded, and their bytes (R108, R127, R214). -/
def discardRange (ia len : Nat) : M Nat := do
  let first := (ia + 65535) / 65536
  let pages := (List.range ((ia + len) / 65536 - first)).map (fun i => (first + i) * 65536)
  let s ← getS
  match s.hostLineIn ia len with
  | some l => stop (.hostLine l)
  | none => pure ()
  let r := pages.foldl (discardPage ia len) (s, 0)
  modS (fun _ => r.1)
  pure r.2

/-- DISCARD (R108, R109, R214). -/
def execDiscard (f : RSys) (s : State) : Host.Outcome State Fault Refusal :=
  issue 0x6A f.pred (sysCheck { d := .dst, a := .src, b := .src, c := .unused, sub := fun x => decide (x.toNat < 8) } f) (do
    gate [f.a, f.b] [f.d]
    let a ← readSrc f.a
    let b ← readSrc f.b
    ensureValue (a.toNat % 65536 == 0) 2
    ensureValue (b.toNat % 65536 == 0) 3
    let ia ← windowIa f.sub.toNat a.toNat b.toNat .w .atomic none
    let n ← discardRange ia b.toNat
    modS (fun s => l1DropRange s.task.core ia b.toNat s)
    writeDst f.d (BitVec.ofNat 64 n)
    pure .seq) s

/-- A RING1 field that names a ring. -/
def ringValid (r : BitVec 4) : Bool := r.getLsbD 3

/-- RINGSET (R59, R99, R215, R446). -/
def execRingset (f : RSys) (s : State) : Host.Outcome State Fault Refusal :=
  issue 0x6F f.pred (sysCheck { nopRule with a := .src, ring1 := ringValid } f) (do
    gate [f.a] []
    let a ← readSrc f.a
    let s ← getS
    let n := ringField f.ring1
    let r := s.ringOf n
    ensure (r.lock &&& ~~~r.void == 0#16 && r.fillers.isEmpty) fcRingMisuse (ringInfo n.val 3)
    ensure (a == 0 || s.task.ringCfgOk n.val a) fcRingMisuse (ringInfo n.val 4)
    modS (modCur (fun t => t.modRing n (fun _ => { Ring.init with cfg := a, en := a != 0 })))
    pure .seq) s

/-- RINGPUT: claim, copy, FULL (R60, R215). -/
def execRingput (f : RSys) (s : State) : Host.Outcome State Fault Refusal :=
  issue 0x70 f.pred (sysCheck { nopRule with a := .src, b := .src, ring1 := ringValid } f) (do
    gate [f.a, f.b] []
    let s ← getS
    let n := ringField f.ring1
    let r := s.ringOf n
    if r.en ∧ ¬ r.claimable then block (.ring n.val)
    let a ← readSrc f.a
    let b ← readSrc f.b
    ensureValue (b != 0) 3
    lsCheck .plain a.toNat b.toNat
    ensure r.en fcRingMisuse (ringInfo n.val 1)
    ensure (decide (b.toNat ≤ ringSlotBytes r.cfg)) fcRingMisuse (ringInfo n.val 2)
    lsClean a.toNat b.toNat
    modS (modCur (fun t => (t.lsWrite (r.slotAt r.tail) (t.lsRead a.toNat b.toNat)).modRing n
      (fun r => r.claim.setFull r.tail)))
    pure .seq) s

/-- RINGQ (R215). -/
def execRingq (f : RSys) (s : State) : Host.Outcome State Fault Refusal :=
  issue 0x71 f.pred (sysCheck { nopRule with d := .dst, sub := fun x => decide (x.toNat < 2), ring1 := ringValid } f) (do
    gate [] [f.d]
    let s ← getS
    let r := s.ringOf (ringField f.ring1)
    writeDst f.d (if f.sub = 0#8 then r.cfg else r.state)
    pure .seq) s

/-- RING_SLOT_CLAIM: a filler claims slot TAIL when its LOCK is clear (R60, R334). -/
def execRingSlotClaim (tid : Nat) (ring : Fin 8) (s : State) : Host.Outcome State Fault Refusal :=
  occur (modTask tid (fun t => if t.rings[ring].claimable then t.modRing ring Ring.claim else t)) s

/-- The words of a window descriptor (Table 03.4). -/
def Window.word (x : Window) (n : Nat) : BitVec 64 :=
  match n with
  | 0 => x.base ++ 0#12
  | 1 => x.limit ++ 0#12
  | 2 => (x.offset ++ 0#12 : BitVec 58).setWidth 64
  | _ => BitVec.ofNat 64 (b2n x.r + 2 * b2n x.w + 4 * b2n x.a + 8 * b2n x.x + 16 * b2n x.v)

/-- WINQ (R57, R216). -/
def execWinq (f : RSys) (s : State) : Host.Outcome State Fault Refusal :=
  issue 0x72 f.pred (sysCheck { nopRule with d := .dst, sub := fun x => decide (x.toNat < 4), imm := fun i => decide (i.toNat < 8) } f) (do
    gate [] [f.d]
    let s ← getS
    writeDst f.d ((s.window f.imm.toNat).word f.sub.toNat)
    pure .seq) s

/-- PLHINT: a hint; the placement engine's use of it changes nothing a program sees (R97, R217). -/
def execPlhint (f : RSys) (s : State) : Host.Outcome State Fault Refusal :=
  issue 0x73 f.pred (sysCheck { d := .unused, a := .src, b := .src, c := .src, sub := fun x => decide (x.toNat < 8) } f) (do
    gate [f.a, f.b, f.c] []
    let _ ← readSrc f.a
    let _ ← readSrc f.b
    let _ ← readSrc f.c
    pure .seq) s

/-- A PGSTATE word of which nothing but the layout is known: free fields, the reserved bits zero, and BIG, PIN, MIG and
DISC zero where NOMAP is set (R218; log 9). -/
def freePageState (n : Nat) : Nat :=
  let home := if bitN n 3 ∧ bitN n 12 then 0xF else bits n 0 3
  let low := if bitN n 12 then 2 ^ 12 else 2 ^ 8 * bits n 8 4
  home + low + 2 ^ 32 * bits n 32 32

/-- The word PGSTATE writes for a page homed here (R218). -/
def pageStateHere (s : State) (ia : Nat) : Nat :=
  let off := iaOff ia
  let home := if s.homeOf off < 8 then s.homeOf off else 0xF
  match locate s ia with
  | .stack e _ =>
    let pte := readPte s e.die e.leaf
    home + 2 ^ 8 * b2n e.disc + 2 ^ 9 * b2n (bitN pte 4) + 2 ^ 10 * b2n (bitN pte 3) + 2 ^ 11 * b2n e.big
      + 2 ^ 32 * (s.migOf off % 2 ^ 32)
  | _ => home + 2 ^ 12 + 2 ^ 32 * (s.migOf off % 2 ^ 32)

/-- The word PGSTATE writes (R218). -/
def pageState (s : State) (ia : Nat) : BitVec 64 :=
  let h := s.homeView ia
  BitVec.ofNat 64 (if h.homedHere ia then pageStateHere h ia else freePageState (Config.freeNat 0 s.free s.tick))

/-- PGSTATE (R218). -/
def execPgstate (f : RSys) (s : State) : Host.Outcome State Fault Refusal :=
  issue 0x74 f.pred (sysCheck { d := .dst, a := .src, b := .unused, c := .unused, sub := fun x => decide (x.toNat < 8) } f) (do
    gate [f.a] [f.d]
    let a ← readSrc f.a
    let ia ← windowIa f.sub.toNat a.toNat 1 .r .plain none
    let s ← getS
    writeDst f.d (pageState s ia)
    pure .seq) s

/-- The right a two-bit selector names (R219). -/
def rightOf (n : Nat) : Right :=
  match n with
  | 0 => .r
  | 1 => .w
  | 2 => .a
  | _ => .x

/-- XLATQ: the IA of one byte, or the failing check's code; it never traps on the window (R219). -/
def execXlatq (f : RSys) (s : State) : Host.Outcome State Fault Refusal :=
  issue 0x76 f.pred (sysCheck { nopRule with d := .dst, a := .src, sub := fun x => decide (x.toNat < 32) } f) (do
    gate [f.a] [f.d]
    let a ← readSrc f.a
    let s ← getS
    writeDst f.d (match translate (s.window (bits f.sub.toNat 2 3)) a.toNat 1 (rightOf (bits f.sub.toNat 0 2)) with
      | .ok ia => BitVec.ofNat 64 ia
      | .error e => 1#1 ++ 0#55 ++ e.1)
    pure .seq) s

end Sys2Proof.Machine
end

