-- ==== Sys2Proof/Machine/Stores.lean ====
section
/-! DEFINITION. S stream: stores, atomics and reductions, remote local-store writes and the stash flush
(11 R290 to R302), and the home slice's side of them. -/

namespace Sys2Proof.Machine

/-- The field rule of a store to memory (Table 11.1). -/
def storeRule : MRule :=
  { dOk := srcOk, size := scalarSize, opk := fun x => x == 0#4, tag := true, hint := false }

/-- The vector data operand (R290). -/
def dataQ (_ : State) (o : Operand) : Bool := isQueue 13 o

/-- The write events of a store of the current stream's word at their home slices, and what becomes of the
L1 copies of the lines: updated, or dropped when `drop` is set (R106, R292, R293). -/
def storeMem (op : BitVec 8) (f : MForm) (elements drop : Bool) (xs : List (Nat × Nat × List (BitVec 8))) : M Unit := do
  gateLog
  let s ← getS
  let parts := xs.flatMap (fun x =>
    (writeParts op f.ord f.scope x.1 x.2.1 x.2.2 f.tag s).map (fun w => { w with size := f.size }))
  writeEvents s.task.tid s.self elements parts
  if drop then modS (fun s => l1DropLines s.task.core (parts.map (fun w => lineOf w.ia)) s) else pure ()

/-- A release before a store's effect at a scope (R116). -/
def gateRelease (scope : BitVec 2) : M Unit := do
  let s ← getS
  if ¬ writesPerformed s.task scope then block .fence

/-- A scalar store: `rel` for STREL (R292). -/
def storeBody (op : BitVec 8) (rel : Bool) (f : MForm) : M Flow := do
  gate [f.base, f.index, f.d] []
  gateLog
  if rel then gateRelease f.scope else pure ()
  let va ← readAddr f
  let d ← readSrc f.d
  let bs := natBytes (sizeBytes f.size) d.toNat
  if f.lsel then
    lsCheck .noStash va.toNat bs.length
    lsStore va.toNat bs
  else
    let ia ← windowIa f.win.toNat va.toNat bs.length .w .plain none
    storeMem op f false (f.hint == 1#3) [(va.toNat, ia, bs)]
  pure .seq

/-- ST (R292). -/
def execSt (f : MForm) (s : State) : Host.Outcome State Fault Refusal :=
  issue 0xD0 f.pred (mCheck { storeRule with lsel := true, hint := true } f) (storeBody 0xD0 false f) s

/-- STREL (R292). -/
def execStrel (f : MForm) (s : State) : Host.Outcome State Fault Refusal :=
  issue 0xD1 f.pred (mCheck { storeRule with scope := true } f) (storeBody 0xD1 true f) s

/-- The byte range of STV, STNT and STLS: FIRST and the length; none when it breaks its layout (R293). -/
def byteRange (r : BitVec 64) : Option (Nat × Nat) :=
  let first := bits r.toNat 0 8
  let len := if bits r.toNat 16 9 = 0 then 256 else bits r.toNat 16 9
  if bits r.toNat 25 39 = 0 ∧ bits r.toNat 8 8 = 0 ∧ first + len ≤ 256 then some (first, len) else none

/-- The bytes of a vector register, byte 0 first. -/
def bytesOfVec (v : BitVec 2048) : List (BitVec 8) := natBytes 256 v.toNat

/-- A vector store of a byte range (R293). -/
def storeRange (op : BitVec 8) (drop : Bool) (f : MForm) : M Flow := do
  gate [f.base, f.d] []
  if ¬ f.lsel then gateLog
  let b ← readSrc f.base
  let r ← readSrc f.index
  let v ← readVSrc f.d
  match byteRange r with
  | none => badValue 6
  | some (first, len) =>
    let va := (mBase f b).toNat + first
    let bs := ((bytesOfVec v).drop first).take len
    if f.lsel then
      lsCheck .noStash va len
      lsStore va bs
    else
      let ia ← windowIa f.win.toNat (va % 2 ^ 64) len .w .plain none
      storeMem op f false drop [(va % 2 ^ 64, ia, bs)]
    pure .seq

/-- The field rule of a vector store. -/
def vstoreRule : MRule :=
  { storeRule with dOk := dataQ, indexOk := fun _ o => isG o, size := fun x => x == 7#3, scale := false }

/-- STV (R293). -/
def execStv (f : MForm) (s : State) : Host.Outcome State Fault Refusal :=
  issue 0xD2 f.pred (mCheck { vstoreRule with hint := true } f) (storeRange 0xD2 (f.hint == 1#3) f) s

/-- STNT: no copy of a line it touches stays in the L1 (R293). -/
def execStnt (f : MForm) (s : State) : Host.Outcome State Fault Refusal :=
  issue 0xE5 f.pred (mCheck vstoreRule f) (storeRange 0xE5 true f) s

/-- STLS (R293). -/
def execStls (f : MForm) (s : State) : Host.Outcome State Fault Refusal :=
  issue 0xE7 f.pred (mCheck { vstoreRule with lsel := true, onlyLs := true, tag := false } f) (storeRange 0xE7 false f) s

/-- A store of the elements of the vector data operand; every element is checked before any is written
(R294, R295). -/
def storeElems (op : BitVec 8) (f : MForm) (v : BitVec 2048) (addrs : List (Option Nat)) : M Unit := do
  let n := sizeBytes f.size
  let rec ias : Nat → List (Option Nat) → M (List (Nat × Nat × List (BitVec 8)))
    | _, [] => pure []
    | i, none :: r => ias (i + 1) r
    | i, some a :: r => do
      let ia ← windowIa f.win.toNat a n .w .plain (some i)
      let t ← ias (i + 1) r
      pure ((a, ia, natBytes n (elemN v (8 * n) i)) :: t)
  let xs ← ias 0 addrs
  storeMem op f true (f.hint == 1#3) xs

/-- The field rule of STVS and SCAT. -/
def elemRule : MRule := { vstoreRule with size := scalarSize, hint := true }

/-- STVS (R294). -/
def execStvs (f : MForm) (s : State) : Host.Outcome State Fault Refusal :=
  issue 0xD3 f.pred (mCheck elemRule f) (do
    gate [f.base, f.d] []
    gateLog
    let b ← readSrc f.base
    let g ← readSrc f.index
    let v ← readVSrc f.d
    storeElems 0xD3 f v ((stridedAddrs f b g).map (fun a => some a.toNat))
    pure .seq) s

/-- SCAT (R294, R206). -/
def execScat (f : MForm) (s : State) : Host.Outcome State Fault Refusal :=
  issue 0xD4 f.pred (mCheck { elemRule with scale := true } f) (do
    gate [f.base, f.d] []
    gateLog
    let b ← readSrc f.base
    let g ← readSrc f.index
    let v ← readVSrc f.d
    let n := 256 / sizeBytes f.size
    lsCheck .plain g.toNat (4 * n)
    lsClean g.toNat (4 * n)
    let s ← getS
    storeElems 0xD4 f v (indexedAddrs f b (bytesElems 4 n (s.task.lsRead g.toNat (4 * n))))
    pure .seq) s

/-- ZERO: each line is one write event of 128 zero bytes (R296). -/
def execZero (f : MForm) (s : State) : Host.Outcome State Fault Refusal :=
  issue 0xE4 f.pred (mCheck { storeRule with dOk := fun _ o => o == .g 0, indexOk := fun _ o => isG o
                                             size := fun x => x == 0#3, scale := false, tag := false } f) (do
    gate [f.base] []
    gateLog
    let b ← readSrc f.base
    let l ← readSrc f.index
    let va := (mBase f b).toNat
    ensureValue (va % 128 == 0) 5
    ensureValue (l.toNat % 128 == 0 && decide (128 ≤ l.toNat) && decide (l.toNat ≤ 2 ^ 20)) 6
    let ia ← windowIa f.win.toNat va l.toNat .w .plain none
    storeMem 0xE4 f false false [(va, ia, List.replicate l.toNat 0)]
    pure .seq) s

/-- One atomic operation at its home slice: the old value and the event's acknowledgement word (R111, R297). -/
def atomicAt (by_ : Requester) (ia : Nat) (opk : BitVec 4) (n operand expected : Nat) : M (Nat × BitVec 64) := do
  let r ← updateLine by_ (span ia n) (fun old =>
    (natBytes n (atomicNew opk n (bytesNat old) operand expected), bytesNat old))
  pure (r.2, r.1)

/-- Whether the operation may stand in RED, REDV and AMOV (Table 11.2). -/
def redOpk (x : BitVec 4) : Bool := decide (x.toNat ≤ 0xC) && x != 8#4 && x != 9#4

/-- The element sizes of the atomic family. -/
def atomicSize (x : BitVec 3) : Bool := x == 2#3 || x == 3#3

/-- The field rule of AMO, AMOV, RED and REDV (R297 to R299). -/
def atomicRule : MRule :=
  { dOk := fun _ o => o == .g 0, size := atomicSize, opk := redOpk, scale := false
    ord := fun x => x == 0#2 || x == 2#2, scope := true, tag := true, hint := false }

/-- A release form's condition, and the hold of R439, before an atomic issues (R299). -/
def gateAtomic (f : MForm) : M Unit := do
  gateLog
  if f.ord.getLsbD 1 then gateRelease f.scope else pure ()

/-- An acquire form's action when its reply has arrived (R299). -/
def acquireForm (f : MForm) : M Unit := if f.ord.getLsbD 0 then modS (acquireAt f.scope) else pure ()

/-- The natural alignment of an element, and its IA with the right A (R290). -/
def atomicIa (f : MForm) (va : Nat) (elem : Option Nat) : M Nat := do
  let n := sizeBytes f.size
  if va % n ≠ 0 then stop (.trap fcMisaligned (BitVec.ofNat 32 (elem.getD va)) (BitVec.ofNat 64 va))
  windowIa f.win.toNat va n .a .atomic elem

/-- The acknowledgement of a write that a task's word made with a reply, under a number of its own (R114). -/
def ownAck (tid ia : Nat) (word : BitVec 64) (tag : Bool) (s : State) : State :=
  let n := ((getTask? s tid).map (·.wnext)).getD 0
  addAck tid word { op := 0, opk := 0, ord := 0, scope := 0, size := 0, tag := tag, pc := 0, va := 0, ia := ia
                    bytes := [], red := false, id := n, after := [], bad := [] }
    (modTask tid (fun t => { t with wnext := t.wnext + 1 }) s)

/-- One atomic of the current stream with its reply: the old value (R298); a copy of its line leaves the L1. -/
def atomicReply (f : MForm) (ia operand expected : Nat) : M Nat := do
  let s ← getS
  gateReserve (if leavesDie s s.task.tid ia then 1 else 0)
  let r ← atomicAt s.self ia f.opk (sizeBytes f.size) operand expected
  modS (fun s => l1DropLines s.task.core [lineOf ia] (if f.tag then ownAck s.task.tid ia r.2 true s else s))
  pure r.1

/-- AMO (R298, R299). -/
def execAmo (f : MForm) (s : State) : Host.Outcome State Fault Refusal :=
  issue 0xD5 f.pred (mCheck { atomicRule with dOk := fun s o => if f.opk = 9#4 then isG o else dstOk s o
                                              opk := fun x => decide (x.toNat ≤ 0xC), ord := fun _ => true } f) (do
    gate [f.base, f.index] [f.d]
    gateAtomic f
    let s ← getS
    let b ← readSrc f.base
    let y ← readSrc f.index
    let e := match f.d with
      | .g n => s.readG n
      | _ => 0
    let ia ← atomicIa f (mBase f b).toNat none
    let x ← atomicReply f ia y.toNat e.toNat
    writeDst f.d (BitVec.ofNat 64 x)
    acquireForm f
    pure .seq) s

/-- The IAs of the elements of AMOV and REDV (R295, R298). -/
def atomicIas (f : MForm) (va : Nat) : M (List Nat) :=
  let n := sizeBytes f.size
  (List.range (256 / n)).mapM (fun i => atomicIa f ((va + i * n) % 2 ^ 64) (some i))

/-- AMOV (R298, R299): an offset that is not aligned to 32 traps LS_REGION. -/
def execAmov (f : MForm) (s : State) : Host.Outcome State Fault Refusal :=
  issue 0xD6 f.pred (mCheck { atomicRule with dOk := fun _ o => isG o, indexOk := dataQ, ord := fun _ => true } f) (do
    gate [f.base, f.index] []
    gateAtomic f
    let b ← readSrc f.base
    let v ← readVSrc f.index
    let d ← readSrc f.d
    let n := sizeBytes f.size
    let ias ← atomicIas f (mBase f b).toNat
    ensure (d.toNat % 32 == 0) fcLsRegion (BitVec.ofNat 32 (d.toNat % 2 ^ 21))
    lsCheck .plain d.toNat 256
    let olds ← ((List.range ias.length).zip ias).mapM (fun (x : Nat × Nat) => atomicReply f x.2 (elemN v (8 * n) x.1) 0)
    lsStore d.toNat (elemsBytes n olds)
    acquireForm f
    pure .seq) s

/-- The reductions of RED and REDV as write events (R298, R299, R436). -/
def reduceMem (op : BitVec 8) (f : MForm) (xs : List (Nat × Nat × Nat)) : M Unit := do
  let n := sizeBytes f.size
  let s ← getS
  writeEvents s.task.tid s.self false (xs.map (fun x =>
    { op := op, opk := f.opk, ord := f.ord, scope := f.scope, size := f.size, tag := f.tag, pc := s.strm.pc
      va := BitVec.ofNat 64 x.1, ia := x.2.1, bytes := atAddr x.2.1 (natBytes n x.2.2), red := true
      id := 0, after := [], bad := [] }))

/-- RED (R298, R299). -/
def execRed (f : MForm) (s : State) : Host.Outcome State Fault Refusal :=
  issue 0xD7 f.pred (mCheck atomicRule f) (do
    gate [f.base, f.index] []
    gateAtomic f
    let b ← readSrc f.base
    let y ← readSrc f.index
    let ia ← atomicIa f (mBase f b).toNat none
    reduceMem 0xD7 f [((mBase f b).toNat, ia, y.toNat)]
    pure .seq) s

/-- REDV (R298, R299). -/
def execRedv (f : MForm) (s : State) : Host.Outcome State Fault Refusal :=
  issue 0xD8 f.pred (mCheck { atomicRule with indexOk := dataQ } f) (do
    gate [f.base, f.index] []
    gateAtomic f
    let b ← readSrc f.base
    let v ← readVSrc f.index
    let n := sizeBytes f.size
    let va := (mBase f b).toNat
    let ias ← atomicIas f va
    reduceMem 0xD8 f (((List.range ias.length).zip ias).map (fun (x : Nat × Nat) =>
      ((va + x.1 * n) % 2 ^ 64, x.2, elemN v (8 * n) x.1)))
    pure .seq) s

/-- RSTV (R300): the message enters the S-stream send queue of 16 (R365). -/
def execRstv (f : MForm) (s : State) : Host.Outcome State Fault Refusal :=
  issue 0xE2 f.pred (mCheck { vstoreRule with ord := fun x => x == 0#2 || x == 2#2, scope := true, disp := false } f) (do
    gate [f.base, f.d] []
    gateAtomic f
    let s ← getS
    if 16 ≤ s.task.sendS.length then block .unit
    gateReserve 1
    let va ← readSrc f.base
    let x ← readSrc f.index
    let v ← readVSrc f.d
    let off := bits x.toNat 32 21
    ensureValue (va.toNat % 64 == 0) 5
    ensureValue (bits x.toNat 53 11 == 0 && bits x.toNat 16 16 == 0 && off % 32 == 0) 6
    let ia ← windowIa f.win.toNat va.toNat 64 .a .atomic none
    modS (modCur (fun t => { t with
      sendS := t.sendS ++ [.rstv t.wnext ⟨t.tid, ia, x.setWidth 16, BitVec.ofNat 21 off, v, f.tag, s.pkg, t.core⟩]
      wnext := t.wnext + 1 }))
    pure .seq) s

/-- A message of the S-stream send queue goes when it is the event that happens (R365). -/
def popSendS (tid : Nat) (i : SendS) (s : State) : State :=
  modTask tid (fun t => if t.sendS.head? = some i then { t with sendS := t.sendS.tail } else t) s

/-- Whether a message is an RSTV's of a content. -/
def SendS.isRstv (m : RstvMsg) : SendS → Bool
  | .rstv _ x => x == m
  | .rrput _ => false

/-- The head of a task's S-stream send queue goes when it is the RSTV that happens; its number (R365). -/
def popRstv (m : RstvMsg) (s : State) : State × Nat :=
  match getTask? s m.src with
  | some t => match t.sendS with
    | .rstv id x :: rest => if x = m then (modTask m.src (fun t => { t with sendS := rest }) s, id) else (s, t.wnext)
    | _ => (s, t.wnext)
  | none => (s, 0)

/-- The event of kind 0x08 of an applied RSTV write or RRPUT fill (R366). -/
def remoteEvent (spkg score off units : Nat) (ring : Option (Fin 8)) : BitVec 128 :=
  let r := match ring with
    | some n => 2048 + 256 * n.val
    | none => 0
  eventOf (eventLow 0 0 0 8) (r + 4096 * (units % 4096) + 2 ^ 24 * off + 2 ^ 45 * (score % 256) + 2 ^ 53 * (spkg % 2048))

/-- The acknowledgement of an RSTV: its word goes to q8 when TAG asks for it (R300). -/
def rstvAck (m : RstvMsg) (id : Nat) (code : BitVec 8) (s : State) : State :=
  let off := ((getTask? s m.src).map (fun t => decide (s.offDie t < 64))).getD false
  modTask m.src (fun t => { t with
    acks := t.acks ++ [⟨BitVec.ofNat 64 (65536 * m.rank.toNat + 256 * code.toNat), m.tag, id, [], off⟩] }) s

/-- The record of an RSTV that writes nothing (R300, R454, R467). -/
def rstvRecord (m : RstvMsg) (code : BitVec 8) (s : State) : State :=
  addTaskRecord m.src { code := code, sev := if code = fcCircuitFail then 1 else 0, mkind := 0, stream := 3, op := 0xE2, tag := m.rank.toNat
                        addr := BitVec.ofNat 64 m.group } s

/-- An RSTV that writes nothing (R300, R454). -/
def rstvFails (m : RstvMsg) (code : BitVec 8) (s : State) : State :=
  let x := popRstv m s
  rstvAck m x.2 code (rstvRecord m code x.1)

/-- RSTV_WRITE_APPLY (R300, R366, R454, R467); a saved task's image in its context area is written too. -/
def execRstvWriteApply (m : RstvMsg) (s : State) : Host.Outcome State Fault Refusal :=
  occur (fun s =>
    match rankTask s m.group m.rank.toNat with
    | none => rstvFails m fcRankVacant s
    | some t => overLink (s.pkgOf t.tid) (rstvFails m fcCircuitFail) (fun s =>
      match lsJudge .noStash t m.off.toNat 256 with
      | some (code, _) => rstvFails m code s
      | none =>
        let x := popRstv m s
        let s := refreshArea t.tid (modTask t.tid (fun t => t.deliver.lsWrite m.off.toNat (bytesOfVec m.data)) x.1)
        rstvAck m x.2 0 (pushEventTo t.tid .remote (remoteEvent m.spkg m.score m.off.toNat 1 none) s)) s) s

/-- RRPUT (R301).  The put enters the S-stream send queue, and the word retires once it has been applied. -/
def execRrput (f : EForm) (s : State) : Host.Outcome State Fault Refusal :=
  issue 0xE6 f.pred (eCheck { a := .src, b := .src, sub := fun x => decide (x.toNat < 8), wait := true, sig := true, obj := false } f) (do
    let s ← getS
    if s.strm.wait = some .reply then
      if s.task.sendS ≠ [] then pure (.hold .reply)
      else
        modS (modStrm (fun r => { r with semw := none }))
        pure .seq
    else
      let vs ← heldSources [f.a, f.b]
      gateLog
      let w := waitOf f.wmode f.wsem f.wthr
      gateWait w
      if 16 ≤ s.task.sendS.length then block .unit
      gateReserve 1
      let b := (vs.getD 1 0).toNat
      let rank := bits b 0 16
      let ring : Fin 8 := Fin.ofNat 8 (bits b 16 3)
      let len := 256 * bits b 19 12
      let off := bits b 32 21
      ensureValue (bits b 31 1 == 0 && bits b 53 11 == 0 && len != 0 && off % 32 == 0) 3
      let ia ← objectIa (vs.headD 0) f.sub.toNat 64 64 .a
      lsCheck .plain off len
      match rankTask s ia rank with
      | none => trap fcGroupMisuse (groupInfo rank 3)
      | some t =>
        let r := t.rings[ring]
        ensure r.en fcRingMisuse (ringInfo ring.val 1)
        ensure (decide (len ≤ ringSlotBytes r.cfg)) fcRingMisuse (ringInfo ring.val 2)
        lsClean off len
        if ¬ writesPerformed s.task (scopeTo s (some t)) then block .fence
        modS (modCur (fun t => { t with sendS := t.sendS ++
          [.rrput ⟨t.tid, ia, BitVec.ofNat 16 rank, ring, s.task.lsRead off len, f.ssem, f.sinc.toNat, s.pkg, t.core⟩] }))
        holdServed w .reply) s

/-- A target's ring can take a put now: enabled, slot TAIL free and large enough. -/
def putFits (t : Task) (m : RrputMsg) : Bool :=
  t.rings[m.ring].claimable && decide (m.data.length ≤ ringSlotBytes t.rings[m.ring].cfg)

/-- RRPUT_FILL_APPLY (R301, R366, R429, R454, R467): claim, bytes, FULL, signal, event; it waits while slot TAIL is
locked, and one that meets a vacant rank, or that no circuit takes there, is dropped with a record. -/
def execRrputFillApply (m : RrputMsg) (s : State) : Host.Outcome State Fault Refusal :=
  occur (fun s =>
    match rankTask s m.group m.rank.toNat with
    | none => vacantRecord m.src 3 m.group m.rank (popSendS m.src (.rrput m) s)
    | some t => overLink (s.pkgOf t.tid) (fun s => cutRecord m.src 3 m.group m.rank (popSendS m.src (.rrput m) s)) (fun s =>
      if putFits t m then
        let s := popSendS m.src (.rrput m) s
        let off := t.rings[m.ring].slotAt t.rings[m.ring].tail
        let s := refreshArea t.tid (modTask t.tid (fun t => (t.lsWrite off m.data).modRing m.ring (fun r => r.claim.setFull r.tail)) s)
        let s := agentSignal { mkind := 0, unit := 0, addr := BitVec.ofNat 64 m.group, rank := m.rank.toNat, stream := 3 }
          m.src t.tid m.sem m.inc s
        pushEventTo t.tid .remote (remoteEvent m.spkg m.score off (m.data.length / 256) (some m.ring)) s
      else s) s) s

/-- SFLUSH: the dirty lines of a mapping that meet the range are written back; it retires once those writes are
acknowledged or logged (R302, R441). -/
def execSflush (f : RSys) (s : State) : Host.Outcome State Fault Refusal :=
  issue 0xE1 f.pred (sysCheck { d := .unused, a := .src, b := .src, c := .src, sub := fun x => x == 0#8 } f) (do
    let s ← getS
    if s.strm.await.isSome then
      let done ← awaitWrites [] s.task.unacked
      pure (if done then .seq else .hold .fence)
    else
    let vs ← heldSources [f.a, f.b, f.c]
    let a := (vs.headD 0).toNat
    let b := (vs.getD 1 0).toNat
    let c := (vs.getD 2 0).toNat
    match s.task.stash.find? (fun m => m.num == a) with
    | none => badValue 2
    | some m =>
      let lo := if c = 0 then 0 else b
      let n := if c = 0 then m.len else c
      ensureValue (decide (lo < m.len)) 3
      ensureValue (decide (lo + n ≤ m.len)) 4
      let lines := (s.task.dirtyLines (fun _ => true)).filter (fun x => x.1.num == a && decide (x.2 < lo + n) && decide (lo < x.2 + 128))
      let ids ← lines.mapM (fun x => writeBackLine s.task.tid x.1 x.2)
      let s ← getS
      let done ← awaitWrites ids s.task.unacked
      pure (if done then .seq else .hold .fence)) s

/-- The acknowledgement that a write event returns to the stream that asked (R114). -/
def ackTo (by_ : Requester) (ia : Nat) (word : BitVec 64) (s : State) : State :=
  match by_ with
  | .stream tid .s => ownAck tid ia word false s
  | _ => s

/-- HOME_SLICE_WRITE: bytes applied at their home slices, one write event a line (R89, R111, R114). -/
def execHomeSliceWrite (by_ : Requester) (ia : Nat) (data : List (BitVec 8)) (s : State) : Host.Outcome State Fault Refusal :=
  finishEvent s ((do
    let tags ← writeIa by_ ia data
    modS (fun s => tags.foldl (fun (s : State) (x : Nat × BitVec 64) => ackTo by_ x.1 x.2 s) s)) s)

/-- HOME_SLICE_READ: a read event, which recalls stash copies and counts for placement (R92, R104, R111). -/
def execHomeSliceRead (by_ : Requester) (ia len : Nat) (s : State) : Host.Outcome State Fault Refusal :=
  finishEvent s ((do
    let _ ← readIa by_ ia len
    pure ()) s)

/-- HOME_SLICE_ATOMIC (R297): a size other than 4 or 8, an unaligned element, or an operation that does not
belong to the operand's kind changes nothing (log 14). -/
def execHomeSliceAtomic (by_ : Requester) (ia : Nat) (opk : BitVec 4) (size : Nat) (isFloat : Bool)
    (operand expected : BitVec 64) (s : State) : Host.Outcome State Fault Refusal :=
  if (size = 4 ∨ size = 8) ∧ ia % size = 0 ∧ opk.toNat ≤ 0xC ∧ (isFloat = true → 0xA ≤ opk.toNat ∨ opk = 8#4)
      ∧ (isFloat = false → opk.toNat < 0xA) then
    finishEvent s ((do
      let r ← atomicAt by_ ia opk size operand.toNat expected.toNat
      modS (ackTo by_ ia r.2)) s)
  else .next s

/-- Whether an acknowledgement can be delivered: the lower parts of its instruction are reported, and q8 has an entry
for its word (R114). -/
def Task.ackReady (t : Task) (a : Ack) : Bool :=
  a.after.all (fun n => !(t.openWrites 3#2).contains n) && (!a.tag || !t.queueFull 8)

/-- ACKNOWLEDGEMENT_ARRIVAL: the oldest acknowledgement of a task that can be delivered arrives; with TAG its word is
pushed into q8, and while q8 is full it is held (R114). -/
def execAcknowledgementArrival (tid : Nat) (s : State) : Host.Outcome State Fault Refusal :=
  occur (modTask tid (fun t => match t.acks.find? t.ackReady with
    | none => t
    | some a =>
      let t := { t with acks := t.acks.erase a }
      if a.tag then t.pushQ 8 (a.word.setWidth 2048) else t)) s

/-- STASH_FILL: the line of a mapping that an LS offset touches is fetched (R103). -/
def execStashFill (tid : Nat) (off : Nat) (s : State) : Host.Outcome State Fault Refusal :=
  match (getTask? s tid).bind (fun t => t.stashAt off) with
  | some m =>
    let line := (off - m.lsOff) / 128 * 128
    if m.lines.any (fun l => l.off == line) then .next s else finishEvent s (fillStash tid m line s)
  | none => .next s

/-- STASH_RECALL: the stash copies of a line are recalled or invalidated (R104). -/
def execStashRecall (ia : Nat) (isWrite : Bool) (s : State) : Host.Outcome State Fault Refusal :=
  finishEvent s (recallLine (lineOf ia) isWrite none s)

end Sys2Proof.Machine
end

