-- ==== Sys2Proof/Machine/Sketches.lean ====
section
/-! DEFINITION. S stream: count sketches, the update stage, and the step gate (11 R303 to R314). -/

namespace Sys2Proof.Machine

/-- SK.SEED, SK.LOGW, SK.SCALE, SK.ROWS and SK.BASE of a sketch descriptor (Table 11.3). -/
def skSeed (x : Nat) : BitVec 64 := BitVec.ofNat 64 (bits x 128 64)
def skLogw (x : Nat) : Nat := bits x 68 5
def skScale (x : Nat) : Int := sxInt 7 (bits x 73 7)
def skRows (x : Nat) : Nat := bits x 64 4
def skBase (x : Nat) : Nat := bits x 0 58

/-- The hash of an index in a row (R304). -/
def skHash (x : Nat) (idx : BitVec 64) (row : Nat) : BitVec 64 :=
  mix64 (idx ^^^ mix64 (skSeed x + BitVec.ofNat 64 row * 0x9E3779B97F4A7C15#64))

/-- The bucket and the sign of an index in a row (R304). -/
def skBucket (x : Nat) (idx : BitVec 64) (row : Nat) : Nat := (skHash x idx row).toNat / 2 ^ (64 - skLogw x)
def skNegative (x : Nat) (idx : BitVec 64) (row : Nat) : Bool := (skHash x idx row).getLsbD 0

/-- The IA of a counter (R303). -/
def skCounter (x row bucket : Nat) : Nat := skBase x + 4 * (row * 2 ^ skLogw x + bucket)

/-- One counter update at its home slice: a reduction with saturation, which sets SAT (R306). -/
def sketchApply (by_ : Requester) (obj : BitVec 16) (x row bucket : Nat) (inc : Int) : M Unit := do
  let r ← updateLine by_ (span (skCounter x row bucket) 4) (fun old =>
    let c := satCounter (sxInt 32 (bytesNat old)) inc
    (natBytes 4 (wrapN 32 c.1), c.2))
  if r.2 then modS (setSketchSat obj true) else pure ()

/-- SKETCH_UPDATE_APPLY: an update of a counter that a valid sketch has; another changes nothing (R303, R306; log 14). -/
def execSketchUpdateApply (obj : BitVec 16) (row bucket : Nat) (inc : Int) (s : State) : Host.Outcome State Fault Refusal :=
  let e := objEntry s obj
  let x := e.2.toNat
  if e.1 = 5 ∧ sketchOk x = true ∧ row < skRows x ∧ bucket < 2 ^ skLogw x then
    finishEvent s (sketchApply .quay obj x row bucket inc s)
  else .next s

/-- UPD and RD of a descriptor (Table 11.3). -/
def skUpd (x : Nat) : Bool := bitN x 81
def skRd (x : Nat) : Bool := bitN x 80

/-- The signal of SKUPD, SKADD and SKCLR, applied once every update has been (R306, R308, R429). -/
def sketchSignal (f : EForm) : M Unit :=
  modS (fun s => agentSignal { mkind := 6, unit := 0, stream := 3 } s.task.tid s.task.tid f.ssem f.sinc.toNat s)

/-- The elements of SKUPD and SKQRY: the value or result offset, and the indices in order (R305). -/
def sketchElems (f : EForm) : M (Nat × List (BitVec 64)) := do
  let a ← readSrc f.a
  let b ← readSrc f.b
  let off := bits a.toNat 0 21
  let ioff := bits a.toNat 32 21
  let n := bits b.toNat 0 17
  let idx := f.sub.getLsbD 0
  ensureValue (bits a.toNat 21 11 == 0 && bits a.toNat 53 11 == 0 && off % 4 == 0 && ioff % 8 == 0 && (idx || ioff == 0)) 2
  ensureValue (bits b.toNat 17 15 == 0 && decide (1 ≤ n) && decide (n ≤ 65536)) 3
  lsChecks ((.noStash, off, 4 * n) :: if idx then [(.noStash, ioff, 8 * n)] else [])
  if idx then
    lsClean ioff (8 * n)
    let s ← getS
    pure (off, (bytesElems 8 n (s.task.lsRead ioff (8 * n))).map (BitVec.ofNat 64))
  else pure (off, (List.range n).map (fun e => BitVec.ofNat 64 (bits b.toNat 32 32 + e)))

/-- The rule of SKUPD and SKQRY. -/
def sketchRule : ERule := { a := .src, b := .src, sub := fun x => decide (x.toNat < 2), wait := true, sig := true, obj := true }

/-- The increment of a value in a row: none for a NaN (R306). -/
def sketchInc (x : Nat) (neg : Bool) (v : FVal) : Option Int :=
  match v with
  | .nan _ => none
  | .inf n => some (if n != neg then -(2 ^ 63 : Nat) else (2 ^ 63 : Nat))
  | .fin n m e st => some (roundInt .rne (n != neg) m (e - skScale x) st).1

/-- One element of SKUPD: every row in ascending order (R306). -/
def sketchElem (obj : BitVec 16) (x : Nat) (idx : BitVec 64) (v : FVal) : M Unit := do
  if v.isNan then
    modS (setSketchSat obj true)
    raise FlagSet.onlyNv
  else
    for row in List.range (skRows x) do
      let s ← getS
      sketchApply s.self obj x row (skBucket x idx row) ((sketchInc x (skNegative x idx row) v).getD 0)

/-- SKUPD (R305, R306). -/
def execSkupd (f : EForm) (s : State) : Host.Outcome State Fault Refusal :=
  issue 0xD9 f.pred (eCheck sketchRule f) (do
    gate [f.a, f.b] []
    gateWait (waitOf f.wmode f.wsem f.wthr)
    let x ← useObj f.obj 5 sketchOk skUpd
    let r ← sketchElems f
    lsClean r.1 (4 * r.2.length)
    let s ← getS
    let vs := (bytesElems 4 r.2.length (s.task.lsRead r.1 (4 * r.2.length))).map (fdecode fmtF32)
    for p in r.2.zip vs do
      sketchElem f.obj x p.1 p.2
    sketchSignal f
    pure .seq) s

/-- The middle element of an odd number of integers. -/
def median (xs : List Int) : Int := (xs.mergeSort (· ≤ ·)).getD (xs.length / 2) 0

/-- The estimate of an index (R307). -/
def sketchEst (x : Nat) (idx : BitVec 64) : M Int := do
  let s ← getS
  let cs ← (List.range (skRows x)).mapM (fun row => do
    let bs ← readLine s.self (span (skCounter x row (skBucket x idx row)) 4)
    let c := sxInt 32 (bytesNat bs)
    pure (if skNegative x idx row then -c else c))
  pure (median cs)

/-- SKQRY (R305, R307). -/
def execSkqry (f : EForm) (s : State) : Host.Outcome State Fault Refusal :=
  issue 0xDA f.pred (eCheck sketchRule f) (do
    gate [f.a, f.b] []
    gateWait (waitOf f.wmode f.wsem f.wthr)
    let x ← useObj f.obj 5 sketchOk skRd
    let r ← sketchElems f
    let es ← r.2.mapM (sketchEst x)
    let fs : List (Nat × FlagSet) := es.map (fun e => fround fmtF32 .rne (ofScaled e (skScale x) false))
    raise (fs.foldl (fun (a : FlagSet) (b : Nat × FlagSet) => a.or b.2) FlagSet.none)
    modS (modCur (fun t => t.lsWrite r.1 (elemsBytes 4 (fs.map Prod.fst))))
    ownSignal f.ssem f.sinc.toNat) s

/-- The counters of a sketch in the order of their rows and buckets. -/
def sketchPlaces (x : Nat) : List (Nat × Nat) :=
  (List.range (skRows x)).flatMap (fun row => (List.range (2 ^ skLogw x)).map (fun b => (row, b)))

/-- SKADD (R308): the source's counters are read as they stand when the word issues. -/
def execSkadd (f : EForm) (s : State) : Host.Outcome State Fault Refusal :=
  issue 0xDB f.pred (eCheck { sketchRule with b := .unused, sub := fun x => x == 0#4 } f) (do
    gate [f.a] []
    gateWait (waitOf f.wmode f.wsem f.wthr)
    let x ← useObj f.obj 5 sketchOk skUpd
    let a ← readSrc f.a
    let src : BitVec 16 := a.setWidth 16
    let y ← useObj src 5 sketchOk skRd
    ensureValue (bits a.toNat 16 48 == 0) 2
    ensure (sketchGeom y == sketchGeom x) fcSketchMismatch (src.setWidth 32)
    let s ← getS
    let cs ← readSketch s.self y
    for p in (sketchPlaces x).zip cs do
      sketchApply s.self f.obj x p.1.1 p.1.2 p.2
    if bitN y 127 then modS (setSketchSat f.obj true) else pure ()
    sketchSignal f
    pure .seq) s

/-- SKCLR (R308). -/
def execSkclr (f : EForm) (s : State) : Host.Outcome State Fault Refusal :=
  issue 0xDC f.pred (eCheck { sketchRule with a := .unused, b := .unused, sub := fun x => x == 0#4 } f) (do
    gateWait (waitOf f.wmode f.wsem f.wthr)
    let x ← useObj f.obj 5 sketchOk skUpd
    let s ← getS
    let _ ← writeIa s.self (skBase x) (List.replicate (4 * sketchCount x) 0)
    modS (setSketchSat f.obj false)
    sketchSignal f
    pure .seq) s

/-- SKSTAT (R309). -/
def execSkstat (f : RSys) (s : State) : Host.Outcome State Fault Refusal :=
  issue 0xE3 f.pred (sysCheck { nopRule with d := .dst, sub := fun x => decide (x.toNat < 2), imm := objImm } f) (do
    gate [] [f.d]
    let x ← useObj (f.imm.setWidth 16) 5 sketchOk skRd
    writeDst f.d (BitVec.ofNat 64 (bits x 64 64))
    if f.sub = 1#8 then modS (setSketchSat (f.imm.setWidth 16) false) else pure ()
    pure .seq) s

/-- n bytes the manual leaves undefined (R12; log 9). -/
def freeBytes (n : Nat) : M (List (BitVec 8)) := fun s =>
  .ok ((List.range n).map (fun i => Config.freeByte (s.free + i)), { s with free := s.free + n })

/-- Whether two ranges share a byte. -/
def overlaps (a n b m : Nat) : Bool := decide (a < b + m) && decide (b < a + n) && n != 0 && m != 0

/-- A UOP function's use of B and of C; none for a code it does not define (Table 11.4). -/
def uopUses (fn : Nat) : Option (Bool × Bool) :=
  match fn with
  | 1 | 2 | 5 | 6 => some (true, false)
  | 3 | 7 => some (true, true)
  | 4 => some (false, false)
  | _ => none

/-- The exact result of a UOP function (Table 11.4). -/
def uopE (fn : Nat) (rdn : Bool) (a b c : FVal) : FVal × FlagSet :=
  match fn with
  | 1 => faddE rdn a b
  | 2 => fmulE a b
  | 3 => fmaE rdn a b c
  | 4 => frsqrtE a
  | 5 => fminmax false a b
  | 6 => fminmax true a b
  | _ =>
    let x := fminmax true a b
    let y := fminmax false x.1 c
    (y.1, x.2.or y.2)

/-- The decode checks of UOP and UCVT: the uses of the operands, the types, the functions, and n. -/
def updCheck (d a b c : Use) (ty : Bool) (sub : Bool) (f : RAlu) (s : State) : Option (BitVec 32) :=
  firstBroken [
    (d.ok s f.d, 1), (a.ok s f.a, 2), (b.ok s f.b, 3), (c.ok s f.c, 4), (ty, 8), (sub, 9),
    (rmFieldOk true f.rm f.rbm1, 0xA), (!f.sat && !f.immb, 0xB),
    (bits f.imm.toNat 17 15 == 0 && decide (1 ≤ f.imm.toNat) && decide (f.imm.toNat ≤ 65536), 0xC),
    (b.blank f.b, 3), (c.blank f.c, 4)]

/-- The use of an operand of UOP. -/
def uopUse (used scalar : Bool) : Use := if used then (if scalar then .src else .greg) else .unused

/-- The elements of a UOP operand: an array of the local store, or a scalar (R310). -/
def uopOperand (used scalar : Bool) (x : BitVec 64) (ty : BitVec 5) (n : Nat) : M (List FVal) := do
  let fm := floatFmt ty.toNat
  let z := tyBytes ty.toNat
  if ¬ used then pure (List.replicate n (.nan false))
  else if scalar then pure (List.replicate n (readF fm x))
  else
    let bs ← lsLoad x.toNat (z * n)
    pure ((bytesElems z n bs).map (fdecode fm))

/-- The mode of element e of a UOP or UCVT (R310). -/
def updMode (sel : Nat × Nat) (st : BitVec 64) (width e : Nat) : RMode := modeOf sel st (e % 64) (e / 64 % 4) width

/-- Results written at D with their flags, or free bytes where D overlaps a source wrongly (R12, R310). -/
def updWrite (bad : Bool) (d z : Nat) (rs : List (Nat × FlagSet)) : M Unit := do
  if bad then
    let bs ← freeBytes (z * rs.length)
    lsStore d bs
  else
    raise (rs.foldl (fun (a : FlagSet) (b : Nat × FlagSet) => a.or b.2) FlagSet.none)
    lsStore d (elemsBytes z (rs.map Prod.fst))

/-- UOP (R310). -/
def execUop (f : RAlu) (s : State) : Host.Outcome State Fault Refusal :=
  let fn := f.sub.toNat % 64
  let uses := (uopUses fn).getD (false, false)
  let sb := f.sub.getLsbD 6
  let sc := f.sub.getLsbD 7
  issue 0xDD f.pred (updCheck .greg .greg (uopUse uses.1 sb) (uopUse uses.2 sc) (scalarFloatTy f.ty)
      ((uopUses fn).isSome && (uses.1 || !sb) && (uses.2 || !sc)) f) (do
    gate ((if uses.1 then [f.b] else []) ++ (if uses.2 then [f.c] else [])) []
    let s0 ← getS
    let n := f.imm.toNat
    let z := tyBytes f.ty.toNat
    let d ← readSrc f.d
    let a ← readSrc f.a
    let b ← readSrc f.b
    let c ← readSrc f.c
    let lsB : Bool := uses.1 && !sb
    let lsC : Bool := uses.2 && !sc
    ensureValue (d.toNat % z == 0) 1
    ensureValue (a.toNat % z == 0) 2
    ensureValue (!lsB || b.toNat % z == 0) 3
    ensureValue (!lsC || c.toNat % z == 0) 4
    let arrays : List (BitVec 64) := [a] ++ (if lsB then [b] else []) ++ (if lsC then [c] else [])
    lsChecks ((arrays ++ [d]).map (fun x => (.any, x.toNat, z * n)))
    let as ← uopOperand true false a f.ty n
    let bs ← uopOperand uses.1 sb b f.ty n
    let cs ← uopOperand uses.2 sc c f.ty n
    let sel := roundSel s0 f.rm f.rbm1
    let st ← advanceSeed sel
    let fm := floatFmt f.ty.toNat
    let rs : List (Nat × FlagSet) := ((List.range n).zip (as.zip (bs.zip cs))).map (fun (x : Nat × FVal × FVal × FVal) =>
      let mode := updMode sel st fm.width x.1
      let e := uopE fn (mode == .rdn) x.2.1 x.2.2.1 x.2.2.2
      let r := fround fm mode e.1
      (r.1, e.2.or r.2))
    let bad := arrays.any (fun x => x != d && overlaps d.toNat (z * n) x.toNat (z * n))
    updWrite bad d.toNat z rs
    pure .seq) s

/-- The types of a UCVT pair: F, .e4m3 and .e5m2 among themselves, F to integers and back (R311). -/
def ucvtPair (src dst : Nat) : Bool :=
  let fl (t : Nat) : Bool := decide (8 ≤ t) && decide (t ≤ 0xB)
  let f8 (t : Nat) : Bool := decide (8 ≤ t) && decide (t ≤ 0xD)
  (f8 src && f8 dst) || (fl src && decide (dst < 8)) || (decide (src < 8) && fl dst)

/-- One element of UCVT (R75, R77, R311). -/
def ucvtElem (t src : BitVec 5) (mode : RMode) (x : Nat) : Nat × FlagSet :=
  let r := fcvtResult t src false mode (BitVec.ofNat 64 x)
  (r.1.toNat, r.2)

/-- UCVT (R311). -/
def execUcvt (f : RAlu) (s : State) : Host.Outcome State Fault Refusal :=
  issue 0xDE f.pred (updCheck .greg .greg .unused .unused (decide (f.ty.toNat ≤ 0x11))
      (decide (f.sub.toNat < 32) && ucvtPair f.sub.toNat f.ty.toNat) f) (do
    let s0 ← getS
    let n := f.imm.toNat
    let src : BitVec 5 := f.sub.setWidth 5
    let zs := tyBytes src.toNat
    let zd := tyBytes f.ty.toNat
    let d ← readSrc f.d
    let a ← readSrc f.a
    ensureValue (d.toNat % zd == 0) 1
    ensureValue (a.toNat % zs == 0) 2
    lsChecks [(.any, a.toNat, zs * n), (.any, d.toNat, zd * n)]
    let bs ← lsLoad a.toNat (zs * n)
    let sel := roundSel s0 f.rm f.rbm1
    let st ← advanceSeed sel
    let rs : List (Nat × FlagSet) := ((List.range n).zip (bytesElems zs n bs)).map (fun (x : Nat × Nat) =>
      ucvtElem f.ty src (updMode sel st (8 * zd) x.1) x.2)
    updWrite (overlaps d.toNat (zd * n) a.toNat (zs * n) && !(d == a && zd == zs)) d.toNat zd rs
    pure .seq) s

/-- A word of a step gate (Table 11.5). -/
def gateWord (by_ : Requester) (ia n : Nat) : M Nat := do
  let bs ← atHome by_ ia (fun b => readEvent false b (span (ia + 8 * n) 8))
  pure (bytesNat bs)

/-- The status word of a decision (R314). -/
def gateStatus (w1 code : Nat) : BitVec 64 := BitVec.ofNat 64 (bits w1 0 32 * 2 ^ 32 + 4 * b2n (bitN w1 32) + code)

/-- The decision of a step, taken when a request is held and every shard has reported: one step of the
gate line's order, answered to every request held there (R314). -/
def gateDecide (by_ : Requester) (ia : Nat) : M Unit := do
  let s ← getS
  if s.commits.any (fun c => c.gate == ia && c.reply.isNone) then
    let w0 ← gateWord by_ ia 0
    let w1 ← gateWord by_ ia 1
    if bits w0 32 16 ≤ bits w0 0 32 then
      let withheld := bitN w0 48
      let active := bitN w1 32
      let new1 := (bits w1 0 32 + 1) % 2 ^ 32 + 2 ^ 32 * b2n (if withheld then active else !active)
        + 2 ^ 33 * (if withheld then 2 else 1)
      let other ← gateWord by_ ia (if active then 2 else 3)
      let size ← gateWord by_ ia 4
      if withheld then
        let _ ← discardRange other size
      else pure ()
      let _ ← writeLine by_ (atAddr ia (natBytes 16 (bits w0 32 16 * 2 ^ 32 + 2 ^ 64 * new1)))
      modS (fun s => { s with commits := s.commits.map (fun c =>
        if c.gate = ia ∧ c.reply = none then { c with reply := some (gateStatus new1 (bits new1 33 2)) } else c) })
    else pure ()
  else pure ()

/-- A report at the gate's home slice: one atomic, after which a held request may decide (R313, R314). -/
def gateReport (by_ : Requester) (ia : Nat) (nonfinite : Bool) : M Unit := do
  let _ ← updateLine by_ (span ia 8) (fun old =>
    let w0 := bytesNat old
    (natBytes 8 ((bits w0 0 32 + 1) % 2 ^ 32 + 2 ^ 32 * bits w0 32 16 + 2 ^ 48 * b2n (nonfinite || bitN w0 48)
      + 2 ^ 49 * bits w0 49 15), ()))
  atHome by_ ia (fun b => gateDecide b ia)

/-- GATE_REPORT (R313); a line that is not aligned to 64 names no gate (log 14). -/
def execGateReport (by_ : Requester) (ia : Nat) (nonfinite : Bool) (s : State) : Host.Outcome State Fault Refusal :=
  if ia % 64 = 0 then finishEvent s (gateReport by_ ia nonfinite s) else .next s

/-- Whether a pattern is a NaN or ±∞. -/
def isNonfinite (fm : Fmt) (x : Nat) : Bool :=
  match fdecode fm x with
  | .fin _ _ _ _ => false
  | _ => true

/-- NFCHK (R313): its report is a release at .sys, and the word retires with its acknowledgement. -/
def execNfchk (f : EForm) (s : State) : Host.Outcome State Fault Refusal :=
  issue 0xDF f.pred (eCheck { sketchRule with sub := fun x => decide (x.toNat < 8), obj := false } f) (do
    gate [f.a, f.b] []
    gateLog
    gateWait (waitOf f.wmode f.wsem f.wthr)
    gateRelease 3#2
    let va ← readSrc f.a
    let b ← readSrc f.b
    let off := bits b.toNat 0 21
    let n := bits b.toNat 32 20
    let ty := bits b.toNat 56 5
    ensureValue (va.toNat % 64 == 0) 2
    ensureValue (bits b.toNat 21 11 == 0 && bits b.toNat 52 4 == 0 && bits b.toNat 61 3 == 0 && n != 0
      && scalarFloatTy (BitVec.ofNat 5 ty)) 3
    let ia ← objectIa va f.sub.toNat 64 64 .a
    let z := tyBytes ty
    lsCheck .any off (z * n)
    let bs ← lsLoad off (z * n)
    let s ← getS
    gateReport s.self ia ((bytesElems z n bs).any (isNonfinite (floatFmt ty)))
    modS (fun s => l1DropLines s.task.core [lineOf ia] s)
    ownSignal f.ssem f.sinc.toNat) s

/-- SCOMMIT retires with its reply: an acquire at .sys, the status in B, and the signal only for COMMITTED (R314). -/
def finishCommit (f : EForm) (reply : BitVec 64) : M Flow := do
  modS (modStrm (fun r => { r with semw := none }))
  writeDst f.b reply
  modS (acquireAt 3#2)
  if reply.toNat % 4 = 1 then ownSignal f.ssem f.sinc.toNat else pure .seq

/-- A task's request held at a gate, on whichever package that is. -/
def commitOf (s : State) (tid : Nat) : Option HeldCommit :=
  (s.packs.flatMap (fun p => p.commits)).find? (fun c => c.tid == tid)

/-- A held request taken from its gate. -/
def dropCommit (c : HeldCommit) (s : State) : State := mapPacks (fun p => { p with commits := p.commits.erase c }) s

/-- A request at the gate's home slice, in one step of the gate line's order (R314): the answer given at once; none
while the request is held. -/
def gateRequest (by_ : Requester) (tid ia step : Nat) : M (Option (BitVec 64)) := do
  recallLine (lineOf ia) true none
  let w0 ← gateWord by_ ia 0
  let w1 ← gateWord by_ ia 1
  let b0 ← gateWord by_ ia 2
  let b1 ← gateWord by_ ia 3
  let size ← gateWord by_ ia 4
  ensureValue (bits w0 32 16 != 0 && b0 % 65536 == 0 && b1 % 65536 == 0 && size % 65536 == 0) 2
  let gen := bits w1 0 32
  if (step + 1) % 2 ^ 32 = gen then pure (some (gateStatus w1 (bits w1 33 2)))
  else if step ≠ gen then pure (some (gateStatus w1 3))
  else
    modS (fun s => { s with commits := s.commits ++ [⟨ia, tid, none⟩] })
    gateDecide by_ ia
    pure none

/-- SCOMMIT (R314). -/
def execScommit (f : EForm) (s : State) : Host.Outcome State Fault Refusal :=
  issue 0xE0 f.pred (eCheck { sketchRule with b := .greg, sub := fun x => decide (x.toNat < 8), obj := false } f) (do
    let vs ← heldSources [f.a, f.b]
    let s ← getS
    let w := waitOf f.wmode f.wsem f.wthr
    let answer ← match commitOf s s.task.tid with
      | some _ => pure none
      | none => do
        gateWait w
        let ia ← objectIa (vs.headD 0) f.sub.toNat 64 64 .a
        atHome s.self ia (fun b => gateRequest b s.task.tid ia ((vs.getD 1 0).toNat % 2 ^ 32))
    let s ← getS
    match answer, commitOf s s.task.tid with
    | some r, _ => finishCommit f r
    | none, some c =>
      match c.reply with
      | some r =>
        modS (dropCommit c)
        finishCommit f r
      | none => if s.strm.wait = some .gate then pure (.hold .gate) else holdServed w .gate
    | none, none => pure (.hold .gate)) s

end Sys2Proof.Machine
end

