-- ==== Sys2Proof/Machine/Reference.lean ====
section
/-! DEFINITION. The exact values that Table 09.3 holds the shipped special functions to (09 R254), each to
a relative error far below a unit in the last place of any type, and the bounds of that table. -/

namespace Sys2Proof.Machine

/-- Fractional bits of a fixed-point number. -/
def fxBits : Nat := 1000

/-- 1, in fixed point. -/
def fxOne : Int := ((2 ^ fxBits : Nat) : Int)

/-- The product and the quotient of fixed-point numbers. -/
def fxMul (a b : Int) : Int := a * b / fxOne
def fxDiv (a b : Int) : Int := a * fxOne / b

/-- A finite value in fixed point. -/
def fxOf (v : FVal) : Int :=
  match v with
  | .fin neg m e _ =>
    let k : Int := e + fxBits
    let n : Int := if 0 ≤ k then ((m * 2 ^ k.toNat : Nat) : Int) else ((m / 2 ^ (-k).toNat : Nat) : Int)
    if neg then -n else n
  | _ => 0

/-- The sum of n terms, each got from the one before it and its index. -/
def fxSeries (n : Nat) (first : Int) (next : Nat → Int → Int) : Int :=
  ((List.range n).foldl (fun (acc : Int × Int) i =>
    let t := next i acc.1
    (t, acc.2 + t)) (first, first)).2

/-- e^r, sin r and cos r by their series, for small r. -/
def fxExpSmall (r : Int) : Int := fxSeries 300 fxOne (fun i t => fxMul t r / ((i + 1 : Nat) : Int))
def fxSinSmall (r : Int) : Int :=
  fxSeries 300 r (fun i t => -(fxMul t (fxMul r r)) / (((2 * i + 2) * (2 * i + 3) : Nat) : Int))
def fxCosSmall (r : Int) : Int :=
  fxSeries 300 fxOne (fun i t => -(fxMul t (fxMul r r)) / (((2 * i + 1) * (2 * i + 2) : Nat) : Int))

/-- The odd series Σ s^i·y^(2i+1)/(2i+1): the inverse hyperbolic tangent (s = 1) and the inverse tangent (s = -1). -/
def fxOdd (s y : Int) : Int :=
  ((List.range 400).foldl (fun (acc : Int × Int) i =>
    (s * fxMul acc.1 (fxMul y y), acc.2 + acc.1 / ((2 * i + 1 : Nat) : Int))) (y, 0)).2

/-- ln 2 and π. -/
def fxLn2 : Int := 2 * fxOdd 1 (fxOne / 3)
def fxPi : Int := 16 * fxOdd (-1) (fxOne / 5) - 4 * fxOdd (-1) (fxOne / 239)

/-- A fixed-point number times a power of two, as a value. -/
def fxVal (x k : Int) : FVal := ofScaled x (k - fxBits) false

/-- e^x as a fixed-point number and a power of two. -/
def fxExp (x : Int) : Int × Int :=
  let k := x / fxLn2
  (fxExpSmall (x - k * fxLn2), k)

/-- e^x in fixed point, for x below 400. -/
def fxExpAbs (x : Int) : Int :=
  let r := fxExp x
  if 0 ≤ r.2 then r.1 * ((2 ^ r.2.toNat : Nat) : Int) else r.1 / ((2 ^ (-r.2).toNat : Nat) : Int)

/-- ln of a positive finite value. -/
def fxLog (m : Nat) (e : Int) : Int :=
  let l := Nat.log2 m
  let y := ((m : Int) * fxOne) / ((2 ^ l : Nat) : Int)
  2 * fxOdd 1 (fxDiv (y - fxOne) (y + fxOne)) + (e + l) * fxLn2

/-- The angle x less a multiple of 2π, between -π and π. -/
def fxAngle (x : Int) : Int := x - (x + fxPi) / (2 * fxPi) * (2 * fxPi)

/-- Limited to ±n. -/
def fxLimit (n x : Int) : Int := satInt (-(n * fxOne)) (n * fxOne) x

/-- The hyperbolic tangent, the logistic function and the error function. -/
def fxTanh (x : Int) : Int :=
  let e := fxExpAbs (2 * fxLimit 100 x)
  fxDiv (e - fxOne) (e + fxOne)
def fxSigmoid (x : Int) : Int :=
  let e := fxExpAbs (fxLimit 300 x)
  fxDiv e (fxOne + e)
def fxErf (x : Int) : Int :=
  let z := fxLimit 17 x
  let q := fxMul z z
  let sum := fxSeries 3000 z (fun i t => 2 * fxMul t q / ((2 * i + 3 : Nat) : Int))
  let root : Int := ((fxPi * fxOne).toNat.sqrt : Nat)
  fxDiv (2 * fxMul sum (fxExpAbs (-q))) root

/-- 1/√(m·2^e). -/
def fxRsqrt (m : Nat) (e : Int) : FVal :=
  let odd := e % 2 != 0
  let n := if odd then 2 * m else m
  let h := (if odd then e - 1 else e) / 2
  fxVal ((2 ^ (3 * fxBits) / n).sqrt / 2 ^ (fxBits / 2) : Nat) (-h)

/-- The function of a shipped slot at a finite value (Table 09.3), far closer than any bound of that table. -/
def refFn (slot : Nat) (x : FVal) : FVal :=
  match x with
  | .fin neg m e _ =>
    let v := fxOf x
    match slot with
    | 0 => if 11 < (Nat.log2 m : Int) + e then fxVal fxOne (if neg then -3000 else 3000)
           else (let r := fxExp v; fxVal r.1 r.2)
    | 1 => fxVal (fxLog m e) 0
    | 2 => fxVal (fxSinSmall (fxAngle v)) 0
    | 3 => fxVal (fxCosSmall (fxAngle v)) 0
    | 4 => fxVal (fxTanh v) 0
    | 5 => fxVal (fxSigmoid v) 0
    | 6 => fxVal (fxMul (v / 2) (fxOne + fxErf (fxDiv v (((2 * fxOne * fxOne).toNat.sqrt : Nat) : Int)))) 0
    | 7 => fxVal (fxErf v) 0
    | _ => fxRsqrt m e
  | v => v

/-- Twice the bound of a slot in units in the last place, for .f32, .f64 and the narrower types (Table 09.3). -/
def refBound2 (slot ty : Nat) : Nat :=
  if ty != 9 then 2
  else match slot with
    | 2 | 3 | 7 => 3
    | 4 | 5 => 4
    | 6 => 5
    | _ => 2

/-- A finite value in units of 2^e. -/
def unitsOf (e : Int) (v : FVal) : Int :=
  match v with
  | .fin neg m x _ => let n : Int := ((m * 2 ^ (x - e).toNat : Nat) : Int); if neg then -n else n
  | _ => 0

/-- Whether a result r of a format lies within b2/2 units in the last place of the exact value f (R254); a value
beyond the format's largest has no bound. -/
def inBound (fm : Fmt) (b2 : Nat) (r f : FVal) : Bool :=
  match r, f with
  | _, .nan _ => true
  | _, .inf _ => true
  | .fin _ _ e1 _, .fin _ m2 e2 _ =>
    let q := if m2 = 0 then fm.emin - fm.fb else lastPlace fm m2 e2
    let e := min (min e1 e2) (q - 1)
    cmpMag m2 e2 fm.maxM fm.maxE == .gt
      || decide ((unitsOf e r - unitsOf e f).natAbs ≤ b2 * 2 ^ (q - 1 - e).toNat)
  | _, .fin _ m2 e2 _ => cmpMag m2 e2 fm.maxM fm.maxE == .gt

/-- Whether |x| ≤ 2^n. -/
def magAtMost (n : Nat) (x : FVal) : Bool :=
  match x with
  | .fin _ m e _ => cmpMag m e 1 n != .gt
  | _ => false

/-- Whether a shipped slot may give a result of a type for x (R254, Table 09.3). -/
def shippedMay (slot ty : Nat) (fm : Fmt) (x r : FVal) : Bool :=
  let trig := slot == 2 || slot == 3
  if trig && !magAtMost 20 x then magAtMost 0 r
  else inBound fm (refBound2 slot ty) r (refFn slot x)

end Sys2Proof.Machine
end

