-- ==== Sys2Proof/Machine/VecBase.lean ====
section
/-! DEFINITION. X stream: operands, masks and results of vector instructions, and lane-wise arithmetic,
comparisons, bit operations and conversions (09 R220 to R236). -/

namespace Sys2Proof.Machine

/-- How a vector instruction uses an operand (R221, R222). -/
inductive VUse where
  | none
  | v
  | vo
  | s
  | p
  | vreg
  | vd
  | sd
  | pd
  | or (a b : VUse)
deriving DecidableEq, Repr

/-- A scalar register of a V or S position: g0 to g31, q1, q4 or q11 (R221). -/
def scalarPos (s : State) : Operand → Bool
  | .g _ => true
  | .q n => popOk s n.val
  | _ => false

/-- Whether an operand may stand in its field (R221, R222). -/
def VUse.ok (s : State) (o : Operand) : VUse → Bool
  | .none => specOk s o
  | .v => vsrcOk s o || scalarPos s o
  | .vo => vsrcOk s o
  | .s => scalarPos s o || (match o with | .sp _ => true | _ => false)
  | .p | .pd => match o with | .p _ => true | _ => false
  | .vreg => match o with | .v _ => true | _ => false
  | .vd => match o with | .v _ => true | .q n => n.val == 13 | _ => false
  | .sd => dstOk s o
  | .or a b => VUse.ok s o a || VUse.ok s o b

/-- Width of an element of a TYPE code in a vector register (Table 03.1); 0 for a reserved code. -/
def vWidth (ty : Nat) : Nat :=
  if ty < 8 then 8 * 2 ^ (ty % 4)
  else match ty with
    | 0x8 | 0x10 => 64
    | 0x9 => 32
    | 0xA | 0xB => 16
    | 0xC | 0xD | 0xF => 8
    | 0xE => 4
    | 0x11 => 128
    | _ => 0

/-- The sets of types of Table 09.2. -/
def tyF (t : Nat) : Bool := decide (8 ≤ t) && decide (t ≤ 0xB)
def tyI (t : Nat) : Bool := decide (t < 8)
def tyC (t : Nat) : Bool := t == 0x10 || t == 0x11
def tyAny (t : Nat) : Bool := decide (t ≤ 0x11)
def tyNoMx (t : Nat) : Bool := tyAny t && t != 0xE

/-- Whether a scalar may be broadcast for a type (R221). -/
def canBcast (t : Nat) : Bool := t != 0xE && t != 0x11

/-- The field rules of a V form. -/
structure VRule where
  d : VUse := .vd
  a : VUse
  b : VUse := .none
  c : VUse := .none
  ty  : Nat → Bool
  sub : Nat → Bool := fun x => x == 0
  rm  : Nat → Bool := fun _ => false
  sat : Nat → Bool := fun _ => false
  immb : Bool := false
  imm  : Nat → Bool := fun x => x == 0
  mask : Bool := true
  zm   : Bool := true

/-- A scalar broadcast where the type has none (R221). -/
def badBcast (u : VUse) (ty : Nat) (o : Operand) : Bool :=
  u == .v && !canBcast ty && (match o with | .v _ => false | .q n => n.val != 12 | _ => true)

/-- The decode checks of a V form (R220 to R225, R421 stage 4). -/
def vCheck (r : VRule) (f : VForm) (s : State) : Option (BitVec 32) :=
  let t := f.ty.toNat
  firstBroken [
    (r.d.ok s f.d, 1), (r.a.ok s f.a, 2), (if f.immb then specOk s f.b else r.b.ok s f.b, 3), (r.c.ok s f.c, 4),
    (r.ty t, 8), (r.sub f.sub.toNat, 9), (rmFieldOk (r.rm t) f.rm f.rbm1, 0xA), (r.mask || f.mask == 0#3, 7),
    ((r.sat t || !f.sat) && (r.zm || !f.zm) && (!f.immb || (r.immb && t != 0xE)), 0xB),
    (f.immb || r.imm f.imm.toNat, 0xC),
    (r.d != .none || f.d == .g 0, 1), (r.a != .none || f.a == .g 0, 2),
    ((r.b != .none && !f.immb) || f.b == .g 0, 3), (r.c != .none || f.c == .g 0, 4),
    (!badBcast r.a t f.a, 2), (f.immb || !badBcast r.b t f.b, 3), (!badBcast r.c t f.c, 4)]

/-- Stage 6 of a V form: the queues its operands pop, and the one its destination pushes (R33). -/
def vGate (f : VForm) : M Unit := gate [f.a, f.b, f.c] [f.d]

/-- IMM32 as an element of TYPE (R140, R221, R237). -/
def immElem (ty : Nat) (imm : BitVec 32) : Nat :=
  if tyI ty then wrapN 64 imm.toInt
  else match ty with
    | 0x9 | 0x10 => imm.toNat
    | 0x8 | 0x11 => (fround fmtF64 .rne (fdecode fmtF32 imm.toNat)).1
    | 0xA | 0xB | 0xC | 0xD => (fround (floatFmt ty) .rne (fdecode fmtF32 imm.toNat)).1
    | _ => imm.toNat % 256

/-- The elements of an operand at width w: a vector register, q12 popped, or a scalar broadcast (R221). -/
def readElems (w : Nat) (o : Operand) : M (List Nat) := do
  match o with
  | .v n => do
    let s ← getS
    pure (elems (s.readV n) w)
  | .q n =>
    if n.val = 12 then
      let x ← readVSrc o
      pure (elems x w)
    else
      let x ← readSrc o
      pure (List.replicate (2048 / w) (x.toNat % 2 ^ w))
  | _ =>
    let x ← readSrc o
    pure (List.replicate (2048 / w) (x.toNat % 2 ^ w))

/-- The elements of operand B, or of the immediate that stands for it. -/
def readElemsB (w : Nat) (f : VForm) : M (List Nat) :=
  if f.immb then pure (List.replicate (2048 / w) (immElem f.ty.toNat f.imm % 2 ^ w)) else readElems w f.b

/-- The mask bit that governs element i of width w (R52). -/
def lanePos (w i : Nat) : Nat := if w ≤ 32 then i * w / 32 else i

/-- The sub-position of element i of width w in its lane (R79). -/
def subPos (w i : Nat) : Nat := if w ≤ 32 then i % (32 / w) else 0

/-- Which elements of width w a mask makes active (R52, R223). -/
def activeOf (mask : BitVec 64) (w : Nat) : List Bool := (List.range (2048 / w)).map (fun i => mask.getLsbD (lanePos w i))

/-- The mask of a V form. -/
def State.maskOf (s : State) (f : VForm) : BitVec 64 := s.readP (Fin.ofNat 8 f.mask.toNat)

/-- The elements a destination holds where an instruction does not write them: zero with ZM or for q13, else
their old value (R222, R223). -/
def State.oldElems (s : State) (d : Operand) (zm : Bool) (w : Nat) : List Nat :=
  match d with
  | .v n => if zm then List.replicate (2048 / w) 0 else elems (s.readV n) w
  | _ => List.replicate (2048 / w) 0

/-- A vector result written: `none` where the instruction writes no element (R222, R223). -/
def putElems (f : VForm) (w : Nat) (xs : List (Option Nat)) : M Unit := do
  let s ← getS
  let old := s.oldElems f.d f.zm w
  writeVDst f.d (vecOf w ((xs.zip old).map (fun (x : Option Nat × Nat) => x.1.getD x.2)))

/-- The results of the active elements with their flags, written and raised (R223, R224). -/
def putLanes (f : VForm) (w : Nat) (act : List Bool) (rs : List (Nat × FlagSet)) : M Unit := do
  let xs : List (Option (Nat × FlagSet)) := (act.zip rs).map (fun (x : Bool × (Nat × FlagSet)) => if x.1 then some x.2 else none)
  raise (xs.foldl (fun (a : FlagSet) (x : Option (Nat × FlagSet)) => match x with
    | some r => a.or r.2
    | none => a) FlagSet.none)
  putElems f w (xs.map (fun x => x.map Prod.fst))

/-- The lanes' common frame: the mask, element width, and what rounding draws from. -/
structure LaneCtx where
  w   : Nat
  act : List Bool
  sel : Nat × Nat
  st  : BitVec 64

/-- The context of a V form whose elements have width w; the generator advances when RM is SR (R78, R224). -/
def laneCtx (f : VForm) (w : Nat) : M LaneCtx := do
  let s ← getS
  let sel := roundSel s f.rm f.rbm1
  let st ← advanceSeed sel
  pure ⟨w, activeOf (s.maskOf f) w, sel, st⟩

/-- The rounding of element i, of a result of width rw (R79). -/
def LaneCtx.mode (c : LaneCtx) (rw i : Nat) : RMode := modeOf c.sel c.st (lanePos rw i) (subPos rw i) rw

/-- Triples of elements with their index. -/
def tuples (as bs cs : List Nat) : List (Nat × Nat × Nat × Nat) :=
  (List.range as.length).zip (as.zip (bs.zip cs))

/-- The operands A, B and C of a lane-wise form that uses them. -/
def readAbc (f : VForm) (w : Nat) (ub uc : Bool) : M (List Nat × List Nat × List Nat) := do
  let a ← readElems w f.a
  let b ← if ub then readElemsB w f else pure a
  let c ← if uc then readElems w f.c else pure a
  pure (a, b, c)

/-- One part of a float element computed and rounded. -/
def fPart (fm : Fmt) (mode : RMode) (e : FVal × FlagSet) : Nat × FlagSet :=
  let r := fround fm mode e.1
  (r.1, e.2.or r.2)

/-- The format of a part of a complex type, and its width. -/
def cFmt (ty : Nat) : Fmt := if ty = 0x10 then fmtF32 else fmtF64

/-- The parts of a complex element. -/
def cParts (ty x : Nat) : FVal × FVal :=
  let h := (cFmt ty).width
  (fdecode (cFmt ty) (x % 2 ^ h), fdecode (cFmt ty) (x / 2 ^ h))

/-- A complex element from its rounded parts: the real part draws m = 0, the imaginary part m = 1 (R79, R251). -/
def cPack (c : LaneCtx) (ty i : Nat) (re im : FVal × FlagSet) : Nat × FlagSet :=
  let fm := cFmt ty
  let r := fPart fm (modeOf c.sel c.st i 0 fm.width) re
  let m := fPart fm (modeOf c.sel c.st i 1 fm.width) im
  (r.1 + 2 ^ fm.width * m.1, r.2.or m.2)

/-- What a lane-wise arithmetic instruction computes before rounding or wrapping. -/
structure LaneOp where
  fl  : Bool → FVal → FVal → FVal → FVal × FlagSet
  int : Int → Int → Int → Int

/-- One element of a lane-wise arithmetic instruction (R224, R226). -/
def laneElem (f : VForm) (c : LaneCtx) (op : LaneOp) (x : Nat × Nat × Nat × Nat) : Nat × FlagSet :=
  let t := f.ty.toNat
  if tyI t then
    let v (n : Nat) : Int := intVal f.ty (BitVec.ofNat 64 n)
    let r := intResult f.ty f.sat (op.int (v x.2.1) (v x.2.2.1) (v x.2.2.2))
    (r.1.toNat, r.2)
  else if tyC t then
    let a := cParts t x.2.1
    let b := cParts t x.2.2.1
    let rdn (m : Nat) : Bool := modeOf c.sel c.st x.1 m (cFmt t).width == .rdn
    cPack c t x.1 (op.fl (rdn 0) a.1 b.1 (.nan false)) (op.fl (rdn 1) a.2 b.2 (.nan false))
  else
    let fm := floatFmt t
    let m := c.mode fm.width x.1
    fPart fm m (op.fl (m == .rdn) (fdecode fm x.2.1) (fdecode fm x.2.2.1) (fdecode fm x.2.2.2))

/-- A signalling NaN immediate keeps raising NV where the instruction computes with it (R140, R67). -/
def immSignals (f : VForm) : Bool := f.immb && !tyI f.ty.toNat && (fdecode fmtF32 f.imm.toNat).isSnan

/-- A lane-wise arithmetic instruction (R226). -/
def laneBody (f : VForm) (ub uc : Bool) (op : LaneOp) : M Flow := do
  vGate f
  let w := vWidth f.ty.toNat
  let x ← readAbc f w ub uc
  let c ← laneCtx f w
  if immSignals f && c.act.any id then raise FlagSet.onlyNv
  putLanes f w c.act ((tuples x.1 x.2.1 x.2.2).map (laneElem f c op))
  pure .seq

/-- The operations of two operands on floats or integers. -/
def laneOp2 (fl : Bool → FVal → FVal → FVal × FlagSet) (int : Int → Int → Int) : LaneOp :=
  { fl := fun r a b _ => fl r a b, int := fun a b _ => int a b }

/-- The rule of a two-operand arithmetic form on F, I and, with `c`, C (Table 09.2). -/
def rule2 (c sat rm : Bool) : VRule :=
  { a := .v, b := .v, ty := fun t => tyF t || tyI t || (c && tyC t), immb := true
    sat := fun t => sat && tyI t, rm := fun t => rm && (tyF t || tyC t) }

/-- The rule of a three-operand form. -/
def rule3 (ty : Nat → Bool) (sat rm : Bool) : VRule :=
  { a := .v, b := .v, c := .v, ty := ty, immb := true, sat := fun _ => sat, rm := fun _ => rm }

/-- The rule of a one-operand form. -/
def rule1 (ty : Nat → Bool) (sat rm : Bool) : VRule :=
  { a := .v, ty := ty, sat := fun t => sat && tyI t, rm := fun _ => rm }

/-- The greater and the lesser of two integers. -/
def imax (x y : Int) : Int := if x ≤ y then y else x
def imin (x y : Int) : Int := if x ≤ y then x else y

/-- VADD. -/
def execVadd (f : VForm) (s : State) : Host.Outcome State Fault Refusal :=
  issue 0x80 f.pred (vCheck (rule2 true true true) f) (laneBody f true false (laneOp2 faddE (· + ·))) s

/-- VSUB. -/
def execVsub (f : VForm) (s : State) : Host.Outcome State Fault Refusal :=
  issue 0x81 f.pred (vCheck (rule2 true true true) f)
    (laneBody f true false (laneOp2 (fun r a b => faddE r a b.negate) (· - ·))) s

/-- VMUL. -/
def execVmul (f : VForm) (s : State) : Host.Outcome State Fault Refusal :=
  issue 0x82 f.pred (vCheck (rule2 false true true) f) (laneBody f true false (laneOp2 (fun _ => fmulE) (· * ·))) s

/-- VFMA. -/
def execVfma (f : VForm) (s : State) : Host.Outcome State Fault Refusal :=
  issue 0x83 f.pred (vCheck (rule3 tyF false true) f) (laneBody f true true ⟨fmaE, fun a _ _ => a⟩) s

/-- VFMS. -/
def execVfms (f : VForm) (s : State) : Host.Outcome State Fault Refusal :=
  issue 0x84 f.pred (vCheck (rule3 tyF false true) f)
    (laneBody f true true ⟨fun r a b c => fmaE r a b c.negate, fun a _ _ => a⟩) s

/-- VNEG (R226, R227). -/
def execVneg (f : VForm) (s : State) : Host.Outcome State Fault Refusal :=
  issue 0x85 f.pred (vCheck (rule1 (fun t => tyF t || tyI t || tyC t) true false) f)
    (laneBody f false false ⟨fun _ a _ _ => (a.negate, snanFlag a), fun a _ _ => -a⟩) s

/-- VABS (R226, R227). -/
def execVabs (f : VForm) (s : State) : Host.Outcome State Fault Refusal :=
  issue 0x86 f.pred (vCheck (rule1 (fun t => tyF t || tyI t) true false) f)
    (laneBody f false false ⟨fun _ a _ _ => (a.withSign false, snanFlag a), fun a _ _ => a.natAbs⟩) s

/-- VMIN (R226). -/
def execVmin (f : VForm) (s : State) : Host.Outcome State Fault Refusal :=
  issue 0x87 f.pred (vCheck (rule2 false false false) f) (laneBody f true false (laneOp2 (fun _ => fminmax false) imin)) s

/-- VMAX (R226). -/
def execVmax (f : VForm) (s : State) : Host.Outcome State Fault Refusal :=
  issue 0x88 f.pred (vCheck (rule2 false false false) f) (laneBody f true false (laneOp2 (fun _ => fminmax true) imax)) s

/-- VDIV (R226). -/
def execVdiv (f : VForm) (s : State) : Host.Outcome State Fault Refusal :=
  issue 0x89 f.pred (vCheck { rule2 false false true with ty := tyF } f) (laneBody f true false (laneOp2 (fun _ => fdivE) (· + ·))) s

/-- VSQRT (R226). -/
def execVsqrt (f : VForm) (s : State) : Host.Outcome State Fault Refusal :=
  issue 0x8A f.pred (vCheck (rule1 tyF false true) f) (laneBody f false false ⟨fun _ a _ _ => fsqrtE a, fun a _ _ => a⟩) s

/-- VRCP (R226, R227). -/
def execVrcp (f : VForm) (s : State) : Host.Outcome State Fault Refusal :=
  issue 0x8B f.pred (vCheck (rule1 tyF false true) f)
    (laneBody f false false ⟨fun _ a _ _ => fdivE (.fin false 1 0 false) a, fun a _ _ => a⟩) s

/-- VRSQ (R226, R227). -/
def execVrsq (f : VForm) (s : State) : Host.Outcome State Fault Refusal :=
  issue 0x8C f.pred (vCheck (rule1 tyF false true) f) (laneBody f false false ⟨fun _ a _ _ => frsqrtE a, fun a _ _ => a⟩) s

/-- VMULH (R226). -/
def execVmulh (f : VForm) (s : State) : Host.Outcome State Fault Refusal :=
  issue 0xAF f.pred (vCheck { rule2 false false false with ty := tyI } f)
    (laneBody f true false (laneOp2 (fun _ => fmulE) (fun a b => (a * b) / ((2 ^ vWidth f.ty.toNat : Nat) : Int)))) s

/-- VMADD (R226). -/
def execVmadd (f : VForm) (s : State) : Host.Outcome State Fault Refusal :=
  issue 0xB0 f.pred (vCheck (rule3 tyI true false) f)
    (laneBody f true true ⟨fun _ a _ _ => (a, FlagSet.none), fun a b c => a * b + c⟩) s

/-- VCLAMP (R226, R227). -/
def execVclamp (f : VForm) (s : State) : Host.Outcome State Fault Refusal :=
  issue 0xB7 f.pred (vCheck (rule3 (fun t => tyF t || tyI t) false false) f)
    (laneBody f true true ⟨fun r a b c => uopE 7 r a b c, fun a b c => imin (imax a b) c⟩) s

/-- The bits of a predicate written by a vector instruction: a value for each element of a 32-bit or wider type;
an inactive bit keeps its old value or is zeroed, and bits that govern no element are zero (R52, R228, R249). -/
def putPred (f : VForm) (old : BitVec 64) (act rs : List Bool) : M Unit :=
  let b (i : Nat) (x : Bool × Bool) : Nat := if (if x.1 then x.2 else !f.zm && old.getLsbD i) then 2 ^ i else 0
  let xs := act.zip rs
  writeDst f.d (BitVec.ofNat 64 (((List.range xs.length).zip xs).map (fun (y : Nat × Bool × Bool) => b y.1 y.2)).sum)

/-- The old bits of a predicate destination. -/
def State.oldPred (s : State) (d : Operand) : BitVec 64 := match d with
  | .p n => s.readP n
  | _ => 0

/-- One comparison of VCMP (R164, R170, R228). -/
def vcmpElem (f : VForm) (a b : Nat) : Bool × FlagSet :=
  if tyI f.ty.toNat then
    (condInt f.sub.toNat (intVal f.ty (BitVec.ofNat 64 a)) (intVal f.ty (BitVec.ofNat 64 b)), FlagSet.none)
  else fcond f.sub.toNat (fdecode (floatFmt f.ty.toNat) a) (fdecode (floatFmt f.ty.toNat) b)

/-- Whether a predicate destination suits a type (R228). -/
def cmpTypes (f : VForm) (t : Nat) : Bool :=
  (tyF t || tyI t) && (match f.d with | .p _ => decide (32 ≤ vWidth t) | _ => true)

/-- The condition codes of VCMP (R228). -/
def vcmpSub (f : VForm) (x : Nat) : Bool :=
  (decide (1 ≤ x) && decide (x ≤ 6)) || x == 0xA || x == 0xB || (x == 7 && tyF f.ty.toNat)

/-- VCMP (R228). -/
def execVcmp (f : VForm) (s : State) : Host.Outcome State Fault Refusal :=
  let one := f.sub == 0xA#6 || f.sub == 0xB#6
  issue 0x8D f.pred (vCheck { d := .or .pd .vd, a := .v, b := if one then .none else .v, ty := cmpTypes f
                              sub := vcmpSub f, immb := !one } f) (do
    vGate f
    let s ← getS
    let w := vWidth f.ty.toNat
    let x ← readAbc f w (!one) false
    let act := activeOf (s.maskOf f) w
    if immSignals f && act.any id then raise FlagSet.onlyNv
    let zero := if one ∧ tyF f.ty.toNat then true else false
    let rs : List (Bool × FlagSet) := (x.1.zip x.2.1).map (fun (p : Nat × Nat) =>
      if zero then
        (let r := fcond (if f.sub = 0xA#6 then 1 else 2) (fdecode (floatFmt f.ty.toNat) p.1) (.fin false 0 0 false); r)
      else vcmpElem f p.1 p.2)
    match f.d with
    | .p _ =>
      raise ((act.zip rs).foldl (fun (a : FlagSet) (y : Bool × Bool × FlagSet) => if y.1 then a.or y.2.2 else a) FlagSet.none)
      putPred f (s.oldPred f.d) act (rs.map Prod.fst)
    | _ => putLanes f w act (rs.map (fun (r : Bool × FlagSet) => (if r.1 then 2 ^ w - 1 else 0, r.2)))
    pure .seq) s

/-- VSEL (R229). -/
def execVsel (f : VForm) (s : State) : Host.Outcome State Fault Refusal :=
  issue 0x8E f.pred (vCheck { a := .v, b := .v, c := .or .p .vo, ty := tyAny, immb := true } f) (do
    vGate f
    let s ← getS
    let w := vWidth f.ty.toNat
    let x ← readAbc f w true false
    let sel : List Bool ← match f.c with
      | .p n => pure (activeOf (s.readP n) w)
      | o => do
        let c ← readElems w o
        pure (c.map (fun y => y != 0))
    let act := activeOf (s.maskOf f) w
    putLanes f w act ((sel.zip (x.1.zip x.2.1)).map (fun (y : Bool × Nat × Nat) => (if y.1 then y.2.1 else y.2.2, FlagSet.none)))
    pure .seq) s

/-- A bit operation on elements of width w, three operands at most (R230, R231). -/
def bitBody (f : VForm) (ub uc : Bool) (g : Nat → Nat → Nat → Nat → Nat) : M Flow := do
  vGate f
  let s ← getS
  let w := vWidth f.ty.toNat
  let x ← readAbc f w ub uc
  putLanes f w (activeOf (s.maskOf f) w)
    ((tuples x.1 x.2.1 x.2.2).map (fun (y : Nat × Nat × Nat × Nat) => (g w y.2.1 y.2.2.1 y.2.2.2 % 2 ^ w, FlagSet.none)))
  pure .seq

/-- The rule of a two-operand bit operation. -/
def bitRule2 : VRule := { a := .v, b := .v, ty := tyI, immb := true }

/-- VAND. -/
def execVand (f : VForm) (s : State) : Host.Outcome State Fault Refusal :=
  issue 0x8F f.pred (vCheck bitRule2 f) (bitBody f true false (fun _ a b _ => a &&& b)) s

/-- VOR. -/
def execVor (f : VForm) (s : State) : Host.Outcome State Fault Refusal :=
  issue 0x90 f.pred (vCheck bitRule2 f) (bitBody f true false (fun _ a b _ => a ||| b)) s

/-- VXOR. -/
def execVxor (f : VForm) (s : State) : Host.Outcome State Fault Refusal :=
  issue 0x91 f.pred (vCheck bitRule2 f) (bitBody f true false (fun _ a b _ => a ^^^ b)) s

/-- VANDN: a & ~b. -/
def execVandn (f : VForm) (s : State) : Host.Outcome State Fault Refusal :=
  issue 0x92 f.pred (vCheck bitRule2 f) (bitBody f true false (fun w a b _ => a &&& (2 ^ w - 1 - b))) s

/-- VSHL (R231). -/
def execVshl (f : VForm) (s : State) : Host.Outcome State Fault Refusal :=
  issue 0x93 f.pred (vCheck bitRule2 f) (bitBody f true false (fun w a b _ => a * 2 ^ (b % w))) s

/-- VSHR (R231). -/
def execVshr (f : VForm) (s : State) : Host.Outcome State Fault Refusal :=
  issue 0x94 f.pred (vCheck bitRule2 f) (bitBody f true false (fun w a b _ => a / 2 ^ (b % w))) s

/-- VSAR (R231). -/
def execVsar (f : VForm) (s : State) : Host.Outcome State Fault Refusal :=
  issue 0x95 f.pred (vCheck bitRule2 f)
    (bitBody f true false (fun w a b _ => wrapN w (sxInt w a / ((2 ^ (b % w) : Nat) : Int)))) s

/-- VFSHL: A is the high half (R231). -/
def execVfshl (f : VForm) (s : State) : Host.Outcome State Fault Refusal :=
  issue 0x96 f.pred (vCheck { bitRule2 with c := .v } f)
    (bitBody f true true (fun w a b c => (a * 2 ^ w + b) * 2 ^ (c % w) / 2 ^ w)) s

/-- VFSHR (R231). -/
def execVfshr (f : VForm) (s : State) : Host.Outcome State Fault Refusal :=
  issue 0x97 f.pred (vCheck { bitRule2 with c := .v } f) (bitBody f true true (fun w a b c => (a * 2 ^ w + b) / 2 ^ (c % w))) s

/-- VCLZ (R230). -/
def execVclz (f : VForm) (s : State) : Host.Outcome State Fault Refusal :=
  issue 0x98 f.pred (vCheck (rule1 tyI false false) f) (bitBody f false false (fun w a _ _ => clzN w a)) s

/-- VPOPC (R230). -/
def execVpopc (f : VForm) (s : State) : Host.Outcome State Fault Refusal :=
  issue 0x99 f.pred (vCheck (rule1 tyI false false) f) (bitBody f false false (fun w a _ _ => popcN w a)) s

/-- VSRND (R236): a multiple of 2^k in the same format. -/
def vsrndElem (fm : Fmt) (k : Int) (mode : RMode) (a : FVal) : Nat × FlagSet :=
  match a with
  | .nan _ => (fm.nanBits, snanFlag a)
  | .inf _ => fPart fm .rne (a, FlagSet.none)
  | .fin n m e st =>
    if m = 0 then fPart fm .rne (a, FlagSet.none)
    else
      let r := roundInt mode n m (e - k) st
      let p := fPart fm mode (.fin n r.1.natAbs k false, FlagSet.none)
      (p.1, { p.2 with nx := p.2.nx || !r.2 })

/-- VSRND (R236). -/
def execVsrnd (f : VForm) (s : State) : Host.Outcome State Fault Refusal :=
  issue 0x9B f.pred (vCheck { rule1 tyF false true with imm := fun x => decide (x < 65536) } f) (do
    vGate f
    let fm := floatFmt f.ty.toNat
    let a ← readElems fm.width f.a
    let c ← laneCtx f fm.width
    let k := sxInt 16 f.imm.toNat
    putLanes f fm.width c.act (((List.range a.length).zip a).map (fun (x : Nat × Nat) =>
      vsrndElem fm k (c.mode fm.width x.1) (fdecode fm x.2)))
    pure .seq) s

/-- A float of eight bits or more, or an integer: the types VCVT converts element by element. -/
def tyF8 (t : Nat) : Bool := decide (8 ≤ t) && decide (t ≤ 0xD)

/-- Whether VCVT converts a source type to a destination type (R232). -/
def vcvtPair (s d : Nat) : Bool :=
  ((tyF8 s || tyI s) && (tyF8 d || tyI d)) || (tyC s && tyC d && s != d) || (tyF s && d == 0xE)
    || (s == 0xE && tyF8 d) || ((s == 8 || s == 9) && d == 0xF) || (s == 0xF && tyF d)

/-- One element converted by R75, R77 or wrapping (R232). -/
def cvtElem (d s : Nat) (sat : Bool) (mode : RMode) (x : Nat) : Nat × FlagSet :=
  let r := fcvtResult (BitVec.ofNat 5 d) (BitVec.ofNat 5 s) sat mode (BitVec.ofNat 64 x)
  (r.1.toNat, r.2)

/-- A complex element converted part by part (R232). -/
def cvtComplex (c : LaneCtx) (d s i x : Nat) : Nat × FlagSet :=
  let p := cParts s x
  cPack c d i (p.1, FlagSet.none) (p.2, FlagSet.none)

/-- The value of an E2M1 code under a scale byte (R71). -/
def mxValue (code scale : Nat) : FVal :=
  if scale = 0xFF then .nan false
  else match fdecode fmtE2m1 code with
    | .fin n m e st => .fin n m (e + (scale : Int) - 127) st
    | v => v

/-- A conversion to .e8m0 (R235). -/
def toE8m0 (v : FVal) : Nat × FlagSet :=
  match v with
  | .fin false m e _ =>
    if m = 0 then (0xFF, FlagSet.onlyNv)
    else
      let x : Int := Nat.log2 m + e
      let k := satInt 0 254 (x + 127)
      (k.toNat, { FlagSet.none with nx := !(k == x + 127 && m == 2 ^ Nat.log2 m) })
  | _ => (0xFF, FlagSet.onlyNv)

/-- The value of an .e8m0 code (R71, R235). -/
def e8m0Value (x : Nat) : FVal := if x = 0xFF then .nan false else .fin false 1 ((x : Int) - 127) false

/-- The part of VCVT's placement: how many elements it converts, and whether the source is the wider (R233). -/
def cvtCount (ws wd : Nat) : Nat := 2048 / max ws wd

/-- Elements converted one by one and placed by part (R233): `conv k j x` converts source element x, which goes
to element j of D; `k` numbers the elements of the wider type. -/
def placeParts (f : VForm) (ws wd : Nat) (src : List Nat) (conv : Nat → Nat → Nat → Nat × FlagSet) : M Unit := do
  let s ← getS
  let n := cvtCount ws wd
  let p := f.imm.toNat
  let act := activeOf (s.maskOf f) (max ws wd)
  let rs : List (Option (Nat × FlagSet)) := ((List.range n).zip act).map (fun (x : Nat × Bool) =>
    if x.2 then
      (if wd ≤ ws then some (conv x.1 (p * n + x.1) (src.getD x.1 0)) else some (conv x.1 x.1 (src.getD (p * n + x.1) 0)))
    else none)
  raise (rs.foldl (fun (a : FlagSet) (x : Option (Nat × FlagSet)) => match x with
    | some r => a.or r.2
    | none => a) FlagSet.none)
  let vs := rs.map (fun x => x.map Prod.fst)
  if wd ≤ ws then
    -- outside part p an element keeps its value, and an inactive one inside follows R223
    let keep := s.oldElems f.d false wd
    let inside := (s.oldElems f.d f.zm wd).drop (p * n)
    let mid := (vs.zip inside).map (fun (x : Option Nat × Nat) => x.1.getD x.2)
    writeVDst f.d (vecOf wd (keep.take (p * n) ++ mid ++ keep.drop (p * n + n)))
  else putElems f wd vs

/-- A block of 32 values converted to MXFP4: its scale, its codes and the flags (R72). -/
def toMx (mode : Nat → RMode) (xs : List FVal) : Nat × List (Nat × FlagSet) :=
  let bad := xs.any (fun v => match v with | .fin _ _ _ _ => false | _ => true)
  if bad then (0xFF, xs.map (fun v => (0, snanFlag v)))
  else
    let top : Option Int := xs.foldl (fun a v => match v with
      | .fin _ m e _ => if m = 0 then a else some (max (Nat.log2 m + e) (a.getD (Nat.log2 m + e)))
      | _ => a) none
    let sc : Nat := match top with
      | none => 0
      | some x => (satInt 0 254 (x - 2 + 127)).toNat
    (sc, ((List.range xs.length).zip xs).map (fun (y : Nat × FVal) => match y.2 with
      | .fin n m e st =>
        let r := fround fmtE2m1 (mode y.1) (.fin n m (e - ((sc : Int) - 127)) st)
        (r.1, { r.2 with of := false })
      | _ => (0, FlagSet.none)))

/-- VCVT to .mxf4: codes in part p of D, scales in C, which is written and not read (R234). -/
def vcvtToMx (f : VForm) (src : List Nat) (c : LaneCtx) : M Unit := do
  let fm := floatFmt f.ty.toNat
  let n := 2048 / fm.width
  let p := f.imm.toNat
  let blocks : List (Nat × List (Nat × FlagSet)) := (List.range (n / 32)).map (fun b =>
    toMx (fun j => c.mode 4 (p * n + 32 * b + j)) (((src.drop (32 * b)).take 32).map (fdecode fm)))
  let codes : List (Nat × FlagSet) := blocks.flatMap Prod.snd
  raise (codes.foldl (fun (a : FlagSet) (x : Nat × FlagSet) => a.or x.2) FlagSet.none)
  let s ← getS
  let keep := s.oldElems f.d false 4
  writeVDst f.d (vecOf 4 (keep.take (p * n) ++ codes.map Prod.fst ++ keep.drop (p * n + n)))
  let s ← getS
  match f.c with
  | .v k =>
    let old := elems (s.readV k) 8
    let q := p * n / 32
    modS (writeV k (vecOf 8 (old.take q ++ blocks.map Prod.fst ++ old.drop (q + blocks.length))))
  | _ => pure ()

/-- The expanded value of a packed code of format k (Table 04.4). -/
def expandVal (k code : Nat) : FVal :=
  match k with
  | 0 => FVal.ofInt (sxInt 4 code)
  | 1 => FVal.ofInt (code % 16 : Nat)
  | 2 => fdecode fmtE2m1 (code % 16)
  | 3 => fdecode fmtE2m3 (code % 64)
  | _ => fdecode fmtE3m2 (code % 64)

/-- VCVT's expansion of sub-byte codes (R74, R232, R233); exact, but it converts, so SR advances SEED (R78, R224). -/
def vcvtExpand (f : VForm) : M Unit := do
  let k := f.sub.toNat % 32
  let w := if k < 3 then 4 else 6
  let a ← readVSrc f.a
  let b ← if w = 6 then readVSrc f.b else pure 0
  let both := a.toNat + 2 ^ 2048 * b.toNat
  let s ← getS
  let _ ← advanceSeed (roundSel s f.rm f.rbm1)
  let base := 256 * w * f.imm.toNat
  let fm := if k = 4 then fmtE5m2 else fmtE4m3
  putLanes f 8 (activeOf (s.maskOf f) 8) ((List.range 256).map (fun i =>
    fPart fm .rne (expandVal k (bits both (base + w * i) w), FlagSet.none)))

/-- The uses of B and C in VCVT (R233, R234). -/
def vcvtB (f : VForm) : VUse :=
  if f.sub.getLsbD 5 then (if f.sub.toNat % 32 < 3 then .none else .vo) else if f.ty.toNat = 0xE then .vo else .none
def vcvtC (f : VForm) : VUse := if f.sub = 0xE#6 then .vreg else .none

/-- The part numbers VCVT takes (R233). -/
def vcvtPart (f : VForm) (x : Nat) : Bool :=
  if f.sub.getLsbD 5 then decide (x < 2)
  else decide (x < max (vWidth f.ty.toNat) (vWidth f.sub.toNat) / min (vWidth f.ty.toNat) (vWidth f.sub.toNat))

/-- Types, sub-operations and fields of VCVT (R232 to R235). -/
def vcvtRule (f : VForm) : VRule :=
  let x := f.sub.getLsbD 5
  { a := .vo, b := vcvtB f, c := vcvtC f, ty := fun t => if x then t == 0 else tyAny t
    sub := fun n => if x then decide (n < 0x25) else vcvtPair f.ty.toNat n
    rm := fun _ => f.sub != 0xF#6, sat := fun _ => !x && tyI f.sub.toNat, imm := vcvtPart f, mask := f.sub != 0xE#6 }

/-- VCVT (R232 to R235). -/
def execVcvt (f : VForm) (s : State) : Host.Outcome State Fault Refusal :=
  issue 0x9A f.pred (vCheck (vcvtRule f) f) (do
    vGate f
    let t := f.ty.toNat
    let d := f.sub.toNat
    if f.sub.getLsbD 5 then
      vcvtExpand f
      pure .seq
    else
      let ws := vWidth t
      let wd := vWidth d
      let src ← readElems ws f.a
      let scales ← if t = 0xE then readElems 8 f.b else pure []
      let c ← laneCtx f ws
      if d = 0xE then vcvtToMx f src c
      else placeParts f ws wd src (fun k j x =>
        let fm := floatFmt d
        if tyC t then cvtComplex c d t j x
        else if d = 0xF then toE8m0 (fdecode (floatFmt t) x)
        else if t = 0xF then fPart fm (c.mode wd j) (e8m0Value x, FlagSet.none)
        else if t = 0xE then fPart fm (c.mode wd j) (mxValue x (scales.getD ((f.imm.toNat * cvtCount ws wd + k) / 32) 0), FlagSet.none)
        else cvtElem d t f.sat (c.mode wd j) x)
      pure .seq) s

end Sys2Proof.Machine
end

