-- ==== Sys2Proof/Machine/VecMove.lean ====
section
/-! DEFINITION. X stream: moving elements, reductions and scans, predicates, complex multiply and integer dot
products (09 R237 to R252). -/

namespace Sys2Proof.Machine

/-- Values without flags. -/
def quiet (xs : List Nat) : List (Nat × FlagSet) := xs.map (fun x => (x, FlagSet.none))

/-- A move: the active elements receive the elements given (R223). -/
def putMoved (f : VForm) (w : Nat) (xs : List Nat) : M Unit := do
  let s ← getS
  putLanes f w (activeOf (s.maskOf f) w) (quiet xs)

/-- VMOV (R237). -/
def execVmov (f : VForm) (s : State) : Host.Outcome State Fault Refusal :=
  issue 0xAA f.pred (vCheck (rule1 tyAny false false) f) (do
    vGate f
    let w := vWidth f.ty.toNat
    let a ← readElems w f.a
    putMoved f w a
    pure .seq) s

/-- VLI (R237). -/
def execVli (f : VForm) (s : State) : Host.Outcome State Fault Refusal :=
  issue 0xAB f.pred (vCheck { a := .none, ty := tyNoMx, imm := fun _ => true } f) (do
    vGate f
    let w := vWidth f.ty.toNat
    putMoved f w (List.replicate (2048 / w) (immElem f.ty.toNat f.imm % 2 ^ w))
    pure .seq) s

/-- VPERM (R238). -/
def execVperm (f : VForm) (s : State) : Host.Outcome State Fault Refusal :=
  issue 0x9C f.pred (vCheck { a := .vo, b := .v, ty := fun t => tyNoMx t && t != 0x11, immb := true } f) (do
    vGate f
    let w := vWidth f.ty.toNat
    let a ← readElems w f.a
    let b ← readElemsB w f
    putMoved f w (b.map (fun x => a.getD x 0))
    pure .seq) s

/-- Element i of VSHUF (R239). -/
def shufElem (fn n : Nat) (a b : List Nat) (i : Nat) : Nat :=
  let h := n / 2
  let pair (x : Nat) : Nat := if i % 2 = 0 then a.getD (x + i / 2) 0 else b.getD (x + i / 2) 0
  let half (x : Nat) : Nat := if i < h then a.getD (2 * i + x) 0 else b.getD (2 * (i - h) + x) 0
  match fn with
  | 0 => pair 0
  | 1 => pair h
  | 2 => half 0
  | 3 => half 1
  | 4 => a.getD (n - 1 - i) 0
  | _ => a.getD (i ^^^ 1) 0

/-- VSHUF (R239). -/
def execVshuf (f : VForm) (s : State) : Host.Outcome State Fault Refusal :=
  let two := decide (f.sub.toNat < 4)
  issue 0x9D f.pred (vCheck { a := .vo, b := if two then .vo else .none, ty := tyNoMx, sub := fun x => decide (x < 6) } f) (do
    vGate f
    let w := vWidth f.ty.toNat
    let a ← readElems w f.a
    let b ← if two then readElems w f.b else pure a
    let n := 2048 / w
    putMoved f w ((List.range n).map (shufElem f.sub.toNat n a b))
    pure .seq) s

/-- An operand in a vector position. -/
def isVec : Operand → Bool
  | .v _ => true
  | .q n => n.val == 12
  | _ => false

/-- The index a move reads: operand B, or IMM32 (R240). -/
def readIndex (f : VForm) : M Nat := if f.immb then pure f.imm.toNat else do
  let x ← readSrc f.b
  pure x.toNat

/-- VBCAST (R240). -/
def execVbcast (f : VForm) (s : State) : Host.Outcome State Fault Refusal :=
  let vec := isVec f.a
  issue 0x9E f.pred (fun s => (vCheck { a := .or .vo .s, b := if vec then .s else .none, ty := tyNoMx, immb := vec } f s).or
      (firstBroken [(vec || f.ty != 0x11#5, 2)])) (do
    vGate f
    let w := vWidth f.ty.toNat
    let n := 2048 / w
    if vec then
      let a ← readElems w f.a
      let x ← readIndex f
      putMoved f w (List.replicate n (a.getD x 0))
    else
      let a ← readSrc f.a
      putMoved f w (List.replicate n (a.toNat % 2 ^ w))
    pure .seq) s

/-- An element as a scalar result (R158, R240). -/
def elemScalar (ty : BitVec 5) (x : Nat) : BitVec 64 :=
  if tyI ty.toNat then intExt ty (intVal ty (BitVec.ofNat 64 x)) else BitVec.ofNat 64 x

/-- VEXTR (R240). -/
def execVextr (f : VForm) (s : State) : Host.Outcome State Fault Refusal :=
  issue 0x9F f.pred (vCheck { d := .sd, a := .vo, b := .s, ty := fun t => tyNoMx t && t != 0x11, immb := true
                              mask := false, zm := false } f) (do
    vGate f
    let a ← readElems (vWidth f.ty.toNat) f.a
    let x ← readIndex f
    writeDst f.d (elemScalar f.ty (a.getD x 0))
    pure .seq) s

/-- VINS (R240). -/
def execVins (f : VForm) (s : State) : Host.Outcome State Fault Refusal :=
  issue 0xA0 f.pred (vCheck { d := .vreg, a := .s, b := .s, ty := fun t => tyNoMx t && t != 0x11, immb := true
                              mask := false, zm := false } f) (do
    vGate f
    let s0 ← getS
    let w := vWidth f.ty.toNat
    let a ← readSrc f.a
    let x ← readIndex f
    let old := s0.oldElems f.d false w
    writeVDst f.d (vecOf w (if x < old.length then old.set x (a.toNat % 2 ^ w) else old))
    pure .seq) s

/-- VSLIDE's element i (R241). -/
def slideElem (up : Bool) (n k : Nat) (a b : List Nat) (i : Nat) : Nat :=
  if up then (if k ≤ i then a.getD (i - k) 0 else if k ≤ i + n then b.getD (i + n - k) 0 else 0)
  else (if i + k < n then a.getD (i + k) 0 else if i + k < 2 * n then b.getD (i + k - n) 0 else 0)

/-- VSLIDE (R241). -/
def execVslide (f : VForm) (s : State) : Host.Outcome State Fault Refusal :=
  issue 0xB5 f.pred (vCheck { a := .vo, b := .v, c := .s, ty := tyNoMx, sub := fun x => decide (x < 2), imm := fun _ => true } f) (do
    vGate f
    let w := vWidth f.ty.toNat
    let a ← readElems w f.a
    let b ← readElems w f.b
    let c ← readSrc f.c
    let n := 2048 / w
    putMoved f w ((List.range n).map (slideElem (f.sub == 1#6) n (c.toNat + f.imm.toNat) a b))
    pure .seq) s

/-- The elements of a list that a mask selects. -/
def selected (act : List Bool) (xs : List Nat) : List Nat :=
  ((act.zip xs).filter (fun (x : Bool × Nat) => x.1)).map Prod.snd

/-- VCOMP (R242). -/
def execVcomp (f : VForm) (s : State) : Host.Outcome State Fault Refusal :=
  issue 0xA7 f.pred (vCheck { a := .vo, ty := tyNoMx } f) (do
    vGate f
    let s0 ← getS
    let w := vWidth f.ty.toNat
    let a ← readElems w f.a
    let xs := selected (activeOf (s0.maskOf f) w) a
    putElems f w (xs.map some ++ List.replicate (2048 / w - xs.length) none)
    pure .seq) s

/-- VEXPD: each active element takes the next element of A (R242). -/
def expandActive : List Bool → List Nat → List (Option Nat)
  | [], _ => []
  | true :: bs, x :: xs => some x :: expandActive bs xs
  | true :: bs, [] => some 0 :: expandActive bs []
  | false :: bs, xs => none :: expandActive bs xs

/-- VEXPD (R242). -/
def execVexpd (f : VForm) (s : State) : Host.Outcome State Fault Refusal :=
  issue 0xA8 f.pred (vCheck { a := .vo, ty := tyNoMx } f) (do
    vGate f
    let s0 ← getS
    let w := vWidth f.ty.toNat
    let a ← readElems w f.a
    putElems f w (expandActive (activeOf (s0.maskOf f) w) a)
    pure .seq) s

/-- VIOTA (R243). -/
def execViota (f : VForm) (s : State) : Host.Outcome State Fault Refusal :=
  issue 0xA9 f.pred (vCheck { a := .s, b := .s, ty := tyI, immb := true } f) (do
    vGate f
    let w := vWidth f.ty.toNat
    let a ← readSrc f.a
    let b ← if f.immb then pure (immInt f.imm) else readSrc f.b
    putMoved f w ((List.range (2048 / w)).map (fun i => (a + BitVec.ofNat 64 i * b).toNat % 2 ^ w))
    pure .seq) s

/-- One level of the tree of adjacent pairs: an absent leaf passes its neighbour on (R245). -/
def pairUp {α : Type} (op : α → α → α) : List (Option α) → List (Option α)
  | l :: r :: t => (match l, r with
    | none, y => y
    | x, none => x
    | some x, some y => some (op x y)) :: pairUp op t
  | l => l

/-- The tree of R245, at most k levels deep. -/
def treeOf {α : Type} (op : α → α → α) : Nat → List (Option α) → Option α
  | 0, l => l.headD none
  | k + 1, l => match l with
    | [x] => x
    | l => treeOf op k (pairUp op l)

/-- A value with the flags raised on the way to it. -/
abbrev Flagged := FVal × FlagSet

/-- The extended format of a floating-point type (R245). -/
def extFmt (ty : Nat) : Fmt := if ty = 8 ∨ ty = 0x11 then fmtF64X else fmtF32X

/-- An addition in the extended format (R245). -/
def extAdd (fm : Fmt) (a b : Flagged) : Flagged :=
  let e := faddE false a.1 b.1
  let r := froundV fm .rne e.1
  (r.1, ((a.2.or b.2).or e.2).or r.2)

/-- The greater or lesser of two values (R245). -/
def extMinMax (isMax : Bool) (a b : Flagged) : Flagged :=
  let r := fminmax isMax a.1 b.1
  (r.1, (a.2.or b.2).or r.2)

/-- The reductions. -/
inductive RedOp where
  | add
  | max
  | min
deriving DecidableEq, Repr

/-- The result of a reduction without active elements (R245). -/
def RedOp.emptyF : RedOp → Flagged
  | .add => (.fin false 0 0 false, FlagSet.none)
  | .max => (.inf true, FlagSet.none)
  | .min => (.inf false, FlagSet.none)

/-- The same for an integer type. -/
def RedOp.emptyI (ty : BitVec 5) : RedOp → Int
  | .add => 0
  | .max => intMin ty
  | .min => intMax ty

/-- The operation on values and on integers. -/
def RedOp.fop (o : RedOp) (fm : Fmt) : Flagged → Flagged → Flagged :=
  match o with
  | .add => extAdd fm
  | .max => extMinMax true
  | .min => extMinMax false
def RedOp.iop : RedOp → Int → Int → Int
  | .add => (· + ·)
  | .max => imax
  | .min => imin

/-- The leaves of a tree: inactive elements are absent. -/
def leaves {α : Type} (act : List Bool) (xs : List α) : List (Option α) :=
  (act.zip xs).map (fun (x : Bool × α) => if x.1 then some x.2 else none)

/-- A tree reduction of floating-point values. -/
def reduceF (o : RedOp) (ty : Nat) (act : List Bool) (xs : List FVal) : Flagged :=
  (treeOf (o.fop (extFmt ty)) 9 (leaves act (xs.map (fun x => (x, FlagSet.none))))).getD o.emptyF

/-- A tree reduction of integers. -/
def reduceI (o : RedOp) (ty : BitVec 5) (act : List Bool) (xs : List Nat) : Int :=
  (treeOf o.iop 9 (leaves act (xs.map (fun x => intVal ty (BitVec.ofNat 64 x))))).getD (o.emptyI ty)

/-- A scalar integer result: modulo 2^64, or saturated to the 64-bit range (R245). -/
def redScalar (ty : BitVec 5) (sat : Bool) (r : Int) : BitVec 64 × FlagSet :=
  intResult (if intSigned ty then 3#5 else 7#5) sat r

/-- A reduction of the whole register (R245). -/
def reduceBody (f : VForm) (o : RedOp) : M Flow := do
  vGate f
  let t := f.ty.toNat
  let w := vWidth t
  let a ← readElems w f.a
  let c ← laneCtx f w
  let toVec : Bool := match f.d with
    | .v _ => true
    | .q n => n.val == 13
    | _ => false
  let r : Nat × FlagSet :=
    if tyI t then
      let x := reduceI o f.ty c.act a
      let y := if toVec = true then intResult f.ty f.sat x else redScalar f.ty f.sat x
      (y.1.toNat, y.2)
    else if tyC t then
      cPack c t 0 (reduceF o t c.act (a.map (fun x => (cParts t x).1))) (reduceF o t c.act (a.map (fun x => (cParts t x).2)))
    else
      let fm := floatFmt t
      fPart fm (c.mode w 0) (reduceF o t c.act (a.map (fdecode fm)))
  raise r.2
  if toVec then writeVDst f.d (BitVec.ofNat 2048 (r.1 % 2 ^ w))
  else writeDst f.d (BitVec.ofNat 64 r.1)
  pure .seq

/-- The rule of a reduction (Table 09.2, R245). -/
def redRule (f : VForm) (c sat : Bool) : VRule :=
  { d := .or .sd .vd, a := .vo, ty := fun t => tyF t || tyI t || (c && tyC t)
    rm := fun t => c && (tyF t || tyC t), sat := fun t => sat && tyI t
    zm := match f.d with
      | .v _ => false
      | .q n => n.val != 13
      | _ => true }

/-- VREDADD: a .c64 sum does not fit a scalar destination (R245). -/
def execVredadd (f : VForm) (s : State) : Host.Outcome State Fault Refusal :=
  issue 0xA1 f.pred (fun s => (vCheck (redRule f true true) f s).or
      (firstBroken [(f.ty != 0x11#5 || VUse.ok s f.d .vd, 1)])) (reduceBody f .add) s

/-- VREDMAX (R245). -/
def execVredmax (f : VForm) (s : State) : Host.Outcome State Fault Refusal :=
  issue 0xA2 f.pred (vCheck (redRule f false false) f) (reduceBody f .max) s

/-- VREDMIN (R245). -/
def execVredmin (f : VForm) (s : State) : Host.Outcome State Fault Refusal :=
  issue 0xA3 f.pred (vCheck (redRule f false false) f) (reduceBody f .min) s

/-- The length of a segment (R244). -/
def segLen (code n : Nat) : Nat := if code = 0 then n else 2 ^ code

/-- A segment code of a type (R244). -/
def segOk (ty code : Nat) : Bool := decide (code < 16) && decide (2 ^ code * vWidth ty ≤ 2048)

/-- A list cut into pieces of k. -/
def chunksOf {α : Type} (k : Nat) : Nat → List α → List (List α)
  | 0, _ => []
  | n + 1, l => if l.isEmpty then [] else l.take k :: chunksOf k n (l.drop k)

/-- The rule of VGMAX, VGSUM and VSCAN (R244). -/
def segRule (f : VForm) (sat rm : Bool) : VRule :=
  { a := .vo, ty := fun t => tyF t || tyI t, rm := fun t => rm && tyF t, sat := fun t => sat && tyI t, imm := segOk f.ty.toNat }

/-- A floating-point or integer result of a segment or scan for element i (R246, R247). -/
def segFinal (f : VForm) (c : LaneCtx) (i : Nat) (x : Flagged) (y : Int) : Nat × FlagSet :=
  if tyI f.ty.toNat then
    let r := intResult f.ty f.sat y
    (r.1.toNat, r.2)
  else fPart (floatFmt f.ty.toNat) (c.mode c.w i) x

/-- Segment results: one tree a segment, written to each active element of it (R246). -/
def segBody (f : VForm) (o : RedOp) : M Flow := do
  vGate f
  let t := f.ty.toNat
  let w := vWidth t
  let a ← readElems w f.a
  let c ← laneCtx f w
  let k := segLen f.imm.toNat (2048 / w)
  let rs : List (Flagged × Int) := (chunksOf k 256 (c.act.zip a)).flatMap (fun (seg : List (Bool × Nat)) =>
    let act := seg.map Prod.fst
    let xs := seg.map Prod.snd
    let r : Flagged × Int :=
      if tyI t then (o.emptyF, reduceI o f.ty act xs) else (reduceF o t act (xs.map (fdecode (floatFmt t))), 0)
    List.replicate seg.length r)
  putLanes f w c.act (((List.range rs.length).zip rs).map (fun (x : Nat × Flagged × Int) => segFinal f c x.1 x.2.1 x.2.2))
  pure .seq

/-- VGMAX (R246). -/
def execVgmax (f : VForm) (s : State) : Host.Outcome State Fault Refusal :=
  issue 0xA4 f.pred (vCheck (segRule f false false) f) (segBody f .max) s

/-- VGSUM (R246). -/
def execVgsum (f : VForm) (s : State) : Host.Outcome State Fault Refusal :=
  issue 0xA5 f.pred (vCheck (segRule f true true) f) (segBody f .add) s

/-- The prefixes of a segment: for each element what it receives, and the accumulator goes on (R247). -/
def scanSeg {α : Type} (op : α → α → α) (excl : Bool) : α → List (Bool × α) → List α
  | _, [] => []
  | acc, (false, _) :: r => acc :: scanSeg op excl acc r
  | acc, (true, x) :: r =>
    let next := op acc x
    (if excl then acc else next) :: scanSeg op excl next r

/-- The reduction a VSCAN selects. -/
def scanOp (sub : Nat) : RedOp := match sub % 4 with
  | 0 => .add
  | 1 => .max
  | _ => .min

/-- VSCAN (R247). -/
def execVscan (f : VForm) (s : State) : Host.Outcome State Fault Refusal :=
  issue 0xA6 f.pred (vCheck { segRule f true true with sub := fun x => decide (x < 8) && x % 4 != 3 } f) (do
    vGate f
    let t := f.ty.toNat
    let w := vWidth t
    let a ← readElems w f.a
    let c ← laneCtx f w
    let o := scanOp f.sub.toNat
    let excl := f.sub.getLsbD 2
    let k := segLen f.imm.toNat (2048 / w)
    let segs := chunksOf k 256 (c.act.zip a)
    let rs : List (Flagged × Int) :=
      if tyI t then
        segs.flatMap (fun (seg : List (Bool × Nat)) =>
          (scanSeg o.iop excl (o.emptyI f.ty) (seg.map (fun (x : Bool × Nat) => (x.1, intVal f.ty (BitVec.ofNat 64 x.2))))).map
            (fun (y : Int) => (o.emptyF, y)))
      else
        segs.flatMap (fun (seg : List (Bool × Nat)) =>
          (scanSeg (o.fop (extFmt t)) excl o.emptyF
            (seg.map (fun (x : Bool × Nat) => (x.1, (fdecode (floatFmt t) x.2, FlagSet.none))))).map (fun (y : Flagged) => (y, (0 : Int))))
    putLanes f w c.act (((List.range rs.length).zip rs).map (fun (x : Nat × Flagged × Int) => segFinal f c x.1 x.2.1 x.2.2))
    -- the last addition of an exclusive scan is formed too, and raises its flags
    if ¬ tyI t then
      raise ((segs.map (fun (seg : List (Bool × Nat)) =>
        ((scanSeg (o.fop (extFmt t)) false o.emptyF
          (seg.map (fun (x : Bool × Nat) => (x.1, (fdecode (floatFmt t) x.2, FlagSet.none))))).getLastD o.emptyF).2)).foldl
            FlagSet.or FlagSet.none)
    pure .seq) s

/-- The four values of a segment: minimum, maximum, sum, and sum of squares (R248). -/
def statRecord (ty : Nat) (act : List Bool) (xs : List FVal) : List Flagged :=
  let sq : List Flagged := xs.map (fun x =>
    let e := fmulE x x
    let r := froundV (extFmt ty) .rne e.1
    (r.1, e.2.or r.2))
  [reduceF .min ty act xs, reduceF .max ty act xs, reduceF .add ty act xs,
    (treeOf (extAdd (extFmt ty)) 9 (leaves act sq)).getD RedOp.add.emptyF]

/-- VSTAT (R248). -/
def execVstat (f : VForm) (s : State) : Host.Outcome State Fault Refusal :=
  issue 0xAE f.pred (vCheck { a := .vo, ty := fun t => t == 8 || t == 9, rm := fun _ => true
                              imm := fun x => segOk f.ty.toNat x && x != 1, zm := false } f) (do
    vGate f
    let t := f.ty.toNat
    let fm := floatFmt t
    let a ← readElems fm.width f.a
    let c ← laneCtx f fm.width
    let k := segLen f.imm.toNat (2048 / fm.width)
    let rs : List Flagged := (chunksOf k 256 (c.act.zip a)).flatMap (fun (seg : List (Bool × Nat)) =>
      statRecord t (seg.map Prod.fst) ((seg.map Prod.snd).map (fdecode fm)))
    let out : List (Nat × FlagSet) := ((List.range rs.length).zip rs).map (fun (x : Nat × Flagged) => fPart fm (c.mode fm.width x.1) x.2)
    raise (out.foldl (fun (a : FlagSet) (x : Nat × FlagSet) => a.or x.2) FlagSet.none)
    writeVDst f.d (vecOf fm.width (out.map Prod.fst))
    pure .seq) s

/-- How many mask bits govern elements of width w (R52). -/
def maskBits (w : Nat) : Nat := if w ≤ 32 then 64 else 2048 / w

/-- The mask bits of a predicate that govern elements. -/
def predList (p : BitVec 64) (w : Nat) : List Bool := (List.range (maskBits w)).map p.getLsbD

/-- The operands VPLOG takes in its mode (R249). -/
def vplogRule (f : VForm) : VRule :=
  match f.sub.toNat / 16 with
  | 0 => { d := .pd, a := .p, b := .p, ty := tyAny, sub := fun _ => true }
  | 1 => { d := .vd, a := .p, ty := tyAny, sub := fun x => x == 16 }
  | 2 => { d := .pd, a := .vo, ty := tyAny, sub := fun x => x == 32 }
  | _ => { d := .none, a := .none, ty := tyAny, sub := fun _ => false }

/-- VPLOG (R249). -/
def execVplog (f : VForm) (s : State) : Host.Outcome State Fault Refusal :=
  issue 0xB3 f.pred (vCheck (vplogRule f) f) (do
    vGate f
    let s ← getS
    let w := vWidth f.ty.toNat
    let act := predList (s.maskOf f) w
    match f.sub.toNat / 16 with
    | 0 =>
      let a ← readSrc f.a
      let b ← readSrc f.b
      putPred f (s.oldPred f.d) act (predList (plogBits f.sub.toNat a b) w)
    | 1 =>
      let a ← readSrc f.a
      putMoved f w ((activeOf a w).map (fun x => if x then 2 ^ w - 1 else 0))
    | _ =>
      let a ← readElems w f.a
      let nz := (List.range (maskBits w)).map (fun l =>
        ((List.range a.length).zip a).any (fun (x : Nat × Nat) => lanePos w x.1 == l && x.2 != 0))
      putPred f (s.oldPred f.d) act nz
    pure .seq) s

/-- The governing bits set both in A and in the mask (R250). -/
def countedBits (f : VForm) (a : BitVec 64) (s : State) : List Nat :=
  (List.range (maskBits (vWidth f.ty.toNat))).filter (fun l => a.getLsbD l && (s.maskOf f).getLsbD l)

/-- The rule of VPCNT and VPFIRST: no element is written, so ZM is clear. -/
def countRule : VRule := { d := .sd, a := .p, ty := tyAny, zm := false }

/-- VPCNT (R250). -/
def execVpcnt (f : VForm) (s : State) : Host.Outcome State Fault Refusal :=
  issue 0xB2 f.pred (vCheck countRule f) (do
    vGate f
    let a ← readSrc f.a
    let s ← getS
    writeDst f.d (BitVec.ofNat 64 (countedBits f a s).length)
    pure .seq) s

/-- VPFIRST (R250). -/
def execVpfirst (f : VForm) (s : State) : Host.Outcome State Fault Refusal :=
  issue 0xB4 f.pred (vCheck countRule f) (do
    vGate f
    let a ← readSrc f.a
    let s ← getS
    let w := vWidth f.ty.toNat
    writeDst f.d (BitVec.ofNat 64 (match (countedBits f a s).head? with
      | some l => if w ≤ 32 then l * (32 / w) else l
      | none => 2048 / w))
    pure .seq) s

/-- Two exact values added, with the flags of both. -/
def addFlagged (rdn : Bool) (a b : Flagged) : Flagged :=
  let r := faddE rdn a.1 b.1
  (r.1, (a.2.or b.2).or r.2)

/-- A flagged value negated. -/
def negFlagged (a : Flagged) : Flagged := (a.1.negate, a.2)

/-- One element of VCPLX (R251). -/
def cplxElem (f : VForm) (c : LaneCtx) (x : Nat × Nat × Nat × Nat) : Nat × FlagSet :=
  let t := f.ty.toNat
  let sub := f.sub.toNat
  let a := cParts t x.2.1
  let b := cParts t x.2.2.1
  let d := cParts t x.2.2.2
  let rdn (m : Nat) : Bool := modeOf c.sel c.st x.1 m (cFmt t).width == .rdn
  let conj := sub % 2 == 1
  let bim := if conj then b.2.negate else b.2
  match sub with
  | 4 => cPack c t x.1 (a.1, snanFlag a.1) (a.2.negate, snanFlag a.2)
  | 5 => cPack c t x.1 (a.2.negate, snanFlag a.2) (a.1, snanFlag a.1)
  | _ =>
    let re := addFlagged (rdn 0) (fmulE a.1 b.1) (negFlagged (fmulE a.2 bim))
    let im := addFlagged (rdn 1) (fmulE a.1 bim) (fmulE a.2 b.1)
    if sub < 2 then cPack c t x.1 re im
    else cPack c t x.1 (addFlagged (rdn 0) re (d.1, FlagSet.none)) (addFlagged (rdn 1) im (d.2, FlagSet.none))

/-- VCPLX (R251). -/
def execVcplx (f : VForm) (s : State) : Host.Outcome State Fault Refusal :=
  let ub := decide (f.sub.toNat < 4)
  let uc := f.sub == 2#6 || f.sub == 3#6
  issue 0xB1 f.pred (vCheck { a := .v, b := if ub then .v else .none, c := if uc then .v else .none, ty := tyC
                              sub := fun x => decide (x < 6), rm := fun _ => true, immb := ub } f) (do
    vGate f
    let w := vWidth f.ty.toNat
    let x ← readAbc f w ub uc
    let c ← laneCtx f w
    if immSignals f && c.act.any id then raise FlagSet.onlyNv
    putLanes f w c.act ((tuples x.1 x.2.1 x.2.2).map (cplxElem f c))
    pure .seq) s

/-- The sum of products of one 32-bit lane (R252). -/
def dotLane (ta tb : BitVec 5) (l : List (Nat × Nat)) : Int :=
  (l.map (fun (x : Nat × Nat) => intVal ta (BitVec.ofNat 64 x.1) * intVal tb (BitVec.ofNat 64 x.2))).sum

/-- VDOT (R252). -/
def execVdot (f : VForm) (s : State) : Host.Outcome State Fault Refusal :=
  issue 0xB6 f.pred (vCheck { rule3 (fun t => t == 0 || t == 1 || t == 4 || t == 5) true false with sub := fun x => decide (x < 2) } f) (do
    vGate f
    let w := vWidth f.ty.toNat
    let a ← readElems w f.a
    let b ← readElemsB w f
    let c ← readElems 32 f.c
    let s ← getS
    let tb := if f.sub = 1#6 then f.ty ^^^ 4#5 else f.ty
    let lanes := chunksOf (32 / w) 64 (a.zip b)
    putLanes f 32 (activeOf (s.maskOf f) 32) ((lanes.zip c).map (fun (x : List (Nat × Nat) × Nat) =>
      let r := intResult 2#5 f.sat (sxInt 32 x.2 + dotLane f.ty tb x.1)
      (r.1.toNat % 2 ^ 32, r.2)))
    pure .seq) s

end Sys2Proof.Machine
end

