-- ==== Sys2Proof/Machine/VecFn.lean ====
section
/-! DEFINITION. X stream: special functions and their micro-programs (09 R253 to R259). -/

namespace Sys2Proof.Machine

/-- Fields of an image header (Table 09.4). -/
def imgSteps (h : Nat) : Nat := bits h 32 8
def imgConsts (h : Nat) : Nat := bits h 40 9
def imgTable (h : Nat) : Nat := bits h 49 11

/-- Words of an image. -/
def imgLen (h : Nat) : Nat := 8 + imgSteps h + imgConsts h + imgTable h

/-- The state of a micro-program (R255). -/
structure MicroSt where
  u : List FVal
  n : Int
deriving DecidableEq, Repr

/-- A working register. -/
def MicroSt.get (m : MicroSt) (i : Nat) : FVal := m.u.getD i (.nan false)

/-- n saturates at ±2^30 (R255). -/
def satN (x : Int) : Int := satInt (-(2 ^ 30 : Nat)) (2 ^ 30 : Nat) x

/-- rnd(v) (R255). -/
def rndX (fm : Fmt) (v : FVal) : FVal := (froundV fm .rne v).1

/-- A value times a power of two, and times an integer, exact. -/
def FVal.scale (v : FVal) (n : Int) : FVal := match v with
  | .fin s m e st => .fin s m (e + n) st
  | v => v

/-- The exponent of a value's leading bit. -/
def FVal.expo (v : FVal) : Int := match v with
  | .fin _ m e _ => Nat.log2 m + e
  | _ => 0

/-- round_rne(v, integer), with a NaN as 0 and an infinity saturated (R77, R255). -/
def toN (v : FVal) : Int := match v with
  | .nan _ => 0
  | .inf n => satN (if n then -(2 ^ 31 : Nat) else (2 ^ 31 : Nat))
  | .fin n m e st => satN (roundInt .rne n m e st).1

/-- One step of a micro-program on the input x (Table 09.5). -/
def microStep (fm : Fmt) (x : FVal) (const table : Nat → FVal) (w : Nat) (m : MicroSt) : MicroSt :=
  let d := bits w 56 3
  let a := m.get (bits w 53 3)
  let b := m.get (bits w 50 3)
  let c := m.get (bits w 47 3)
  let k := bits w 16 8
  let i := bits w 0 10
  let put (v : FVal) : MicroSt := { m with u := m.u.set d v }
  match bits w 59 5 with
  | 0x01 => put (rndX fm (fmaE false a b c).1)
  | 0x02 => put (rndX fm (faddE false a b).1)
  | 0x03 => put (rndX fm (fmulE a b).1)
  | 0x04 => put (const i)
  | 0x05 =>
    let n := toN (fmulE a (const i)).1
    let less (u : FVal) (j : Nat) : FVal := rndX fm (fmaE false (FVal.ofInt n) (const j).negate u).1
    { (put (less (less a (i + 1)) (i + 2))) with n := n }
  | 0x06 => { (put (table (i + (m.n % ((2 ^ k : Nat) : Int)).toNat))) with n := m.n / ((2 ^ k : Nat) : Int) }
  | 0x07 => put ((List.range k).foldl (fun acc j => rndX fm (fmaE false acc a (const (i + j + 1))).1) (const i))
  | 0x08 => put (rndX fm (a.scale m.n))
  | 0x09 =>
    match a with
    | .fin _ v _ _ =>
      if v = 0 then { (put a) with n := 0 } else { (put (a.scale (-a.expo))) with n := satN a.expo }
    | v => { (put v) with n := 0 }
  | 0x0A => { m with n := satN (m.n + sxInt 10 i) }
  | 0x0B => put (FVal.ofInt m.n)
  | 0x0C => put (a.withSign false)
  | 0x0D => put a.negate
  | 0x0E => put (a.withSign x.neg)
  | 0x0F => put (rndX fm (fdivE (.fin false 1 0 false) a).1)
  | 0x10 => put (fminmax false (fminmax true a (const i)).1 (const (i + 1))).1
  | _ => m

/-- The steps run in order until END (R255); a program without one gives a NaN. -/
def microRun (fm : Fmt) (x : FVal) (const table : Nat → FVal) : List (BitVec 64) → MicroSt → FVal
  | [], _ => .nan false
  | w :: ws, m =>
    if bits w.toNat 59 5 = 0 then m.get (bits w.toNat 56 3)
    else microRun fm x const table ws (microStep fm x const table w.toNat m)

/-- The class of a value in an image's actions: 0 -∞, 1 +∞, 2 -0, 3 +0, 4 negative finite; none otherwise (Table 09.4). -/
def actionClass (v : FVal) : Option Nat := match v with
  | .nan _ => none
  | .inf n => some (if n then 0 else 1)
  | .fin n m _ _ => if m = 0 then some (if n then 2 else 3) else if n then some 4 else none

/-- The result and flags of an action; none where the function is computed (R256). -/
def actionResult (code : Nat) (x : FVal) : Option Flagged :=
  match code with
  | 1 => some (.nan false, FlagSet.onlyNv)
  | 2 => some (.fin false 0 0 false, FlagSet.none)
  | 3 => some (.fin true 0 0 false, FlagSet.none)
  | 4 => some (.fin false 1 0 false, FlagSet.none)
  | 5 => some (.fin true 1 0 false, FlagSet.none)
  | 6 => some (.inf false, FlagSet.none)
  | 7 => some (.inf true, FlagSet.none)
  | 8 => some (.inf false, FlagSet.onlyDz)
  | 9 => some (.inf true, FlagSet.onlyDz)
  | 10 => some (x, FlagSet.none)
  | _ => none

/-- The actions of a shipped function, as an image holds them (Table 09.3). -/
def shippedActions (slot : Nat) : Nat :=
  match slot with
  | 0 => 0x04462
  | 1 => 0x19961
  | 2 => 0x02311
  | 3 => 0x04411
  | 4 => 0x02345
  | 5 => 0x00042
  | 6 => 0x02363
  | 7 => 0x02345
  | _ => 0x18921

/-- One element under an image: the action of its class, or the micro-program (R255); a NaN has no class. -/
def sfnElem (ty actions : Nat) (img : List (BitVec 64)) (x : FVal) : Nat × FlagSet :=
  let fm := floatFmt ty
  let ext := extFmt ty
  let h := (img.headD 0).toNat
  let consts := (img.drop (8 + imgSteps h)).map (fun w => rndX ext (fdecode fmtF64 w.toNat))
  let tab := (img.drop (8 + imgSteps h + imgConsts h)).map (fun w => rndX ext (fdecode fmtF64 w.toNat))
  let act := (actionClass x).bind (fun c => actionResult (bits actions (4 * c) 4) x)
  match act with
  | some r => fPart fm .rne r
  | none =>
    let zero : FVal := .fin false 0 0 false
    fPart fm .rne (microRun ext x (fun i => consts.getD i zero) (fun i => tab.getD i zero)
      ((img.drop 8).take (imgSteps h)) ⟨x :: List.replicate 7 zero, 0⟩, FlagSet.none)

/-- One element of a shipped function (R254): a NaN gives the canonical NaN; the image's result stands if Table 09.3
allows it, else the exact value rounded, which it always allows (log 8). -/
def shippedElem (ty slot : Nat) (x : FVal) : Nat × FlagSet :=
  let fm := floatFmt ty
  let r := sfnElem ty (shippedActions slot) (Config.shippedImage slot) x
  if x.isNan then (fm.nanBits, snanFlag x)
  else if ((actionClass x).bind (fun c => actionResult (bits (shippedActions slot) (4 * c) 4) x)).isSome then r
  else if shippedMay slot ty fm x (fdecode fm r.1) then r
  else fround fm .rne (refFn slot x)

/-- The image words in the local store at an offset. -/
def imageAt (t : Task) (off n : Nat) : List (BitVec 64) :=
  (bytesElems 8 n (t.lsRead off (8 * n))).map (BitVec.ofNat 64)

/-- Whether a slot's shipped function has a form for a type (Table 09.3). -/
def shippedForm (slot ty : Nat) : Bool := ty != 8 || slot == 0 || slot == 1 || slot == 8

/-- The rule of VSFN (R253). -/
def vsfnRule (f : VForm) : VRule :=
  let k := f.sub.toNat
  { a := .v, ty := fun t => tyF t && (decide (16 ≤ k) || shippedForm k t), sub := fun x => decide (x < 9) || (decide (16 ≤ x) && decide (x < 24)) }

/-- FORMS of an image covers a type (Table 09.4). -/
def formsCover (h ty : Nat) : Bool := if ty = 8 then bitN h 61 else bitN h 60

/-- VSFN (R253 to R255, R259).  A task slot whose image has changed since VSFL gives undefined elements. -/
def execVsfn (f : VForm) (s : State) : Host.Outcome State Fault Refusal :=
  issue 0xAC f.pred (vCheck (vsfnRule f) f) (do
    vGate f
    let s0 ← getS
    let t := f.ty.toNat
    let w := vWidth t
    let k := f.sub.toNat
    let fm := floatFmt t
    let act := activeOf (s0.maskOf f) w
    if k < 16 then
      let a ← readElems w f.a
      putLanes f w act (a.map (fun x => shippedElem t k (fdecode fm x)))
    else
      match (s0.task.sfn[k - 16]?).getD none with
      | none => trap fcIllegalOperand (fieldInfo 9)
      | some slot =>
        ensure (formsCover (slot.words.headD 0).toNat t) fcIllegalOperand (fieldInfo 8)
        lsCheck .plain slot.off (8 * slot.words.length)
        lsClean slot.off (8 * slot.words.length)
        let a ← readElems w f.a
        if imageAt s0.task slot.off slot.words.length = slot.words then
          putLanes f w act (a.map (fun x => sfnElem t (slot.words.getD 1 0).toNat slot.words (fdecode fm x)))
        else
          let bs ← freeBytes 256
          putLanes f w act (quiet (elems (vecBytes bs) w))
    pure .seq) s

/-- Which fields a step uses: D, A, B, C, K, I (Table 09.5). -/
def stepUses (op : Nat) : List Bool :=
  match op with
  | 0x00 => [true, false, false, false, false, false]
  | 0x01 => [true, true, true, true, false, false]
  | 0x02 | 0x03 => [true, true, true, false, false, false]
  | 0x04 => [true, false, false, false, false, true]
  | 0x05 => [true, true, false, false, false, true]
  | 0x06 => [true, false, false, false, true, true]
  | 0x07 => [true, true, false, false, true, true]
  | 0x08 | 0x09 | 0x0C | 0x0D | 0x0E | 0x0F => [true, true, false, false, false, false]
  | 0x0A => [false, false, false, false, false, true]
  | 0x0B => [true, false, false, false, false, false]
  | 0x10 => [true, true, false, false, false, true]
  | _ => [true, true, true, true, true, true]

/-- Whether the reserved bits and the unused fields of a step word are zero (R257). -/
def stepClean (w : Nat) : Bool :=
  let fields := [bits w 56 3, bits w 53 3, bits w 50 3, bits w 47 3, bits w 16 8, bits w 0 10]
  bits w 24 23 == 0 && bits w 10 6 == 0 && ((stepUses (bits w 59 5)).zip fields).all (fun (x : Bool × Nat) => x.1 || x.2 == 0)

/-- Whether every constant or table index a step can form exists (R258). -/
def stepIndexOk (nconst ntab w : Nat) : Bool :=
  let i := bits w 0 10
  let k := bits w 16 8
  match bits w 59 5 with
  | 0x04 => decide (i < nconst)
  | 0x05 => decide (i + 2 < nconst)
  | 0x06 => decide (k ≤ 10) && decide (i + 2 ^ k ≤ ntab)
  | 0x07 => decide (i + k < nconst)
  | 0x10 => decide (i + 1 < nconst)
  | _ => true

/-- The byte offset of the first word of an image that fails validation (R258). -/
def imageFault (t : Task) (off : Nat) (img : List (BitVec 64)) : Option Nat :=
  let h := (img.headD 0).toNat
  let w (i : Nat) : Nat := (img.getD i 0).toNat
  let n := imgSteps h
  let steps := (List.range n).map (fun i => (64 + 8 * i, w (8 + i)))
  let firstStep (p : Nat → Nat → Bool) : List (Nat × Bool) := steps.map (fun (x : Nat × Nat) => (x.1, p x.1 x.2))
  let checks : List (Nat × Bool) :=
    [(0, bits h 0 32 == 0x314E4653 && decide (1 ≤ n) && decide (n ≤ 128) && decide (imgConsts h ≤ 256)
        && decide (imgTable h ≤ 1024) && bits h 60 2 != 0 && bits h 62 2 == 0),
      (8, bits (w 1) 20 44 == 0)]
    ++ (List.range 6).map (fun i => (16 + 8 * i, w (2 + i) == 0))
    ++ firstStep (fun _ x => stepClean x)
    ++ [(8, (List.range 5).all (fun i => decide (bits (w 1) (4 * i) 4 ≤ 10)))]
    ++ firstStep (fun _ x => decide (bits x 59 5 ≤ 0x10))
    ++ firstStep (fun o x => (bits x 59 5 == 0) == (o == 64 + 8 * (n - 1)))
    ++ firstStep (fun _ x => stepIndexOk (imgConsts h) (imgTable h) x)
  match checks.find? (fun (x : Nat × Bool) => !x.2) with
  | some x => some x.1
  | none => (lsJudge .plain t off (8 * imgLen h)).map (fun (x : BitVec 8 × Nat) => (x.2 - off) / 8 * 8)

/-- VSFL (R258). -/
def execVsfl (f : VForm) (s : State) : Host.Outcome State Fault Refusal :=
  issue 0xAD f.pred (vCheck { d := .none, a := .s, ty := fun t => t == 0, mask := false, zm := false
                              imm := fun x => decide (16 ≤ x) && decide (x < 24) } f) (do
    vGate f
    let a ← readSrc f.a
    ensureValue (a.toNat % 8 == 0) 2
    let s ← getS
    let off := a.toNat
    let h := ((imageAt s.task off 1).headD 0).toNat
    let img := imageAt s.task off (imgLen h)
    match imageFault s.task off img with
    | some o => trap fcIllegalOperand (BitVec.ofNat 32 o)
    | none =>
      lsClean off (8 * imgLen h)
      modS (modCur (fun t => { t with sfn := t.sfn.setIfInBounds (f.imm.toNat - 16) (some ⟨off, img⟩) }))
      pure .seq) s

end Sys2Proof.Machine
end

