-- ==== Sys2Proof/Machine/Tiles.lean ====
section
/-! DEFINITION. X stream: local-store operands of the matrix engine and the transform unit, accumulator
tiles, and the instructions that clear, read, write and scale a tile (10 R260 to R263, R271 to R274, R277 to
R279). -/

namespace Sys2Proof.Machine

/-- An LS operand (R261): its first byte and length, and its ring with the bytes left in the slot. -/
structure LsArg where
  off  : Nat
  len  : Nat
  ring : Option (Fin 8)
  past : Bool
deriving DecidableEq, Repr

/-- A RING1 or RING2 field that may name a ring (Table 07.5). -/
def ringOpt (r : BitVec 4) : Bool := r.getLsbD 3 || r == 0#4

/-- The ring a field names. -/
def ringNamed (r : BitVec 4) : Option (Fin 8) := if r.getLsbD 3 then some (ringField r) else none

/-- An LS operand from its ring, if it has one, and its offset (R261). -/
def lsArg (s : State) (ring : Option (Fin 8)) (g : BitVec 64) (len : Nat) : LsArg :=
  match ring with
  | none => ⟨g.toNat, len, none, false⟩
  | some n =>
    let r := s.ringOf n
    ⟨r.slotAt r.head + g.toNat, len, some n, decide (ringSlotBytes r.cfg < g.toNat + len)⟩

/-- Whether an LS operand has bytes at all: one of a disabled ring has none. -/
def LsArg.real (s : State) (a : LsArg) : Bool := match a.ring with
  | some n => (s.ringOf n).en
  | none => true

/-- The lowest byte at or above the end of the local store. -/
def LsArg.bound (a : LsArg) : M Unit := fun s =>
  if a.real s && a.len != 0 && decide (0x180000 < a.off + a.len) then
    .error (.trap fcLsBound (BitVec.ofNat 32 (max a.off 0x180000 % 2 ^ 21)) 0)
  else .ok ((), s)

/-- A byte in the stash area. -/
def LsArg.region (a : LsArg) : M Unit := fun s =>
  if a.real s then lsCheck .noStash a.off a.len s else .ok ((), s)

/-- A disabled ring, or bytes beyond the slot. -/
def LsArg.ringState (a : LsArg) : M Unit := fun s =>
  match a.ring with
  | none => .ok ((), s)
  | some n =>
    if ¬ (s.ringOf n).en then .error (.trap fcRingMisuse (ringInfo n.val 1) 0)
    else if a.past then .error (.trap fcRingMisuse (ringInfo n.val 2) 0)
    else .ok ((), s)

/-- Stage 10 for the LS operands of an instruction: bound, region, then ring state (R261, R421). -/
def checkArgs (as : List LsArg) : M Unit := do
  let _ ← as.mapM LsArg.bound
  let _ ← as.mapM LsArg.region
  let _ ← as.mapM LsArg.ringState
  pure ()

/-- Stage 6 for the rings an instruction reads: slot HEAD of each is full (R60, R263). -/
def gateRings (rs : List (Option (Fin 8))) : M Unit := do
  let s ← getS
  match rs.find? (fun r => match r with
    | some n => (s.ringOf n).en && !(s.ringOf n).headFull
    | none => false) with
  | some (some n) => block (.ring n.val)
  | _ => pure ()

/-- Slot HEAD popped of each ring named, unless every operand of it keeps it (R60, R261).  A pop is an engine command
push (R123): it waits for the task's logged writes, and while the side log is full (R438, R439). -/
def popRings (rs : List (Option (Fin 8) × Bool)) : M Unit := do
  if rs.any (fun r => r.1.isSome && !r.2) then (do
    gateLog
    let s ← getS
    if ¬ writesPerformed s.task 2#2 then block .fence)
  modS (modCur (fun t => { t with
    rings := Vector.ofFn (fun i : Fin 8 =>
      if rs.any (fun r => r.1 == some i && !r.2) then t.rings[i].pop else t.rings[i]) }))

/-- Columns of a tile of a mode (Table 03.2). -/
def modeCols (m : BitVec 2) : Nat := if m = 2 then 32 else 64

/-- The extended form of a mode's elements (R54). -/
def modeFmt (m : BitVec 2) : Fmt := if m = 2 then fmtF64X else fmtF32X

/-- Element (i, j) of a tile: its pattern, its value, and in an I32 tile its integer. -/
def Tile.at (t : Tile) (i j : Nat) : Nat := ((t.el.toArray).getD (i * modeCols t.mode + j) 0).toNat
def Tile.val (t : Tile) (i j : Nat) : FVal := fdecode (modeFmt t.mode) (t.at i j)
def Tile.int (t : Tile) (i j : Nat) : Int := sxInt 32 (t.at i j)

/-- A tile with the elements of a list in cell order (R54). -/
def Tile.fill (t : Tile) (m : BitVec 2) (xs : List Nat) : Tile :=
  let a := xs.toArray
  { t with mode := m, el := Vector.ofFn (fun i : Fin 4096 => BitVec.ofNat 66 (a.getD i.val 0)) }

/-- The cells of a tile in order: row and column. -/
def cellList (m : BitVec 2) : List (Nat × Nat) :=
  (List.range 64).flatMap (fun i => (List.range (modeCols m)).map (fun j => (i, j)))

/-- The pattern of a value in a mode's extended form. -/
def extBits (m : BitVec 2) (v : FVal) : Nat := (fround (modeFmt m) .rne v).1

/-- The number of a tile operand. -/
def tileNum : Operand → Fin 4
  | .t n => n
  | _ => 0

/-- A tile of the current task. -/
def State.tile (s : State) (n : Fin 4) : Tile := s.task.t[n]

/-- A tile changed. -/
def modTile (n : Fin 4) (f : Tile → Tile) : M Unit := modS (modCur (fun t => { t with t := t.t.set n (f t.t[n]) }))

/-- TILE_MODE (Table 21.5): the tile, the mode held, the mode required or 0b11. -/
def badTile {α : Type} (n : Fin 4) (held required : BitVec 2) : M α :=
  trap fcTileMode (tileInfo n.val held.toNat required.toNat)

/-- RM in the system layout (Table 07.5): SR takes SCTL.RBITSM1 + 1 bits. -/
def sysSel (s : State) (rm : BitVec 3) : Nat × Nat :=
  roundSel s rm (if rm = 4 then BitVec.ofNat 4 (bits s.strm.sctl.toNat 4 4) else 0)

/-- The rule of an instruction without operands beyond those named. -/
def matRule : SysRule := { d := .unused, a := .unused, b := .unused, c := .unused, sub := fun x => x == 0#8 }

/-- ACLR (R271). -/
def execAclr (f : RSys) (s : State) : Host.Outcome State Fault Refusal :=
  issue 0xC2 f.pred (sysCheck { matRule with d := .tile, sub := fun x => decide (x.toNat < 3) } f) (do
    modTile (tileNum f.d) (fun _ => { mode := f.sub.setWidth 2, ovf := false, el := Vector.replicate 4096 0 })
    pure .seq) s

/-- The cells of one line of a tile: none for an index of N or more (R272). -/
def lineCells (m : BitVec 2) (col : Bool) (b : BitVec 64) (half : Bool) : Option (List (Nat × Nat)) :=
  let x := b.toNat % 64
  let hi := bitN b.toNat 6
  if 128 ≤ b.toNat ∨ (hi ∧ ¬ half) ∨ modeCols m ≤ x then none
  else
    let n := if col then 64 else modeCols m
    let es := if half then span (32 * b2n hi) 32 else List.range n
    some (es.map (fun e => if col then (e, x) else (x, e)))

/-- Whether a mode's elements convert to a type (Table 10.4). -/
def getTyOk (m : BitVec 2) (t : Nat) : Bool :=
  match m.toNat with
  | 0 => t == 9 || t == 0xA || t == 0xB || t == 0xC || t == 0xD || t == 2 || t == 1 || t == 0
  | 1 => t == 2 || t == 3 || t == 1 || t == 0 || t == 9 || t == 0xA || t == 0xB
  | 2 => t == 8 || t == 9 || t == 3 || t == 2
  | _ => false

/-- Whether APUT takes a type into a mode (Table 10.4). -/
def putTyOk (m : BitVec 2) (t : Nat) : Bool :=
  match m.toNat with
  | 0 => t == 9 || t == 0xA || t == 0xB || t == 0xC || t == 0xD
  | 1 => t == 2
  | 2 => t == 8 || t == 9
  | _ => false

/-- An element leaving a tile: converted to a type with its flags (R272, R276). -/
def leaveTile (m : BitVec 2) (ty : Nat) (mode : RMode) (t : Tile) (x : Nat × Nat) : Nat × FlagSet :=
  let tyc := BitVec.ofNat 5 ty
  if m = 1 then
    let v := t.int x.1 x.2
    if tyI ty then
      let r := intResult tyc true v
      (r.1.toNat % 2 ^ vWidth ty, r.2)
    else fround (floatFmt ty) mode (FVal.ofInt v)
  else if tyI ty then
    let r := floatToInt tyc mode (t.val x.1 x.2)
    (wrapN (vWidth ty) r.1, r.2)
  else fround (floatFmt ty) mode (t.val x.1 x.2)

/-- Whether AGET reads half a line of 64 elements (R272). -/
def halfLine (m : BitVec 2) (col : Bool) (ty : Nat) : Bool := (m == 2 && col) || (m == 1 && ty == 3)

/-- AGET (R272). -/
def execAget (f : RSys) (s : State) : Host.Outcome State Fault Refusal :=
  issue 0xC3 f.pred (sysCheck { matRule with d := .vdst, a := .tile, b := .src, rm := true
                                             sub := fun x => decide (x.toNat < 64) } f) (do
    gate [f.b] [f.d]
    let b ← readSrc f.b
    let s ← getS
    let n := tileNum f.a
    let t := s.tile n
    let ty := f.sub.toNat % 32
    let col := f.sub.getLsbD 5
    match lineCells t.mode col b (halfLine t.mode col ty) with
    | none => badValue 3
    | some cells =>
      if ¬ getTyOk t.mode ty then badTile n t.mode 3
      let sel := sysSel s f.rm
      let st ← advanceSeedM sel
      let w := vWidth ty
      let rs := ((List.range cells.length).zip cells).map (fun (x : Nat × (Nat × Nat)) =>
        leaveTile t.mode ty (modeOf sel st (lanePos w x.1) (subPos w x.1) w) t x.2)
      raise (rs.foldl (fun (a : FlagSet) (r : Nat × FlagSet) => a.or r.2) FlagSet.none)
      writeVDst f.d (vecOf w (rs.map Prod.fst))
      pure .seq) s

/-- An element entering a tile, exactly (R273). -/
def enterTile (m : BitVec 2) (ty x : Nat) : Nat :=
  if m = 1 then x % 2 ^ 32 else extBits m (fdecode (floatFmt ty) x)

/-- APUT (R273). -/
def execAput (f : RSys) (s : State) : Host.Outcome State Fault Refusal :=
  issue 0xC4 f.pred (sysCheck { matRule with d := .tile, a := .vsrc, b := .src, sub := fun x => decide (x.toNat < 64) } f) (do
    gate [f.a, f.b] []
    let v ← readVSrc f.a
    let b ← readSrc f.b
    let s ← getS
    let n := tileNum f.d
    let t := s.tile n
    let ty := f.sub.toNat % 32
    let col := f.sub.getLsbD 5
    match lineCells t.mode col b (t.mode == 2 && col) with
    | none => badValue 3
    | some cells =>
      if ¬ putTyOk t.mode ty then badTile n t.mode 3
      let cols := modeCols t.mode
      modTile n (fun t => { t with
        el := ((List.range cells.length).zip cells).foldl (fun (e : Vector (BitVec 66) 4096) (x : Nat × (Nat × Nat)) =>
          e.setIfInBounds (x.2.1 * cols + x.2.2) (BitVec.ofNat 66 (enterTile t.mode ty (elemN v (vWidth ty) x.1)))) t.el })
      pure .seq) s

/-- ASCALE (R274). -/
def execAscale (f : RSys) (s : State) : Host.Outcome State Fault Refusal :=
  issue 0xC5 f.pred (sysCheck { matRule with d := .tile, a := .src, rm := true, sub := fun x => decide (x.toNat < 2) } f) (do
    gate [f.a] []
    let a ← readSrc f.a
    let s ← getS
    let n := tileNum f.d
    let t := s.tile n
    let exp2 := f.sub.getLsbD 0
    if exp2 then ensureValue (decide (a.toNat < 2 ^ 16)) 2
    else ensureValue (t.mode != 0 || decide (a.toNat < 2 ^ 32)) 2
    if t.mode = 1 then badTile n t.mode 3
    let sel := sysSel s f.rm
    let st ← advanceSeedM sel
    let k := if exp2 then .fin false 1 (sxInt 16 a.toNat) false
      else if t.mode = 0 then fdecode fmtF32 (a.toNat % 2 ^ 32) else fdecode fmtF64 a.toNat
    let rs := (cellList t.mode).map (fun (x : Nat × Nat) =>
      match k with
      | .nan sig => ((modeFmt t.mode).nanBits, if sig then FlagSet.onlyNv else FlagSet.none)
      | k =>
        let e := fmulE (t.val x.1 x.2) k
        let r := fround (modeFmt t.mode) (modeOf sel st (x.2 % 64) (x.1 % 4) 32) e.1
        (r.1, e.2.or r.2))
    raise (rs.foldl (fun (a : FlagSet) (r : Nat × FlagSet) => a.or r.2) FlagSet.none)
    modTile n (fun t => t.fill t.mode (rs.map Prod.fst))
    pure .seq) s

/-- RPOP (R277). -/
def execRpop (f : RSys) (s : State) : Host.Outcome State Fault Refusal :=
  issue 0xC7 f.pred (sysCheck { matRule with ring1 := fun r => r.getLsbD 3 } f) (do
    gateRings [ringNamed f.ring1]
    let s ← getS
    (lsArg s (ringNamed f.ring1) 0 0).ringState
    popRings [(ringNamed f.ring1, false)]
    pure .seq) s

/-- The storage cell of an element as SIGT mixes it (R54, R278). -/
def sigStep (m : BitVec 2) (s : BitVec 64) (x : Nat × Nat) : BitVec 64 :=
  let c := x.1
  if m = 2 then
    let a := mix64 (s ^^^ BitVec.ofNat 64 x.2)
    mix64 (a ^^^ BitVec.ofNat 64 (x.2 / 2 ^ 64) ^^^ BitVec.ofNat 64 (c * 2 ^ 32))
  else
    let cell := if m = 1 then wrapN 48 (sxInt 32 x.2) else x.2
    mix64 (s ^^^ BitVec.ofNat 64 cell ^^^ BitVec.ofNat 64 (c * 2 ^ 48))

/-- The signature of a tile (R278). -/
def Tile.signature (t : Tile) (seed : BitVec 64) : BitVec 64 :=
  let n := 64 * modeCols t.mode
  ((List.range n).zip ((t.el.toList.take n).map (·.toNat))).foldl (sigStep t.mode)
    (mix64 (seed ^^^ BitVec.ofNat 64 (t.mode.toNat * 2 ^ 62)))

/-- SIGT (R278). -/
def execSigt (f : RSys) (s : State) : Host.Outcome State Fault Refusal :=
  issue 0xC8 f.pred (sysCheck { matRule with d := .dst, a := .tile, b := .src } f) (do
    gate [f.b] [f.d]
    let b ← readSrc f.b
    let s ← getS
    writeDst f.d ((s.tile (tileNum f.a)).signature b)
    pure .seq) s

/-- SIGCHK (R279). -/
def execSigchk (f : RSys) (s : State) : Host.Outcome State Fault Refusal :=
  issue 0xC9 f.pred (sysCheck { matRule with d := .pred, a := .src, b := .src, sub := fun x => decide (x.toNat < 2)
                                             imm := fun _ => true } f) (do
    gate [f.a, f.b] []
    let a ← readSrc f.a
    let b ← readSrc f.b
    if a = b then
      writeDst f.d (predBits true)
    else if f.sub.getLsbD 0 then trap fcSigMismatch f.imm
    else
      writeDst f.d (predBits false)
      modS (fun s => pushEventTo s.task.tid .core (eventOf (eventLow f.imm.toNat 0 fcSigMismatch.toNat 7) a.toNat) s)
    pure .seq) s

end Sys2Proof.Machine
end

