-- ==== Sys2Proof/Machine/Matrix.lean ====
section
/-! DEFINITION. X stream: format words, the tile commands MMA and MMAT, and the Legendre stage (10 R264 to R270,
R286 to R288; 04 R82 to R85). -/

namespace Sys2Proof.Machine

/-- The format word at the head of q14; without one the stream waits, or traps when none can come (R265, R424). -/
def formatHead : M (BitVec 64) := fun s =>
  match s.task.q14 with
  | w :: _ => .ok (w, s)
  | [] => if s.task.fmtDone ∨ s.task.c.fin then .error (.trap fcFormatUnderflow 0 0) else .error (.wait .format)

/-- One use of the word at the head of q14 counted; the last use pops it (R265). -/
def Task.useFormat (t : Task) : Task :=
  let rep := bits (t.q14.headD 0).toNat 56 8
  if t.q14uses = rep then { t with q14 := t.q14.tail, q14uses := 0 } else { t with q14uses := t.q14uses + 1 }

/-- FMTPOP (R266). -/
def execFmtpop (f : RSys) (s : State) : Host.Outcome State Fault Refusal :=
  issue 0xCF f.pred (sysCheck { matRule with d := .greg } f) (do
    let w ← formatHead
    modS (modCur (fun t => { t with q14 := t.q14.tail, q14uses := 0 }))
    writeDst f.d w
    pure .seq) s

/-- How a tile command accumulates (R269). -/
inductive MmaKind where
  | fused
  | grouped
  | integer
deriving DecidableEq, Repr

/-- What a format word asks of a tile command (Tables 10.2 and 10.3). -/
structure MmaShape where
  mode : BitVec 2
  n    : Nat
  k    : Nat
  kind : MmaKind
  aty  : Nat
  bty  : Nat
  apitch : Nat
  bpitch : Nat
  fixed  : Option Int
deriving DecidableEq, Repr

/-- The row of Table 10.3 for a type pair: tile mode, kind, and the greatest K. -/
def mmaRow (mmat : Bool) (a b : Nat) : Option (BitVec 2 × MmaKind × Nat) :=
  if a = 8 ∧ b = 8 then some (2, .fused, 16)
  else if a = 9 ∧ b = 9 then some (0, .fused, 16)
  else if a = b ∧ (a = 0xA ∨ a = 0xB) then some (0, .grouped, 256)
  else if (a = 0xC ∨ a = 0xD) ∧ (b = 0xC ∨ b = 0xD) then some (0, .grouped, 512)
  else if (a = 0 ∨ a = 4) ∧ (b = 0 ∨ b = 4) then some (1, .integer, 512)
  else if a = 0xE ∧ b = 0xE ∧ mmat then some (0, .grouped, 1024)
  else none

/-- Bytes of a row of n elements (R268). -/
def rowBytes (ty n : Nat) : Nat := if ty = 0xE then n / 2 + n / 32 else n * tyBytes ty

/-- The elements a row of operand B has (R268). -/
def MmaShape.bElems (h : MmaShape) (mmat : Bool) : Nat := if mmat then h.k else h.n
def MmaShape.bRows (h : MmaShape) (mmat : Bool) : Nat := if mmat then h.n else h.k

/-- A format word judged (R264). -/
def mmaShape (mmat : Bool) (w : BitVec 64) : Option MmaShape :=
  let x := w.toNat
  let a := bits x 0 5
  let b := bits x 5 5
  match mmaRow mmat a b with
  | none => none
  | some (mode, kind, top) =>
    let h : MmaShape :=
      { mode := mode, n := modeCols mode, k := bits x 34 11, kind := kind, aty := a, bty := b
        apitch := 32 * bits x 23 11, bpitch := 32 * bits x 12 11
        fixed := if bitN x 46 then some (sxInt 9 (bits x 47 9)) else none }
    if bitN x 45 || bits x 10 2 != 0 || h.k == 0 || decide (top < h.k) || (a == 0xE && h.k % 32 != 0)
      || h.apitch == 0 || h.bpitch == 0 || decide (h.apitch < rowBytes a h.k)
      || decide (h.bpitch < rowBytes b (h.bElems mmat)) then none
    else some h

/-- The values of a row of n elements: a block's scale bytes follow the codes of an .mxf4 row (R268, R71). -/
def rowVals (ty n : Nat) (bs : List (BitVec 8)) : List FVal :=
  if ty = 0xE then
    let codes := bytesNat (bs.take (n / 2))
    let scales := bs.drop (n / 2)
    (List.range n).map (fun k => mxValue (bits codes (4 * k) 4) (scales.getD (k / 32) 0).toNat)
  else (bytesElems (tyBytes ty) n bs).map (fdecode (floatFmt ty))

/-- The integers of a row of .i8 or .n8 elements (R269). -/
def rowInts (ty n : Nat) (bs : List (BitVec 8)) : List Int :=
  (bytesElems 1 n bs).map (fun x => if ty = 0 then sxInt 8 x else (x : Int))

/-- R82: fused multiply-adds in increasing k in the extended form. -/
def dotFused (fm : Fmt) (c : FVal) (ab : List (FVal × FVal)) : Flagged :=
  ab.foldl (fun (acc : Flagged) (x : FVal × FVal) =>
    let e := fmaE false x.1 x.2 acc.1
    let r := froundV fm .rne e.1
    (r.1, acc.2.or (e.2.or r.2))) (c, FlagSet.none)

/-- The exponent of a product, if it is not zero. -/
def prodExpo : FVal → Option Int
  | .fin _ m e _ => if m = 0 then none else some (Nat.log2 m + e)
  | _ => none

/-- The rounding of a product to the place of its group's sum (R83); it sets NX where it rounds (R76, R86). -/
def groupTerm (u : Int) (p : FVal) : Int × FlagSet :=
  match p with
  | .fin neg m e st =>
    let r := roundInt .rne neg m (e - u) st
    (r.1, { FlagSet.none with nx := !r.2 })
  | _ => (0, FlagSet.none)

/-- group_sum (R83) of finite products, its flags, and whether it saturated. -/
def groupSum (fixed : Option Int) (ps : List FVal) : Flagged × Bool :=
  let tops := ps.filterMap prodExpo
  match tops with
  | [] => ((.fin (ps.all FVal.neg) 0 0 false, FlagSet.none), false)
  | t :: ts =>
    let a := fixed.getD (ts.foldl max t)
    let terms := ps.map (groupTerm (a - 33))
    let s : Int := terms.foldl (fun (acc : Int) x => acc + x.1) 0
    let flags := terms.foldl (fun (acc : FlagSet) x => acc.or x.2) FlagSet.none
    let top : Int := 2 ^ 39 - 1
    let satd := fixed.isSome && decide (top < s ∨ s < -top)
    ((ofScaled (if satd then (if s < 0 then -top else top) else s) (a - 33) false, flags), satd)

/-- The sum of a group with special operands (R84). -/
def groupValue (fixed : Option Int) (ab : List (FVal × FVal)) : Flagged × Bool :=
  let ps := ab.map (fun x => (fmulE x.1 x.2).1)
  let pos := ps.any (· == .inf false)
  let neg := ps.any (· == .inf true)
  if ps.any FVal.isNan ∨ (pos ∧ neg) then ((.nan false, FlagSet.onlyNv), false)
  else if pos ∨ neg then ((.inf neg, FlagSet.none), false)
  else groupSum fixed ps

/-- R83 and R84 over the groups of 32 in increasing k, and whether a group saturated. -/
def dotGroups (fixed : Option Int) (c : FVal) (ab : List (FVal × FVal)) : Flagged × Bool :=
  (chunksOf 32 (ab.length / 32 + 1) ab).foldl (fun (acc : Flagged × Bool) g =>
    if g = [] then acc
    else
      let v := groupValue fixed g
      (extAdd fmtF32X acc.1 v.1, acc.2 || v.2)) ((c, FlagSet.none), false)

/-- One element of a product: its new pattern, its flags, and whether a group saturated (R269). -/
def mmaElem (h : MmaShape) (c : FVal) (ab : List (FVal × FVal)) : Nat × FlagSet × Bool :=
  match h.kind with
  | .fused =>
    let r := dotFused (modeFmt h.mode) c ab
    (extBits h.mode r.1, r.2, false)
  | _ =>
    let r := dotGroups h.fixed c ab
    (extBits h.mode r.1.1, r.1.2, r.2)

/-- Columns of a list of rows. -/
def columns {α : Type} (n : Nat) (rows : List (List α)) : List (List α) :=
  (List.range n).map (fun j => rows.filterMap (fun r => r[j]?))

/-- The rows of an operand in the local store (R268). -/
def lsRows (t : Task) (off pitch rows n : Nat) : List (List (BitVec 8)) :=
  (List.range rows).map (fun r => t.lsRead (off + pitch * r) n)

/-- The first bank conflict of a beat of an operand, as the INFO of LS_CONFLICT (R268, Table 21.5). -/
def beatConflict (swz off pitch rows rb opnd : Nat) : Option Nat :=
  (List.range ((rb + 31) / 32)).findSome? (fun u =>
    (bankPair swz ((List.range rows).map (fun r => (off + pitch * r) / 32 + u))).map (fun x =>
      x.2.2 + 2 ^ 8 * x.1 + 2 ^ 16 * x.2.1 + 2 ^ 24 * (u % 64) + 2 ^ 30 * opnd))

/-- MMAT traps on a beat with two units in one bank (R268). -/
def checkBeats (off pitch rows rb opnd : Nat) : M Unit := fun s =>
  match beatConflict (lscfgSwz s.task.lscfg) off pitch rows rb opnd with
  | some i => .error (.trap fcLsConflict (BitVec.ofNat 32 i) 0)
  | none => .ok ((), s)

/-- The elements of the tile after a tile command, in cell order, with the flags and whether a group
saturated (R269). -/
def mmaResult (h : MmaShape) (z mmat : Bool) (old : Tile) (ra rb : List (List (BitVec 8))) :
    List Nat × FlagSet × Bool :=
  match h.kind with
  | .integer =>
    let as := ra.map (rowInts h.aty h.k)
    let rows := rb.map (rowInts h.bty (h.bElems mmat))
    let bs := if mmat then rows else columns h.n rows
    (((List.range 64).zip as).flatMap (fun a => ((List.range h.n).zip bs).map (fun b =>
      wrapN 32 ((if z then 0 else old.int a.1 b.1) + ((a.2.zip b.2).map (fun x => x.1 * x.2)).sum))), FlagSet.none, false)
  | _ =>
    let as := ra.map (rowVals h.aty h.k)
    let rows := rb.map (rowVals h.bty (h.bElems mmat))
    let bs := if mmat then rows else columns h.n rows
    let rs := ((List.range 64).zip as).flatMap (fun a => ((List.range h.n).zip bs).map (fun b =>
      mmaElem h (if z then .fin false 0 0 false else old.val a.1 b.1) (a.2.zip b.2)))
    (rs.map Prod.fst, rs.foldl (fun (a : FlagSet) (r : Nat × FlagSet × Bool) => a.or r.2.1) FlagSet.none, rs.any (fun r => r.2.2))

/-- A tile command (R263 to R270). -/
def mmaBody (mmat : Bool) (f : RSys) : M Flow := do
  let w ← formatHead
  let ra := ringNamed f.ring1
  let rb := ringNamed f.ring2
  gateRings [ra, rb]
  let ga ← readSrc f.a
  let gb ← readSrc f.b
  let s ← getS
  match mmaShape mmat w with
  | none => trap fcIllegalOperand (w.setWidth 32)
  | some h =>
    let z := f.sub.getLsbD 0
    let ab := rowBytes h.aty h.k
    let bb := rowBytes h.bty (h.bElems mmat)
    let a := lsArg s ra ga (h.apitch * 63 + ab)
    let b := lsArg s rb gb (h.bpitch * (h.bRows mmat - 1) + bb)
    checkArgs [a, b]
    if mmat then
      checkBeats a.off h.apitch 64 ab 0
      checkBeats b.off h.bpitch (h.bRows mmat) bb 1
    let n := tileNum f.d
    let t := s.tile n
    if ¬ z ∧ t.mode ≠ h.mode then badTile n t.mode h.mode
    lsCleanRows a.off h.apitch 64 ab
    lsCleanRows b.off h.bpitch (h.bRows mmat) bb
    let r := mmaResult h z mmat t (lsRows s.task a.off h.apitch 64 ab) (lsRows s.task b.off h.bpitch (h.bRows mmat) bb)
    modS (modCur Task.useFormat)
    raise r.2.1
    modTile n (fun t => { t.fill h.mode r.1 with ovf := t.ovf || r.2.2 })
    popRings [(ra, f.sub.getLsbD 1), (rb, f.sub.getLsbD 2)]
    pure .seq

/-- The field rule of a tile command (Table 10.1). -/
def mmaRule : SysRule :=
  { matRule with d := .tile, a := .greg, b := .greg, sub := fun x => decide (x.toNat < 8), ring1 := ringOpt, ring2 := ringOpt }

/-- MMA (R267 to R270). -/
def execMma (f : RSys) (s : State) : Host.Outcome State Fault Refusal :=
  issue 0xC0 f.pred (sysCheck mmaRule f) (mmaBody false f) s

/-- MMAT (R267 to R270). -/
def execMmat (f : RSys) (s : State) : Host.Outcome State Fault Refusal :=
  issue 0xC1 f.pred (sysCheck mmaRule f) (mmaBody true f) s

/-- A Legendre plan (Table 10.9). -/
structure Legendre where
  rows : Nat
  k    : Nat
  mode : BitVec 2
  ring : Fin 8
  tpitch : Nat
  fpitch : Nat
deriving DecidableEq, Repr

/-- The fields of a Legendre plan. -/
def legendreOf (x : Nat) : Legendre :=
  { rows := bits x 0 7, k := bits x 8 5, mode := if bitN x 13 then 2 else 0, ring := Fin.ofNat 8 (bits x 15 3)
    tpitch := bits x 64 21, fpitch := bits x 85 21 }

/-- The element size of a Legendre plan. -/
def Legendre.z (l : Legendre) : Nat := if l.mode = 2 then 8 else 4

/-- Whether an FFT descriptor is a Legendre plan with its fields in range (Table 10.9). -/
def legendreOk (x : Nat) : Bool :=
  let l := legendreOf x
  bits x 60 4 == 1 && decide (1 ≤ l.rows) && decide (l.rows ≤ 64) && !bitN x 7 && decide (1 ≤ l.k) && decide (l.k ≤ 16)
    && !bitN x 14 && bits x 18 42 == 0 && bits x 106 406 == 0
    && l.tpitch % l.z == 0 && decide (l.k * l.z ≤ l.tpitch) && decide (modeCols l.mode * l.z ≤ l.fpitch)

/-- The elements of the tile after SHTL, with the flags (R287). -/
def shtlResult (l : Legendre) (z : Bool) (old : Tile) (ps fs : List (List (BitVec 8))) : List Nat × FlagSet :=
  let fm := if l.mode = 2 then fmtF64 else fmtF32
  let vals (n : Nat) (bs : List (BitVec 8)) : List FVal := (bytesElems l.z n bs).map (fdecode fm)
  let rows := ps.map (vals l.k)
  let cols := columns (modeCols l.mode) (fs.map (vals (modeCols l.mode)))
  let rs := (cellList l.mode).map (fun (x : Nat × Nat) =>
    let c : FVal := if z then .fin false 0 0 false else old.val x.1 x.2
    if x.1 < l.rows then
      let r := dotFused (modeFmt l.mode) c ((rows.getD x.1 []).zip (cols.getD x.2 []))
      (extBits l.mode r.1, r.2)
    else (extBits l.mode c, FlagSet.none))
  (rs.map Prod.fst, rs.foldl (fun (a : FlagSet) (r : Nat × FlagSet) => a.or r.2) FlagSet.none)

/-- SHTL (R286 to R288). -/
def execShtl (f : EForm) (s : State) : Host.Outcome State Fault Refusal :=
  issue 0xCD f.pred (eCheck { a := .tile, b := .greg, sub := fun x => decide (x.toNat < 4), wait := true, sig := true, obj := true } f) (do
    gateWait (waitOf f.wmode f.wsem f.wthr)
    let x ← useObj f.obj 6 legendreOk (fun _ => true)
    let l := legendreOf x
    gateRings [some l.ring]
    let b ← readSrc f.b
    let s ← getS
    let keep := f.sub.getLsbD 0
    let z := f.sub.getLsbD 1
    let p := lsArg s (some l.ring) 0 (l.rows * l.tpitch)
    let fo := lsArg s none b ((l.k - 1) * l.fpitch + modeCols l.mode * l.z)
    checkArgs [fo, p]
    let n := tileNum f.a
    let t := s.tile n
    if ¬ z ∧ t.mode ≠ l.mode then badTile n t.mode l.mode
    lsCleanRows p.off l.tpitch l.rows (l.k * l.z)
    lsCleanRows fo.off l.fpitch l.k (modeCols l.mode * l.z)
    let r := shtlResult l z t (lsRows s.task p.off l.tpitch l.rows (l.k * l.z))
      (lsRows s.task fo.off l.fpitch l.k (modeCols l.mode * l.z))
    raise r.2
    modTile n (fun t => t.fill l.mode r.1)
    popRings [(some l.ring, keep)]
    ownSignal f.ssem f.sinc.toNat) s

end Sys2Proof.Machine
end

