-- ==== Sys2Proof/Machine/Transform.lean ====
section
/-! DEFINITION. X stream: FFT plans and transforms, the spectral multiply, and the block transpose (10 R280 to
R285, R289). -/

namespace Sys2Proof.Machine

/-- π·2^256, rounded down: the constant of the twiddle table (R283). -/
def piFix : Int := 0x3243f6a8885a308d313198a2e03707344a4093822299f31d0082efa98ec4e6c89

/-- The Taylor sum of cos (n = 0) or sin (n = 1) from a term on, all scaled by 2^256. -/
def taylor : Nat → Nat → Int → Int → Int
  | 0, _, _, _ => 0
  | fuel + 1, n, x2, term => term + taylor fuel (n + 2) x2 (-(term * x2 / 2 ^ 256 / ((n + 1) * (n + 2) : Nat)))

/-- cos and sin of (π/2)·(r/m), scaled by 2^256, for r < m. -/
def quadrant (r m : Nat) : Int × Int :=
  let x := piFix * r / (2 * m : Nat)
  let x2 := x * x / 2 ^ 256
  (taylor 40 0 x2 (2 ^ 256), taylor 40 1 x2 x)

/-- cos and sin of 2πt/m as exact zeros and ones, or scaled by 2^256 to far more places than a format keeps
(R283). -/
def cosSin (t m : Nat) : Int × Int :=
  let q := 4 * t / m % 4
  let r := 4 * t % m
  let cs : Int × Int := if r = 0 then (2 ^ 256, 0) else quadrant r m
  match q with
  | 0 => (cs.1, cs.2)
  | 1 => (-cs.2, cs.1)
  | 2 => (-cs.1, -cs.2)
  | _ => (cs.2, -cs.1)

/-- A complex value. -/
abbrev CVal := FVal × FVal

/-- Computations that raise flags. -/
abbrev Fl := StateM FlagSet

/-- A value with its flags noted. -/
def noted (x : Flagged) : Fl FVal := do
  modify (fun f => f.or x.2)
  pure x.1

/-- What a transform computes in (R283): the stored and the extended format, and σ. -/
structure FftCtx where
  fm  : Fmt
  fx  : Fmt
  inv : Bool

/-- A constant correctly rounded to the stored format; an exact zero is +0 (R283). -/
def FftCtx.const (c : FftCtx) (x : Int) : FVal := (froundV c.fm .rne (ofScaled x (-256) false)).1

/-- tw(t, M) (R283). -/
def FftCtx.tw (c : FftCtx) (t m : Nat) : CVal :=
  let cs := cosSin t m
  (c.const cs.1, c.const (if c.inv then cs.2 else -cs.2))

/-- rnd: one rounding to the extended format (R283). -/
def FftCtx.rnd (c : FftCtx) (x : Flagged) : Fl FVal := do
  let v ← noted x
  noted (froundV c.fx .rne v)

/-- a·b ± c·d, exact. -/
def crossE (a b : FVal) (neg : Bool) (c d : FVal) : Flagged :=
  let p := fmulE a b
  let q := fmulE c d
  let r := faddE false p.1 (if neg then q.1.negate else q.1)
  (r.1, p.2.or (q.2.or r.2))

/-- cmul (R283). -/
def FftCtx.cmul (c : FftCtx) (a w : CVal) : Fl CVal := do
  let re ← c.rnd (crossE a.1 w.1 true a.2 w.2)
  let im ← c.rnd (crossE a.1 w.2 false a.2 w.1)
  pure (re, im)

/-- Addition and subtraction with one rounding of each component (R284). -/
def FftCtx.add (c : FftCtx) (a b : CVal) : Fl CVal := do
  let re ← c.rnd (faddE false a.1 b.1)
  let im ← c.rnd (faddE false a.2 b.2)
  pure (re, im)
def FftCtx.sub (c : FftCtx) (a b : CVal) : Fl CVal := c.add a (b.1.negate, b.2.negate)

/-- rot(z) = σ·i·z (R284). -/
def FftCtx.rot (c : FftCtx) (z : CVal) : CVal := if c.inv then (z.2.negate, z.1) else (z.2, z.1.negate)

/-- scl and fm (R284). -/
def FftCtx.scl (c : FftCtx) (z : CVal) (k : FVal) : Fl CVal := do
  let re ← c.rnd (fmulE z.1 k)
  let im ← c.rnd (fmulE z.2 k)
  pure (re, im)
def FftCtx.fma (c : FftCtx) (k : FVal) (z u : CVal) : Fl CVal := do
  let re ← c.rnd (fmaE false k z.1 u.1)
  let im ← c.rnd (fmaE false k z.2 u.2)
  pure (re, im)

/-- Element q of a list of complex values. -/
def nth (v : List CVal) (q : Nat) : CVal := v.getD q (.fin false 0 0 false, .fin false 0 0 false)

/-- The radix-4 butterfly (Table 10.8). -/
def FftCtx.bfly4 (c : FftCtx) (v0 v1 v2 v3 : CVal) : Fl (List CVal) := do
  let a ← c.add v0 v2
  let b ← c.sub v0 v2
  let x ← c.add v1 v3
  let y ← c.sub v1 v3
  let d := c.rot y
  pure [← c.add a x, ← c.add b d, ← c.sub a x, ← c.sub b d]

/-- The radix-8 butterfly (Table 10.8). -/
def FftCtx.bfly8 (c : FftCtx) (v : List CVal) : Fl (List CVal) := do
  let a0 ← c.add (nth v 0) (nth v 4)
  let a1 ← c.add (nth v 1) (nth v 5)
  let a2 ← c.add (nth v 2) (nth v 6)
  let a3 ← c.add (nth v 3) (nth v 7)
  let b0 ← c.sub (nth v 0) (nth v 4)
  let b1 ← c.cmul (← c.sub (nth v 1) (nth v 5)) (c.tw 1 8)
  let b2 ← c.sub (nth v 2) (nth v 6)
  let b3 ← c.cmul (← c.sub (nth v 3) (nth v 7)) (c.tw 3 8)
  let e ← c.bfly4 a0 a1 a2 a3
  let o ← c.bfly4 b0 b1 (c.rot b2) b3
  pure ((List.range 4).flatMap (fun p => [nth e p, nth o p]))

/-- The radix-3 butterfly (Table 10.8). -/
def FftCtx.bfly3 (c : FftCtx) (v : List CVal) : Fl (List CVal) := do
  let s3 := c.const (cosSin 1 3).2
  let t1 ← c.add (nth v 1) (nth v 2)
  let t2 ← c.fma (.fin true 1 (-1) false) t1 (nth v 0)
  let t3 := c.rot (← c.scl (← c.sub (nth v 1) (nth v 2)) s3)
  pure [← c.add (nth v 0) t1, ← c.add t2 t3, ← c.sub t2 t3]

/-- The radix-5 butterfly (Table 10.8). -/
def FftCtx.bfly5 (c : FftCtx) (v : List CVal) : Fl (List CVal) := do
  let k (t : Nat) : FVal × FVal := (c.const (cosSin t 5).1, c.const (cosSin t 5).2)
  let c1 := (k 1).1
  let s1 := (k 1).2
  let c2 := (k 2).1
  let s2 := (k 2).2
  let t1 ← c.add (nth v 1) (nth v 4)
  let t2 ← c.add (nth v 2) (nth v 3)
  let t3 ← c.sub (nth v 1) (nth v 4)
  let t4 ← c.sub (nth v 2) (nth v 3)
  let o0 ← c.add (nth v 0) (← c.add t1 t2)
  let a1 ← c.fma c2 t2 (← c.fma c1 t1 (nth v 0))
  let a2 ← c.fma c1 t2 (← c.fma c2 t1 (nth v 0))
  let b1 ← c.fma s2 t4 (← c.scl t3 s1)
  let b2 ← c.fma s1.negate t4 (← c.scl t3 s2)
  pure [o0, ← c.add a1 (c.rot b1), ← c.add a2 (c.rot b2), ← c.sub a2 (c.rot b2), ← c.sub a1 (c.rot b1)]

/-- bfly(r, v) (Table 10.8). -/
def FftCtx.bfly (c : FftCtx) (r : Nat) (v : List CVal) : Fl (List CVal) := do
  match r with
  | 2 => pure [← c.add (nth v 0) (nth v 1), ← c.sub (nth v 0) (nth v 1)]
  | 3 => c.bfly3 v
  | 4 => c.bfly4 (nth v 0) (nth v 1) (nth v 2) (nth v 3)
  | 5 => c.bfly5 v
  | _ => c.bfly8 v

/-- A radix from its code (Table 10.7). -/
def radixOf (code : Nat) : Nat := match code with
  | 1 => 2
  | 2 => 3
  | 3 => 4
  | 4 => 5
  | 5 => 8
  | _ => 0

/-- An FFT plan (Table 10.7). -/
structure Plan where
  n     : Nat
  big   : Bool
  inv   : Bool
  scale : Int
  batch : Nat
  radices : List Nat
  ibatch : Nat
  obatch : Nat
deriving DecidableEq, Repr

/-- The fields of an FFT plan. -/
def planOf (x : Nat) : Plan :=
  { n := bits x 0 13, big := bits x 14 2 == 1, inv := bitN x 16, scale := sxInt 7 (bits x 17 7), batch := bits x 24 8 + 1
    radices := (List.range (bits x 32 4)).map (fun s => radixOf (bits x (64 + 3 * s) 3))
    ibatch := bits x 128 21, obatch := bits x 149 21 }

/-- The element size of a plan. -/
def Plan.es (p : Plan) : Nat := if p.big then 16 else 8

/-- The byte offset of the word of the first check of R280 that fails (R281). -/
def planBad (x : Nat) : Option Nat :=
  let p := planOf x
  let ns := bits x 32 4
  let load := p.n * p.batch * ns
  let chk : List (Bool × Nat) := [
    (bits x 60 4 == 0, 0),
    (decide (2 ≤ p.n) && decide (p.n ≤ 4096) && !bitN x 13 && decide (bits x 14 2 ≤ 1) && decide (1 ≤ ns) && decide (ns ≤ 12)
      && bits x 36 24 == 0, 0),
    ((List.range 12).all (fun s => let c := bits x (64 + 3 * s) 3
        if s < ns then radixOf c != 0 else c == 0) && bits x 100 28 == 0, 8),
    (bits x 170 22 == 0, 16), (bits x 192 64 == 0, 24), (bits x 256 64 == 0, 32), (bits x 320 64 == 0, 40),
    (bits x 384 64 == 0, 48), (bits x 448 64 == 0, 56),
    (p.radices.foldl (· * ·) 1 == p.n, 8),
    (decide (p.n ≤ (if p.big then 2048 else 4096)), 0),
    (decide (load ≤ (if p.big then 15360 else 30720)), 0),
    (decide (p.n * p.es ≤ p.ibatch) && p.ibatch % p.es == 0 && decide (p.n * p.es ≤ p.obatch) && p.obatch % p.es == 0, 16)]
  (chk.find? (fun c => !c.1)).map Prod.snd

/-- FFTSET (R281). -/
def execFftset (f : EForm) (s : State) : Host.Outcome State Fault Refusal :=
  issue 0xCA f.pred (eCheck { a := .unused, b := .unused, sub := fun x => decide (x.toNat < 4), wait := true, sig := true, obj := true } f) (do
    gateWait (waitOf f.wmode f.wsem f.wthr)
    let x ← useObj f.obj 6 (fun _ => true) (fun _ => true)
    match planBad x with
    | some off => trap fcIllegalOperand (BitVec.ofNat 32 off)
    | none =>
      let n : Fin 4 := Fin.ofNat 4 f.sub.toNat
      modS (modCur (fun t => { t with plans := t.plans.set n (some (BitVec.ofNat 512 x)) }))
      ownSignal f.ssem f.sinc.toNat) s

/-- One stage of a transform: the radix r over x with ns points combined so far (R283). -/
def FftCtx.stage (c : FftCtx) (n r ns : Nat) (x : Array CVal) : Fl (Array CVal) := do
  let z : CVal := (.fin false 0 0 false, .fin false 0 0 false)
  (List.range (n / r)).foldlM (fun (y : Array CVal) (j : Nat) => do
    let h := j % ns
    let v ← (List.range r).mapM (fun q => c.cmul (x.getD (j + q * (n / r)) z) (c.tw (q * h) (ns * r)))
    let o ← c.bfly r v
    pure ((List.range r).foldl (fun (y : Array CVal) (q : Nat) => y.setIfInBounds ((j - h) * r + h + q * ns) (nth o q)) y))
    (Array.replicate n z)

/-- The stages in order (R283). -/
def FftCtx.stages (c : FftCtx) (n : Nat) : Nat → List Nat → Array CVal → Fl (Array CVal)
  | _, [], x => pure x
  | ns, r :: rs, x => do
    let y ← c.stage n r ns x
    c.stages n (ns * r) rs y

/-- A value times 2^k, exact. -/
def scaleBy (k : Int) : FVal → FVal
  | .fin neg m e st => .fin neg m (if m = 0 then e else e + k) st
  | v => v

/-- A complex element from its bytes, and its bytes. -/
def complexOf (big : Bool) (x : Nat) : CVal :=
  let fm := if big then fmtF64 else fmtF32
  (fdecode fm (x % 2 ^ fm.width), fdecode fm (x / 2 ^ fm.width))
def complexBytes (big : Bool) (re im : Nat) : List (BitVec 8) :=
  let b := if big then 8 else 4
  natBytes b re ++ natBytes b im

/-- A component's final conversion (R69, R283, R285). -/
def finalPart (fm : Fmt) (x : Flagged) : Fl Nat := do
  let v ← noted x
  let r := fround fm .rne v
  modify (fun f => f.or r.2)
  pure r.1

/-- One transform: its input elements as numbers, its result bytes (R283). -/
def Plan.run (p : Plan) (xs : List Nat) : Fl (List (BitVec 8)) := do
  let c : FftCtx := if p.big then ⟨fmtF64, fmtF64X, p.inv⟩ else ⟨fmtF32, fmtF32X, p.inv⟩
  let y ← c.stages p.n 1 p.radices ((xs.map (complexOf p.big)).toArray)
  let rs ← y.toList.mapM (fun (z : CVal) => do
    let re ← finalPart c.fm (scaleBy p.scale z.1, FlagSet.none)
    let im ← finalPart c.fm (scaleBy p.scale z.2, FlagSet.none)
    pure (complexBytes p.big re im))
  pure rs.flatten

/-- FFTRUN (R282, R283). -/
def execFftrun (f : RSys) (s : State) : Host.Outcome State Fault Refusal :=
  issue 0xCB f.pred (sysCheck { matRule with a := .greg, b := .greg, sub := fun x => decide (x.toNat < 8), ring1 := ringOpt } f) (do
    let ring := ringNamed f.ring1
    gateRings [ring]
    let ga ← readSrc f.a
    let gb ← readSrc f.b
    let s ← getS
    match s.task.plans[f.sub.toNat % 4]? with
    | some (some x) =>
      let p := planOf x.toNat
      let a := lsArg s ring ga ((p.batch - 1) * p.ibatch + p.n * p.es)
      let b := lsArg s none gb ((p.batch - 1) * p.obatch + p.n * p.es)
      checkArgs [a, b]
      lsCleanRows a.off p.ibatch p.batch (p.n * p.es)
      let ins := (List.range p.batch).map (fun i => bytesElems p.es p.n (s.task.lsRead (a.off + i * p.ibatch) (p.n * p.es)))
      let r := (ins.mapM p.run).run FlagSet.none
      raise r.2
      modS (modCur (fun t => ((List.range p.batch).zip r.1).foldl (fun (t : Task) (x : Nat × List (BitVec 8)) =>
        t.lsWrite (b.off + x.1 * p.obatch) x.2) t))
      popRings [(ring, f.sub.getLsbD 2)]
      pure .seq
    | _ => trap fcIllegalOperand (fieldInfo 9)) s

/-- n, km and the reserved bits of SPMUL's immediate (R285). -/
def spmulOk (big : Bool) (i : BitVec 32) : Bool :=
  let n := bits i.toNat 0 13
  let km := bits i.toNat 13 12
  bits i.toNat 25 7 == 0 && decide (1 ≤ n) && decide (n ≤ (if big then 2048 else 4096)) && decide (1 ≤ km) && decide (2 * km - 1 ≤ n)

/-- One weighted element of SPMUL, added to what the output held when `acc` is given (R285). -/
def spmulElem (big : Bool) (a w : CVal) (acc : Option CVal) : Fl (List (BitVec 8)) := do
  let fm := if big then fmtF64 else fmtF32
  let plus (x : Flagged) (o : Option FVal) : Flagged := match o with
    | some o => let r := faddE false x.1 o
                (r.1, x.2.or r.2)
    | none => x
  let re ← finalPart fm (plus (crossE a.1 w.1 true a.2 w.2) (acc.map Prod.fst))
  let im ← finalPart fm (plus (crossE a.1 w.2 false a.2 w.1) (acc.map Prod.snd))
  pure (complexBytes big re im)

/-- SPMUL (R285). -/
def execSpmul (f : RSys) (s : State) : Host.Outcome State Fault Refusal :=
  issue 0xCC f.pred (sysCheck { matRule with a := .greg, b := .greg, c := .greg, sub := fun x => decide (x.toNat < 16)
                                             ring1 := ringOpt, ring2 := ringOpt, imm := spmulOk (f.sub.getLsbD 0) } f) (do
    let ra := ringNamed f.ring1
    let rb := ringNamed f.ring2
    gateRings [ra, rb]
    let ga ← readSrc f.a
    let gb ← readSrc f.b
    let gc ← readSrc f.c
    let s ← getS
    let big := f.sub.getLsbD 0
    let acc := f.sub.getLsbD 1
    let es := if big then 16 else 8
    let n := bits f.imm.toNat 0 13
    let km := bits f.imm.toNat 13 12
    let a := lsArg s ra ga (n * es)
    let b := lsArg s rb gb ((2 * km - 1) * es)
    let c := lsArg s none gc (n * es)
    checkArgs [a, b, c]
    lsClean a.off (n * es)
    lsClean b.off ((2 * km - 1) * es)
    lsClean c.off (n * es)
    let rd (x : LsArg) (k : Nat) : List CVal := (bytesElems es k (s.task.lsRead x.off (k * es))).map (complexOf big)
    let ws := rd b (2 * km - 1)
    let old := s.task.lsRead c.off (n * es)
    let r := (((List.range n).zip ((rd a n).zip (rd c n))).mapM (fun (x : Nat × CVal × CVal) =>
      let k := x.1
      let w := if k < km then ws[k]? else if n - km < k then ws[k + 2 * km - 1 - n]? else none
      match w with
      | some w => spmulElem big x.2.1 w (if acc then some x.2.2 else none)
      | none => pure (if acc then (old.drop (k * es)).take es else List.replicate es 0))).run FlagSet.none
    raise r.2
    modS (modCur (fun t => t.lsWrite c.off r.1.flatten))
    popRings [(ra, f.sub.getLsbD 2), (rb, f.sub.getLsbD 3)]
    pure .seq) s

/-- A block of 256 bytes transposed (R289). -/
def transposeBlock (big : Bool) (bs : List (BitVec 8)) : List (BitVec 8) :=
  let e := if big then 8 else 4
  let row := if big then 64 else 32
  (List.range 8).flatMap (fun i => (List.range (32 / e)).flatMap (fun j => (bs.drop (row * j + e * i)).take e))

/-- BLKT (R289).  Ranges that overlap without being equal leave free bytes (R12). -/
def execBlkt (f : RSys) (s : State) : Host.Outcome State Fault Refusal :=
  issue 0xCE f.pred (sysCheck { matRule with a := .greg, b := .greg, c := .src, sub := fun x => decide (x.toNat < 2) } f) (do
    gate [f.c] []
    let a ← readSrc f.a
    let b ← readSrc f.b
    let c ← readSrc f.c
    ensureValue (a.toNat % 32 == 0) 2
    ensureValue (b.toNat % 32 == 0) 3
    ensureValue (decide (1 ≤ c.toNat) && decide (c.toNat ≤ 64)) 4
    let s ← getS
    let n := 256 * c.toNat
    checkArgs [lsArg s none a n, lsArg s none b n]
    lsClean a.toNat n
    let src := s.task.lsRead a.toNat n
    let out := (List.range c.toNat).flatMap (fun k => transposeBlock (f.sub.getLsbD 0) ((src.drop (256 * k)).take 256))
    let out ← if a ≠ b ∧ overlaps a.toNat n b.toNat n then freeBytes n else pure out
    modS (modCur (fun t => t.lsWrite b.toNat out))
    pure .seq) s

end Sys2Proof.Machine
end

