-- ==== Sys2Proof/Machine/Engines.lean ====
section
/-! DEFINITION. Block-transfer engines: starting a job, its chunks, completion records and rings, failure, and
DRAIN (12 R317 to R326; 22 R442 to R448; 20 R403; 10 R275, R276). -/

namespace Sys2Proof.Machine

/-- Neighbouring bytes of one line kept together: one write event or read event each (R89, R111). -/
def lineRuns {α : Type} : List (Nat × α) → List (List (Nat × α))
  | [] => []
  | x :: r =>
    match lineRuns r with
    | (y :: g) :: gs => if lineOf x.1 = lineOf y.1 then (x :: y :: g) :: gs else [x] :: (y :: g) :: gs
    | gs => [x] :: gs

/-- Bytes written by an engine. -/
def engineWrite (by_ : Requester) (ws : List (Nat × BitVec 8)) : M Unit := do
  let _ ← (lineRuns (ws.map (fun w => (w.1 % 2 ^ 58, w.2)))).mapM (writeLine by_)
  pure ()

/-- Bytes read by an engine at their IAs. -/
def engineRead (by_ : Requester) (ias : List Nat) : M (List (BitVec 8)) := do
  let parts ← (lineRuns (ias.map (fun a => (a % 2 ^ 58, ())))).mapM (fun g => readLine by_ (g.map Prod.fst))
  pure parts.flatten

/-- What becomes of an engine's effect: a fault of a page holds it (R445), one it cannot wait on is handed to
`fail` (R446); it waits while its die's reservations are in use (R363) and while there is no circuit (R369). -/
def engineStep {α : Type} (n : Fin 32) (fail : BitVec 8 → State → State) (m : M α) (s : State) : State :=
  if ¬ poolFree s (n.val / 4) then s else
  match m s with
  | .ok (_, s') => s'
  | .error (.circuit p) => demandCircuit p s
  | .error (.page d p ia b) => holdFault d p ia b s
  | .error (.hostLine l) => askHost l s
  | .error (.trap c _ _) => fail c s
  | .error _ => s

/-- The row-major coordinates of element e, dimension 0 fastest (R322). -/
def coordsOf : List Nat → Nat → List Nat
  | [], _ => []
  | d :: ds, e => e % d :: coordsOf ds (e / d)

/-- Fields of a copy template (Table 12.3). -/
structure Template where
  mode  : Nat
  src   : BitVec 16
  dsts  : List (BitVec 16)
  dring : Option (Fin 8)
  fillclip : Bool
  chunk : Nat
  asem  : BitVec 8
  ainc  : Nat
  org0  : Nat
  org1  : Nat
  fill  : Nat
deriving DecidableEq, Repr

/-- A template's fields. -/
def templateFields (x : Nat) : Template :=
  let mode := bits x 32 2
  let dring := bitN x 34
  { mode := mode, src := BitVec.ofNat 16 (bits x 0 16)
    dsts := if mode = 2 then (List.range (bits x 112 4 + 1)).map (fun i => BitVec.ofNat 16 (bits x (192 + 16 * i) 16))
      else if dring then [] else [BitVec.ofNat 16 (bits x 16 16)]
    dring := if dring then some (Fin.ofNat 8 (bits x 35 3)) else none
    fillclip := bitN x 38, chunk := 2 ^ bits x 40 5, asem := BitVec.ofNat 8 (bits x 48 8), ainc := bits x 56 12
    org0 := bits x 72 20, org1 := bits x 92 20, fill := bits x 128 64 }

/-- FMTs an atomic-add copy takes (R322). -/
def addFmt (t : Nat) : Bool := t == 2 || t == 3 || t == 6 || t == 7 || (decide (8 ≤ t) && decide (t ≤ 0xB))

/-- The coordinates the iteration space of a job covers (R322). -/
def spaceOf (t : Template) (src : Nat) (dsts : List Nat) : List Nat :=
  if t.mode = 3 then (dsts.map (fun d => (shapeOf d).dims)).headD [] else (shapeOf src).dims

/-- Element size of the iteration space. -/
def spaceZ (t : Template) (src : Nat) (dsts : List Nat) : Nat :=
  if t.mode = 3 then ((dsts.map (fun d => (shapeOf d).z)).headD 1) else (shapeOf src).z

/-- The number of elements of the space, and of chunks (R323). -/
def spaceCount (dims : List Nat) : Nat := dims.foldl (· * ·) 1
def chunkCount (n z chunk : Nat) : Nat := (n * z + chunk - 1) / chunk

/-- The checks of R317 for one shape a job uses, and the bounds of its box (R319, R427). -/
def shapeUse (s : State) (t : Option Task) (idx : BitVec 16) (rights : Nat → Bool) : Except (BitVec 8) Nat :=
  match objCheck s t idx 1 shapeOk rights with
  | .error c => .error c
  | .ok x => if (shapeOf x).inBounds then .ok x else .error fcShapeBound

/-- A job that has done nothing. -/
def emptyRun (j : BteJob) : BteRun :=
  { job := j, body := 0, src := 0, dsts := [], nChunks := 0, chunk := 0, bytes := [0], fill := 0, drop := 0
    bfault := 0, tags := [], slot := none }

/-- The entries of a template job read and checked at its start (R317, R319, R322, R323, R444). -/
def templateStart (s : State) (t : Option Task) (j : BteJob) : Except (BitVec 8) BteRun := do
  let x ← objCheck s t j.tmpl 2 templateOk (fun _ => true)
  if j.code ≠ 0 then .error j.code
  let p := templateFields x
  if j.multi.any (fun m => m != (p.mode == 2)) then .error fcObjectKind
  let src ← if p.mode = 3 then pure 0 else shapeUse s t p.src (fun b => bitN b 61)
  let right (b : Nat) : Bool := if p.mode = 1 then bitN b 63 else p.mode == 2 || bitN b 62
  let dsts ← p.dsts.mapM (fun d => shapeUse s t d right)
  let h := shapeOf src
  let dsh := dsts.map shapeOf
  let n := spaceCount (spaceOf p src dsts)
  let chunks := chunkCount n (spaceZ p src dsts) p.chunk
  let ranks : Bool := p.mode == 3 || dsh.all (fun d => d.rank == h.rank)
  let widths : Bool := match p.mode with
    | 1 => dsh.all (fun d => d.fmt == h.fmt) && addFmt h.fmt
    | 3 => true
    | _ => dsh.all (fun d => d.z == h.z)
  let multi : Bool := p.mode != 2 || (p.dring == none && !p.fillclip)
  let ring : Bool := p.dring == none || (p.mode == 0 && t.isSome && p.org0 == 0 && p.org1 == 0)
  let mask : Bool := decide (j.mask.toNat < 2 ^ (bits x 112 4 + 1))
  let host : Bool := t.isSome || p.ainc == 0
  let bad : Bool := !ranks || !widths || !multi || !ring || !mask || !host || decide (4095 < chunks)
  (if bad then .error fcIllegalOperand
    else .ok { emptyRun j with
      body := BitVec.ofNat 512 x, src := BitVec.ofNat 512 src, dsts := dsts.map (BitVec.ofNat 512), nChunks := chunks
      bytes := List.replicate (max 1 dsts.length) 0, drop := if p.mode = 2 then ~~~j.mask else 0 } : Except (BitVec 8) BteRun)

/-- Whether a shape record serves a drain: rank at least 2, and the right of its use (R276). -/
def drainRank (x : Nat) : Bool := shapeOk x && decide (2 ≤ (shapeOf x).rank)
def drainRight (add : Bool) (x : Nat) : Bool := if add then bitN x 63 else bitN x 62

/-- The entry of a drain job read at its start (R276, R317). -/
def drainStart (s : State) (t : Option Task) (j : BteJob) (d : DrainJob) : Except (BitVec 8) BteRun := do
  let x ← objCheck s t d.shape 1 drainRank (drainRight d.add)
  (if (shapeOf x).inBounds then .ok { emptyRun j with dsts := [BitVec.ofNat 512 x], nChunks := 1 }
    else .error fcShapeBound : Except (BitVec 8) BteRun)

/-- The object index a completion record names (Table 12.5). -/
def BteJob.object (j : BteJob) : BitVec 16 := match j.drain with
  | some d => d.shape
  | none => j.tmpl

/-- The bits of a multicast job's destinations that received every chunk so far (Table 12.5, R447). -/
def BteRun.bitmap (r : BteRun) : BitVec 16 := ~~~r.drop &&& BitVec.ofNat 16 (2 ^ r.dsts.length - 1)

/-- Whether a run is a multicast. -/
def BteRun.multi (r : BteRun) : Bool := r.job.drain.isNone && templateMode r.body.toNat == 2

/-- BYTES of the record: one destination's bytes (Table 12.5, R447). -/
def BteRun.bytesOne (r : BteRun) : Nat :=
  if r.multi then
    match findBelow (fun i => r.bitmap.getLsbD i) r.dsts.length with
    | some i => r.bytes.getD i 0
    | none => 0
  else r.bytes.headD 0

/-- The completion record of a BTE job (Table 12.5). -/
def bteRecord (n : Nat) (r : BteRun) (status : Nat) (code : BitVec 8) (chunks : Nat) : BitVec 128 :=
  BitVec.ofNat 128 (status + 2 ^ 2 * code.toNat + 2 ^ 10 * n + 2 ^ 16 * r.job.object.toNat + 2 ^ 32 * r.job.tag.toNat
    + 2 ^ 64 * (r.bytesOne % 2 ^ 32)
    + 2 ^ 96 * (if r.multi then r.bitmap.toNat else min r.fill 0xFFFFF) + 2 ^ 116 * (chunks % 4096))

/-- The completion record of a Lighter program (Table 12.5). -/
def lighterRecord (n : Nat) (r : LRun) (status : Nat) (code : BitVec 8) : BitVec 128 :=
  BitVec.ofNat 128 (status + 2 ^ 2 * code.toNat + 2 ^ 10 * n + 2 ^ 15 + 2 ^ 16 * r.prog.obj.toNat + 2 ^ 32 * r.prog.tag.toNat
    + 2 ^ 64 * (r.bytes % 2 ^ 32) + 2 ^ 116 * (r.chunks % 4096))

/-- STATUS and FAULT of a record. -/
def recStatus (r : BitVec 128) : Nat := bits r.toNat 0 2
def recFault (r : BitVec 128) : BitVec 8 := r.extractLsb' 2 8

/-- A unit's completion ring: base and L (R326). -/
def ringRegs (s : State) : Engine → Nat × Nat
  | .bte n => (s.chans[n].base, s.chans[n].log2)
  | .lighter n => (s.lighters[n].base, s.lighters[n].log2)

/-- A unit as a requester. -/
def engineBy : Engine → Requester
  | .bte n => .bte n
  | .lighter n => .lighter n

/-- The engine number of a unit. -/
def engineNum : Engine → Nat
  | .bte n => n.val
  | .lighter n => n.val

/-- The unit that holds an event (R36). -/
def engineSource : Engine → EventSource
  | .bte n => .bte n
  | .lighter n => .lighter n

/-- The stream whose instruction started a job (R429): RENQ is issued by C, DRAIN by X, CPYGO and CPYMC by A. -/
def BteJob.stream (j : BteJob) : Nat := if j.block then 0 else if j.drain.isSome then 2 else 1
def LProg.stream (p : LProg) : Nat := if p.block then 0 else 1

/-- The accesses of a unit that are held, at whichever package, are held no more. -/
def dropHeld (e : Engine) (s : State) : State :=
  { s with held := s.held.filter (fun h => h.by_ != engineBy e)
           peers := s.peers.map (fun p => { p with held := p.held.filter (fun h => h.by_ != .remote s.pkg e) }) }

/-- A record of `z` bytes written into a ring of 2^L entries when it has room: whether it was (R326, R408). -/
def ringPut (by_ : Requester) (base l z : Nat) (rec_ : Nat) : M Bool := do
  if l = 0 then pure true
  else
    let p ← engineRead by_ (span base 4)
    let c ← engineRead by_ (span (base + 128) 4)
    let prod := bytesNat p
    if 2 ^ l ≤ (prod + 2 ^ 32 - bytesNat c) % 2 ^ 32 then pure false
    else
      engineWrite by_ (atAddr (base + 256 + z * (prod % 2 ^ l)) (natBytes z rec_))
      engineWrite by_ (atAddr base (natBytes 4 (prod + 1)))
      pure true

/-- A job of a command block has ended: the block goes on, or ends at the failure (R332). -/
def blockJobEnd (tid : Nat) (code : BitVec 8) (s : State) : State :=
  modTask tid (fun t => { t with block := t.block.map (fun b =>
    { b with open_ := b.open_ - 1
             code := if b.code = 0 then code else b.code
             records := if code = 0 then b.records else [] }) }) s

/-- What a unit's end leaves at its task: the event, one job fewer, the job's signal on DONE (R23, R35, R323,
R403). -/
def endAtTask (e : Engine) (tid : Nat) (kind stream : Nat) (rec_ : BitVec 128) (block : Bool) (ssem : BitVec 8) (sinc : BitVec 12)
    (s : State) : State :=
  let s := modTask tid Task.endJob s
  let s := pushEventTo tid (engineSource e) (eventOf (eventLow (bits rec_.toNat 32 32) (engineNum e) (recFault rec_).toNat kind)
    (bits rec_.toNat 64 64)) s
  let s := if recStatus rec_ = 0 then
      unitSignal (if kind = 1 then 2 else 3) (engineNum e) stream tid block ssem sinc.toNat s
    else s
  if block then blockJobEnd tid (recFault rec_) s else s

/-- A ring filled by a job of this kind no longer has it assigned (R215). -/
def dropFiller (tid : Nat) (r : BteRun) (s : State) : State :=
  match r.job.drain, (templateFields r.body.toNat).dring with
  | none, some n => modTask tid (fun t => t.modRing n (fun g => { g with fillers := g.fillers.erase 0 })) s
  | _, _ => s

/-- The unit lets its finished job go (R325, R326, R36). -/
def releaseUnit (e : Engine) (rec_ : BitVec 128) (s : State) : State :=
  match e with
  | .bte n =>
    match s.chans[n].run with
    | none => modChan n (fun c => { c with held := none }) s
    | some r =>
      let s := modChan n (fun c => { c with run := none, held := none }) s
      match r.job.tid with
      | some tid => endAtTask e tid 1 r.job.stream rec_ r.job.block r.job.ssem r.job.sinc (dropFiller tid r s)
      | none => s
  | .lighter n =>
    match s.lighters[n].run with
    | none => modLighter n (fun c => { c with held := none }) s
    | some r =>
      let s := modLighter n (fun c => { c with run := none, held := none }) s
      let s := r.rings.foldl (fun s k => modTask r.prog.tid (fun t => t.modRing k (fun g => { g with fillers := g.fillers.erase 2 })) s) s
      let s := modTask r.prog.tid (fun t => { t with lstat :=
        ⟨n.val, r.chunks, recFault rec_, if recStatus rec_ = 3 then 3 else 0⟩ :: t.lstat.filter (fun l => l.unit != n.val) }) s
      endAtTask e r.prog.tid 2 r.prog.stream rec_ r.prog.block r.prog.ssem r.prog.sinc s

/-- The completion record a unit holds (R326). -/
def unitHeld (s : State) : Engine → Option (BitVec 128)
  | .bte n => s.chans[n].held
  | .lighter n => s.lighters[n].held

/-- The record a unit holds is written when its ring has room; a ring that cannot be reached loses it (log 27). -/
def writeCompletion (e : Engine) (s : State) : State :=
  match unitHeld s e with
  | none => s
  | some r =>
    let b := ringRegs s e
    match ringPut (engineBy e) b.1 b.2 16 r.toNat s with
    | .ok (true, s') => releaseUnit e r s'
    | .ok (false, _) => s
    | .error (.page d p ia by_) => holdFault d p ia by_ s
    | .error (.hostLine l) => askHost l s
    | .error (.circuit p) => demandCircuit p s
    | .error (.wait _) => s
    | .error _ => releaseUnit e r s

/-- A unit's record becomes known: it is held, then written (R325). -/
def holdRecord (e : Engine) (rec_ : BitVec 128) (s : State) : State :=
  writeCompletion e (match e with
    | .bte n => modChan n (fun c => { c with held := some rec_ }) s
    | .lighter n => modLighter n (fun c => { c with held := some rec_ }) s)

/-- COMPLETION_RING_WRITE (R326). -/
def execCompletionRingWrite (e : Engine) (s : State) : Host.Outcome State Fault Refusal := occur (writeCompletion e) s

/-- A free frozen-job slot of a die (R403). -/
def freeJobSlot (s : State) (die : Nat) : Option Nat :=
  (findBelow (fun j => ((s.frozenJobs[4 * die + j]?).map (fun f => !f.v)).getD false) 4).map (fun j => 4 * die + j)

/-- The report of a failed job: an error record and a frozen-job slot (R403). -/
def reportJob (e : Engine) (tid : Option Nat) (rec_ : BitVec 128) (pos : Nat) (code : BitVec 8) (tag : BitVec 32) (s : State) : State :=
  let slot := freeJobSlot s ((engineNum e) / 4)
  let base : RecIn :=
    { code := code, sev := 1, mkind := match e with | .bte _ => 2 | .lighter _ => 3, unit := (engineNum e), kept := slot.isSome
      tag := tag.toNat }
  let t := tid.bind (getTask? s)
  let s := addRecord (match t with
    | some t => { ofTask s t base with die := (engineNum e) / 4 }
    | none => { base with die := (engineNum e) / 4 }) s
  match slot with
  | some i => { s with frozenJobs := s.frozenJobs.setIfInBounds i ⟨rec_, (t.map (·.taskid)).getD 0, BitVec.ofNat 64 pos, true⟩ }
  | none => s

/-- The end of a BTE job with its record (R325, R403, R447). -/
def endBte (n : Fin 32) (r : BteRun) (status : Nat) (code : BitVec 8) (chunks : Nat) (s : State) : State :=
  let rec_ := bteRecord n.val r status code chunks
  let s := if status = 0 then s else reportJob (.bte n) r.job.tid rec_ chunks code r.job.tag s
  holdRecord (.bte n) rec_ s

/-- A chunk of a running job fails (R446): the slot it claimed is left void, and the job ends. -/
def failBte (n : Fin 32) (code : BitVec 8) (s : State) : State :=
  match s.chans[n].run with
  | none => s
  | some r =>
    let s := dropHeld (.bte n) s
    let s := match r.job.tid, r.slot, (templateFields r.body.toNat).dring with
      | some tid, some slot, some k => modTask tid (fun t => t.modRing k (fun g => g.setVoid slot)) s
      | _, _, _ => s
    let r := if r.multi then { r with drop := BitVec.allOnes 16 } else r
    endBte n r 2 code (r.chunk + 1) s

/-- Whether a job's wait field lets it start (R38, R39). -/
def jobReady (s : State) (tid : Option Nat) (w : Option SemWait) : Bool :=
  match w, tid.bind (getTask? s) with
  | some w, some t => t.status == .resident && t.semReady w
  | _, _ => true

/-- A job's wait served (R37). -/
def serveJob (tid : Option Nat) (w : Option SemWait) (s : State) : State :=
  match w, tid with
  | some w, some tid => modTask tid (fun t => t.serve w) s
  | _, _ => s

/-- Whether a unit holds an event of a task for room in q15: it starts no further job for that task (R36). -/
def eventWaits (s : State) (g : EventSource) (tid : Option Nat) : Bool :=
  match tid.bind (getTask? s) with
  | some t => t.heldEvents.any (fun x => x.1 == g)
  | none => false

/-- A job that a task brought back from its context for a channel of its core's die (R49, R333). -/
def savedRun (s : State) (n : Fin 32) : Option (Nat × Nat × BteRun) :=
  (allTasks s).findSome? (fun t =>
    if t.status = .resident then
      (t.savedJobs.find? (fun x => 4 * s.dieOf t.core + x.1 % 4 == n.val)).map (fun x => (t.tid, x.1, x.2))
    else none)

/-- Whether the job at the head of a channel's queue, or one brought back, may start now. -/
def bteDue (s : State) (n : Fin 32) : Bool :=
  let c := s.chans[n]
  if (savedRun s n).isSome then c.run.isNone && c.held.isNone
  else match c.run, c.queue with
  | none, j :: _ => c.held.isNone && !eventWaits s (.bte n) j.tid && (c.fenced || jobReady s j.tid j.wait)
  | _, _ => false

/-- The job at the head starts: its entries are read and checked; a failed check ends it (R317, R323, R444). -/
def startBte (n : Fin 32) (j : BteJob) (s0 : State) : State :=
  let s := modChan n (fun c => { c with queue := c.queue.tail, run := some (emptyRun j) }) s0
  let s := if s0.chans[n].fenced then s else serveJob j.tid j.wait s
  let t := j.tid.bind (getTask? s)
  let r := match j.drain with
    | some d => drainStart s t j d
    | none => templateStart s t j
  if s0.chans[n].fenced then endBte n (emptyRun j) 2 s0.chans[n].fcode 0 s
  else match r with
    | .error code => endBte n (emptyRun j) 2 code 0 s
    | .ok r =>
      let s := modChan n (fun c => { c with run := some r }) s
      match j.tid, j.drain, (templateFields r.body.toNat).dring with
      | some tid, none, some k => modTask tid (fun t => t.modRing k (fun g => { g with fillers := g.fillers ++ [0] })) s
      | _, _, _ => s

/-- A job brought back continues at its saved position (R49, R333); a fenced channel ends it (R404). -/
def restoreBte (n : Fin 32) (tid old : Nat) (r : BteRun) (s : State) : State :=
  let s := modTask tid (fun t => { t with savedJobs := t.savedJobs.filter (fun x => x.1 != old) }) s
  if s.chans[n].fenced then endBte n r 2 s.chans[n].fcode r.chunk (modChan n (fun c => { c with run := some r }) s)
  else modChan n (fun c => { c with run := some r }) s

/-- BTE_JOB_START (R323, R333, R444). -/
def execBteJobStart (chan : Fin 32) (s : State) : Host.Outcome State Fault Refusal :=
  occur (fun s =>
    if ¬ bteDue s chan then s
    else match savedRun s chan with
      | some (tid, old, r) => restoreBte chan tid old r s
      | none => match s.chans[chan].queue with
        | j :: _ => startBte chan j s
        | [] => s) s

/-- What a chunk does with one element of its space at one destination. -/
inductive ElemAct where
  | move (src dst : Nat)
  | fill (dst : Nat)
  | skip
deriving DecidableEq, Repr

/-- FILL for an element of z bytes (R322). -/
def fillBytes (z fill : Nat) : List (BitVec 8) := if z = 16 then natBytes 8 fill ++ natBytes 8 fill else natBytes z fill

/-- An element of the space at coordinates c for one destination shape (R320, R322). -/
def elemAct (p : Template) (src dst : Shape) (c : List Nat) : ElemAct :=
  let d := if p.mode = 3 then c else
    ((List.range c.length).zip c).map (fun (x : Nat × Nat) => if x.1 = 0 then x.2 + p.org0 else if x.1 = 1 then x.2 + p.org1 else x.2)
  let at_ := ((dst.addr d) % ((2 ^ 58 : Nat) : Int)).toNat
  if ¬ dst.inside d then .skip
  else if dst.boxed d then (if p.fillclip then .fill at_ else .skip)
  else if p.mode = 3 then .fill at_
  else if src.clipped c then .skip
  else .move ((src.addr c) % ((2 ^ 58 : Nat) : Int)).toNat at_

/-- The coordinates of chunk k (R323). -/
def chunkCoords (dims : List Nat) (z chunk k : Nat) : List (List Nat) :=
  let per := chunk / z
  let n := spaceCount dims
  (span (k * per) (min (k * per + per) n - k * per)).map (coordsOf dims)

/-- The addition of an element at its home slice: round_rne(old + v, FMT), or wrapped (R276, R322). -/
def addAt (by_ : Requester) (fmt z ia v : Nat) : M Unit := do
  let _ ← updateLine by_ (span ia z) (fun old =>
    let x := bytesNat old
    let new := if fmt < 8 then (x + v) % 2 ^ (8 * z)
      else (fround (floatFmt fmt) .rne (faddE false (fdecode (floatFmt fmt) x) (fdecode (floatFmt fmt) v)).1).1
    (natBytes z new, ()))
  pure ()

/-- The moves of a chunk's actions read, then its stores or additions applied: bytes moved and filled
(R322, R446). -/
def applyActs (by_ : Requester) (add : Bool) (fmt z : Nat) (fill : List (BitVec 8)) (acts : List ElemAct) : M (Nat × Nat) := do
  let srcs := acts.flatMap (fun a => match a with
    | .move s _ => span s z
    | _ => [])
  let data ← engineRead by_ srcs
  let rec writes : List ElemAct → List (BitVec 8) → List (Nat × List (BitVec 8) × Bool)
    | [], _ => []
    | .move _ d :: r, bs => (d, bs.take z, true) :: writes r (bs.drop z)
    | .fill d :: r, bs => (d, fill, false) :: writes r bs
    | .skip :: r, bs => writes r bs
  let ws := writes acts data
  if add then
    for w in ws do
      if w.2.2 then addAt by_ fmt z w.1 (bytesNat w.2.1) else engineWrite by_ (atAddr w.1 w.2.1)
  else engineWrite by_ (ws.flatMap (fun w => atAddr w.1 w.2.1))
  pure (z * (ws.filter (fun w => w.2.2)).length, z * (ws.filter (fun w => !w.2.2)).length)

/-- An arrival signal of a chunk, `k` times (R323, R447). -/
def arrivalSignal (n : Fin 32) (j : BteJob) (p : Template) : Nat → State → State
  | 0, s => s
  | k + 1, s => match j.tid with
    | some tid => arrivalSignal n j p k (unitSignal 2 n.val j.stream tid j.block p.asem p.ainc s)
    | none => s

/-- The running job of a channel changed. -/
def modRun (n : Fin 32) (f : BteRun → BteRun) (s : State) : State := modChan n (fun c => { c with run := c.run.map f }) s

/-- A chunk of a copy, atomic-add or fill job (R322, R323). -/
def plainChunk (n : Fin 32) (r : BteRun) (p : Template) (cs : List (List Nat)) : M Unit := do
  let src := shapeOf r.src.toNat
  let dst := shapeOf ((r.dsts.headD 0).toNat)
  let acts := if r.tags.contains r.chunk then [] else cs.map (elemAct p src dst)
  let z := dst.z
  let m ← applyActs (.bte n) (p.mode == 1) dst.fmt z (fillBytes z p.fill) acts
  modS (modRun n (fun r => { r with chunk := r.chunk + 1, bytes := [r.bytes.headD 0 + m.1], fill := r.fill + m.2
                                    tags := if p.mode = 1 then r.tags ++ [r.chunk] else r.tags }))
  modS (arrivalSignal n r.job p 1)

/-- Whether a channel's job waits to claim a slot of a ring of a task. -/
def Chan.claims (c : Chan) (tid : Nat) (k : Fin 8) : Bool :=
  match c.run with
  | some r => r.job.tid == some tid && r.job.drain.isNone && (templateFields r.body.toNat).dring == some k && r.slot.isNone
      && decide (r.chunk < r.nChunks) && c.held.isNone
  | none => false

/-- Whether a Lighter's program waits to claim a slot of a ring of a task. -/
def Lighter.claims (c : Lighter) (tid : Nat) (k : Fin 8) : Bool :=
  match c.run with
  | some r => r.prog.tid == tid && r.waiting == some k && c.held.isNone && decide (r.flight.length < 2)
  | none => false

/-- Whether a filler of a ring that R334 serves before one of rank r waits to claim: RINGPUT 0, BTE channel n 1 + n,
Lighter n 33 + n, Damask 65, remote puts 66.  A task that runs nothing now contends with none. -/
def claimsFirst (s : State) (tid : Nat) (k : Fin 8) (r : Nat) : Bool :=
  match ownTask? s tid with
  | some t => t.status == .resident && (t.a.wait == some (.ring k.val)
      || (List.finRange 32).any (fun n => decide (1 + n.val < r) && s.chans[n].claims tid k)
      || (List.finRange 32).any (fun n => decide (33 + n.val < r) && s.lighters[n].claims tid k))
  | none => false

/-- A chunk into a ring slot of the job's task (R322): claim, bytes, FULL.  The claim stands while the chunk's reads
wait (R445, R446). -/
def ringChunk (n : Fin 32) (r : BteRun) (p : Template) (k : Fin 8) (cs : List (List Nat)) : M Unit := do
  let s ← getS
  match r.job.tid.bind (getTask? s) with
  | none => pure ()
  | some t =>
    let src := shapeOf r.src.toNat
    let z := src.z
    let g := t.rings[k]
    ensure (g.en && decide (z * cs.length ≤ ringSlotBytes g.cfg)) fcRingMisuse (ringInfo k.val 2)
    match r.slot with
    | none =>
      if ¬ g.claimable ∨ claimsFirst s t.tid k (1 + n.val) then block (.ring k.val)
      modS (modTask t.tid (fun t => t.modRing k Ring.claim))
      modS (modRun n (fun r => { r with slot := some g.tail }))
    | some slot =>
    let off := g.slotAt slot
    let items := (List.range cs.length).zip cs
    let moved := items.filter (fun x => !src.clipped x.2)
    let data ← engineRead (.bte n) (moved.flatMap (fun x => span ((src.addr x.2) % ((2 ^ 58 : Nat) : Int)).toNat z))
    let filled := if p.fillclip then items.filter (fun x => src.clipped x.2) else []
    modS (modTask t.tid (fun t =>
      let t := ((List.range moved.length).zip moved).foldl (fun (t : Task) (x : Nat × Nat × List Nat) =>
        t.lsWrite (off + z * x.2.1) ((data.drop (z * x.1)).take z)) t
      let t := filled.foldl (fun (t : Task) (x : Nat × List Nat) => t.lsWrite (off + z * x.1) (fillBytes z p.fill)) t
      t.modRing k (fun g => g.setFull slot)))
    modS (modRun n (fun r => { r with chunk := r.chunk + 1, slot := none, bytes := [r.bytes.headD 0 + z * moved.length]
                                      fill := r.fill + z * filled.length }))
    modS (arrivalSignal n r.job p 1)

/-- A multicast chunk (R447): each destination still in the job receives it or is dropped. -/
def multiChunk (n : Fin 32) (r : BteRun) (p : Template) (cs : List (List Nat)) : M Unit := do
  let src := shapeOf r.src.toNat
  let live := (List.range r.dsts.length).filter (fun i => !r.drop.getLsbD i)
  let ok := live.filter (fun i => bitN ((r.dsts.getD i 0).toNat) 62)
  let bad := live.filter (fun i => !bitN ((r.dsts.getD i 0).toNat) 62)
  for i in ok do
    let dst := shapeOf ((r.dsts.getD i 0).toNat)
    let m ← applyActs (.bte n) false dst.fmt dst.z [] (cs.map (elemAct p src dst))
    modS (modRun n (fun r => { r with bytes := r.bytes.set i (r.bytes.getD i 0 + m.1) }))
  modS (modRun n (fun r => { r with
    chunk := r.chunk + 1
    drop := bad.foldl (fun (d : BitVec 16) (i : Nat) => d ||| BitVec.ofNat 16 (2 ^ i)) r.drop
    bfault := if r.bfault = 0 ∧ bad ≠ [] then fcObjectRights else r.bfault }))
  modS (arrivalSignal n r.job p ok.length)

/-- Whether a unit's access is held at a walker of some package that it still reaches (R445, R467). -/
def unitStuck (s : State) (by_ : Requester) : Bool :=
  s.held.any (fun h => h.by_ == by_)
    || s.peers.any (fun p => !s.cutFrom p.pkg && p.held.any (fun h => h.by_ == abroad s.pkg by_))

/-- The next chunk of a template job. -/
def bteChunk (n : Fin 32) (r : BteRun) : M Unit :=
  let p := templateFields r.body.toNat
  let dims := spaceOf p r.src.toNat (r.dsts.map (·.toNat))
  let cs := chunkCoords dims (spaceZ p r.src.toNat (r.dsts.map (·.toNat))) p.chunk r.chunk
  if p.mode = 2 then multiChunk n r p cs
  else match p.dring with
    | some k => ringChunk n r p k cs
    | none => plainChunk n r p cs

/-- BTE_CHUNK_COMPLETE: the next chunk of a template job (R323, R445). -/
def execBteChunkComplete (chan : Fin 32) (s : State) : Host.Outcome State Fault Refusal :=
  occur (fun s => match s.chans[chan].run with
    | some r =>
      if r.job.drain.isSome ∨ r.nChunks ≤ r.chunk ∨ s.chans[chan].held.isSome then s
      else engineStep chan (failBte chan) (bteChunk chan r) s
    | none => s) s

/-- The tile copy of a drain written as one chunk, with clipping (R276, R320). -/
def drainChunk (n : Fin 32) (r : BteRun) (d : DrainJob) : M Unit := do
  let h := shapeOf ((r.dsts.headD 0).toNat)
  let z := h.z
  let items := (((List.range d.data.length).zip d.data).map (fun (x : Nat × BitVec 64) =>
    ((List.range d.coord.length).zip d.coord |>.map (fun (c : Nat × Nat) =>
      if c.1 = 0 then c.2 + x.1 % d.cols else if c.1 = 1 then c.2 + x.1 / d.cols else c.2), x.2))).filter (fun x => !h.clipped x.1)
  let at_ (c : List Nat) : Nat := ((h.addr c) % ((2 ^ 58 : Nat) : Int)).toNat
  if d.add then
    if ¬ r.tags.contains 0 then
      for x in items do addAt (.bte n) h.fmt z (at_ x.1) (x.2.toNat % 2 ^ (8 * z))
  else engineWrite (.bte n) (items.flatMap (fun x => atAddr (at_ x.1) (natBytes z x.2.toNat)))
  modS (modRun n (fun r => { r with chunk := 1, bytes := [z * items.length], tags := if d.add then [0] else [] }))

/-- DRAIN_JOB_WRITE: the chunk of a drain job (R276). -/
def execDrainJobWrite (chan : Fin 32) (s : State) : Host.Outcome State Fault Refusal :=
  occur (fun s => match s.chans[chan].run with
    | some r => match r.job.drain with
      | some d => if r.chunk = 0 ∧ s.chans[chan].held = none then engineStep chan (failBte chan) (drainChunk chan r d) s else s
      | none => s
    | none => s) s

/-- A BTE job whose chunks are all done ends (R325, R447). -/
def completeBte (n : Fin 32) (s : State) : State :=
  match s.chans[n].run with
  | none => s
  | some r =>
    if r.chunk < r.nChunks ∨ s.chans[n].held.isSome then s
    else if r.multi then
      let want := r.job.mask
      if r.bitmap = want then endBte n r 0 0 r.chunk s
      else endBte n r (if r.bitmap = 0 then 2 else 1) r.bfault r.chunk s
    else endBte n r 0 0 r.chunk s

/-- The current task's drains on its core that hold a staging entry, those brought back and not yet restarted among
them (R49, R276). -/
def stagedDrains (s : State) : Nat :=
  let mine (t : Option Nat) : Bool := match t.bind (getTask? s) with
    | some t => t.core == s.task.core
    | none => false
  (s.task.savedJobs.filter (fun x => x.2.job.drain.isSome && x.2.chunk == 0)).length + ((List.finRange 32).map (fun n =>
    (s.chans[n].queue.filter (fun j => j.drain.isSome && mine j.tid)).length
      + (match s.chans[n].run with
         | some r => b2n (r.job.drain.isSome && decide (r.chunk = 0) && mine r.job.tid && s.chans[n].held.isNone)
         | none => 0))).sum

/-- Whether a drain's format stands in its mode's row (Table 10.6). -/
def drainTyOk (m : BitVec 2) (add : Bool) (t : Nat) : Bool :=
  match m.toNat with
  | 0 => t == 9 || t == 0xA || t == 0xB || (!add && (t == 0xC || t == 0xD))
  | 1 => t == 2
  | 2 => t == 8 || t == 9
  | _ => false

/-- Whether a drain record is well formed for a rank (Table 10.5). -/
def drainRecOk (rank x : Nat) : Bool :=
  (List.range 8).all (fun d => decide (d < rank) || bits x (32 * d) 32 == 0)
    && bits x 293 3 == 0 && decide (bits x 296 3 ≤ 5) && !bitN x 303 && bits x 304 80 == 0

/-- DRAIN (R275, R276). -/
def execDrain (f : EForm) (s : State) : Host.Outcome State Fault Refusal :=
  issue 0xC6 f.pred (eCheck { a := .tile, b := .greg, sub := fun x => decide (x.toNat < 2), wait := true, sig := true, obj := true } f) (do
    gateLog
    gateJob
    let s ← getS
    if 2 ≤ stagedDrains s then block .unit
    let add := f.sub.getLsbD 0
    let x ← useObj f.obj 1 drainRank (drainRight add)
    let h := shapeOf x
    let b ← readSrc f.b
    ensureValue (b.toNat % 16 == 0) 3
    lsCheck .plain b.toNat 48
    lsClean b.toNat 48
    let rec_ := bytesNat (s.task.lsRead b.toNat 48)
    ensure (drainRecOk h.rank rec_) fcIllegalOperand (fieldInfo 0x11)
    let chan : Fin 32 := Fin.ofNat 32 (bits rec_ 288 5)
    let n := tileNum f.a
    let t := s.tile n
    if ¬ drainTyOk t.mode add h.fmt then badTile n t.mode 3
    if 16 ≤ s.chans[chan].queue.length ∨ s.aperture.any (fun x => x.1 == chan.val) then block .unit
    let sel := roundSel s (BitVec.ofNat 3 (bits rec_ 296 3)) (BitVec.ofNat 4 (bits rec_ 299 4))
    let st ← advanceSeedM sel
    let w := vWidth h.fmt
    let rs := (cellList t.mode).map (fun (c : Nat × Nat) => leaveTile t.mode h.fmt (modeOf sel st (c.2 % 64) (c.1 % 4) w) t c)
    raise (rs.foldl (fun (a : FlagSet) (r : Nat × FlagSet) => a.or r.2) FlagSet.none)
    let job : BteJob :=
      { tid := some s.task.tid, tmpl := 0, tag := BitVec.ofNat 32 (bits rec_ 256 32), mask := 0, wait := waitOf f.wmode f.wsem f.wthr
        ssem := f.ssem, sinc := f.sinc, block := false, code := 0, multi := none
        drain := some { shape := f.obj, coord := (List.range h.rank).map (fun d => bits rec_ (32 * d) 32), cols := modeCols t.mode
                        add := add, data := rs.map (fun (r : Nat × FlagSet) => BitVec.ofNat 64 r.1) } }
    modS (fun s => modChan chan (fun c => { c with queue := c.queue ++ [job] })
      { s with task := { s.task with jobs := s.task.jobs + 1 } })
    pure .seq) s

end Sys2Proof.Machine
end

