-- ==== Sys2Proof/Machine/Lighters.lean ====
section
/-! DEFINITION. Lighters and their commands, the end of an engine job, and the job unit of a core (12 R327 to
R334; 22 R444 to R446). -/

namespace Sys2Proof.Machine

/-- A command of a Lighter's list (Table 12.7); `bad` for a reserved OP or a bad field. -/
inductive LCmd where
  | stop_
  | base (ia : BitVec 58)
  | dim (d : BitVec 3) (count : BitVec 25) (stride : BitVec 32)
  | push (ring : BitVec 3) (ndim : BitVec 4) (elog : BitVec 3) (ssem : BitVec 8) (sinc : BitVec 12)
  | gather (ring : BitVec 3) (elog : BitVec 3) (ssem : BitVec 8) (sinc : BitVec 12) (count : BitVec 14) (scale : BitVec 4)
  | loop (l : BitVec 2) (count : BitVec 24) (target : BitVec 16)
  | sig (ssem : BitVec 8) (sinc : BitVec 12)
  | wwait (mode : BitVec 2) (wsem : BitVec 8) (thr : BitVec 16)
  | jump (target : BitVec 16)
  | idx (ia : BitVec 58)
  | adv (off : BitVec 56)
  | bad
deriving DecidableEq, Repr

/-- A command word decoded (Table 12.7): unlisted bits must be zero, and a target lies below NCMD (R328). -/
def lightCmd (ncmd : Nat) (w : BitVec 64) : LCmd :=
  let x := w.toNat
  let zero (lo len : Nat) : Bool := bits x lo len == 0
  let elog : Bool := decide (bits x 50 3 ≤ 4)
  match bits x 60 4 with
  | 0x0 => if zero 0 60 then .stop_ else .bad
  | 0x1 => if zero 58 2 then .base (w.extractLsb' 0 58) else .bad
  | 0x2 => if zero 32 25 then .bad else .dim (w.extractLsb' 57 3) (w.extractLsb' 32 25) (w.extractLsb' 0 32)
  | 0x3 => if zero 0 30 ∧ 1 ≤ bits x 53 4 ∧ bits x 53 4 ≤ 8 ∧ elog then
      .push (w.extractLsb' 57 3) (w.extractLsb' 53 4) (w.extractLsb' 50 3) (w.extractLsb' 42 8) (w.extractLsb' 30 12) else .bad
  | 0x4 => if zero 53 4 ∧ zero 0 12 ∧ ¬ zero 16 14 ∧ elog then
      .gather (w.extractLsb' 57 3) (w.extractLsb' 50 3) (w.extractLsb' 42 8) (w.extractLsb' 30 12) (w.extractLsb' 16 14)
        (w.extractLsb' 12 4) else .bad
  | 0x5 => if zero 32 2 ∧ zero 0 16 ∧ ¬ zero 34 24 ∧ bits x 16 16 < ncmd then
      .loop (w.extractLsb' 58 2) (w.extractLsb' 34 24) (w.extractLsb' 16 16) else .bad
  | 0x6 => if zero 58 2 ∧ zero 0 38 then .sig (w.extractLsb' 50 8) (w.extractLsb' 38 12) else .bad
  | 0x7 => if zero 0 34 ∧ (bits x 58 2 = 1 ∨ bits x 58 2 = 2) then
      .wwait (w.extractLsb' 58 2) (w.extractLsb' 50 8) (w.extractLsb' 34 16) else .bad
  | 0x8 => if zero 16 44 ∧ bits x 0 16 < ncmd then .jump (w.extractLsb' 0 16) else .bad
  | 0x9 => if zero 58 2 ∧ zero 0 2 then .idx (w.extractLsb' 0 58) else .bad
  | 0xA => if zero 56 4 then .adv (w.extractLsb' 0 56) else .bad
  | _ => .bad

/-- CLIST, NCMD, LOOKAHEAD and R of a program entry (Table 12.6). -/
def LRun.clist (r : LRun) : Nat := bits r.body.toNat 0 58
def LRun.ncmd (r : LRun) : Nat := bits r.body.toNat 64 16
def LRun.lookahead (r : LRun) : Nat := 4096 * bits r.body.toNat 81 8
def LRun.canRead (r : LRun) : Bool := bitN r.body.toNat 89

/-- Bytes a Lighter reads: they must lie in the pageable span (R328). -/
def lighterRead (n : Fin 32) (ias : List Nat) : M (List (BitVec 8)) := do
  ensure (ias.all (fun a => decide (iaOff (a % 2 ^ 58) < deviceSpan))) fcAperture 0
  engineRead (.lighter n) ias

/-- The command a running program stands at (R328); past the last one there is none. -/
def fetchCmd (n : Fin 32) (r : LRun) : M LCmd :=
  if r.ncmd ≤ r.pc then pure .bad
  else do
    let bs ← lighterRead n (span (r.clist + 8 * r.pc) 8)
    pure (lightCmd r.ncmd (BitVec.ofNat 64 (bytesNat bs)))

/-- LIGHTER_PUSH_FILL_COMPLETE (R329). -/
def execLighterPushFillComplete (n : Fin 32) (s : State) : Host.Outcome State Fault Refusal := occur (landPush n) s

/-- A program ends with its record (R325, R403): pushes in flight land first (R446). -/
def endLighter (n : Fin 32) (status : Nat) (code : BitVec 8) (s0 : State) : State :=
  let s := landPush n (landPush n s0)
  match s.lighters[n].run with
  | none => s
  | some r =>
    let rec_ := lighterRecord n.val r status code
    let s := if status = 2 then reportJob (.lighter n) (some r.prog.tid) rec_ r.pc code r.prog.tag s else s
    holdRecord (.lighter n) rec_ (dropHeld (.lighter n) s)

/-- A command of a running program fails (R328, R446): a push or gather that had claimed its slot leaves it
void. -/
def failLighter (n : Fin 32) (code : BitVec 8) (s : State) : State :=
  match s.lighters[n].run with
  | none => s
  | some r =>
    endLighter n 2 code (match r.slot with
      | some x => modTask r.prog.tid (fun t => t.modRing x.1 (fun g => g.setVoid x.2))
          (modLRun n (fun r => { r with chunks := r.chunks + 1, slot := none }) s)
      | none => s)

/-- The program of a Lighter that can take its next command, or finish the push that LHALT found in flight (R210). -/
def lighterRuns (s : State) (n : Fin 32) : Option LRun :=
  match s.lighters[n].run with
  | some r => if (r.halted ∧ r.slot.isNone) ∨ s.lighters[n].held.isSome then none else some r
  | none => none

/-- A command of a running program: it takes effect if it is the one the program stands at. -/
def lightStep (n : Fin 32) (c : LCmd) (body : LRun → M Unit) (s : State) :
    Host.Outcome State Fault Refusal :=
  occur (fun s => match lighterRuns s n with
    | none => s
    | some r => engineStep n (failLighter n) (do
        let x ← fetchCmd n r
        if x = c then body r else pure ()) s) s

/-- The program changes its registers and goes to the next command. -/
def lightNext (n : Fin 32) (f : LRun → LRun) : M Unit := modS (modLRun n (fun r => { f r with pc := r.pc + 1, waiting := none, slot := none }))

/-- LIGHTER_BASE (R328). -/
def execLighterBase (n : Fin 32) (ia : BitVec 58) (s : State) : Host.Outcome State Fault Refusal :=
  lightStep n (.base ia) (fun _ => lightNext n (fun r => { r with cur := ia })) s

/-- LIGHTER_DIM (R328). -/
def execLighterDim (n : Fin 32) (d : BitVec 3) (count : BitVec 25) (stride : BitVec 32) (s : State) :
    Host.Outcome State Fault Refusal :=
  lightStep n (.dim d count stride) (fun _ => lightNext n (fun r =>
    { r with count := r.count.set d.toNat count d.isLt, stride := r.stride.set d.toNat stride d.isLt })) s

/-- LIGHTER_IDX (R328). -/
def execLighterIdx (n : Fin 32) (ia : BitVec 58) (s : State) : Host.Outcome State Fault Refusal :=
  lightStep n (.idx ia) (fun _ => lightNext n (fun r => { r with idxp := ia })) s

/-- LIGHTER_ADV: CUR plus a signed offset modulo 2^58 (R328). -/
def execLighterAdv (n : Fin 32) (off : BitVec 56) (s : State) : Host.Outcome State Fault Refusal :=
  lightStep n (.adv off) (fun _ => lightNext n (fun r => { r with cur := r.cur + off.signExtend 58 })) s

/-- LIGHTER_JUMP (R328). -/
def execLighterJump (n : Fin 32) (target : BitVec 16) (s : State) : Host.Outcome State Fault Refusal :=
  lightStep n (.jump target) (fun _ => modS (modLRun n (fun r => { r with pc := target.toNat }))) s

/-- LIGHTER_LOOP (R330). -/
def execLighterLoop (n : Fin 32) (l : BitVec 2) (count : BitVec 24) (target : BitVec 16) (s : State) :
    Host.Outcome State Fault Refusal :=
  lightStep n (.loop l count target) (fun _ => modS (modLRun n (fun r =>
    let c := (if r.cnt[l.toNat]'(l.isLt) = 0 then count else r.cnt[l.toNat]'(l.isLt)) - 1
    { r with cnt := r.cnt.set l.toNat c l.isLt, pc := if c = 0 then r.pc + 1 else target.toNat }))) s

/-- LIGHTER_SIG: the signal follows every earlier push (R328). -/
def execLighterSig (n : Fin 32) (ssem : BitVec 8) (sinc : BitVec 12) (s : State) : Host.Outcome State Fault Refusal :=
  lightStep n (.sig ssem sinc) (fun r =>
    if r.flight = [] then do
      modS (unitSignal 3 n.val r.prog.stream r.prog.tid r.prog.block ssem sinc.toNat)
      lightNext n id
    else pure ()) s

/-- LIGHTER_WWAIT: the program waits as an agent on its wait channel (R328, R38, R39). -/
def execLighterWwait (n : Fin 32) (mode : BitVec 2) (wsem : BitVec 8) (thr : BitVec 16) (s : State) :
    Host.Outcome State Fault Refusal :=
  lightStep n (.wwait mode wsem thr) (fun r => do
    let s ← getS
    let w := r.semw.getD ⟨wsem, thr.toNat, mode == 2, false⟩
    if jobReady s (some r.prog.tid) (some w) then
      modS (serveJob (some r.prog.tid) (some w))
      lightNext n (fun r => { r with semw := none })
    else modS (modLRun n (fun r => { r with semw := some w }))) s

/-- The offsets of a nest of dimensions 0 to ndim - 1 from CUR, dimension 0 innermost (R329). -/
def nestOffsets : List (Nat × Int) → List Int
  | [] => [0]
  | (c, st) :: r => (nestOffsets r).flatMap (fun o => (List.range c).map (fun (i : Nat) => o + (i : Int) * st))

/-- The elements a nest has. -/
def nestCount (ds : List (Nat × Int)) : Nat := ds.foldl (fun a d => a * d.1) 1

/-- A program reaches its first push that names a ring: it is assigned to fill it (R215). -/
def assignRing (n : Fin 32) (tid : Nat) (ring : Fin 8) (s : State) : State :=
  match s.lighters[n].run with
  | some r =>
    if r.rings.contains ring then s
    else modTask tid (fun t => t.modRing ring (fun g => { g with fillers := g.fillers ++ [2] }))
      (modLRun n (fun r => { r with rings := ring :: r.rings }) s)
  | none => s

/-- The claim of a push: rights, ring and size judged, then slot TAIL claimed; with two pushes in flight, TAIL locked or
a filler ahead of it the program waits (R60, R328, R329, R334).  It answers the slot that an earlier step claimed; the
claim stands while the reads wait. -/
def claimPush (n : Fin 32) (r : LRun) (ring : Fin 8) (bytes : Nat) : M (Option Nat) := do
  match r.slot with
  | some x => pure (some x.2)
  | none =>
    ensure r.canRead fcObjectRights 0
    let s ← getS
    match getTask? s r.prog.tid with
    | none => pure none
    | some t =>
      let g := t.rings[ring]
      ensure (g.en && decide (bytes ≤ ringSlotBytes g.cfg)) fcRingMisuse (ringInfo ring.val 2)
      modS (assignRing n t.tid ring)
      if ¬ g.claimable ∨ 2 ≤ r.flight.length ∨ claimsFirst s t.tid ring (33 + n.val) then
        modS (modLRun n (fun r => { r with waiting := some ring }))
      else do
        modS (modTask t.tid (fun t => t.modRing ring Ring.claim))
        modS (modLRun n (fun r => { r with waiting := none, slot := some (ring, g.tail) }))
      pure none

/-- The bytes of a push written into its slot, and the push in flight (R329). -/
def fillPush (n : Fin 32) (r : LRun) (ring : Fin 8) (slot : Nat) (ssem : BitVec 8) (sinc : BitVec 12) (bs : List (BitVec 8)) : M Unit := do
  modS (modTask r.prog.tid (fun t => t.lsWrite (t.rings[ring].slotAt slot) bs))
  lightNext n (fun r => { r with flight := r.flight ++ [⟨ring, slot, ssem, sinc⟩], chunks := r.chunks + 1, bytes := r.bytes + bs.length })

/-- The page registers after a read of a stream of addresses (R95): the page of the last one is current. -/
def LRun.movePage (r : LRun) (ias : List Nat) : LRun :=
  match ias.getLast? with
  | none => r
  | some a =>
    let p := a % 2 ^ 58 / 65536
    if r.curPage = some p then { r with addr := some (a % 2 ^ 58) }
    else { r with addr := some (a % 2 ^ 58), curPage := some p, nextPage := if r.nextPage = some p then none else r.nextPage }

/-- LIGHTER_PUSH (R329). -/
def execLighterPush (n : Fin 32) (ring : BitVec 3) (ndim : BitVec 4) (elog : BitVec 3) (ssem : BitVec 8) (sinc : BitVec 12) (s : State) :
    Host.Outcome State Fault Refusal :=
  let k : Fin 8 := Fin.ofNat 8 ring.toNat
  lightStep n (.push ring ndim elog ssem sinc) (fun r => do
    let z := 2 ^ elog.toNat
    let ds := (List.range ndim.toNat).map (fun i => ((r.count.toList.getD i 0).toNat, (r.stride.toList.getD i 0).toInt))
    let c ← claimPush n r k (z * nestCount ds)
    match c with
    | none => pure ()
    | some slot =>
      let ias := (nestOffsets ds).flatMap (fun o => span (((r.cur.toNat : Int) + o) % ((2 ^ 58 : Nat) : Int)).toNat z)
      let bs ← lighterRead n ias
      modS (modLRun n (fun r => r.movePage ias))
      fillPush n r k slot ssem sinc bs) s

/-- LIGHTER_GATHER (R329, R206): index 0x8000_0000 gives zero bytes. -/
def execLighterGather (n : Fin 32) (ring : BitVec 3) (elog : BitVec 3) (ssem : BitVec 8) (sinc : BitVec 12) (count : BitVec 14)
    (scale : BitVec 4) (s : State) : Host.Outcome State Fault Refusal :=
  let k : Fin 8 := Fin.ofNat 8 ring.toNat
  lightStep n (.gather ring elog ssem sinc count scale) (fun r => do
    let z := 2 ^ elog.toNat
    let c ← claimPush n r k (z * count.toNat)
    match c with
    | none => pure ()
    | some slot =>
      let ib ← lighterRead n (span r.idxp.toNat (4 * count.toNat))
      let ix := bytesElems 4 count.toNat ib
      let parts ← ix.mapM (fun (i : Nat) =>
        if i = 0x80000000 then pure (List.replicate z 0)
        else lighterRead n (span (((r.cur.toNat : Int) + sxInt 32 i * 2 ^ scale.toNat) % ((2 ^ 58 : Nat) : Int)).toNat z))
      modS (modLRun n (fun r => { r with idxp := r.idxp + BitVec.ofNat 58 (4 * count.toNat) }))
      fillPush n r k slot ssem sinc parts.flatten) s

/-- The page a stream's next-page register should hold: the page that follows in its direction of travel, once
the address it reads has come within the lookahead of the current page's end (R95). -/
def LRun.wantsPage (r : LRun) : Option Nat :=
  match r.curPage, r.addr with
  | some p, some a =>
    let up : Bool := decide (0 ≤ (r.stride.toList.getD 0 0).toInt)
    let gap := if up then (p + 1) * 65536 - a else a + 1 - p * 65536
    let next := (if up then p + 1 else p + 2 ^ 42 - 1) % 2 ^ 42
    if r.lookahead = 0 ∨ r.lookahead < gap ∨ r.nextPage = some next then none else some next
  | _, _ => none

/-- LIGHTER_NEXT_PAGE_WALK (R95).  A walk that would fault leaves the register as it is. -/
def execLighterNextPageWalk (n : Fin 32) (s : State) : Host.Outcome State Fault Refusal :=
  occur (fun s => match lighterRuns s n with
    | none => s
    | some r => match r.wantsPage with
      | none => s
      | some p => match locate (s.homeView (p * 65536)) (p * 65536) with
        | .stack e _ => modLRun n (fun r => { r with nextPage := some p }) (if s.homedHere (p * 65536) then cacheWalk e s else s)
        | _ => s) s

/-- The run of a program that starts: every register zero (R328). -/
def LRun.start (p : LProg) (body : BitVec 512) : LRun :=
  { prog := p, body := body, cur := 0, count := Vector.replicate 8 0, stride := Vector.replicate 8 0, idxp := 0
    cnt := Vector.replicate 4 0, pc := 0, flight := [], chunks := 0, bytes := 0, addr := none, curPage := none, nextPage := none
    slot := none, rings := [], halted := p.halt, waiting := none, semw := none }

/-- A program that a task brought back from its context for a Lighter of its core's die (R49, R333). -/
def savedProg (s : State) (n : Fin 32) : Option (Nat × Nat × LRun) :=
  (allTasks s).findSome? (fun t =>
    if t.status = .resident then
      (t.savedProgs.find? (fun x => 4 * s.dieOf t.core + x.1 % 4 == n.val)).map (fun x => (t.tid, x.1, x.2))
    else none)

/-- A program brought back continues; its page registers are walked again (R95, R333); a fenced Lighter ends it. -/
def restoreProg (n : Fin 32) (tid old : Nat) (r : LRun) (s : State) : State :=
  let s := modTask tid (fun t => { t with savedProgs := t.savedProgs.filter (fun x => x.1 != old) }) s
  let s := modLighter n (fun c => { c with run := some { r with addr := none, curPage := none, nextPage := none } }) s
  if s.lighters[n].fenced then endLighter n 2 s.lighters[n].fcode s else s

/-- Whether the program at the head of a Lighter's queue, or one brought back, may start now (R330, R36). -/
def lighterDue (s : State) (n : Fin 32) : Bool :=
  let c := s.lighters[n]
  if (savedProg s n).isSome then c.run.isNone && c.held.isNone
  else match c.run, c.queue with
  | none, p :: _ => c.held.isNone && !eventWaits s (.lighter n) (some p.tid) && !p.halt && (c.fenced || jobReady s (some p.tid) p.wait)
  | _, _ => false

/-- LIGHTER_PROGRAM_START (R330, R333, R444). -/
def execLighterProgramStart (n : Fin 32) (s : State) : Host.Outcome State Fault Refusal :=
  occur (fun s => if ¬ lighterDue s n then s else match savedProg s n, s.lighters[n].queue with
    | some (tid, old, r), _ => restoreProg n tid old r s
    | none, [] => s
    | none, p :: _ =>
        let c := s.lighters[n]
        let s := if c.fenced then s else serveJob (some p.tid) p.wait s
        let chk := objCheck s (getTask? s p.tid) p.obj 7 lprogOk (fun _ => true)
        let body := match chk with
          | .ok b => BitVec.ofNat 512 b
          | .error _ => 0
        let s := modTask p.tid (fun t => { t with lstat := t.lstat.filter (fun l => l.unit != n.val) })
          (modLighter n (fun c => { c with queue := c.queue.tail, run := some (LRun.start p body) }) s)
        if c.fenced then endLighter n 2 c.fcode s
        else match chk with
          | .error code => endLighter n 2 code s
          | .ok _ => s) s

/-- A program halted in the queue of a Lighter that can write its record: it has no chunk in flight (R210). -/
def queuedHalt (s : State) (n : Fin 32) : Option LProg :=
  if s.lighters[n].held.isSome then none
  else s.lighters[n].queue.find? (fun p => p.halt && !eventWaits s (.lighter n) (some p.tid))

/-- That program ends HALTED, whatever the Lighter runs; the queue is as before while its ring has no room. -/
def endQueuedHalt (n : Fin 32) (s : State) : State :=
  match queuedHalt s n with
  | none => s
  | some p =>
    let r := LRun.start p 0
    let s1 := holdRecord (.lighter n) (lighterRecord n.val r 3 0)
      (modLighter n (fun c => { c with run := some r, queue := c.queue.erase p }) s)
    if s1.lighters[n].run.isNone then modLighter n (fun c => { c with run := s.lighters[n].run }) s1 else s

/-- A halted program ends HALTED once its pushes have landed (R210). -/
def haltLighter (n : Fin 32) (s : State) : State :=
  match s.lighters[n].run with
  | some r => if r.halted ∧ r.flight = [] ∧ r.slot = none ∧ s.lighters[n].held = none then endLighter n 3 0 s else endQueuedHalt n s
  | none => endQueuedHalt n s

/-- LIGHTER_END: END waits for every push (R330). -/
def execLighterEnd (n : Fin 32) (s : State) : Host.Outcome State Fault Refusal :=
  lightStep n .stop_ (fun r => if r.flight = [] then modS (endLighter n 0 0) else pure ()) s

/-- ENGINE_JOB_COMPLETE: a BTE job whose chunks are done, or a halted Lighter program, ends (R325). -/
def execEngineJobComplete (e : Engine) (s : State) : Host.Outcome State Fault Refusal :=
  occur (match e with
    | .bte n => completeBte n
    | .lighter n => haltLighter n) s

/-- A unit's running job fails with a code. -/
def failUnit (e : Engine) (code : BitVec 8) (s : State) : State :=
  match e with
  | .bte n => if s.chans[n].held.isSome then s else failBte n code s
  | .lighter n => match lighterRuns s n with
    | some _ => failLighter n code s
    | none => s

/-- ENGINE_JOB_FAIL (R403, R446). -/
def execEngineJobFail (e : Engine) (code : BitVec 8) (s : State) : Host.Outcome State Fault Refusal := occur (failUnit e code) s

/-- A record of a command block (Table 12.9). -/
structure BlockRec where
  kind : Nat
  unit : Fin 32
  obj  : BitVec 16
  wait : Option SemWait
  ssem : BitVec 8
  sinc : BitVec 12
  tag  : BitVec 32
  mask : BitVec 16
  ok   : Bool
deriving DecidableEq, Repr

/-- A record's fields, and whether they are in range (R331). -/
def blockRec (x : BitVec 128) : BlockRec :=
  let v := x.toNat
  let kind := bits v 0 4
  let wm := x.extractLsb' 56 2
  { kind := kind, unit := Fin.ofNat 32 (bits v 4 5), obj := x.extractLsb' 16 16
    wait := waitOf wm (x.extractLsb' 32 8) (x.extractLsb' 40 16), ssem := x.extractLsb' 58 8, sinc := x.extractLsb' 66 12
    tag := x.extractLsb' 80 32, mask := x.extractLsb' 112 16
    ok := decide (1 ≤ kind) && decide (kind ≤ 4) && bits v 9 7 == 0 && bits v 78 2 == 0 && wm != 3#2
      && (kind == 2 || bits v 112 16 == 0)
      && (kind != 4 || (bits v 4 5 == 0 && bits v 16 16 == 0 && bits v 80 32 == 0)) }

/-- Whether the unit of a record can take its job (R23, R323, R330). -/
def blockRoom (s : State) (t : Task) (b : BlockRec) : Bool :=
  match b.kind with
  | 4 => true
  | 3 => decide (t.jobs < 16) && decide (s.lighters[b.unit].queue.length < 4) && s.lgos.all (fun x => x.1 != b.unit.val)
  | _ => decide (t.jobs < 16) && decide (s.chans[b.unit].queue.length < 16) && s.aperture.all (fun x => x.1 != b.unit.val)

/-- The command block of a task changed. -/
def modBlock (tid : Nat) (f : BlockRun → BlockRun) (s : State) : State :=
  modTask tid (fun t => { t with block := t.block.map f }) s

/-- A record whose wait is satisfied starts its job, or applies its signal (R332). -/
def startRecord (tid : Nat) (b : BlockRec) (s : State) : State :=
  let s := modBlock tid (fun x => { x with records := x.records.tail, semw := none }) s
  let job (s : State) : State :=
    modBlock tid (fun x => { x with open_ := x.open_ + 1 }) (modTask tid (fun t => { t with jobs := t.jobs + 1 }) s)
  match b.kind with
  | 4 => unitSignal 1 0 0 tid true b.ssem b.sinc.toNat s
  | 3 => job (modLighter b.unit (fun c => { c with queue := c.queue ++
      [{ tid := tid, obj := b.obj, tag := b.tag, wait := none, ssem := b.ssem, sinc := b.sinc, block := true, halt := false }] }) s)
  | _ => job (modChan b.unit (fun c => { c with queue := c.queue ++
      [{ tid := some tid, tmpl := b.obj, tag := b.tag, mask := b.mask, wait := none, ssem := b.ssem, sinc := b.sinc
         drain := none, block := true, code := 0, multi := some (b.kind == 2) }] }) s)

/-- The block at the head of a task's inbound queue is taken by its job unit (R45). -/
def takeBlock (t : Task) : Task :=
  match t.inbound with
  | [] => t
  | m :: r =>
    let h := bytesNat (m.block.take 16)
    { t with
      inbound := r
      block := some { src := m.src, group := m.group, rank := m.rank, tag := BitVec.ofNat 32 (bits h 64 32)
                      records := (List.range (bits h 0 5)).map (fun i =>
                        BitVec.ofNat 128 (bytesNat ((m.block.drop (16 + 16 * i)).take 16)))
                      open_ := 0, code := 0, semw := none } }

/-- The next record of the command block of a resident task of this package: once its wait, on wait channel 64, is
satisfied, its job starts, whose objects the unit judges (R317, R332, R444); a record that breaks Table 12.9 ends the
block (R331).  A job unit that holds an event starts nothing (R36). -/
def nextRecord (tid : Nat) (s0 : State) : State :=
  match ownTask? s0 tid with
  | none => s0
  | some t0 =>
    if t0.status ≠ .resident ∨ eventWaits s0 .jobUnit (some tid) then s0
    else
      let t := if t0.block = none then takeBlock t0 else t0
      let s := modTask tid (fun _ => t) s0
      match t.block with
      | none => s
      | some bl => match bl.records with
        | [] => s
        | x :: _ =>
          let b := blockRec x
          let w := if bl.semw.isSome then bl.semw else b.wait
          if ¬ jobReady s (some tid) w then modBlock tid (fun x => { x with semw := w }) s
          else if ¬ b.ok then modBlock tid (fun x => { x with
            records := [], semw := none, code := if x.code = 0 then fcIllegalOperand else x.code }) (serveJob (some tid) w s)
          else if blockRoom s t b then startRecord tid b (serveJob (some tid) w s)
          else s

/-- JOB_UNIT_RECORD_START (R332, R39). -/
def execJobUnitRecordStart (tid : Nat) (s : State) : Host.Outcome State Fault Refusal := occur (atTask tid (nextRecord tid)) s

/-- COMMAND_BLOCK_DONE: after every record, the target's event of kind 0x03, and one job fewer for the sender
(R23, R45, R332).  SOURCE and the high half, which the manual does not state, are free. -/
def execCommandBlockDone (tid : Nat) (s : State) : Host.Outcome State Fault Refusal :=
  occur (fun s =>
    match getTask? s tid with
    | none => s
    | some t => match t.block with
      | some b =>
        if b.records = [] ∧ b.open_ = 0 then
          let e := eventOf (eventLow b.tag.toNat (Config.freeNat 1 s.free s.tick) b.code.toNat 3) (Config.freeNat 2 s.free s.tick)
          pushEventTo tid .jobUnit e (modTask b.src Task.endJob (modTask tid (fun t => { t with block := none }) { s with free := s.free + 1 }))
        else s
      | none => s) s

/-- What a running Lighter does next: the command it stands at (R328). -/
def lighterTurn (n : Fin 32) (s : State) : Host.Outcome State Fault Refusal :=
  match lighterRuns s n with
  | none => .next s
  | some r => match fetchCmd n r s with
    | .error _ => lightStep n .bad (fun _ => pure ()) s
    | .ok (c, _) => match c with
      | .stop_ => execLighterEnd n s
      | .base ia => execLighterBase n ia s
      | .dim d k st => execLighterDim n d k st s
      | .push ring ndim elog ssem sinc => execLighterPush n ring ndim elog ssem sinc s
      | .gather ring elog ssem sinc k sc => execLighterGather n ring elog ssem sinc k sc s
      | .loop l k t => execLighterLoop n l k t s
      | .sig ssem sinc => execLighterSig n ssem sinc s
      | .wwait m k thr => execLighterWwait n m k thr s
      | .jump t => execLighterJump n t s
      | .idx ia => execLighterIdx n ia s
      | .adv off => execLighterAdv n off s
      | .bad => execEngineJobFail (.lighter n) fcIllegalOperand s

end Sys2Proof.Machine
end

