-- ==== Sys2Proof/Machine/Damask.lean ====
section
/-! DEFINITION. Damask, the transpose collective: XPBGO, the start of a member, blocks, phases, slots and the end
(13 R335 to R347; 21 R421; 23 R456, R459; 24 R468). -/

namespace Sys2Proof.Machine

/-- Stage 7 for an XPB: both entries, then the fields (R317, R336). -/
def useXpb (idx : BitVec 16) : M (BitVec 1024) := fun s =>
  let a := objEntry s idx
  let b := objEntry s (idx + 1)
  let x := a.2.toNat + 2 ^ 512 * b.2.toNat
  if ¬ hasObj s s.task idx ∨ a.1 ≠ 3#8 ∨ idx.getLsbD 0 ∨ b.1 ≠ 4#8 then
    .error (.trap fcObjectKind (objInfo fcObjectKind idx) 0)
  else if ¬ xpbFirstOk a.2.toNat ∨ ¬ xpbSecondOk b.2.toNat ∨ ¬ (xpbOf x).geomOk then
    .error (.trap fcIllegalOperand (objInfo fcIllegalOperand idx) 0)
  else .ok (BitVec.ofNat 1024 x, s)

/-- The collectives of a group and an XPB index, oldest first. -/
def gensOf (s : State) (group : Nat) (idx : BitVec 16) : List DColl :=
  s.collectives.filter (fun c => c.key.group == group && c.key.xpb == idx)

/-- A member of a collective by its task. -/
def DColl.member? (c : DColl) (tid : Nat) : Option DMember := c.members.find? (fun m => m.tid == tid && !m.done)

/-- A member of a collective by its rank. -/
def DColl.atRank? (c : DColl) (rank : Nat) : Option DMember := c.members.find? (fun m => m.rank == rank && !m.done)

/-- A collective that every member has joined and left is open no more. -/
def closeColl (key : CollKey) (s : State) : State :=
  mapPacks (fun p => { p with damask := p.damask.filter (fun c =>
      !(c.key == key && c.members.all (fun m => m.done)
        && c.members.any (fun m => (xpbOf m.xpb.toNat).size == c.members.length))) }) s

/-- SYNCCFG.SLIPMAX (Table 23.1). -/
def State.slipMax (s : State) : Nat := bits s.syncCfg.toNat 16 16

/-- The task joins the oldest generation that its rank has not yet joined, or opens one, at the Quay die that keeps its
group (R342); one that has ended for all ends at once for it (R456). -/
def joinHere (group : Nat) (idx : BitVec 16) (m : DMember) (s : State) : State :=
  let gens := gensOf s group idx
  match gens.find? (fun c => c.members.all (fun x => x.rank != m.rank)) with
  | some c =>
    match c.ended with
    | none => modColl c.key (fun c => { c with members := c.members ++ [m] }) s
    | some st =>
      closeColl c.key (modColl c.key (fun c => { c with members := c.members ++ [{ m with done := true }] })
        (endMembership c st m (spoilMember m s)))
  | none =>
    let gen := gens.foldl (fun g c => max g (c.key.gen + 1)) 0
    { s with damask := s.damask ++ [{ key := ⟨group, idx, gen⟩, members := [m], moved := [], ended := none, slotMove := 0
                                      slotPhase := 0, slipMax := s.slipMax, unslotted := false }] }

/-- The same on whichever package keeps the group. -/
def joinColl (group : Nat) (idx : BitVec 16) (m : DMember) (s : State) : State :=
  atPack (fun p => p.pkg == bits group 47 11) (joinHere group idx m) s

/-- The XPBGO at the head of a task's send queue reaches the Quay die that keeps its group; a membership that reaches it
no more ends at once (R365, R467). -/
def sendStart (tid : Nat) (s : State) : State :=
  match (getTask? s tid).bind (fun t => t.sendC.head?) with
  | some (.start g i m) => overLink (bits g 47 11)
      (fun s =>
        let c : DColl := { key := ⟨g, i, 0⟩, members := [m], moved := [], ended := none, slotMove := 0, slotPhase := 0, slipMax := s.slipMax
                           unslotted := false }
        endMembership c fcCircuitFail m (spoilMember m (popSendC tid (.start g i m) s)))
      (fun s => joinColl g i m (popSendC tid (.start g i m) s)) s
  | _ => s

/-- Whether a task's membership of a pair of group and XPB is open, or about to be (R342). -/
def pairOpen (s : State) (group : Nat) (idx : BitVec 16) (tid : Nat) : Bool :=
  (gensOf s group idx).any (fun c => (c.member? tid).isSome)
    || ((getTask? s tid).map (fun t => t.sendC.any (fun m => match m with
      | .start g i _ => g == group && i == idx
      | _ => false))).getD false

/-- XPBGO (R198, R336, R342, R421, R430). -/
def execXpbgo (f : EForm) (s : State) : Host.Outcome State Fault Refusal :=
  issue 0x50 f.pred (eCheck { a := .unused, b := .unused, sub := fun x => x == 0#4, wait := true, sig := true, obj := true } f) (do
    gateLog
    gateJob
    let x ← useXpb f.obj
    let p := xpbOf x.toNat
    let s ← getS
    let tid := s.task.tid
    if pairOpen s p.group f.obj tid then block .collective
    match (getGroup s p.group).rankOf tid with
    | none => trap fcGroupMisuse (groupInfo 0xFFFF 4)
    | some rank =>
      let k := rank - p.rank0
      ensure (decide (p.rank0 ≤ rank) && decide (k < p.size)) fcGroupMisuse (groupInfo rank 2)
      let sn := rowSpan p.pitchIn p.z (p.len p.axIn) (p.rows p.axIn k)
      let dn := rowSpan p.pitchOut p.z (p.len p.axOut) (p.rows p.axOut k)
      ensure (p.dstRing || !(decide (p.srcOff < p.dstOff + dn) && decide (p.dstOff < p.srcOff + sn)))
        fcIllegalOperand (objInfo fcIllegalOperand f.obj)
      lsCheck .plain p.srcOff sn
      if p.dstRing then
        let g := s.ringOf p.ring
        ensure g.en fcRingMisuse (ringInfo p.ring.val 1)
        ensure (decide (p.slotNeed k ≤ ringSlotBytes g.cfg)) fcRingMisuse (ringInfo p.ring.val 5)
      else lsCheck .plain p.dstOff dn
      let m : DMember := { tid := tid, rank := rank, pkg := s.pkg, xpb := x, wait := waitOf f.wmode f.wsem f.wthr, ssem := f.ssem
                           sinc := f.sinc, since := s.tick, started := false, tick := 0, phases := 0, srcDone := false, flits := 0, slips := 0
                           slots := [], done := false }
      sendFromC (.start p.group f.obj m)
      modS (modCur (fun t => { fillMark p true t with jobs := t.jobs + 1 }))
      pure .seq) s

/-- The scope at which a member's start releases: .sys when the members span packages (R123, R342). -/
def startScope (s : State) (group : Nat) : BitVec 2 :=
  let ps := (getGroup s group).members.map (fun m => s.pkgOf m.2)
  if ps.all (fun p => some p == ps.head?) then 2#2 else 3#2

/-- Whether a member may start: its task is on its core, its wait is satisfied, its writes are performed, and Damask holds
no event of it (R36, R123, R342, R347). -/
def memberReady (s : State) (group : Nat) (m : DMember) : Bool :=
  match getTask? s m.tid with
  | some t => !m.started && !m.done && t.status == .resident && writesPerformed t (startScope s group)
      && !eventWaits s .damask (some m.tid) && (match m.wait with
      | some w => t.semReady w
      | none => true)
  | none => false

/-- The 128 bytes of a member's XPB when it starts: its package's table, unless that holds no XPB of its group any more
(R317, R342). -/
def xpbNow (s : State) (idx : BitVec 16) (m : DMember) : BitVec 1024 :=
  let h := s.homeView (m.pkg * 2 ^ 47)
  let a := objEntry h idx
  let b := objEntry h (idx + 1)
  let x := a.2.toNat + 2 ^ 512 * b.2.toNat
  if a.1 = 3#8 ∧ b.1 = 4#8 ∧ xpbFirstOk a.2.toNat ∧ xpbSecondOk b.2.toNat ∧ (xpbOf x).geomOk
      ∧ (xpbOf x).group = (xpbOf m.xpb.toNat).group then BitVec.ofNat 1024 x
  else m.xpb

/-- DAMASK_MEMBER_START: the member starts; digests that differ end the collective for all (R342). -/
def execDamaskMemberStart (coll : CollKey) (tid : Nat) (s : State) : Host.Outcome State Fault Refusal :=
  occur (fun s =>
    match getColl? s coll with
    | none => s
    | some c =>
      match c.member? tid with
      | none => s
      | some m =>
        if ¬ memberReady s coll.group m ∨ c.ended.isSome then s
        else
          let x := xpbNow s coll.xpb m
          let s := match m.wait with
            | some w => modTask tid (fun t => t.serve w) s
            | none => s
          let s := modMember coll tid (fun m => { m with started := true, tick := s.tick, wait := none, xpb := x }) s
          if c.members.any (fun y => y.started && y.xpb != x) then
            match getColl? s coll with
            | some c => closeColl coll (endCollective fcGroupMismatch none c s)
            | none => s
          else s) s

/-- Whether every member of the grid has joined and started with the same XPB. -/
def DColl.complete (c : DColl) : Bool :=
  match c.members with
  | [] => false
  | m :: _ => c.members.length == (xpbOf m.xpb.toNat).size
      && c.members.all (fun x => x.started && x.xpb == m.xpb)

/-- The XPB all members share. -/
def DColl.xpbAll (c : DColl) : Xpb := xpbOf ((c.members.head?.map (fun (m : DMember) => m.xpb)).getD 0#1024).toNat

/-- Whether a block crosses packages. -/
def DColl.crossing (c : DColl) (b : DamaskBlock) : Bool :=
  match c.members.find? (fun m => m.rank == b.src), c.members.find? (fun m => m.rank == b.dst) with
  | some x, some y => x.pkg != y.pkg
  | _, _ => false

/-- The phases of a ring destination that have rows and no slot yet, up to a phase (R339). -/
def unclaimed (p : Xpb) (m : DMember) (phase : Nat) : List Nat :=
  (List.range (phase + 1)).filter (fun q =>
    decide (m.phases ≤ q) && m.slots.all (fun x => x.2 != q) && (p.phaseRows (m.rank - p.rank0) q) != [])

/-- Slots claimed in phase order for these phases, as long as the ring has room (R60, R339). -/
def claimPhases (ring : Fin 8) : List Nat → Ring → List (Fin 16 × Nat) → Ring × List (Fin 16 × Nat)
  | [], g, l => (g, l)
  | q :: r, g, l =>
    if g.claimable then claimPhases ring r g.claim (l ++ [(Fin.ofNat 16 g.tail, q)]) else (g, l)

/-- Where member m's destination row lies: in its region, or packed in its phase's slot (R338, R339). -/
def rowPlace (p : Xpb) (m : DMember) (g : Ring) (phase row : Nat) : Nat :=
  if p.dstRing then
    let slot := ((m.slots.find? (fun x => x.2 == phase)).map (fun x => x.1.val)).getD 0
    g.slotAt slot + p.pitchOut * ((p.phaseRows (m.rank - p.rank0) phase).filter (fun r => r < row)).length
  else p.dstOff + p.pitchOut * row

/-- The elements of a block copied from the source member's local store into the destination's (R339, R340). -/
def copyBlock (p : Xpb) (b : DamaskBlock) (src : Task) (d : DMember) (s : State) : State :=
  modTask d.tid (fun t =>
    (p.moves b (rowPlace p d (t.rings[p.ring]) b.phase)).foldl
      (fun (t : Task) (x : Nat × Nat) =>
        let t := t.lsWrite x.2 (src.lsRead x.1 p.z)
        { t with lsPoison := t.lsPoison ++ (if (src.lsBadRow x.1 0 1 p.z).isSome ∧ ¬ t.lsPoison.contains (x.2 / 8) then [x.2 / 8] else []) }) t) s

/-- The source bytes of a block, row by row, as its flit carries them (R340; log 17). -/
def blockText (p : Xpb) (b : DamaskBlock) (d : DMember) (src : Task) (s : State) : List (BitVec 8) :=
  match getTask? s d.tid with
  | some t => (p.moves b (rowPlace p d (t.rings[p.ring]) b.phase)).flatMap (fun x => src.lsRead x.1 p.z)
  | none => []

/-- Whether a task is on its core: the blocks of a member that is not wait (R347). -/
def onCore (s : State) (tid : Nat) : Bool :=
  match getTask? s tid with
  | some t => t.status == .resident
  | none => false

/-- The established circuit of package a to package b (R369). -/
def State.link? (s : State) (a b : Nat) : Option Circuit :=
  (s.packs.find? (fun p => p.pkg == a)).bind (fun p => p.circuits.find? (Circuit.leads b))

/-- Whether a package has an established circuit to another (R369). -/
def State.linkUp (s : State) (a b : Nat) : Bool := a == b || (s.link? a b).isSome

/-- Whether the circuit between the packages of a crossing block takes its flit: not while data flits of an earlier slot
are unacknowledged on it (R372, R463). -/
def State.carries (s : State) (a b : Nat) (tag : Option (CollKey × Nat)) : Bool :=
  match s.link? a b with
  | some c => c.tx.open_ && (tag.isNone || c.slotTag.isNone || c.slotTag == tag || c.tx.unacked.all (fun f => flitKind f.1 != 0))
  | none => false

/-- The phase as whose slotted block a crossing block travels; none for one that travels unslotted (R459, R463, R470). -/
def slotTagOf (s : State) (c : DColl) (phase : Nat) : Option (CollKey × Nat) :=
  if c.unslotted ∨ ¬ s.synced then none else some (c.key, phase)

/-- A crossing block's flit sent over its circuit (R340, R371). -/
def sendBlock (a b : Nat) (tag : Option (CollKey × Nat)) (text : List (BitVec 8)) (s : State) : State :=
  atPack (fun p => p.pkg == a) (fun s =>
    let s := sendData b (BitVec.ofNat 2048 (bytesNat text)) s
    { s with circuits := modFirst (Circuit.leads b) (fun c => { c with slotTag := if tag.isSome then tag else c.slotTag }) s.circuits }) s

/-- The ring of a block's destination and the slots its member holds once the block's phase has one: slots are claimed in
phase order (R339), after the fillers that R334 serves first; none where the phase gets no slot. -/
def blockSlots (s : State) (p : Xpb) (y : DMember) (phase : Nat) : Option (Ring × List (Fin 16 × Nat)) :=
  match getTask? s y.tid with
  | none => none
  | some t =>
    let g := t.rings[p.ring]
    if ¬ p.dstRing then some (g, y.slots)
    else if y.slots.any (fun z => z.2 == phase) then some (g, y.slots)
    else if claimsFirst (s.homeView (y.pkg * 2 ^ 47)) y.tid p.ring 65 then none
    else
      let r := claimPhases p.ring (unclaimed p y phase) g y.slots
      if r.2.any (fun z => z.2 == phase) then some r else none

/-- Whether a block may move: both members have started with the same XPB, it has not moved, its ring slot can be had, and
one that crosses packages has its circuit and its slot, or travels unslotted (R339, R342, R346, R459, R470). -/
def blockDue (s : State) (c : DColl) (b : DamaskBlock) : Bool :=
  match c.atRank? b.src, c.atRank? b.dst with
  | some x, some y =>
    let p := xpbOf x.xpb.toNat
    c.ended.isNone && x.started && y.started && x.xpb == y.xpb && onCore s x.tid && onCore s y.tid
      && !c.moved.contains b && (p.blocks (b.src - p.rank0) (b.dst - p.rank0)).contains b
      && (!c.crossing b || (c.complete && s.carries x.pkg y.pkg (slotTagOf s c b.phase) && (decide (b.phase < c.slotPhase) || c.unslotted || !s.synced)))
      && (blockSlots s p y b.phase).isSome
  | _, _ => false

/-- DAMASK_BLOCK_WRITE: a block is read at its source and written transposed at its destination; a ring's slots
are claimed in phase order first (R339, R340). -/
def execDamaskBlockWrite (coll : CollKey) (b : DamaskBlock) (s : State) : Host.Outcome State Fault Refusal :=
  occur (fun s =>
    match getColl? s coll with
    | none => s
    | some c =>
      match c.atRank? b.src, c.atRank? b.dst with
      | some x, some y =>
        let p := xpbOf x.xpb.toNat
        match blockDue s c b, getTask? s x.tid, blockSlots s p y b.phase with
        | true, some st, some r =>
          let y' := { y with slots := r.2, flits := y.flits + 1 }
          let s := modTask y.tid (fun t => t.modRing p.ring (fun _ => r.1)) s
          let s := copyBlock p b st y' s
          let s := if c.crossing b then sendBlock x.pkg y.pkg (slotTagOf s c b.phase) (blockText p b y' st s) s else s
          modColl coll (fun c => { c with moved := c.moved ++ [b] }) (modMember coll y.tid (fun _ => y') s)
        | _, _, _ => s
      | _, _ => s) s

/-- Whether member m's next phase is complete: every block bound for it in that phase has moved (R343). -/
def phaseDue (c : DColl) (m : DMember) : Bool :=
  let p := c.xpbAll
  c.ended.isNone && c.complete && !m.done && decide (m.phases < p.phases)
    && ((p.inbound (m.rank - p.rank0)).filter (fun b => b.phase == m.phases)).all (fun b => c.moved.contains b)

/-- DAMASK_PHASE_COMPLETE: a ring's slot becomes full, and the phase is signalled (R343). -/
def execDamaskPhaseComplete (coll : CollKey) (tid : Nat) (s : State) : Host.Outcome State Fault Refusal :=
  occur (fun s =>
    match getColl? s coll with
    | none => s
    | some c =>
      match c.member? tid with
      | none => s
      | some m =>
        if ¬ phaseDue c m then s
        else
          let p := c.xpbAll
          let s := match m.slots.find? (fun x => x.2 == m.phases) with
            | some x => modTask tid (fun t => t.modRing p.ring (fun g => g.setFull x.1.val)) s
            | none => s
          let s := modMember coll tid (fun m => { m with phases := m.phases + 1 }) s
          agentSignal { mkind := 4, unit := 0, stream := 0 } tid tid
            (BitVec.ofNat 8 (p.psem + (if p.pstep then m.phases else 0))) p.pinc s) s

/-- Whether every block a member sends has been read (R343). -/
def sourceDue (c : DColl) (m : DMember) : Bool :=
  let p := c.xpbAll
  c.ended.isNone && c.complete && !m.done && !m.srcDone
    && (p.outbound (m.rank - p.rank0)).all (fun b => c.moved.contains b)

/-- DAMASK_SOURCE_READ_DONE (R343). -/
def execDamaskSourceReadDone (coll : CollKey) (tid : Nat) (s : State) : Host.Outcome State Fault Refusal :=
  occur (fun s =>
    match getColl? s coll with
    | none => s
    | some c =>
      match c.member? tid with
      | none => s
      | some m =>
        if ¬ sourceDue c m then s
        else
          let p := c.xpbAll
          let s := modMember coll tid (fun m => { m with srcDone := true }) s
          if p.rinc = 0 then s else agentSignal { mkind := 4, unit := 0, stream := 0 } tid tid p.rsem p.rinc s) s

/-- Whether a membership is complete (R344). -/
def memberDone (c : DColl) (m : DMember) : Bool :=
  c.ended.isNone && !m.done && m.srcDone && m.phases == (xpbOf m.xpb.toNat).phases

/-- DAMASK_MEMBERSHIP_COMPLETE: XPBGO's signal field, the kind-0x04 event, and one engine job fewer (R344). -/
def execDamaskMembershipComplete (coll : CollKey) (tid : Nat) (s : State) : Host.Outcome State Fault Refusal :=
  occur (fun s =>
    match getColl? s coll with
    | none => s
    | some c =>
      match c.member? tid with
      | none => s
      | some m =>
        if ¬ memberDone c m then s
        else
          let s := modTask tid (fillMark (xpbOf m.xpb.toNat) false) (endMembership c 0 m s)
          closeColl coll (modMember coll tid (fun m => { m with done := true }) s)) s

/-- The crossing blocks of a phase. -/
def crossBlocks (c : DColl) (phase : Nat) : List DamaskBlock :=
  let p := c.xpbAll
  ((List.range p.size).flatMap p.inbound).filter (fun b => b.phase == phase && c.crossing b)

/-- The least phase from `q` with crossing blocks. -/
def nextCrossing (c : DColl) (q : Nat) : Option Nat :=
  findBelow (fun r => decide (q ≤ r) && (crossBlocks c r) != []) c.xpbAll.phases

/-- The slot guard: widened while drift correction is suspended (R468). -/
def State.slotGuard (s : State) : Nat :=
  if s.engines.toList.any (fun e => e.driftOff) then bits s.linkCfg.toNat 32 8 else bits s.linkCfg.toNat 24 8

/-- The package of a member's rank. -/
def DColl.pkgOf (c : DColl) (rank : Nat) : Nat := ((c.members.find? (fun m => m.rank == rank)).map (·.pkg)).getD 0

/-- The packages that the crossing blocks of a phase join, one pair for each block (R346). -/
def crossPairs (c : DColl) (phase : Nat) : List (Nat × Nat) := (crossBlocks c phase).map (fun b => (c.pkgOf b.src, c.pkgOf b.dst))

/-- The lanes of the circuit between two packages; 16 while there is none (R367). -/
def State.lanesTo (s : State) (a b : Nat) : Nat :=
  ((s.link? a b).map (fun c => (List.range 16).countP (fun i => c.lanes.getLsbD i))).getD 16

/-- The slots that the crossing blocks of a phase need: 280 bytes a flit at 200 Gb/s on each lane of its circuit, between
the guards (R346, R367, R371, R468). -/
def slotsNeeded (s : State) (c : DColl) (phase : Nat) : Nat :=
  let pairs := crossPairs c phase
  let ticks (x : Nat × Nat) : Nat :=
    let rate := 5 * max 1 (s.lanesTo x.1 x.2)
    ((pairs.countP (fun y => y == x)) * 56 + rate - 1) / rate
  let room := max 1 (1024 - 2 * s.slotGuard)
  max 1 (((pairs.map ticks).foldl max 0 + room - 1) / room)

/-- The slot a phase is assigned: the phases before it that have not begun take the slots they need (R346). -/
def DColl.slotOf (s : State) (c : DColl) (phase : Nat) : Nat :=
  (c.members.foldl (fun t m => max t m.tick) 0) / 1024 + 1 + c.xpbAll.lead + phase + c.slotMove
    + ((span c.slotPhase (phase - c.slotPhase)).map (fun q => slotsNeeded s c q - 1)).sum

/-- Whether the circuits that a phase's crossing blocks need are up (R346, R369). -/
def circuitsUp (s : State) (c : DColl) (phase : Nat) : Bool := (crossPairs c phase).all (fun x => s.linkUp x.1 x.2)

/-- The circuits that a complete collective's coming blocks need and that are not up are wanted ahead of their slots
(R369). -/
def circuitsWanted (s : State) (c : DColl) : List (Nat × Nat) :=
  if c.ended.isSome ∨ ¬ c.complete then []
  else ((List.range c.xpbAll.phases).flatMap (crossPairs c)).filter (fun x =>
    !s.linkUp x.1 x.2 && (s.packs.find? (fun p => p.pkg == x.1)).any (fun p => !p.demand.contains x.2))

/-- The first of them asked for. -/
def wantCircuit (c : DColl) (s : State) : State :=
  match (circuitsWanted s c).head? with
  | some x => atPack (fun p => p.pkg == x.1) (demandCircuit x.2) s
  | none => s

/-- The kind-0x06 event of a slip (R346, R459). -/
def slipEvent (c : DColl) (phase : Nat) (status : BitVec 8) (slot : Nat) : BitVec 128 :=
  eventOf (eventLow phase c.key.xpb.toNat status.toNat 6) (1 + 2 ^ 32 * (slot % 2 ^ 32))

/-- One member's slip in a phase, with its event; the one that reaches the limit is recorded and ends slotting
(R346, R459). -/
def slipMember (coll : CollKey) (phase slot : Nat) (tid : Nat) (s : State) : State :=
  match getColl? s coll with
  | none => s
  | some c =>
    match c.member? tid with
    | none => s
    | some m =>
      let n := m.slips + 1
      let s := modMember coll tid (fun m => { m with slips := n }) s
      if c.slipMax ≠ 0 ∧ n = c.slipMax then
        let s := addTaskRecord tid
          { code := fcSlipLimit, sev := 0, mkind := 4, tag := phase, addr := BitVec.ofNat 64 coll.group } s
        modColl coll (fun c => { c with unslotted := true }) (pushEventTo tid .damask (slipEvent c phase fcSlipLimit slot) s)
      else pushEventTo tid .damask (slipEvent c phase 0 slot) s

/-- The members that receive crossing blocks in a phase. -/
def crossMembers (c : DColl) (phase : Nat) : List Nat :=
  let bs := crossBlocks c phase
  (c.members.filter (fun m => !m.done && bs.any (fun b => b.dst == m.rank))).map (·.tid)

/-- Whether the slot of the next phase with crossing blocks begins. -/
def slotDue (s : State) (c : DColl) : Option Nat :=
  if c.ended.isSome ∨ ¬ c.complete ∨ c.unslotted ∨ ¬ s.synced then none
  else match nextCrossing c c.slotPhase with
    | some q => if 1024 * c.slotOf s q ≤ s.tick then some q else none
    | none => none

/-- DAMASK_SLOT_START: at its slot's start a phase whose circuits are ready keeps the slot, and its crossing blocks
move; one that is not ready moves to the next slot with all later phases (R346, R459, R468). -/
def execDamaskSlotStart (coll : CollKey) (circuitsReady : Bool) (s : State) : Host.Outcome State Fault Refusal :=
  occur (fun s =>
    match getColl? s coll with
    | none => s
    | some c =>
      match slotDue s c with
      | none => s
      | some q =>
        if circuitsReady then
          modColl coll (fun d => { d with slotPhase := q + 1, slotMove := d.slotMove + (slotsNeeded s c q - 1) }) s
        else
          let s0 := s
          let s := modColl coll (fun d => { d with slotMove := d.slotMove + 1 }) s
          ((span q (c.xpbAll.phases - q)).filter (fun r => (crossBlocks c r) != [])).foldl (fun s r =>
            (crossMembers c r).foldl (fun s tid => slipMember coll r (c.slotOf s0 r + 1) tid s) s) s) s

/-- DAMASK_MEMBER_LOST: a member is lost, or a circuit that its crossing blocks need has failed; the collective
ends for all (R456, R466). -/
def execDamaskMemberLost (coll : CollKey) (rank : Nat) (code : BitVec 8) (s : State) : Host.Outcome State Fault Refusal :=
  occur (fun s =>
    match getColl? s coll with
    | none => s
    | some c =>
      match c.atRank? rank with
      | none => s
      | some m =>
        if c.ended.isSome then s
        else if code = fcMemberLost then closeColl coll (endCollective code (some m.tid) c s)
        else if code = fcCircuitFail then closeColl coll (endCollective code none c s)
        else s) s

end Sys2Proof.Machine
end

