-- ==== Sys2Proof/Machine/Tasking.lean ====
section
/-! DEFINITION. Tasks on cores: start, end, freeze, resumption, pre-emption; semaphores' cycles and held events
(02 R21, R22, R36 to R41, R47 to R49; 03; 14 R358, R359; 20 R400 to R402; 23 R451, R452, R458). -/

namespace Sys2Proof.Machine

/-- Word i of a node record (Table 14.2). -/
def NodeSt.word (n : NodeSt) (i : Nat) : Nat := bits n.record.toNat (64 * i) 64

/-- A window from its 32 bytes (Table 03.4). -/
def windowOf (x : Nat) : Window :=
  { base := BitVec.ofNat 52 (bits x 12 52), limit := BitVec.ofNat 52 (bits x 76 52), offset := BitVec.ofNat 46 (bits x 140 46)
    v := bitN x 196, x := bitN x 195, a := bitN x 194, w := bitN x 193, r := bitN x 192 }

/-- A stream at launch: its entry point, its armed trap section and its seed (R21, R62, Table 03.10). -/
def launchStream (entry trapVa seed : BitVec 64) : Strm :=
  { Strm.init with
    pc := entry, seed := seed
    trapsec := if trapVa = 0 then 0 else (trapVa &&& ~~~3#64) ||| 1#64 }

/-- The seed of a stream at launch (R62). -/
def launchSeed (tile step node : BitVec 64) (st : Stream) : BitVec 64 :=
  storeSeed (mix64 (tile ^^^ (step <<< 24) ^^^ (node <<< 40) ^^^ (BitVec.ofNat 64 (streamNum st) <<< 62)))

/-- Semaphores as `.sem` declares them, in the order of the list (R21, Table 07.13). -/
def launchSems : Nat → List (BitVec 8) → Vector (BitVec 32) 256
  | 0, _ => Vector.replicate 256 0
  | n + 1, bs =>
    let e := bytesNat ((bs.drop (8 * n)).take 8)
    (launchSems n bs).set (e % 256) (BitVec.ofNat 32 (e / 2 ^ 32)) (Nat.mod_lt _ (by decide))

/-- A task at launch, read from its node's kernel image (R20, R21, R57, R59, R62, Table 07.13).  Its TASKID takes the next
sequence number of the package here, at its start: the manual does not say at which moment a task is dispatched
(DESIGN CHOICE, log 48). -/
def launchTask (core slot node : Nat) (tile : BitVec 64) (n : NodeSt) (step patch : BitVec 64) : M Task := do
  let img := n.word 4 % 2 ^ 58
  let h := bytesNat (← readIa .quay img 0x188)
  let s ← getS
  let rings : Vector Ring 8 := Vector.ofFn (fun i =>
    if bitN h (48 + i.val) then { Ring.init with cfg := BitVec.ofNat 64 (bits h (8 * 0x128 + 64 * i.val) 64), en := true } else Ring.init)
  let nobj := bits h (8 * 0x168 + 32) 32
  let ol ← readIa .quay (img + bits h (8 * 0x168) 32) (4 * nobj)
  let nsem := bits h (8 * 0x170 + 32) 32
  let sl ← readIa .quay (img + bits h (8 * 0x170) 32) (8 * nsem)
  let objs : List (BitVec 16 × BitVec 8) := (List.range nobj).map (fun i =>
    let e := bytesNat ((ol.drop (4 * i)).take 4)
    (BitVec.ofNat 16 e, BitVec.ofNat 8 (e / 65536)))
  let nodeWord := BitVec.ofNat 64 (slot % 64 * 4096 + node % 4096)
  let seed (st : Stream) : BitVec 64 := launchSeed tile step nodeWord st
  let strm (st : Stream) : Strm :=
    launchStream (BitVec.ofNat 64 (n.word (streamNum st))) (BitVec.ofNat 64 (n.word (11 + streamNum st))) (seed st)
  pure { Task.init with
    status := .resident, tid := s.nextTask, core := core, slot := slot, node := node, tile := tile, step := step, patch := patch
    taskid := BitVec.ofNat 64 (s.pkg * 2 ^ 53 + s.taskSeq % 2 ^ 53)
    speed := BitVec.ofNat 64 (((s.cores[core]?).map (·.speed)).getD 0)
    prio := (getSlot s slot).prio, started := s.tick
    c := strm .c, a := strm .a, x := strm .x, s := strm .s
    seedm := storeSeed (mix64 (seed .x)), k := launchSems nsem sl
    win := Vector.ofFn (fun i => windowOf (bits h (8 * 0x28 + 256 * i.val) 256))
    rings := rings, objs := objs }

/-- A task as it now is becomes its last saved context (R404; log 66). -/
def noteSaved (tid : Nat) (s : State) : State :=
  match ownTask? s tid with
  | some t => { s with lastSaved := t :: s.lastSaved.filter (fun u => u.tid != tid) }
  | none => s

/-- A task added: it comes to the front when no task stands there. -/
def addTask (t : Task) (s : State) : State :=
  if s.task.status = .vacant ∨ s.task.status = .ended then { s with task := t } else { s with others := s.others ++ [t] }

/-- The core's queue without its head. -/
def popQueue (core : Nat) (s : State) : State :=
  { s with cores := Vector.ofFn (fun i : Fin 192 => if i.val = core then { s.cores[i] with queue := s.cores[i].queue.tail } else s.cores[i]) }

/-- The first declared ring whose configuration is invalid at launch (R59, R99). -/
def badRing (t : Task) : Option (Fin 8) := (List.finRange 8).find? (fun n => t.rings[n].en && !t.ringCfgOk n.val t.rings[n].cfg)

/-- The step and the patch of a graph's current step (R354). -/
def GSlot.stepPatch (g : GSlot) : BitVec 64 × BitVec 64 :=
  match g.running with
  | some r => (BitVec.ofNat 64 r.step,
      if g.patchSize = 0 then 0 else BitVec.ofNat 64 (g.patchIa r.bank (r.step % (max 1 g.patchCap))))
  | none => (0, 0)

/-- Whether a core can take a task from its queue: live, with none on it, and the package running (R21, R404). -/
def coreIdle (s : State) (core : Nat) : Bool := s.liveCore core && (residentOn s core).isNone && !s.halted

/-- TASK_START: the tile at the head of a core's queue starts; a declared ring that breaks R59 freezes the task
before any instruction issues (R21, R59, R352). -/
def execTaskStart (core : Nat) (s : State) : Host.Outcome State Fault Refusal :=
  match (s.cores[core]?).bind (fun c => c.queue.head?) with
  | some (.tile slot node tile) =>
    match (getSlot s slot).nodes[node]? with
    | some n =>
      if ¬ coreIdle s core then .next s
      else finishEvent s ((do
        let p := (getSlot s slot).stepPatch
        let t ← launchTask core slot node tile n p.1 p.2
        modS (fun s => noteSaved t.tid (l1Drop core
          (addTask t { popQueue core s with nextTask := s.nextTask + 1, taskSeq := s.taskSeq + 1 })))
        match badRing t with
        | some r => modS (freezeTask t.tid ⟨fcRingMisuse, 0, none, 0, ringInfo r.val 4, 0⟩ 0 0)
        | none => pure ()) s)
    | none => .next s
  | _ => .next s

/-- Whether every condition of R22 holds for a task's end. -/
def mayEnd (t : Task) : Bool :=
  t.status == .resident && allStreams.all (fun st => (t.strm st).fin) && t.jobs == 0 && t.block.isNone
    && t.sidelog.isEmpty && t.logWait.isEmpty && t.sendC.isEmpty && t.sendS.isEmpty

/-- What a task's end leaves: it leaves its groups, blocks that wait for it meet a vacant rank, its tile is
reported, and it exists no more (R22, R454). -/
def endTask (tid : Nat) (s : State) : State :=
  match getTask? s tid with
  | none => s
  | some t =>
    let s := (groupsOf s tid).foldl (fun s ia => leaveGroup ia tid s) s
    let s := t.inbound.foldl (fun s m => vacantRecord m.src 0 m.group m.rank (modTask m.src Task.endJob s)) s
    let s := if t.nodeRel then s else reportTile t.slot t.node s
    let s := modSlot t.slot (fun g => { g with lastCore := t.core }) s
    let s := modTask tid (fun t => { t with status := .ended }) s
    settleFailed t.slot { s with others := s.others.filter (fun u => u.status != .ended)
                                 lastSaved := s.lastSaved.filter (fun u => u.tid != tid) }

/-- Guards that a task still holds at its end are released (R120). -/
def releaseGuards (tid : Nat) : List (Nat × Bool) → M Unit
  | [] => pure ()
  | g :: gs => do
    applyRelease tid g.1
    releaseGuards tid gs

/-- TASK_END (R22): a write-back that faults enters the side log, and the task does not end before it is empty; a guard
that it still holds is released (R120). -/
def execTaskEnd (tid : Nat) (s : State) : Host.Outcome State Fault Refusal :=
  match getTask? s tid with
  | none => .next s
  | some t =>
    if ¬ mayEnd t then .next s
    else finishEvent s ((do
      let _ ← writeBackLines tid (fun _ => true)
      let s ← getS
      match getTask? s tid with
      | some t =>
        if mayEnd t then do
          releaseGuards tid t.guards
          modS (endTask tid)
      | none => pure ()) s)

/-- TASK_FREEZE (R400 to R402). -/
def execTaskFreeze (tid : Nat) (f : FreezeCause) (s : State) : Host.Outcome State Fault Refusal :=
  occur (fun s => match getTask? s tid with
    | some t =>
      if t.status = .resident ∨ t.status = .saved then
        freezeTask tid f 0 (match f.st with
          | some st => (t.strm st).pc
          | none => 0) s
      else s
    | none => s) s

/-- The queued jobs of a resumed task join the queues of its core's die (R49, R333). -/
def requeueJobs (t : Task) (s : State) : State :=
  let unit (n : Nat) : Fin 32 := Fin.ofNat 32 (4 * s.dieOf t.core + n % 4)
  let s := t.savedQueue.foldl (fun s x => modChan (unit x.1) (fun c => { c with queue := c.queue ++ [x.2] }) s) s
  t.savedProgQueue.foldl (fun s x => modLighter (unit x.1) (fun c => { c with queue := c.queue ++ [x.2] }) s) s

/-- A saved task restored on a core from its context area (R49, R56, R112); a poisoned context freezes it (R411, R458). -/
def resumeTask (tid core : Nat) (s : State) : State :=
  let s := takeContext tid s
  let s := modTask tid (fun t => { t with status := .resident, core := core, speed := BitVec.ofNat 64 (s.speedOf core) }) s
  match getTask? s tid with
  | none => s
  | some t =>
    let s := l1Drop core { s with preemptFail := false }
    if t.poisoned then freezeTask tid ⟨fcDataPoison, 0, none, 0, 0, 0⟩ 0 0 s
    else modTask tid (fun t => { t with savedQueue := [], savedProgQueue := [] }) (requeueJobs t s)

/-- TASK_RESUME (R49, R359). -/
def execTaskResume (core : Nat) (s : State) : Host.Outcome State Fault Refusal :=
  occur (fun s => match (s.cores[core]?).bind (fun c => c.queue.head?) with
    | some (.resume _ _ tid) =>
      if coreIdle s core then resumeTask tid core (popQueue core s) else s
    | _ => s) s

/-- Whether a started Damask membership delays a task's pre-emption (R47, R347). -/
def damaskHolds (s : State) (tid : Nat) : Bool :=
  s.collectives.any (fun c => c.ended.isNone && c.members.any (fun m => m.tid == tid && m.started && !m.done))

/-- A resident task saved into a context area (R47, R48). -/
def saveTask (tid : Nat) (s : State) : State :=
  noteSaved tid (keepContext tid false (modTask tid (fun t => { t with status := .saved }) (stopEngines tid (discardUnretired tid s))))

/-- Whether a context area beyond the reserve is free (R458; log 22). -/
def areaFree (s : State) : Bool := (freeArea s false).isSome

/-- The head of a node's dealable items and the node without it (R353, R356, R359). -/
def NodeSt.take (slot node : Nat) (n : NodeSt) : Option (QItem × NodeSt) :=
  match n.resume with
  | tid :: r => some (.resume slot node tid, { n with resume := r })
  | [] => match n.tiles with
    | t :: r => some (.tile slot node t, { n with tiles := r })
    | [] =>
      if n.nextTile < n.tileCount then some (.tile slot node (BitVec.ofNat 64 n.nextTile), { n with nextTile := n.nextTile + 1 })
      else match n.spawnq with
        | t :: r => some (.tile slot node t, { n with spawnq := r })
        | [] => none

/-- The nodes that are ready and have a dealable item, best first: priority, then the order of readiness (R356).  A node
that has completed has one where a task released by NODEREL waits to be resumed or run again (R188, R359). -/
def dealable (s : State) : List (Nat × Nat × NodeSt) :=
  let all := (List.range 64).flatMap (fun slot =>
    let g := getSlot s slot
    if g.running.isSome ∧ g.inStep ∧ ¬ g.failed then
      ((List.range g.nodes.length).zip g.nodes).filterMap (fun (x : Nat × NodeSt) =>
        if x.2.ready && (x.2.take slot x.1).isSome then some (slot, x.1, x.2) else none)
    else [])
  let before (a b : Nat × Nat × NodeSt) : Bool :=
    let pa := (getSlot s a.1).prio
    let pb := (getSlot s b.1).prio
    decide (pb < pa) || (pa == pb && decide (a.2.2.order ≤ b.2.2.order))
  all.mergeSort before

/-- Whether a core is eligible for a node (R356, R404). -/
def eligible (s : State) (n : NodeSt) (core : Nat) : Bool :=
  n.placement.contains core && s.liveCore core
    && (((s.cores[core]?).map (fun c => decide (c.queue.length < 4))).getD false)

/-- The pick of R357 over the placement set: the winner's place in it, and the new current values. -/
def pickCore (s : State) (n : NodeSt) (weights : List Nat) : Option (Nat × List Int) :=
  let rows := (n.placement.zip n.cur).map (fun (x : Nat × Int) => (x.1, x.2, eligible s n x.1, (weights.getD x.1 0 : Int)))
  let added := rows.map (fun (r : Nat × Int × Bool × Int) => (r.1, if r.2.2.1 then r.2.1 + r.2.2.2 else r.2.1, r.2.2.1))
  let total := (rows.map (fun (r : Nat × Int × Bool × Int) => if r.2.2.1 then r.2.2.2 else 0)).sum
  let win := added.foldl (fun (b : Option (Nat × Int)) (r : Nat × Int × Bool) =>
    if r.2.2 then match b with
      | some w => if w.2 < r.2.1 then some (r.1, r.2.1) else b
      | none => some (r.1, r.2.1)
    else b) none
  win.map (fun w => (w.1, added.map (fun (r : Nat × Int × Bool) => if r.1 = w.1 then r.2.1 - total else r.2.1)))

/-- A core's queue with an item at its tail. -/
def enqueue (core : Nat) (i : QItem) (s : State) : State :=
  { s with cores := Vector.ofFn (fun c : Fin 192 => if c.val = core then { s.cores[c] with queue := s.cores[c].queue ++ [i] } else s.cores[c]) }

/-- The first dealable node that has an eligible core. -/
def nextPick (s : State) : Option (Nat × Nat × NodeSt) :=
  if s.halted then none
  else (dealable s).find? (fun x => x.2.2.placement.any (eligible s x.2.2))

/-- DISTRIBUTOR_PICK (R356, R357). -/
def execDistributorPick (s : State) : Host.Outcome State Fault Refusal :=
  occur (fun s => match nextPick s with
    | none => s
    | some (slot, node, n) =>
      let weights := ((getSlot s slot).running.map (·.weights)).getD []
      match n.take slot node, pickCore s n weights with
      | some (item, n'), some (core, cur) => enqueue core item (modNode slot node (fun _ => { n' with cur := cur }) s)
      | _, _ => s) s

/-- The victim of a pre-emption for a node (R358): the core of the placement set whose running task has the lowest
priority below the node's, then the latest start, then the lowest id. -/
def victim (s : State) (prio : Nat) (n : NodeSt) : Option Task :=
  (n.placement.filterMap (residentOn s)).foldl (fun (b : Option Task) t =>
    if t.prio < prio then match b with
      | some w =>
        if t.prio < w.prio ∨ (t.prio = w.prio ∧ (w.started < t.started ∨ (w.started = t.started ∧ t.core < w.core)))
        then some t else b
      | none => some t
    else b) none

/-- An item of a core's queue goes back to the front of its node's queue (R358). -/
def giveBack (i : QItem) (s : State) : State :=
  match i with
  | .tile slot node tile => modNode slot node (fun n => { n with tiles := tile :: n.tiles }) s
  | .resume slot node tid => modNode slot node (fun n => { n with resume := tid :: n.resume }) s

/-- The items of lower priority in a core's queue go back to their nodes, keeping their order (R358). -/
def clearQueue (core prio : Nat) (s : State) : State :=
  match s.cores[core]? with
  | none => s
  | some c =>
    let low (i : QItem) : Bool := decide ((getSlot s i.slot).prio < prio)
    let s1 := (c.queue.filter low).reverse.foldl (fun s i => giveBack i s) s
    { s1 with cores := Vector.ofFn (fun x : Fin 192 =>
        if x.val = core then { s1.cores[x] with queue := s1.cores[x].queue.filter (fun i => !low i) } else s1.cores[x]) }

/-- The victim chosen for a node and not yet saved, while it still runs (R358). -/
def pendingVictim (s : State) (slot node : Nat) : Option Task :=
  (s.victims.find? (fun v => v.1 == slot && v.2.1 == node)).bind (fun v =>
    (ownTask? s v.2.2).filter (fun t => t.status == .resident))

/-- Whether the sequencer is pre-empting for some node: it does so for one at a time (R358). -/
def preempting (s : State) : Bool := s.victims.any (fun v => ((ownTask? s v.2.2).filter (fun t => t.status == .resident)).isSome)

/-- The task that a pre-emption for a node is to save: the victim chosen, or one for the best ready node with a dealable
item and no eligible core (R358, R458). -/
def preemptDue (s : State) (slot node : Nat) : Option Task :=
  if s.halted then none
  else match pendingVictim s slot node, (dealable s).head? with
    | some t, _ => some t
    | none, some (sl, nd, n) =>
      if sl = slot ∧ nd = node ∧ ¬ preempting s ∧ ¬ n.placement.any (eligible s n) ∧ (¬ s.preemptFail ∨ areaFree s) then
        victim s (getSlot s slot).prio n
      else none
    | none, none => none

/-- PREEMPTION: waiting items of lower priority go back at once; the victim is saved, when no started Damask membership
delays it, and joins its node's resume queue; without a context area it keeps running, with one record (R47, R347, R358,
R458). -/
def execPreemption (slot node : Nat) (s : State) : Host.Outcome State Fault Refusal :=
  occur (fun s => match preemptDue s slot node with
    | none => s
    | some t =>
      let s := if (pendingVictim s slot node).isSome then s
        else clearQueue t.core (getSlot s slot).prio { s with victims := [(slot, node, t.tid)] }
      if damaskHolds s t.tid then s
      else if areaFree s then
        modNode t.slot t.node (fun n => { n with resume := n.resume ++ [t.tid] })
          (saveTask t.tid { s with preemptFail := false, victims := [] })
      else addTaskRecord t.tid { code := fcPreemptFail, sev := 0, mkind := 1 } { s with preemptFail := true, victims := [] }) s

/-- The place of an agent in the order of R39. -/
def agentOrder : SemAgent → Nat
  | .stream st => streamNum st
  | .jobUnit => 4
  | .bte n => 5 + n.val
  | .lighter n => 37 + n.val
  | .damask => 69
  | .outside => 70

/-- The signaller an agent is in a record (R429). -/
def agentSender : SemAgent → Signaller
  | .stream st => { mkind := 0, unit := 0, stream := streamNum st }
  | .jobUnit => { mkind := 1, unit := 0, stream := 0 }
  | .bte n => { mkind := 2, unit := n.val, stream := 1 }
  | .lighter n => { mkind := 3, unit := n.val, stream := 1 }
  | .damask => { mkind := 4, unit := 0, stream := 0 }
  | .outside => { mkind := 0, unit := 0 }

/-- A signal added to a counter without its waiters; one that would overflow is not applied and is recorded
(R39, R429). -/
def addSignal (tid : Nat) (k : BitVec 8) (x : SemSignal) (s : State) : State :=
  match (getTask? s tid).map (fun t => t.signal? k x.inc) with
  | some (some t') => modTask tid (fun _ => t') s
  | some none =>
    let g := agentSender x.agent
    addTaskRecord tid { code := fcSemOverflow, sev := 1, mkind := g.mkind, unit := g.unit, tag := g.rank, stream := g.stream
                        info := BitVec.ofNat 32 k.toNat } s
  | none => s

/-- SEMAPHORE_WAIT_SATISFIED: one cycle of a counter: its signals in their order, then its waiters in theirs
(R37, R39, R41). -/
def execSemaphoreWaitSatisfied (tid : Nat) (k : BitVec 8) (sigs : List SemSignal) (s : State) : Host.Outcome State Fault Refusal :=
  occur (fun s =>
    serveWaiters tid k ((sigs.mergeSort (fun a b => agentOrder a.agent ≤ agentOrder b.agent)).foldl
      (fun s x => addSignal tid k x s) s)) s

/-- EVENT_DELIVER: the oldest event that waits for room enters q15 (R36). -/
def execEventDeliver (tid : Nat) (s : State) : Host.Outcome State Fault Refusal :=
  occur (modTask tid (fun t => match t.heldEvents with
    | e :: r => if t.q15.length < 64 then { t.deliver with q15 := t.q15 ++ [e.2], heldEvents := r } else t
    | [] => t)) s

/-- The first blocked stream of a task, and the mask of the blocked ones (R451). -/
def Task.firstBlocked (t : Task) : Option Stream := allStreams.find? (fun st => !(t.strm st).fin)
def Task.blockedMask (t : Task) : Nat :=
  (allStreams.map (fun st => if (t.strm st).fin then 0 else 2 ^ streamNum st)).sum

/-- DEADLOCK_TIMEOUT: a certain deadlock of 4,096 cycles freezes the task (R451). -/
def execDeadlockTimeout (tid : Nat) (s : State) : Host.Outcome State Fault Refusal :=
  occur (fun s => match getTask? s tid with
    | some t =>
      if t.status = .resident ∧ t.deadlocked ∧ 4096 ≤ t.dlCycles then
        freezeTask tid ⟨fcDeadlock, 0, t.firstBlocked, 0, BitVec.ofNat 32 t.blockedMask, 0⟩ 0 0 s
      else s
    | none => s) s

/-- SYNCCFG.STALL and STALLFRZ (Table 23.1). -/
def State.stallLimit (s : State) : Nat := bits s.syncCfg.toNat 0 16 * 2 ^ 16
def State.stallFreeze (s : State) : Bool := s.syncCfg.getLsbD 32

/-- Whether a task's stall is to be reported (R452). -/
def stallDue (s : State) (t : Task) : Bool :=
  t.status == .resident && t.stalled && !t.stallDone && s.stallLimit != 0 && decide (s.stallLimit ≤ t.stallTicks)

/-- STALL_TIMEOUT: one record for a suspected stall, which freezes the task when STALLFRZ is set (R452). -/
def execStallTimeout (tid : Nat) (s : State) : Host.Outcome State Fault Refusal :=
  occur (fun s => match getTask? s tid with
    | some t =>
      let info := BitVec.ofNat 32 (2 ^ 31 + t.blockedMask)
      if ¬ stallDue s t then s
      else if s.stallFreeze then freezeTask tid ⟨fcDeadlock, 0, t.firstBlocked, 0, info, 0⟩ 0 0 s
      else addTaskRecord tid
        { code := fcDeadlock, sev := 0, mkind := 1, info := info
          stream := match t.firstBlocked with
            | some st => streamNum st
            | none => 7 } (modTask tid (fun t => { t with stallDone := true }) s)
    | none => s) s

/-- FROZEN_RESUME: FZn.ACT 1 (R402). -/
def execFrozenResume (n : Fin 16) (s : State) : Host.Outcome State Fault Refusal := occur (resumeFrozen n.val) s

/-- FZn.ACT 2: the context is freed and the entry cleared; after BREAKPOINT the node's policy follows (R402, R457). -/
def releaseFrozen (n : Nat) (s : State) : State :=
  match s.frozen[n]? with
  | some e =>
    if e.v then
      let s := { s with frozen := s.frozen.setIfInBounds n ⟨0, false, false, 0⟩ }
      let s := if e.bkpt then applyPolicy e.tid fcBreakpoint s else removeFromGroups e.tid s
      modTask e.tid (fun t => { t with status := .ended }) s
    else s
  | none => s

/-- FROZEN_RELEASE (R402, R457). -/
def execFrozenRelease (n : Fin 16) (s : State) : Host.Outcome State Fault Refusal := occur (releaseFrozen n.val) s

/-- FROZEN_JOB_SLOT_FREE: zero written to a frozen-job slot's first word frees it (R403). -/
def freeJob (die j : Nat) (s : State) : State :=
  { s with frozenJobs := s.frozenJobs.setIfInBounds (4 * die + j) ⟨0, 0, 0, false⟩ }

/-- FROZEN_JOB_SLOT_FREE (R403). -/
def execFrozenJobSlotFree (die : Fin 8) (j : Fin 4) (s : State) : Host.Outcome State Fault Refusal :=
  occur (freeJob die.val j.val) s

end Sys2Proof.Machine
end

