-- ==== Sys2Proof/Machine/Sequencer.lean ====
section
/-! DEFINITION. The graph sequencer: residence, starts, steps, readiness and step records (14 R348 to R355, R360). -/

namespace Sys2Proof.Machine

/-- Whether a node record's fields are in range (Table 14.2). -/
def nodeOk (x : Nat) : Bool :=
  let w (n : Nat) : Nat := bits x (64 * n) 64
  bits (w 4) 58 6 == 0 && bits (w 5) 13 3 == 0 && bits (w 6) 58 6 == 0 && bits (w 6) 0 58 % 8 == 0
    && bits (w 7) 12 52 == 0 && w 15 == 0

/-- A list without the repeats of earlier elements. -/
def dedup : List Nat → List Nat
  | [] => []
  | x :: r => x :: (dedup r).filter (fun y => y != x)

/-- A node as its record and its successor list give it. -/
def nodeOf (x : Nat) (succ : List Nat) : NodeSt :=
  { record := BitVec.ofNat 1024 x, succ := dedup succ, preds := 0, ready := false, order := 0, total := 0, reported := 0
    tiles := [], nextTile := 0, spawnq := [], spawned := 0, nextSpawn := [], resume := [], placement := [], cur := []
    complete := false, firstTick := 0, lastTick := 0, reruns := [], counted := false }

/-- The node array read: none when a record or a successor is out of range (R349). -/
def readNodes (ia : Nat) (total : Nat) : Nat → M (Option (List NodeSt))
  | 0 => pure (some [])
  | n + 1 => do
    let r ← readNodes ia total n
    let x := bytesNat (← readIa .quay (ia + 128 * n) 128)
    let k := bits x (64 * 7) 12
    let sl ← readIa .quay (bits x (64 * 6) 58) (2 * k)
    let succ := bytesElems 2 k sl
    pure (match r with
      | some l => if nodeOk x && succ.all (fun y => decide (y < total)) then some (l ++ [nodeOf x succ]) else none
      | none => none)

/-- Nodes removed in dependency order for at most `fuel` rounds: whether all go (R349). -/
def acyclicIn : Nat → List (Nat × Nat × List Nat) → Bool
  | 0, l => l.isEmpty
  | fuel + 1, l =>
    match l.filter (fun x => x.2.1 == 0) with
    | [] => l.isEmpty
    | free =>
      let rest := l.filter (fun x => x.2.1 != 0)
      acyclicIn fuel (rest.map (fun x => (x.1, x.2.1 - (free.filter (fun y => y.2.2.contains x.1)).length, x.2.2)))

/-- Whether dependency counts match the successor lists and the nodes form no cycle (R349). -/
def depsOk (ns : List NodeSt) : Bool :=
  let rows := (List.range ns.length).zip ns
  let named (i : Nat) : Nat := (ns.filter (fun n => n.succ.contains i)).length
  rows.all (fun x => x.2.ndep == named x.1)
    && acyclicIn ns.length (rows.map (fun x => (x.1, x.2.ndep, x.2.succ)))

/-- A residence slot's ERR (Table 14.3). -/
def setErr (slot : Nat) (e : BitVec 2) (s : State) : State := modSlot slot (fun g => { g with err := e }) s

/-- The load of a graph into a slot (R349): the checks of R317 without the object list, then the node array. -/
def loadBody (slot : Nat) (obj : BitVec 16) : M Unit := do
  let s ← getS
  match objCheck s none obj 8 graphOk (fun _ => true) with
  | .error _ => modS (fun s => modSlot slot (fun g => { g with loading := none, err := 1 }) s)
  | .ok h =>
    let nodes ← readNodes (bits h 0 58) (bits h 64 13) (bits h 64 13)
    match nodes with
    | none => modS (fun s => modSlot slot (fun g => { g with loading := none, err := 1 }) s)
    | some ns =>
      if depsOk ns then
        modS (fun s => modSlot slot (fun g => { g with
          obj := obj, v := true, err := 0, header := BitVec.ofNat 512 h, nodes := ns, loading := none, nextBank := false
          failed := false, inStep := false }) s)
      else modS (fun s => modSlot slot (fun g => { g with loading := none, err := 2 }) s)

/-- GRRES.LOAD: refused while the graph runs; while the node array waits for a page the load is kept (R349). -/
def loadGraph (slot : Nat) (obj : BitVec 16) (s0 : State) : State :=
  let s := modSlot slot (fun g => { g with oreg := obj }) s0
  if (getSlot s slot).running.isSome then setErr slot 3 s
  else match loadBody slot obj s with
    | .ok (_, s') => s'
    | .error (.page d p ia b) => modSlot slot (fun g => { g with loading := some obj }) (holdFault d p ia b s)
    | .error (.wait _) => modSlot slot (fun g => { g with loading := some obj }) s
    | .error (.hostLine l) => modSlot slot (fun g => { g with loading := some obj }) (askHost l s)
    | .error (.circuit p) => modSlot slot (fun g => { g with loading := some obj }) (demandCircuit p s)
    | .error _ => modSlot slot (fun g => { g with loading := none, err := 1 }) s

/-- GRRES_LOAD (R349). -/
def execGrresLoad (slot : Fin 64) (obj : BitVec 16) (s : State) : Host.Outcome State Fault Refusal :=
  occur (loadGraph slot.val obj) s

/-- GRRES.EVICT: refused while the graph runs (R349). -/
def evictGraph (slot : Nat) (s : State) : State :=
  if (getSlot s slot).running.isSome then setErr slot 3 s
  else modSlot slot (fun g => { g with v := false, err := 0, nodes := [], header := 0, loading := none }) s

/-- GRRES_EVICT (R349). -/
def execGrresEvict (slot : Fin 64) (s : State) : Host.Outcome State Fault Refusal := occur (evictGraph slot.val) s

/-- GRSTART: a host start, its status in GRSTAT.LAST (R350, Table 14.3). -/
def hostStart (slot : Nat) (n : BitVec 32) (s : State) : State :=
  if (getSlot s slot).v then
    let r := startGraph slot n.toNat none s
    modSlot slot (fun g => { g with last := BitVec.ofNat 2 r.2 }) r.1
  else modSlot slot (fun g => { g with last := 3 }) s

/-- GRSTART (R350). -/
def execGrstart (slot : Fin 64) (n : BitVec 32) (s : State) : Host.Outcome State Fault Refusal :=
  occur (hostStart slot.val n) s

/-- ND.ALLOW restricted to live cores (R355, Table 14.2). -/
def NodeSt.allowed (s : State) (n : NodeSt) : List Nat :=
  let allow := bits n.record.toNat 512 192
  (List.range 192).filter (fun c => s.liveCore c && (allow == 0 || bitN allow c))

/-- A node's placement set for a step: ND.ALLOW, or a subset the placement engine is free to choose once it has
counts of the node's tasks (R355; log 21). -/
def placementOf (s : State) (plfix : Bool) (i : Nat) (n : NodeSt) : List Nat :=
  let all := n.allowed s
  if plfix ∨ ¬ n.counted then all
  else
    let sub := all.filter (fun c => bitN (Config.freeNat (100 + i) s.free s.tick) c)
    if sub = [] then all else sub

/-- The order in which nodes become ready: the tick, then the node, then the slot (R46, R352, R356). -/
def readyOrder (s : State) (slot node : Nat) : Nat := (s.tick * 4096 + node) * 64 + slot

/-- A node at the beginning of a step (R352, R353, R357). -/
def beginNode (s : State) (slot : Nat) (plfix : Bool) (x : Nat × NodeSt) : NodeSt :=
  let n := x.2
  let place := placementOf s plfix x.1 n
  { n with
    preds := n.ndep, ready := n.ndep == 0, order := readyOrder s slot x.1
    total := n.tileCount + n.nextSpawn.length, reported := 0, tiles := [], nextTile := 0, spawnq := n.nextSpawn
    spawned := n.nextSpawn.length, nextSpawn := [], resume := [], placement := place, cur := place.map (fun _ => 0)
    complete := false, firstTick := 0, lastTick := 0, reruns := [] }

/-- STEP_BEGIN: the running start's next step begins: placement sets, patch, tile queues (R351 to R355). -/
def execStepBegin (slot : Fin 64) (s : State) : Host.Outcome State Fault Refusal :=
  occur (fun s =>
    let g := getSlot s slot.val
    match g.running with
    | none => s
    | some r =>
      if g.inStep ∨ g.failed ∨ s.halted then s
      else
        let ns := ((List.range g.nodes.length).zip g.nodes).map (beginNode s slot.val g.plfix)
        let s := if g.plfix then s else { s with counters := [], free := s.free + g.nodes.length }
        modSlot slot.val (fun g => { g with
          nodes := ns, inStep := true, lastNode := 0, lastCore := 0xFF, running := some { r with begin_ := s.tick } }) s) s

/-- Whether a node of a running step completes now (R352). -/
def nodeDone (g : GSlot) (n : NodeSt) : Bool :=
  g.running.isSome && g.inStep && !g.failed && n.ready && !n.complete && n.reported == n.total
    && n.tiles.isEmpty && n.nextTile == n.tileCount && n.spawnq.isEmpty && n.resume.isEmpty

/-- A predecessor of a node has completed (R352). -/
def predDone (s : State) (slot node : Nat) (n : NodeSt) : NodeSt :=
  let p := n.preds - 1
  if p = 0 ∧ ¬ n.ready then { n with preds := p, ready := true, order := readyOrder s slot node } else { n with preds := p }

/-- NODE_COMPLETE (R352). -/
def execNodeComplete (slot : Fin 64) (node : Nat) (s : State) : Host.Outcome State Fault Refusal :=
  occur (fun s =>
    let g := getSlot s slot.val
    match g.nodes[node]? with
    | none => s
    | some n =>
      if ¬ nodeDone g n then s
      else
        let s := modNode slot.val node (fun n => { n with complete := true }) s
        let s := modSlot slot.val (fun g => { g with lastNode := node }) s
        n.succ.foldl (fun s k => modNode slot.val k (predDone s slot.val k) s) s) s

/-- Whether an item of a graph still waits at a node, completed or not, or in a core's queue (R358, R359). -/
def itemsLeft (s : State) (slot : Nat) : Bool :=
  (getSlot s slot).nodes.any (fun n => n.tiles != [] || n.resume != [])
    || s.cores.toList.any (fun c => c.queue.any (fun i => i.slot == slot))

/-- Whether a step has ended: every node complete and no task or item of the graph left in it (R351, R359). -/
def stepDone (s : State) (slot : Nat) : Bool :=
  let g := getSlot s slot
  g.running.isSome && g.inStep && !g.failed && g.nodes.all (fun n => n.complete) && !itemsLeft s slot
    && (allTasks s).all (fun t => t.slot != slot || !(t.status == .resident || t.status == .saved || (t.status == .frozen && t.bkpt)))

/-- The 128 bits of a step record (Table 14.4). -/
def stepRecord (s : State) (g : GSlot) (r : Start) : Nat :=
  let spread := match g.nodes[g.lastNode]? with
    | some n => n.lastTick - n.firstTick
    | none => 0
  r.step % 2 ^ 32 + 2 ^ 36 * (g.lastNode % 4096) + 2 ^ 48 * (g.lastCore % 256) + 2 ^ 64 * (spread % 2 ^ 32)
    + 2 ^ 96 * ((s.tick - r.begin_) % 2 ^ 32)

/-- The step record written to its ring of 256, and the count after it (R360). -/
def writeStep (g : GSlot) (r : Start) : M Unit := do
  if g.stepLog = 0 then pure ()
  else
    let s ← getS
    let i := bytesNat (← readIa .quay g.stepLog 4)
    let _ ← writeIa .quay (g.stepLog + 128 + 16 * (i % 256)) (natBytes 16 (stepRecord s g r))
    let _ ← writeIa .quay g.stepLog (natBytes 4 (i + 1))
    pure ()

/-- The end of a start: its signal, DONE, and the queued start (R184, R350, R351). -/
def endStart (slot : Nat) (r : Start) (s : State) : State :=
  let s := match r.sig with
    | some (tid, k, inc) => if inc = 0 then s else agentSignal { mkind := 0, unit := 0, stream := 0 } tid tid k inc.toNat s
    | none => s
  modSlot slot (fun g =>
    let g := { g with done := (g.done + 1) % 2 ^ 32, inStep := false }
    match g.queued with
    | some q => beginStart s q { g with queued := none }
    | none => { g with running := none }) s

/-- STEP_END (R351, R360). -/
def execStepEnd (slot : Fin 64) (s : State) : Host.Outcome State Fault Refusal :=
  let g := getSlot s slot.val
  match g.running with
  | none => .next s
  | some r =>
    if ¬ stepDone s slot.val then .next s
    else finishEvent s ((do
      writeStep g r
      modS (fun s =>
        if r.step + 1 < r.steps then
          modSlot slot.val (fun g => { g with inStep := false, running := some { r with step := r.step + 1 } }) s
        else endStart slot.val r s)) s)

end Sys2Proof.Machine
end

