-- ==== Sys2Proof/Machine/Faults.lean ====
section
/-! DEFINITION. The memory side's own events: translation faults and their resolution, the side log, migration,
invalidation (05 R90 to R97; 12 R315, R317; 22 R433 to R447). -/

namespace Sys2Proof.Machine

/-- The writes of an access that faulted, as they enter a side log (R436, Table 22.2). -/
def faultWrite (ia : Nat) (vaddr pc : BitVec 64) (op : BitVec 8) (opk : BitVec 4) (size : BitVec 3) (tag : Bool)
    (data : List (BitVec 8)) : LogWrite :=
  { op := op, opk := opk, ord := 0, scope := 0, size := size, tag := tag, pc := pc, va := vaddr, ia := ia
    bytes := atAddr ia data, red := op == 0xD7#8 || op == 0xD8#8, id := 0, after := [], bad := [] }

/-- Whether an access to an IA takes a translation fault now, and the die whose walker holds it (R433). -/
def faultingDie (s : State) (by_ : Requester) (ia : Nat) : Option Nat :=
  match locate (s.homeView ia) ia with
  | .fault d => some (d.getD (requesterDie s by_))
  | _ => none

/-- TRANSLATION_FAULT: the access is held, or its write retires into its task's side log (R433, R435, R436, R445). -/
def execTranslationFault (by_ : Requester) (ia : Nat) (kind : AccessKind) (s : State) : Host.Outcome State Fault Refusal :=
  occur (fun s => match faultingDie s by_ ia with
    | none => s
    | some d =>
      match kind, by_ with
      | .write vaddr pc op opk size tag data, .stream tid _ =>
        let ws := [faultWrite ia vaddr pc op opk size tag data]
        enterLog tid (ia / 65536) (((getTask? s tid).map (fun t => numberWrites t ws)).getD ws)
          (modTask tid (fun t => { t with wnext := t.wnext + 1 }) s)
      | _, _ => holdFault d (ia / 65536) ia by_ s) s

/-- SIDELOG_WAIT_ENTER: the first write that waits takes a freed entry (R439). -/
def execSidelogWaitEnter (tid : Nat) (s : State) : Host.Outcome State Fault Refusal := occur (fun s => refreshArea tid (modTask tid Task.takeEntry s)) s

/-- SIDELOG_ENTRY_APPLY: an entry is replayed (R437). -/
def execSidelogEntryApply (tid : Nat) (seq : BitVec 16) (s : State) : Host.Outcome State Fault Refusal :=
  match (getTask? s tid).bind (fun t => t.replayable seq) with
  | some e => finishEvent s (replayEntry tid e s)
  | none => .next s

/-- What a die's walker keeps of a page dropped, be it a translation or that there is none, and the Lighter page
registers that hold it; a page that was or is one of 2 MiB goes whole (R94, R95; log 53). -/
def invalidatePage (die page : Nat) (s : State) : State :=
  let hit (e : WalkEntry) : Bool := e.die == die && (e.page == page || (e.big && e.page / 32 == page / 32))
  let big : Bool := s.walks.any (fun e => hit e && e.big) || ((walk s die (page * 65536)).map (·.big)).getD false
  let s := { s with
    walks := s.walks.filter (fun e => !hit e)
    noWalks := s.noWalks.filter (fun x => !(x.1 == die && (x.2 == page || (big && x.2 / 32 == page / 32)))) }
  let base := s.pkg * 2 ^ 47
  if big then dropPageRegs (base + page / 32 * 2 ^ 21) (2 ^ 21) s else dropPageRegs (base + page * 65536) 65536 s

/-- WALKER_INVALIDATE (R94). -/
def execWalkerInvalidate (die : Fin 8) (ia : Nat) (s : State) : Host.Outcome State Fault Refusal :=
  occur (invalidatePage die.val (iaOff ia / 65536)) s

/-- The accesses that a die's walker holds for a page. -/
def heldAt (s : State) (die page : Nat) : List Held := s.held.filter (fun h => h.die == die && h.page == page)

/-- FAULTRES.ACT 1: the page's entries are invalidated, and every held access walks again (R434). -/
def retryPage (die page : Nat) (s : State) : State :=
  if heldAt s die page = [] then s
  else
    let s := invalidatePage die (page % 2 ^ 31) s
    { s with held := s.held.filter (fun h => !(h.die == die && h.page == page)) }

/-- FAULTRES_RETRY (R434). -/
def execFaultresRetry (die : Fin 8) (page : Nat) (s : State) : Host.Outcome State Fault Refusal :=
  occur (retryPage die.val page) s

/-- The opcode of the word a stream of a task stands at, or 0. -/
def opcodeAt (s : State) (t : Task) (st : Stream) : BitVec 8 :=
  match fetchUnits { s with task := t, cur := st } (t.strm st).pc 3 with
  | .bytes bs => if (t.strm st).arrive = .inSection then bs.getD 11 0 else 0
  | _ => 0

/-- A task of this package frozen because an access of it was aborted; the writes that wait for a log entry are
discarded and counted (R434, R439). -/
def abortHere (tid : Nat) (st : Option Stream) (ia : Nat) (s : State) : State :=
  match ownTask? s tid with
  | none => s
  | some t =>
    if t.status = .resident ∨ t.status = .saved then
      let op := match st with
        | some st => opcodeAt s t st
        | none => 0
      let pc := match st with
        | some st => (t.strm st).pc
        | none => 0
      freezeTask tid ⟨fcPageFault, op, st, 0, 0, BitVec.ofNat 64 ia⟩ t.logWait.length pc
        (modTask tid (fun t => { t with logWait := [], logFull := false }) s)
    else s

/-- The same for a task of whichever package. -/
def abortTask (tid : Nat) (st : Option Stream) (ia : Nat) (s : State) : State := atTask tid (abortHere tid st ia) s

/-- The destinations of the chunk a multicast stands at that have a byte in a page (R447). -/
def multiHit (r : BteRun) (page : Nat) : List Nat :=
  let p := templateFields r.body.toNat
  let dims := spaceOf p r.src.toNat (r.dsts.map (·.toNat))
  let cs := chunkCoords dims (spaceZ p r.src.toNat (r.dsts.map (·.toNat))) p.chunk r.chunk
  let src := shapeOf r.src.toNat
  (List.range r.dsts.length).filter (fun i => !r.drop.getLsbD i &&
    (let dst := shapeOf ((r.dsts.getD i 0).toNat)
     cs.any (fun c => match elemAct p src dst c with
      | .move _ d => (span d dst.z).any (fun a => a / 65536 == page)
      | _ => false)))

/-- The abort of a BTE's access: a completion ring's record is lost, a multicast drops the destination, and any
other chunk fails (R446, R447; log 27). -/
def abortBte (n : Fin 32) (page : Nat) (s : State) : State :=
  match s.chans[n].held, s.chans[n].run with
  | some r, _ => releaseUnit (.bte n) r s
  | none, some r =>
    let hit := if r.multi then multiHit r page else []
    if hit = [] then failBte n fcPageFault s
    else modRun n (fun r => { r with
      drop := hit.foldl (fun (d : BitVec 16) (i : Nat) => d ||| BitVec.ofNat 16 (2 ^ i)) r.drop
      bfault := if r.bfault = 0 then fcPageFault else r.bfault }) s
  | none, none => s

/-- The abort of an access of an engine (R434, R446). -/
def abortEngine (page : Nat) (e : Engine) (s : State) : State :=
  match e with
  | .bte n => abortBte n page s
  | .lighter n => match s.lighters[n].held with
    | some r => releaseUnit (.lighter n) r s
    | none => failUnit (.lighter n) fcPageFault s

/-- The result of an abort for one held access (R434, R446). -/
def abortHeld (s : State) (h : Held) : State :=
  match h.by_ with
  | .stream tid st => abortTask tid (some st) h.ia s
  | .stash tid => abortTask tid none h.ia s
  | .replay tid =>
    abortTask tid none h.ia (modTask tid (fun t => { t with
      sidelog := t.sidelog.map (fun e => if e.page = h.page then { e with dead := true } else e) }) s)
  | .bte n => abortEngine h.page (.bte n) s
  | .lighter n => abortEngine h.page (.lighter n) s
  | .remote pkg e => atPack (Pack.isPkg pkg) (abortEngine h.page e) s
  | .quay => (List.range 64).foldl (fun s slot =>
      if (getSlot s slot).loading.isSome then modSlot slot (fun g => { g with loading := none, err := 1 }) s else s) s
  | .gate | .host => s

/-- FAULTRES.ACT 2: every held access to the page ends (R434). -/
def abortPage (die page : Nat) (s : State) : State :=
  let hs := heldAt s die page
  hs.foldl abortHeld { s with held := s.held.filter (fun h => !(h.die == die && h.page == page)) }

/-- FAULTRES_ABORT (R434). -/
def execFaultresAbort (die : Fin 8) (page : Nat) (s : State) : Host.Outcome State Fault Refusal :=
  occur (abortPage die.val page) s

/-- An object-table entry read again from the two arrays, after its index was invalidated (R315, R317; log 28). -/
def reloadObject (index : BitVec 16) (s : State) : State :=
  let kind := readCell s.mem ((s.tagBase.toNat + 4 * index.toNat) % 2 ^ 39)
  let body := bytesNat ((span 0 64).map (fun i => readCell s.mem (bodyKey s index i)))
  let rest := s.objs.filter (fun e => e.index != index)
  { s with objs := if kind = 0 then rest else rest ++ [⟨index, kind, BitVec.ofNat 512 body⟩] }

/-- OBJECT_TABLE_INVALIDATE (R317). -/
def execObjectTableInvalidate (index : BitVec 16) (s : State) : Host.Outcome State Fault Refusal :=
  occur (reloadObject index) s

/-- Bytes copied from one key to another. -/
def copyCells (m : List Host.Cell) (src dst n : Nat) : List Host.Cell :=
  writeCells (zeroCells m dst (dst + n))
    ((m.filter (fun c => decide (src ≤ c.1) && decide (c.1 < src + n))).map (fun c => (dst + (c.1 - src), c.2)))

/-- A translation entry written. -/
def writePte (die addr v : Nat) (s : State) : State :=
  { s with mem := writeCells s.mem (atAddr (stackKey die addr) (natBytes 8 v)) }

/-- The address of a region's level-1 entry on a die, when level 0 leads to a table (R93). -/
def level1At (s : State) (die off : Nat) : Option Nat :=
  let root := ((s.roots[die % 8]'(Nat.mod_lt _ (by decide))).toNat) % 2 ^ 36
  let e0 := readPte s die (root + 8 * bits off 34 13)
  if pteValid e0 ∧ ¬ bitN e0 1 then some (pteAddr e0 + 8 * bits off 21 13) else none

/-- An entry with another address. -/
def pteTo (e addr : Nat) : Nat := e % 65536 + addr / 65536 % 2 ^ 20 * 65536

/-- A region's data, poison and leaf moved from one frame to another (R96, R411). -/
def moveFrame (from_ to_ n : Nat) (s : State) : State :=
  { s with
    mem := copyCells s.mem from_ to_ n
    poison := s.poison.filter (fun k => !(decide (to_ ≤ 8 * k) && decide (8 * k < to_ + n)))
      ++ (s.poison.filter (fun k => decide (from_ ≤ 8 * k) && decide (8 * k < from_ + n))).map (fun k => k + to_ / 8 - from_ / 8) }

/-- Whether a page of a region of this package has a held access or a log entry (R440). -/
def regionBusy (s : State) (region : Nat) : Bool :=
  let at_ (page : Nat) : Bool := page / 32 == s.pkg * 2 ^ 26 + region
  s.held.any (fun h => at_ h.page) || (everyTask s).any (fun t => (t.sidelog ++ t.logWait).any (fun e => at_ e.page))

/-- The addresses of a region's entries: the level-1 entry and, below a table, the 32 level-2 entries (R93). -/
def regionEntries (s : State) (die a1 : Nat) : List Nat :=
  let e := readPte s die a1
  if bitN e 1 then [a1] else a1 :: (span 0 32).map (fun i => pteAddr e + 8 * i)

/-- PTE.MIG of a valid entry (Table 05.3). -/
def setMig (v : Bool) (die : Nat) (s : State) (a : Nat) : State :=
  let e := readPte s die a
  if bitN e 0 then writePte die a (if v then e ||| 0x10 else e - (if bitN e 4 then 0x10 else 0)) s else s

/-- A region of 64 KiB pages: its mapped leaves move to the second-level table of the new die (R96). -/
def movePages (old new_ a2 b2 frame : Nat) (s : State) : State :=
  (List.range 32).foldl (fun s i =>
    let e := readPte s old (a2 + 8 * i)
    let s := if pteValid e && bitN e 1 then
        let to_ := frame * 2 ^ 21 + 65536 * i
        writePte new_ (b2 + 8 * i) (pteTo e to_) (moveFrame (stackKey old (pteAddr e)) (stackKey new_ to_) 65536 s)
      else writePte new_ (b2 + 8 * i) 0 s
    writePte old (a2 + 8 * i) 0 s) s

/-- After a migration: the home map names the new die, the count advances, and no walker keeps anything of the
region (R96). -/
def regionMoved (region new_ : Nat) (s : State) : State :=
  { s with
    homeMap := putKey region (BitVec.ofNat 4 new_) s.homeMap
    migCount := putKey region (s.migOf (region * 2 ^ 21) + 1) s.migCount
    walks := s.walks.filter (fun e => e.page / 32 != region)
    noWalks := s.noWalks.filter (fun x => x.2 / 32 != region) }

/-- Whether a region can migrate: it has tables on both dies, and neither its level-1 entry nor one of its level-2
entries is pinned (R96; log 29). -/
def mayMove (s : State) (old a1 new_ b1 : Nat) : Bool :=
  let e := readPte s old a1
  let f := readPte s new_ b1
  pteValid e && (regionEntries s old a1).all (fun a => !bitN (readPte s old a) 3) && (bitN e 1 || (pteValid f && !bitN f 1))

/-- The first part of a migration: PTE.MIG is set, from when routers hold accesses to the region, and the Lighter
page registers that hold one of its pages are invalidated (R96, steps 1 and 2). -/
def beginMigration (region : Nat) (newDie : Fin 8) (frame : Nat) (s : State) : State :=
  let off := region * 2 ^ 21
  let old := s.homeOf off
  if s.migrating ≠ [] ∨ 8 ≤ old ∨ old = newDie.val ∨ regionBusy s region ∨ deviceSpan ≤ off ∨ 2 ^ 15 ≤ frame then s
  else match level1At s old off, level1At s newDie.val off with
    | some a1, some b1 =>
      if mayMove s old a1 newDie.val b1 then
        let s := (regionEntries s old a1).foldl (setMig true old) s
        dropPageRegs (s.pkg * 2 ^ 47 + off) (2 ^ 21) { s with migrating := [⟨region, newDie, frame⟩] }
      else s
    | _, _ => s

/-- The rest of a migration: the data moves, the new die's entries are written and the old ones cleared, the home
map follows, and the held accesses are released (R96, steps 3 to 5). -/
def finishMigration (m : Moving) (s0 : State) : State :=
  let off := m.region * 2 ^ 21
  let old := s0.homeOf off
  let new_ := m.die.val
  let s := { s0 with migrating := s0.migrating.erase m }
  match level1At s old off, level1At s new_ off with
  | some a1, some b1 =>
    let s := (regionEntries s old a1).foldl (setMig false old) s
    let e := readPte s old a1
    if bitN e 1 then
      let s := moveFrame (stackKey old (pteAddr e)) (stackKey new_ (m.frame * 2 ^ 21)) (2 ^ 21) s
      regionMoved m.region new_ (writePte old a1 0 (writePte new_ b1 (pteTo e (m.frame * 2 ^ 21)) s))
    else regionMoved m.region new_ (movePages old new_ (pteAddr e) (pteAddr (readPte s new_ b1)) m.frame s)
  | _, _ => s

/-- MIGRATION: a region that is not pinned and has no held access moves to frames of another die, whose tables
lead to it; the same event goes on with a migration that has begun (R96, R97, R440; log 29). -/
def execMigration (region : Nat) (newDie : Fin 8) (frame : Nat) (s : State) : Host.Outcome State Fault Refusal :=
  occur (fun s => match s.migrating.find? (fun m => m.region == region) with
    | some m => finishMigration m s
    | none => beginMigration region newDie frame s) s

end Sys2Proof.Machine
end

