-- ==== Sys2Proof/Machine/Manage.lean ====
section
/-! DEFINITION. The management controller: BAR0, the enumeration table, bring-up, ageing, power, checkpoint, error
records and hardware failures (15 R368, R377; 16 R379 to R385; 20 R404 to R415; 24 R461). -/

namespace Sys2Proof.Machine

/-- BOOTST.FAIL (Table 16.4). -/
def State.bootFail (s : State) : Nat := bits s.bootst.toNat 8 8

/-- Whether a graph is resident in some slot (R349). -/
def State.anyResident (s : State) : Bool := s.gslots.toList.any (fun g => g.v)

/-- Whether a graph runs in some slot (R350). -/
def State.anyRunning (s : State) : Bool := s.gslots.toList.any (fun g => g.running.isSome)

/-- PKGNUM written: ignored while a graph is resident or a circuit is established (R368). -/
def writePkgnum (v : BitVec 64) (s : State) : State :=
  if s.anyResident ∨ s.circuits.any (fun c => c.state == .up) then s else { s with pkgnum := v &&& 0xFFF#64 }

/-- PKGNUM_WRITE (R368). -/
def execPkgnumWrite (v : BitVec 64) (s : State) : Host.Outcome State Fault Refusal := occur (writePkgnum v) s

/-- 64 bits of PKGMAP written (R368). -/
def writePkgmap (word : Nat) (v : BitVec 64) (s : State) : State :=
  let sh := 64 * (word % 32)
  { s with pkgmap := (s.pkgmap &&& ~~~((BitVec.allOnes 64).setWidth 2048 <<< sh)) ||| (v.setWidth 2048 <<< sh) }

/-- PKGMAP_WRITE (R368). -/
def execPkgmapWrite (word : Fin 32) (v : BitVec 64) (s : State) : Host.Outcome State Fault Refusal := occur (writePkgmap word.val v) s

/-- LINKCFG as written: a 0 in a field whose range starts at 1 leaves that field as it was (R461). -/
def mergeLinkCfg (old v : BitVec 64) : BitVec 64 :=
  let keep (mask : BitVec 64) : BitVec 64 := if v &&& mask = 0#64 then old &&& mask else v &&& mask
  (v &&& 0x0000_00FF_FF00_FFFF#64) ||| keep 0x00FF_0000_0000_0000#64 ||| keep 0x0000_FF00_0000_0000#64
    ||| keep 0x0000_0000_00FF_0000#64

/-- A write that takes effect once its register is read back (R94, R317, R368, R385, R434, R461). -/
def pendReg (offset : Nat) (v : BitVec 64) (s : State) : State := { s with regPend := s.regPend ++ [(offset, v)] }

/-- The effect of such a write: walker invalidation, FAULTRES, object-table invalidation, PKGNUM, LINKCFG, PKGMAP. -/
def regEffect (offset : Nat) (v : BitVec 64) (s : State) : State :=
  if offset = 0x30010 then reloadObject (v.setWidth 16) s
  else if offset = 0x60010 then writePkgnum v s
  else if offset = 0x60020 then { s with linkCfg := mergeLinkCfg s.linkCfg v }
  else if 0x60100 ≤ offset then writePkgmap ((offset - 0x60100) / 8) v s
  else
    let d := (offset - 0x20000) / 0x100
    if offset % 0x100 = 8 then invalidatePage d (iaOff v.toNat / 65536) s
    else
      let page := bits v.toNat 16 42
      match bits v.toNat 0 2 with
      | 1 => retryPage d page s
      | 2 => abortPage d page s
      | _ => s

/-- The writes to the registers of a range of offsets take effect, in their order, as these are read back. -/
def readBack (off len : Nat) (s : State) : State :=
  let hit (x : Nat × BitVec 64) : Bool := decide (x.1 < off + len) && decide (off < x.1 + 8)
  (s.regPend.filter hit).foldl (fun s x => regEffect x.1 x.2 s) { s with regPend := s.regPend.filter (fun x => !hit x) }

/-- A register of die d's walker: root, invalidation, FAULTRES (R93, R94, R434, Table 16.3). -/
def writeWalkerReg (d reg : Nat) (v : BitVec 64) (s : State) : Option State :=
  if reg = 0 then some { s with roots := s.roots.setIfInBounds d v }
  else if reg = 8 ∨ reg = 16 then some (pendReg (0x20000 + 0x100 * d + reg) v s)
  else none

/-- A residence-slot register (Table 14.3). -/
def writeSlotReg (slot reg : Nat) (v : BitVec 64) (s : State) : Option State :=
  if reg = 0 then
    let obj := v.setWidth 16
    let s := modSlot slot (fun g => { g with oreg := obj }) s
    let s := if v.getLsbD 20 then evictGraph slot s else s
    some (if v.getLsbD 16 then loadGraph slot obj s else s)
  else if reg = 8 then some (hostStart slot (v.setWidth 32) s)
  else if reg = 16 then some s
  else none

/-- A completion ring's base and size: channels first, then Lighters (R326, Table 16.3). -/
def writeRingReg (unit reg : Nat) (v : BitVec 64) (s : State) : State :=
  let n : Fin 32 := Fin.ofNat 32 unit
  let base := bits v.toNat 7 51 * 128
  let l := v.toNat % 32
  if unit < 32 then
    modChan n (fun c => if reg = 0 then { c with base := base } else { c with log2 := l }) s
  else modLighter n (fun c => if reg = 0 then { c with base := base } else { c with log2 := l }) s

/-- The optical block (R368, R376, R461; log 31). -/
def writeOpticalReg (reg : Nat) (v : BitVec 64) (s : State) : Option State :=
  if reg = 0 then some { s with idleTime := v }
  else if reg = 0x10 then
    some (if s.anyResident ∨ s.circuits.any (fun c => c.state == .up) then s else pendReg 0x60010 v s)
  else if reg = 0x20 then some (pendReg 0x60020 v s)
  else if reg = 0x28 then some { s with hwbase := v }
  else if reg = 0x30 then some s
  else if 0x100 ≤ reg ∧ reg < 0x200 then some (pendReg (0x60000 + reg) v s)
  else none

/-- The error block (Table 20.3, R402, R403, Table 23.1). -/
def writeErrorReg (reg : Nat) (v : BitVec 64) (s : State) : Option State :=
  if reg = 0 then some { s with errBase := v &&& 0x03FF_FFFF_FFFF_FF80#64 }
  else if reg = 8 then some { s with errCfg := v &&& 0x1_FF1F#64 }
  else if reg = 0x10 then some { s with errLost := s.errLost &&& ~~~(v.setWidth 32) }
  else if reg = 0x20 then some { s with syncCfg := v &&& 0x0000_00F1_FFFF_FFFF#64 }
  else if 0x100 ≤ reg ∧ reg < 0x200 then
    let n := (reg - 0x100) / 16
    if reg % 16 = 0 then some s
    else match bits v.toNat 0 3 with
      | 1 => some (resumeFrozen n s)
      | 2 => some (releaseFrozen n s)
      | _ => some s
  else if 0x300 ≤ reg ∧ reg < 0x700 then
    if reg % 32 = 0 ∧ v = 0 then some (freeJob ((reg - 0x300) / 128) ((reg - 0x300) / 32 % 4) s) else some s
  else none

/-- The effect of a 64-bit write at a BAR0 offset; none where no table describes a register (Table 16.3). -/
def writeReg (offset : Nat) (v : BitVec 64) (s : State) : Option State :=
  if s.bootFail ≠ 0 then some s
  else if offset % 8 ≠ 0 then none
  else if offset < 0x840 then some s
  else if offset = 0x1000 then
    some (if s.anyResident then s else { s with bootst := (s.bootst &&& ~~~0x10#64) ||| (v &&& 0x10#64) })
  else if 0x10000 ≤ offset ∧ offset < 0x10300 then some s
  else if 0x20000 ≤ offset ∧ offset < 0x20800 then
    writeWalkerReg ((offset - 0x20000) / 0x100) ((offset - 0x20000) % 0x100) v s
  else if offset = 0x30000 then some { s with bodyBase := v }
  else if offset = 0x30008 then some { s with tagBase := v }
  else if offset = 0x30010 then some (pendReg offset v s)
  else if 0x40000 ≤ offset ∧ offset < 0x40800 then
    writeSlotReg ((offset - 0x40000) / 32) ((offset - 0x40000) % 32) v s
  else if 0x50000 ≤ offset ∧ offset < 0x50400 then
    some (writeRingReg ((offset - 0x50000) / 16) ((offset - 0x50000) % 16) v s)
  else if 0x60000 ≤ offset ∧ offset < 0x60200 then writeOpticalReg (offset - 0x60000) v s
  else if 0x100000 ≤ offset ∧ offset < 0x100700 then writeErrorReg (offset - 0x100000) v s
  else none

/-- REGISTER_WRITE: 64 bits written to a management register; read-only fields keep their value, and a write to a
register that takes effect once it is read back waits for that (R385). -/
def execRegisterWrite (offset : Nat) (v : BitVec 64) (s : State) : Host.Outcome State Fault Refusal :=
  match writeReg offset v s with
  | some s' => .next s'
  | none => .refused .registerNotDescribed

/-- ERRBASE.ADDR as an IA, ERRCFG.LOG2, CETHR and IRQ (Table 20.3). -/
def State.errRing (s : State) : Nat := bits s.errBase.toNat 7 51 * 128
def State.errLog2 (s : State) : Nat := bits s.errCfg.toNat 0 5
def State.ceThreshold (s : State) : Nat := bits s.errCfg.toNat 8 8
def State.errIrq (s : State) : Bool := s.errCfg.getLsbD 16

/-- The oldest held record written into the error ring, with the host's interrupt (R408). -/
def writeRecord : M Unit := do
  let s ← getS
  match s.errHeld with
  | [] => pure ()
  | r :: rest =>
    if s.errLog2 = 0 then pure ()
    else if ← ringPut .quay s.errRing s.errLog2 64 r.toNat then
      modS (fun s => { s with errHeld := rest, hostIrqs := if s.errIrq ∧ recordSev r ≠ 0 then s.hostIrqs + 1 else s.hostIrqs })

/-- ERROR_RECORD_WRITE (R408). -/
def execErrorRecordWrite (s : State) : Host.Outcome State Fault Refusal := finishEvent s (writeRecord s)

/-- The record of a unit whose corrected errors pass the threshold (R407, R412, R462, R471, R472). -/
def ceRecord (u : ErrUnit) (n : Nat) : RecIn :=
  match u with
  | .core c => { code := fcEccCorrected, sev := 0, mkind := 1, core := c, tag := n }
  | .slice i => { code := fcEccCorrected, sev := 0, mkind := 6, unit := i.val % 16, die := i.val / 16, tag := n }
  | .stack d => { code := fcEccCorrected, sev := 0, mkind := 6, die := d.val, tag := n }
  | .optical e => { code := fcLinkReplay, sev := 0, mkind := 5, unit := e.val, tag := n }
  | .dieLink l => { code := fcLinkReplay, sev := 0, mkind := 7, unit := l.val, tag := n }
  | .host => { code := fcHostError, sev := 0, mkind := 8, tag := n }
  | .frame d f => { code := fcEccCorrected, sev := 0, mkind := 6, die := d.val, addr := BitVec.ofNat 64 (f * 65536), tag := n }

/-- The record of corrected errors with the die of a core (Table 20.4). -/
def State.ceRecord (s : State) (u : ErrUnit) (n : Nat) : RecIn :=
  match u with
  | .core c => { Sys2Proof.Machine.ceRecord u n with die := s.dieOf c }
  | _ => Sys2Proof.Machine.ceRecord u n

/-- Corrected errors counted on a unit: more than the threshold within 2^30 ticks write one record, from which the count
starts again, and for a frame only the second time (R407, R412; log 32). -/
def countCorrected (u : ErrUnit) (n : Nat) (s : State) : State :=
  let old := (s.ceCount.find? (fun c => c.unit == u)).getD ⟨u, [], 0⟩
  let times := (s.tick, n) :: old.times.filter (fun x => decide (s.tick < x.1 + 2 ^ 30))
  let sum := (times.map (·.2)).sum
  let crossed : Bool := decide (s.ceThreshold < sum)
  let new : CeCount := { old with times := if crossed then [] else times, past := if crossed then old.past + 1 else old.past }
  let s := { s with ceCount := s.ceCount.filter (fun c => c.unit != u) ++ [new] }
  let frame : Bool := match u with
    | .frame _ _ => true
    | _ => false
  if crossed ∧ (¬ frame ∨ new.past = 2) then addRecord (s.ceRecord u sum) s else s

/-- CORRECTED_ERROR_THRESHOLD: `count` more corrected errors of a unit (R407). -/
def execCorrectedErrorThreshold (unit : ErrUnit) (count : Nat) (s : State) : Host.Outcome State Fault Refusal :=
  occur (countCorrected unit count) s

/-- A 64-bit word marked poisoned (R411). -/
def poisonWord (key : Nat) (s : State) : State :=
  if s.poison.contains (key / 8) then s else { s with poison := s.poison ++ [key / 8] }

/-- An uncorrectable word of a stack: poisoned and reported (R411, R412; log 33). -/
def poisonStack (die addr : Nat) (s : State) : State :=
  addRecord { code := fcEccUncorrected, sev := 0, mkind := 6, die := die, addr := BitVec.ofNat 64 addr }
    (poisonWord (stackKey die addr) s)

/-- A record of an uncorrectable error in a table that is reloaded from memory or from the mirror (R407, R410; log 33). -/
def reloadRecord (mkind unit : Nat) (addr : Nat) (s : State) : State :=
  addRecord { code := fcEccUncorrected, sev := 0, mkind := mkind, unit := unit, addr := BitVec.ofNat 64 addr } s

/-- ECC_UNCORRECTED: an uncorrectable error in memory, a task's state, a local store, a table or the Quay die (R410,
R411). -/
def execEccUncorrected (where_ : EccWhere) (s : State) : Host.Outcome State Fault Refusal :=
  match where_ with
  | .memory key => if key < 2 ^ 39 then .next (poisonStack (key / 2 ^ 36) (key % 2 ^ 36) s) else .fault .stackAddress
  | .taskState tid => occur (fun s => match getTask? s tid with
      | some t =>
        if t.status = .resident then freezeTask tid ⟨fcDataPoison, 0, none, 0, 0, 0⟩ 0 0 s
        else if t.status = .saved then
          addTaskRecord tid { code := fcEccUncorrected, sev := 0, mkind := 6 } (modTask tid (fun t => { t with poisoned := true }) s)
        else s
      | none => s) s
  | .localStore tid off => occur (fun s =>
      if lsOver off 1 ∨ (getTask? s tid).isNone then s
      else addTaskRecord tid { code := fcEccUncorrected, sev := 0, mkind := 6, addr := BitVec.ofNat 64 off }
        (modTask tid (fun t => { t with
          lsPoison := if t.lsPoison.contains (off / 8) then t.lsPoison else t.lsPoison ++ [off / 8] }) s)) s
  | .object index => .next (reloadRecord 6 0 index.toNat (reloadObject index s))
  | .homeMap region => .next (reloadRecord 6 0 (s.pkg * 2 ^ 47 + region * 2 ^ 21) s)
  | .circuitTable circ => .next (reloadRecord 5 (((s.circuits.find? (fun c => c.id == circ)).map (·.engine.val)).getD 0) circ s)
  | .quay => .next (addRecord { code := fcEccUncorrected, sev := 3, mkind := 9 } s)

/-- PATROL_SCRUB: what the scrubber finds in one line (R412). -/
def execPatrolScrub (die : Fin 8) (addr : Nat) (finding : ScrubFinding) (s : State) : Host.Outcome State Fault Refusal :=
  if Config.stackBytes ≤ addr then .fault .stackAddress
  else match finding with
    | .clean => .next s
    | .corrected => .next (countCorrected (.frame die (addr / 65536)) 1 (countCorrected (.stack die) 1 s))
    | .uncorrectable => .next (poisonStack die.val addr s)

/-- The cores that a grade leaves live, by logical number (R14, R378). -/
def State.liveList (s : State) : List Core := s.cores.toList.take s.fuses.liveCount

/-- SPEEDSUM: the sum of the live cores' entries (Table 15.5). -/
def State.speedSum (s : State) : Nat := (s.liveList.map (·.speed)).sum

/-- The sum of entries once the pending ones are written (R382). -/
def State.pendingSum (s : State) : Nat := (s.liveList.map (fun c => c.pendingSpeed.getD c.speed)).sum

/-- GUARSUM: the guaranteed sum of the grade (R15). -/
def State.guaranteed (s : State) : Nat := Config.guaranteedSum s.fuses.grade

/-- One core changed. -/
def modCore (core : Nat) (f : Core → Core) (s : State) : State :=
  if h : core < 192 then { s with cores := s.cores.set core (f s.cores[core]) } else s

/-- A core's margin has fallen below its floor: more voltage, else 10 MHz less, else a record that names the
core (R15, R382). -/
def marginLow (core : Nat) (voltageCanRestore : Bool) (s : State) : State :=
  match s.cores[core]? with
  | none => s
  | some c =>
    let speed := c.pendingSpeed.getD c.speed
    if voltageCanRestore then modCore core (fun c => { c with voltage := c.voltage + 1 }) s
    else if speed < 1910 ∨ s.pendingSum < s.guaranteed + 10 then
      addRecord { code := fcSpeedFloor, sev := 0, mkind := 9, core := core, die := s.dieOf core } s
    else modCore core (fun c => { c with pendingSpeed := some (speed - 10) }) s

/-- AGEING_MARGIN_LOW (R382). -/
def execAgeingMarginLow (core : Nat) (voltageCanRestore : Bool) (s : State) : Host.Outcome State Fault Refusal :=
  occur (marginLow core voltageCanRestore) s

/-- SPEED_TABLE_UPDATE: pending entries are written between graph starts (R382). -/
def execSpeedTableUpdate (s : State) : Host.Outcome State Fault Refusal :=
  occur (fun s =>
    if s.anyRunning then s
    else { s with cores := s.cores.map (fun c => { c with speed := c.pendingSpeed.getD c.speed, pendingSpeed := none }) }) s

/-- Whether fuses are those of a part of their grade: its live cores and its stacks (Table 01.1). -/
def Fuses.ok (f : Fuses) : Bool :=
  decide (f.grade ≤ 2) && f.liveCount == Config.gradeCores f.grade
    && (List.range 8).countP (fun d => f.stackMask.getLsbD d) == Config.gradeStacks f.grade

/-- A core's entry: from its fused ceiling down in steps of 10 MHz to one at which it passes; none below 1.90 GHz
(R381). -/
def calibrate (pass : Nat) : Nat → Nat → Option Nat
  | 0, _ => none
  | n + 1, speed => if speed < 1900 then none else if speed ≤ pass then some speed else calibrate pass n (speed - 10)

/-- The entries of the live cores by logical number, when every one passes and their sum reaches the grade's (R381). -/
def calibrateAll (f : Fuses) (passes : List Nat) : Option (List Nat) :=
  let xs := (List.range f.liveCount).filterMap (fun i =>
    calibrate (passes.getD i 0) 71 (min 2600 (f.ceilings.getD (f.positions.getD i 0) 0)))
  if xs.length = f.liveCount ∧ Config.guaranteedSum f.grade ≤ xs.sum then some xs else none

/-- Whether a firmware image is the key's: the key's SHAKE256 hash is the fused one, its signature over the image's
SHAKE256 digest verifies, and its version is not below the fused counter (R380; log 64). -/
def imageOk (b : BootInputs) (f : Fuses) : Bool :=
  BitVec.ofNat 256 (bytesNat (shake256 32 b.key)) == f.keyHash && Config.falconVerify b.key (shake256 64 b.image) b.signature
    && decide (f.rollback ≤ b.version)

/-- The boot stages in order: the stage that failed with its FAIL, or stage 6 with READY (R379 to R381). -/
def bootStages (b : BootInputs) (f : Fuses) : BitVec 64 :=
  if ¬ b.fusesOk ∨ ¬ f.ok then 0x101
  else if ¬ imageOk b f then 0x202
  else if ¬ b.hbmOk then 0x303
  else if (calibrateAll f b.passes).isNone then 0x404
  else 0x00E

/-- What a loss of power or a package reset leaves: the reset values, the fuses, and what lies outside the
package; the host's link is trained again at its full width (R19, R379, Table 16.2; log 34). -/
def coldReset (s : State) : State :=
  { Pack.reset with
    mem := s.mem.filter (fun c => decide (2 ^ 58 ≤ c.1)), fuses := s.fuses, hostUp := s.hostUp, image := s.image
    free := s.free + 1, nextTask := s.nextTask, peers := s.peers }

/-- The speed table that calibration writes (R381). -/
def writeSpeeds (xs : List Nat) (s : State) : State :=
  { s with cores := Vector.ofFn (fun i : Fin 192 => { s.cores[i] with speed := xs.getD i.val 0 }) }

/-- The items that wait in a core's queue go back to their nodes. -/
def emptyQueue (core : Nat) (s : State) : State :=
  let q := ((s.cores[core]?).map (·.queue)).getD []
  q.reverse.foldl (fun s x => giveBack x s) (modCore core (fun c => { c with queue := [] }) s)

/-- A task saved for a checkpoint or a halt: it joins its node's resume queue, unless a Damask membership delays
it (R47, R384, R414). -/
def quiesceTask (tid : Nat) (s : State) : State :=
  match getTask? s tid with
  | some t =>
    if t.status = .resident ∧ ¬ damaskHolds s tid then
      modNode t.slot t.node (fun n => { n with resume := n.resume ++ [tid] }) (saveTask tid s)
    else s
  | none => s

/-- The distributor stops, every task is pre-empted and every engine job reaches a saved position (R384). -/
def quiesce (s : State) : State :=
  ((allTasks s).map (·.tid)).foldl (fun s tid => quiesceTask tid s) { s with halted := true }

/-- Whether no task is on a core. -/
def State.quiet (s : State) : Bool := (allTasks s).all (fun t => t.status != .resident)

/-- The sequencer image and all device memory, as the safe tier keeps them (R384, R413). -/
def imageOf (s : State) : Image :=
  { mem := s.mem.filter (fun c => decide (c.1 < 2 ^ 58)), poison := s.poison, homeMap := s.homeMap, migCount := s.migCount
    objs := s.objs, chans := s.chans, lighters := s.lighters, damask := s.damask, nextTask := s.nextTask
    tasks := (allTasks s).filter (fun t => t.status != .ended), slots := s.gslots.toList, groups := s.groups, frozen := s.frozen
    taskSeq := s.taskSeq, seq := s.errSeq, tick := s.tick }

/-- A checkpoint goes on: once every task is saved and no region migrates, the items dealt to cores go back to their
nodes, the copy is made, and the distributor starts again (R384). -/
def finishCheckpoint (s : State) : State :=
  if s.quiet ∧ s.migrating = [] then
    let s := (List.range 192).foldl (fun s i => emptyQueue i s) s
    { s with image := some (imageOf s), halted := false, ckpt := false }
  else { s with ckpt := true }

/-- CHECKPOINT (R384, R413). -/
def execCheckpoint (s : State) : Host.Outcome State Fault Refusal := occur (fun s => finishCheckpoint (quiesce s)) s

/-- The state a restored image gives: device memory, the sequencer image, tasks, jobs and TICK, with SEQ going on from
the highest value recorded in any image (R415). -/
def restoreImage (seq : BitVec 32) (im : Image) (s : State) : State :=
  { s with
    mem := im.mem ++ s.mem.filter (fun c => decide (2 ^ 58 ≤ c.1))
    poison := im.poison, homeMap := im.homeMap, migCount := im.migCount, objs := im.objs, chans := im.chans
    lighters := im.lighters, damask := im.damask, nextTask := max s.nextTask im.nextTask, taskSeq := max s.taskSeq im.taskSeq
    task := Task.init, others := im.tasks, gslots := Vector.ofFn (fun i => im.slots.getD i.val GSlot.init)
    groups := im.groups, frozen := im.frozen, errSeq := if seq.ult im.seq then im.seq else seq, tick := max s.tick im.tick
    l1 := [], walks := [], noWalks := [], held := [], migrating := [], guardQ := [], commits := [], aperture := [], lgos := []
    victims := [], demand := [], lastSaved := im.tasks
    cores := s.cores.map (fun c => { c with queue := [] })
    halted := false, ckpt := false }

/-- The highest SEQ that the image of any modelled package records (R415; log 50). -/
def State.imageSeq (s : State) : BitVec 32 :=
  BitVec.ofNat 32 ((s.packs.filterMap (·.image)).foldl (fun n im => max n im.seq.toNat) 0)

/-- CHECKPOINT_RESUME: the last image is restored; without an image nothing happens (R414, R415). -/
def execCheckpointResume (s : State) : Host.Outcome State Fault Refusal :=
  occur (fun s => match s.image with
    | some im => restoreImage s.imageSeq im s
    | none => s) s

/-- Whether the cores are off (Table 16.2). -/
def State.asleep (s : State) : Bool := s.power == .p2 || s.power == .p3

/-- What P2 keeps: device memory and the tables; caches and the engines' jobs are gone (R383, Table 16.2; log 67). -/
def holdPower (s : State) : State :=
  { s with
    power := .p2, l1 := [], walks := [], noWalks := [], held := [], aperture := [], lgos := []
    chans := s.chans.map (fun c => { c with queue := [], run := none, held := none })
    lighters := s.lighters.map (fun c => { c with queue := [], run := none, held := none }) }

/-- A move between power states: P2 only when no graph runs; P3 keeps nothing, and from it bring-up starts again at its
first stage, which PACKAGE_RESET runs (R383, Table 16.2). -/
def powerTo (target : PowerState) (s : State) : State :=
  match target with
  | .p3 => { coldReset s with power := .p3 }
  | .p0 => if s.power = .p3 then coldReset s else { s with power := .p0 }
  | .p1 => if s.power ≠ .p3 ∧ s.quiet then { s with power := .p1 } else s
  | .p2 => if s.power ≠ .p3 ∧ s.quiet ∧ ¬ s.anyRunning then holdPower s else s

/-- POWER_STATE_CHANGE (R383). -/
def execPowerStateChange (target : PowerState) (s : State) : Host.Outcome State Fault Refusal := occur (powerTo target) s

/-- POWER_BUDGET_LIMIT: issue cycles are withheld, or no longer (R383). -/
def execPowerBudgetLimit (limited : Bool) (s : State) : Host.Outcome State Fault Refusal :=
  occur (fun s => { s with limited := limited }) s

/-- HALT_NOTICE: the package quiesces, and stays so until it restores (R414). -/
def execHaltNotice (s : State) : Host.Outcome State Fault Refusal := occur quiesce s

/-- The code of the record of a failure for which no table gives one: a free value (log 35). -/
def State.failCode (s : State) : BitVec 8 := BitVec.ofNat 8 (Config.freeNat 3 s.free s.tick)

/-- A task as it was when it was last saved, or at its launch; what it holds elsewhere stays (R404; log 66). -/
def lastContext (tid : Nat) (s : State) : State :=
  match s.lastSaved.find? (fun u => u.tid == tid) with
  | some u => modTask tid (fun t => { u with
      status := t.status, core := t.core, guards := t.guards, jobs := t.jobs, acks := t.acks, sidelog := t.sidelog
      logWait := t.logWait, logSeq := t.logSeq, wnext := t.wnext, inbound := t.inbound, area := t.area
      savedJobs := [], savedQueue := [], savedProgs := [], savedProgQueue := [] }) s
  | none => s

/-- A failed core: not eligible; its task freezes with its last good context, or with its last saved one when the save
fails (R404, Table 20.2). -/
def fenceCore (core : Nat) (saveOk : Bool) (s : State) : State :=
  let code := s.failCode
  let s := l1Drop core (emptyQueue core (modCore core (fun c => { c with fenced := true }) s))
  let s := match residentOn s core with
    | some t => freezeTask t.tid ⟨code, 0, none, 0, 0, 0⟩ 0 0 (if saveOk then s else lastContext t.tid s)
    | none => s
  addRecord { code := code, sev := 2, mkind := 9, core := core, die := s.dieOf core } s

/-- A failed unit fenced until package reset, with its record (R404, Table 20.2; log 35). -/
def fenceUnit (u : FenceUnit) (s : State) : State :=
  let code := s.failCode
  match u with
  | .core n ok => if n < 192 then { fenceCore n ok s with free := s.free + 1 } else s
  | .bte n =>
    let s := addRecord { code := code, sev := 2, mkind := 2, unit := n.val, die := n.val / 4 }
      (modChan n (fun c => { c with fenced := true, fcode := code }) { s with free := s.free + 1 })
    failUnit (.bte n) code s
  | .lighter n =>
    let s := addRecord { code := code, sev := 2, mkind := 3, unit := n.val, die := n.val / 4 }
      (modLighter n (fun c => { c with fenced := true, fcode := code }) { s with free := s.free + 1 })
    failUnit (.lighter n) code s
  | .slice n =>
    addRecord { code := code, sev := 2, mkind := 6, unit := n.val % 16, die := n.val / 16 }
      { s with free := s.free + 1
               sliceFenced := if s.sliceFenced.contains n.val then s.sliceFenced else s.sliceFenced ++ [n.val] }
  | .frame d a =>
    addRecord { code := code, sev := 2, mkind := 6, die := d.val, addr := BitVec.ofNat 64 (a / 65536 * 65536) }
      { s with free := s.free + 1
               frameFenced := if s.frameFenced.contains (d.val, a / 65536) then s.frameFenced else s.frameFenced ++ [(d.val, a / 65536)]
               walks := s.walks.filter (fun e => !(e.die == d.val && e.frame / 65536 == a / 65536)) }

/-- HARDWARE_FAILURE_FENCE (R404). -/
def execHardwareFailureFence (u : FenceUnit) (s : State) : Host.Outcome State Fault Refusal :=
  match u with
  | .frame _ a => if Config.stackBytes ≤ a then .fault .stackAddress else .next (fenceUnit u s)
  | _ => .next (fenceUnit u s)

/-- The ends of a die link: the four links of each row's ring, then each die's link to the Quay die, 8 (R361;
log 36). -/
def linkEnds (l : Nat) : Nat × Nat :=
  if l < 4 then (l, (l + 1) % 4) else if l < 8 then (l, 4 + (l + 1) % 4) else (l - 8, 8)

/-- Whether a working link joins two dies. -/
def State.linked (s : State) (i j : Nat) : Bool :=
  (List.finRange 16).any (fun l => s.dieLinks[l].up && (linkEnds l.val == (i, j) || linkEnds l.val == (j, i)))

/-- The latency class of a pair of dies (R361, R471). -/
def State.latencyClass (s : State) (i j : Nat) : Nat :=
  if i = j then 0
  else if i / 4 ≠ j / 4 then 3
  else if s.linked i j then 1
  else if (List.range 8).any (fun k => k / 4 == i / 4 && s.linked i k && s.linked k j) then 2
  else 3

/-- The logical number of a core position; none where the grade leaves it dark (R378). -/
def Fuses.logical (f : Fuses) (pos : Nat) : Option Nat := f.positions.findIdx? (fun p => p == pos)

/-- The speed entry at a core position; 0 where no core is live (R377, R385). -/
def State.speedAt (s : State) (pos : Nat) : Nat :=
  (((s.fuses.logical pos).bind (fun i => s.cores[i]?)).map (·.speed)).getD 0

/-- A die link as the table enters it: a link to the die 7 is entered at that die, whose number as a far die would name
the Quay die (Table 15.4; log 36). -/
def linkEntry (l : Nat) : Nat × Nat :=
  let e := linkEnds l
  if e.2 = 8 then (e.1, 7) else if e.2 = 7 then (7, e.1) else e

/-- The enumeration table of 2,112 bytes that the host reads through BAR0 (R377, Tables 15.4 and 15.5).  A fence changes
none of it but the die links (R404, R471). -/
def State.enumTable (s : State) : List (BitVec 8) :=
  let f := s.fuses
  let entry (pos : Nat) : Nat := (f.logical pos).getD 0xFF + 2 ^ 8 * (pos / 24) + 2 ^ 11 * (pos % 24)
    + 2 ^ 16 * s.speedAt pos + 2 ^ 28 * b2n (f.logical pos).isSome
  let header := [0x454E_4D34 + 2 ^ 32,
    f.liveCount + 2 ^ 8 * 128 + 2 ^ 16 * f.stackMask.toNat + 2 ^ 24 * f.grade + 2 ^ 32 * s.pkg,
    s.speedSum + 2 ^ 32 * s.guaranteed, 0, 0, 0, 0, 0]
  header.flatMap (natBytes 8)
    ++ (List.range 192).flatMap (fun i => natBytes 8 (entry i))
    ++ (List.range 128).flatMap (fun i => natBytes 2 (1 + 2 * (i / 16) + 16 * (i % 16)))
    ++ (List.range 8).flatMap (fun d => natBytes 8 (if f.stackMask.getLsbD d then 1 + Config.stackBytes / 2 ^ 8 * 2 ^ 8 else 0))
    ++ (List.finRange 16).flatMap (fun l => natBytes 4
        (b2n s.dieLinks[l].up + 2 * (linkEntry l.val).1 + 16 * (linkEntry l.val).2))
    ++ (List.finRange 8).flatMap (fun e => natBytes 8 (b2n s.engines[e].usable + 2 * s.engines[e].lanes.toNat))
    ++ (List.range 64).map (fun n => BitVec.ofNat 8 (s.latencyClass (n / 8) (n % 8)))

/-- A register whose contents no table of the manual gives: a free value (R385; log 31). -/
def State.openReg (s : State) (offset : Nat) : BitVec 64 := BitVec.ofNat 64 (Config.freeNat 9 s.free offset)

/-- What a residence-slot register reads as; write-only fields read 0 (R8, Table 14.3). -/
def slotReg (g : GSlot) (reg : Nat) : BitVec 64 :=
  BitVec.ofNat 64 (if reg = 0 then g.oreg.toNat + 2 ^ 17 * b2n g.v + 2 ^ 18 * g.err.toNat
    else if reg = 16 then g.last.toNat + 2 ^ 32 * (g.done % 2 ^ 32) else 0)

/-- What a register of the error block reads as; FZn.ACT reads 0 (R8, Table 20.3, Table 23.1, R403). -/
def State.errorReg (s : State) (reg : Nat) : BitVec 64 :=
  if reg = 0 then s.errBase
  else if reg = 8 then s.errCfg
  else if reg = 0x10 then s.errLost.setWidth 64
  else if reg = 0x20 then s.syncCfg
  else if 0x100 ≤ reg ∧ reg < 0x200 then
    match s.frozen[(reg - 0x100) / 16]? with
    | some e =>
      if reg % 16 = 0 then (if e.v then ((getTask? s e.tid).map (·.taskid)).getD 0 else 0)
      else BitVec.ofNat 64 (bits e.ctx 7 51 * 128 + 16 * b2n e.bkpt + 8 * b2n e.v)
    | none => 0
  else if 0x300 ≤ reg ∧ reg < 0x700 then
    match s.frozenJobs[(reg - 0x300) / 32]? with
    | some j =>
      if reg % 32 = 0 then j.record.setWidth 64 else if reg % 32 = 8 then (j.record >>> 64).setWidth 64
      else if reg % 32 = 16 then j.taskid else j.pos
    | none => 0
  else s.openReg (0x100000 + reg)

/-- What a 64-bit register of BAR0 outside the enumeration and speed tables reads as (Table 16.3). -/
def State.readReg (s : State) (offset : Nat) : BitVec 64 :=
  if offset = 0x1000 then s.bootst
  else if 0x20000 ≤ offset ∧ offset < 0x20800 then
    (if offset % 0x100 = 0 then s.roots.toList.getD ((offset - 0x20000) / 0x100) 0
     else if offset % 0x100 = 16 then 0 else s.openReg offset)
  else if offset = 0x30000 then s.bodyBase
  else if offset = 0x30008 then s.tagBase
  else if 0x40000 ≤ offset ∧ offset < 0x40800 then slotReg (getSlot s ((offset - 0x40000) / 32)) ((offset - 0x40000) % 32)
  else if 0x50000 ≤ offset ∧ offset < 0x50400 then
    let n : Fin 32 := Fin.ofNat 32 ((offset - 0x50000) / 16)
    let r : Nat × Nat := if offset < 0x50200 then (s.chans[n].base, s.chans[n].log2) else (s.lighters[n].base, s.lighters[n].log2)
    BitVec.ofNat 64 (if offset % 16 = 0 then r.1 else r.2)
  else if offset = 0x60000 then s.idleTime
  else if offset = 0x60010 then s.pkgnum
  else if offset = 0x60020 then s.linkCfg
  else if offset = 0x60028 then s.hwbase
  else if 0x60100 ≤ offset ∧ offset < 0x60200 then (s.pkgmap >>> (8 * (offset - 0x60100))).setWidth 64
  else if 0x100000 ≤ offset then s.errorReg (offset - 0x100000)
  else s.openReg offset

/-- A byte of BAR0 as the host reads it (R377, R385, Table 16.3). -/
def State.bar0Byte (s : State) (a : Nat) : BitVec 8 :=
  if a < 0x840 then s.enumTable.getD a 0
  else if 0x10000 ≤ a ∧ a < 0x10300 then BitVec.ofNat 8 (s.speedAt ((a - 0x10000) / 4) / 2 ^ (8 * (a % 4)))
  else (s.readReg (a / 8 * 8)).extractLsb' (8 * (a % 8)) 8

/-- A read of BAR0: what waits for the read-back of its registers takes effect, and their bytes are answered (R385). -/
def readBar0 (off len : Nat) (s : State) : List (BitVec 8) × State :=
  let s := readBack off len s
  ((span off len).map s.bar0Byte, { s with free := s.free + 1 })

end Sys2Proof.Machine
end

