-- ==== Sys2Proof/Machine/Fabric.lean ====
section
/-! DEFINITION. Optical circuits: flits, encryption, acknowledgement, set-up and failure; package time; die links
(15 R361 to R374; 24 R461 to R471). -/

namespace Sys2Proof.Machine

/-- A circuit of the table. -/
def getCirc? (s : State) (id : Nat) : Option Circuit := s.circuits.find? (fun c => c.id == id)

/-- A circuit changed. -/
def modCirc (id : Nat) (f : Circuit → Circuit) (s : State) : State :=
  { s with circuits := modFirst (fun c => c.id == id) f s.circuits }

/-- An optical engine changed. -/
def modEngine (e : Fin 8) (f : OptEngine → OptEngine) (s : State) : State := { s with engines := s.engines.set e (f s.engines[e]) }

/-- A group or a collective whose members lie in another package: what a lost circuit does to it (R456, R467). -/
def damaskCut (pkg : Nat) (s : State) : State :=
  (s.damask.filter (fun c => c.ended.isNone && c.members.any (fun m => m.pkg == pkg && !m.done)
      && c.members.any (fun m => m.pkg != pkg && !m.done))).foldl
    (fun s c => closeColl c.key (endCollective fcCircuitFail none c s)) s

/-- The tasks whose held word waits for a reply from another package freeze (R467). -/
def freezeWaiting (pkg : Nat) (s : State) : State :=
  ((s.packs.flatMap (fun p => p.guardQ)).filter (fun q => iaPkg q.ia == pkg)).foldl (fun s q =>
    match ownTask? s q.tid with
    | some t =>
      if t.status = .resident then freezeTask q.tid ⟨fcCircuitFail, 0, some .c, 0, 0, BitVec.ofNat 64 q.ia⟩ 0 t.c.pc s else s
    | none => s) s

/-- A circuit ends: its record, and the end of what waits for it (R466, R467). -/
def endCircuit (id : Nat) (s : State) : State :=
  match getCirc? s id with
  | none => s
  | some c =>
    let s := { modCirc id (fun c => { c with state := .ended }) s with ports := s.ports.filter (fun p => p.2 != id) }
    let s := addRecord { code := fcCircuitFail, sev := 1, mkind := 5, unit := c.engine.val, addr := c.far.setWidth 64 } s
    freezeWaiting c.far.toNat (damaskCut c.far.toNat s)

/-- The circuits that use a lane of an engine. -/
def laneUsers (s : State) (e : Fin 8) (lane : Nat) : List Circuit :=
  s.circuits.filter (fun c => c.engine == e && c.lanes.getLsbD lane && c.state != .ended)

/-- The lanes of an engine that work and that no circuit but one uses (R367, R404). -/
def State.freeLanes (s : State) (e : Fin 8) (circ : Nat) : List Nat :=
  (List.range 16).filter (fun i => s.engines[e].lanes.getLsbD i && !s.engines[e].dark.getLsbD i
    && (laneUsers s e i).all (fun c => c.id == circ))

/-- A set of lanes. -/
def laneMask (l : List Nat) : BitVec 16 := l.foldl (fun (v : BitVec 16) i => v ||| BitVec.ofNat 16 (2 ^ i)) 0

/-- The largest power of two, up to 16, that is at most a number of lanes (R367, R466). -/
def bondSize (n : Nat) : Nat :=
  if 16 ≤ n then 16 else if 8 ≤ n then 8 else if 4 ≤ n then 4 else if 2 ≤ n then 2 else min n 1

/-- Whether an engine can carry a circuit: it works and has a lane for it. -/
def State.engineOk (s : State) (e : Fin 8) (circ : Nat) : Bool :=
  s.engines[e].usable && !s.engines[e].fenced && s.freeLanes e circ != []

/-- The first engine that can carry a circuit, its own first (R466, R469). -/
def engineFor (s : State) (e : Fin 8) (circ : Nat) : Option (Fin 8) :=
  if s.engineOk e circ then some e else (List.finRange 8).find? (fun n => s.engineOk n circ)

/-- A circuit fails: its ports are released and it is set up again over another path, on another engine where its
own is fenced; SEQ, CTR, keys and unacknowledged flits stay (R466, R469). -/
def failCircuit (id : Nat) (s : State) : State :=
  match getCirc? s id with
  | none => s
  | some c =>
    if c.state = .ended ∨ c.state = .none then s
    else match engineFor s c.engine id with
      | none => endCircuit id s
      | some e =>
        let free := s.freeLanes e id
        let n := min (bondSize free.length) (bondSize ((List.range 16).countP (fun i => c.lanes.getLsbD i)))
        { modCirc id (fun c => { c with engine := e, lanes := laneMask (free.take n), state := .setup, nacks := 0, attempts := 0
                                        fdv := false
                                        rx := { c.rx with rejects := 0, authFails := 0, rekeyed := false, nakSent := false } }) s with
          ports := s.ports.filter (fun p => p.2 != id) }

/-- CIRCUIT_FAIL (R466). -/
def execCircuitFail (circ : Nat) (s : State) : Host.Outcome State Fault Refusal :=
  occur (fun s => match getCirc? s circ with
    | some c => if c.state = .up then failCircuit circ s else s
    | none => s) s

/-- What follows a rejection: a circuit whose expected flit was rejected REPLAYMAX times fails (R462). -/
def afterReject (id : Nat) (s : State) : State :=
  match getCirc? s id with
  | some c => if lcReplayMax c.cfg ≤ c.rx.rejects then failCircuit id s else s
  | none => s

/-- A flit rejected by its codeword, its CRC or SEQ order (R462). -/
def rejectPlain (c : Circuit) (f : FlitIn) (s : State) : State :=
  afterReject c.id (countCorrected (.optical c.engine) 1 (modCirc c.id (fun c => { c with rx := c.rx.reject f }) s))

/-- A flit whose tag fails (R464): AUTHMAX failures after a re-keying fail the circuit. -/
def rejectAuth (c : Circuit) (f : FlitIn) (s : State) : State :=
  let s := addRecord { code := fcAuthFail, sev := 0, mkind := 5, unit := c.engine.val, tag := (flitSeq f) } s
  let s := modCirc c.id (fun c => { c with rx := { c.rx.reject f with authFails := c.rx.authFails + 1 } }) s
  if c.rx.rekeyed ∧ lcAuthMax c.cfg ≤ c.rx.authFails + 1 then failCircuit c.id s else afterReject c.id s

/-- A delay entry refreshed: a change of more than DRIFTMAX is reported; when the last reloaded entry of its engine
is fresh, drift correction resumes (R370, R469, R470). -/
def refreshEntry (id : Nat) (rtt : BitVec 20) (s : State) : State :=
  match getCirc? s id with
  | none => s
  | some c =>
    let d := max rtt.toNat c.rtt.toNat - min rtt.toNat c.rtt.toNat
    let s := if c.fdv ∧ lcDriftMax s.linkCfg < d then
        addRecord { code := fcDrift, sev := 0, mkind := 5, unit := c.engine.val, addr := c.far.setWidth 64 } s else s
    modCirc id (fun c => { c with rtt := rtt, fdv := true, stale := false, idle := 0 }) s

/-- The one-way delay of a circuit in ticks: half the round trip, with the fibre's correction for its temperature, which
is suspended while its engine's microcontroller reloads (R370, R469; log 65). -/
def oneWay (s : State) (c : Circuit) : Int :=
  let temp : Int := (Config.freeNat 11 s.free s.tick : Int)
  (c.rtt.toNat / 32 : Int) + (if s.engines[c.engine].driftOff then 0 else c.fdrift.toInt * temp / 256)

/-- A time stamp received: a package other than the reference sets its slew by the stamp and the corrected one-way delay
(R370, R470). -/
def takeStamp (id : Nat) (stamp : Nat) (s : State) : State :=
  match getCirc? s id with
  | none => s
  | some c =>
    if s.pkg = 0 then s
    else
      let diff : Int := (stamp : Int) + oneWay s c - s.tick
      { s with slew := diff, syncAge := 0, synced := s.synced || decide (-2 ≤ diff ∧ diff ≤ 2), free := s.free + 1 }

/-- What an accepted flit brings about by its kind: an acknowledgement drops the flits before its SEQ, and a negative one
has the rest sent again; a time-sync flit refreshes the delay entry and sets the slew (R370, R371, R372). -/
def flitEffect (id : Nat) (f : FlitIn) (text : BitVec 2048) (rtt : BitVec 20) (s : State) : State :=
  match flitKind f with
  | 2 => modCirc id (fun c => { c with tx := c.tx.acked (bits text.toNat 0 12) (bitN text.toNat 12) }) s
  | 4 => takeStamp id (bits text.toNat 0 64) (refreshEntry id rtt s)
  | _ => s

/-- A flit that reaches the receiver of an established circuit (R372, R462). -/
def receiveFlit (id : Nat) (f : FlitIn) (rtt : BitVec 20) (s : State) : State :=
  match getCirc? s id with
  | none => s
  | some c =>
    if c.state ≠ .up then s
    else match judge c.rx f with
      | .passes =>
        let s := if f.corrected then countCorrected (.optical c.engine) 1 s else s
        flitEffect id f (c.rx.text? f) rtt (modCirc id (fun c => { c with rx := c.rx.accept f, idle := 0 }) s)
      | .auth =>
        let s := if f.corrected then countCorrected (.optical c.engine) 1 s else s
        rejectAuth c f s
      | _ => rejectPlain c f s

/-- The delay that a circuit's entry holds. -/
def rttOf (s : State) (id : Nat) : BitVec 20 := ((getCirc? s id).map (·.rtt)).getD 0

/-- FLIT_DATA_RECEIVE: a data or idle flit (R371 to R373, R462, R464). -/
def execFlitDataReceive (circ : Nat) (f : FlitIn) (s : State) : Host.Outcome State Fault Refusal :=
  occur (fun s => if flitKind f = 0 ∨ flitKind f = 3 then receiveFlit circ f (rttOf s circ) s else s) s

/-- KEY_MARKER_RECEIVE: a marker accepted erases its slot (R374, R464). -/
def execKeyMarkerReceive (circ : Nat) (f : FlitIn) (s : State) : Host.Outcome State Fault Refusal :=
  occur (fun s => if flitKind f = 1 then receiveFlit circ f (rttOf s circ) s else s) s

/-- FLIT_ACK_RECEIVE: an acknowledgement flit of the package at a circuit's far end (R372). -/
def execFlitAckReceive (far : BitVec 11) (circ : Nat) (f : FlitIn) (s : State) : Host.Outcome State Fault Refusal :=
  occur (fun s => if flitKind f = 2 ∧ (getCirc? s circ).map (·.far) = some far then receiveFlit circ f (rttOf s circ) s else s) s

/-- Whether a receiver's acknowledgement is to be sent: a negative one, one for a flit that is no acknowledgement itself,
or one after 64 flits (R372; log 37). -/
def Circuit.ackDue (c : Circuit) : Bool :=
  c.state == .up && c.tx.open_ && (c.rx.nakOwed || c.rx.ackOwed || decide (64 ≤ c.rx.delivered))

/-- The acknowledgement goes into the stream (R372). -/
def sendAck (id : Nat) (s : State) : State :=
  modCirc id (fun c => if c.ackDue then
    { c with tx := c.tx.send 2 (ackText c.rx.seq c.rx.nakOwed), rx := { c.rx with nakOwed := false, ackOwed := false, delivered := 0 }, idle := 0 }
    else c) s

/-- The oldest flit on its way over a circuit arrives: at the far package where it is modelled, else at one that accepts
and acknowledges it at once (R371, R372; log 17). -/
def flitArrives (id : Nat) (s : State) : State :=
  match getCirc? s id with
  | none => s
  | some c => match c.tx.wire with
    | [] => s
    | f :: r =>
      if c.state ≠ .up then s
      else if s.hasPeer c.far.toNat then
        let me := s.pkg
        atPack (Pack.isPkg c.far.toNat) (fun s => match s.circuits.find? (Circuit.leads me) with
          | some d => receiveFlit d.id f d.rtt s
          | none => s) (modCirc id (fun c => { c with tx := { c.tx with wire := r } }) s)
      else modCirc id (fun c => { c with tx := { c.tx with wire := r, unacked := c.tx.unacked.filter (fun x => x.1 != f) } }) s

/-- KEY_SLOT_LOAD: a key and its salt enter a slot; a sender that waited for it sends its marker (R373, R374). -/
def execKeySlotLoad (circ : Nat) (outbound : Bool) (slot : Bool) (key : BitVec 256) (salt : BitVec 48) (s : State) :
    Host.Outcome State Fault Refusal :=
  occur (modCirc circ (fun c =>
    if outbound then
      let d := if slot then { c.tx with key1 := some key, salt1 := salt } else { c.tx with key0 := some key, salt0 := salt }
      { c with tx := if d.stopped then d else d.turnOver }
    else
      let d := if slot then { c.rx with key1 := some key, salt1 := salt } else { c.rx with key0 := some key, salt0 := salt }
      { c with rx := d.setLast slot none })) s

/-- CIRCUIT_REKEY: both slots of a direction take new keys; a sender encrypts its unacknowledged flits again from
CTR 0; a receiver writes one record (R464, R465). -/
def execCircuitRekey (circ : Nat) (outbound : Bool) (key0 key1 : BitVec 256) (salt0 salt1 : BitVec 48) (s : State) :
    Host.Outcome State Fault Refusal :=
  occur (fun s => match getCirc? s circ with
    | none => s
    | some c =>
      if outbound then
        modCirc circ (fun c => { c with tx := { c.tx with
          key0 := some key0, key1 := some key1, salt0 := salt0, salt1 := salt1, slot := false
          unacked := resealAll key0 salt0 0 c.tx.unacked, wire := (resealAll key0 salt0 0 c.tx.unacked).map (·.1)
          ctr := c.tx.unacked.length, stopped := false } }) s
      else if c.rx.authFails < lcAuthMax c.cfg then s
      else
        addRecord { code := fcAuthFail, sev := 1, mkind := 5, unit := c.engine.val }
          (modCirc circ (fun c => { c with rx := { c.rx with
            key0 := some key0, key1 := some key1, salt0 := salt0, salt1 := salt1, last0 := none, last1 := none
            authFails := 0, rekeyed := true } }) s)) s

/-- CTR_EXHAUST: the counter has reached 2^48 - 2^16; the sender stops until it is re-keyed (R374, R465). -/
def execCtrExhaust (circ : Nat) (s : State) : Host.Outcome State Fault Refusal :=
  occur (fun s => match getCirc? s circ with
    | some c =>
      if c.tx.ctr < ctrStop ∨ c.tx.stopped then s
      else addRecord { code := fcCtrExhaust, sev := 1, mkind := 5, unit := c.engine.val }
        (modCirc circ (fun c => { c with tx := { c.tx with stopped := true } }) s)
    | none => s) s

/-- A circuit-table entry for a set-up that this package begins, on the lowest lanes that are free (R367, R369, R461). -/
def newCircuit (s : State) (r : SetupReq) : Circuit :=
  { id := r.circ, far := r.far, engine := r.engine, lanes := laneMask ((s.freeLanes r.engine r.circ).take r.lanes), state := .setup, nacks := 0
    attempts := 0, retryAt := 0, idle := 0, stale := false, cfg := s.linkCfg, rtt := 0, fdrift := 0, fdv := false
    syncAt := s.tick, slotTag := none, tx := SendDir.init, rx := RecvDir.init }

/-- The wait after the n-th NACK of a set-up (R369). -/
def backOff (s : State) (n : Nat) : Nat :=
  256 * 2 ^ min n 8 + (mix64 (BitVec.ofNat 64 (s.pkg ^^^ n))).toNat % 256

/-- A NACK for a set-up of this package: ports released; the 16th ends the attempt, and SETUPMAX attempts the
circuit (R369, R466). -/
def nackCircuit (id : Nat) (s : State) : State :=
  match getCirc? s id with
  | none => s
  | some c =>
    if c.state ≠ .setup then s
    else
      let n := c.nacks + 1
      let s := { s with ports := s.ports.filter (fun p => p.2 != id) }
      if n < 16 then modCirc id (fun c => { c with nacks := n, state := .waiting, retryAt := s.tick + backOff s n }) s
      else if c.attempts + 1 < lcSetupMax c.cfg then
        modCirc id (fun c => { c with nacks := 0, attempts := c.attempts + 1, state := .waiting, retryAt := s.tick }) s
      else endCircuit id s

/-- Whether the set-up of this package may go ahead: numbered, a place in the table, and an engine that works with lanes
that are free (R367, R368). -/
def maySetup (s : State) (r : SetupReq) : Bool :=
  s.pkgnum.getLsbD 11 && [1, 2, 4, 8, 16].contains r.lanes && s.engines[r.engine].usable && !s.engines[r.engine].fenced
    && decide (r.circ < 256) && decide (r.lanes ≤ (s.freeLanes r.engine r.circ).length)

/-- SETUP at a switch: the port goes to the request of the lowest package number, where it is free; this package's
own set-up enters the circuit table first, and a loser receives NACK (R369). -/
def setupAt (r : SetupReq) (s : State) : State :=
  let own : Bool := r.from_.toNat == s.pkg && s.pkgnum.getLsbD 11
  if own ∧ ¬ maySetup s r then s
  else
    let s := if own then match getCirc? s r.circ with
        | none => { s with circuits := s.circuits ++ [newCircuit s r] }
        | some c => if c.state = .ended then modCirc r.circ (fun _ => newCircuit s r) s else s
      else s
    let rival := r.rivals.foldl (fun (b : BitVec 11 × Nat) x => if x.1 < b.1 then x else b) (r.from_, r.circ)
    let taken : Bool := s.ports.any (fun p => p.1 == r.port && p.2 != r.circ)
    let s := if taken ∨ s.ports.contains (r.port, rival.2) then s else { s with ports := s.ports ++ [(r.port, rival.2)] }
    if own ∧ (taken ∨ rival.2 ≠ r.circ) then nackCircuit r.circ s else s

/-- The lowest index of the circuit table that is free, one without an ended circuit first (R367, R467). -/
def freeCirc (s : State) : Option Nat :=
  (findBelow (fun i => s.circuits.all (fun c => c.id != i)) 256).or
    (findBelow (fun i => s.circuits.all (fun c => c.id != i || c.state == .ended)) 256)

/-- A package's demand for a circuit: the request that sets one up, on one lane of the first engine that has one free
(R367, R369; log 68). -/
def demandReq (s : State) (far : Nat) : Option SetupReq :=
  match freeCirc s, (List.finRange 8).find? (fun e => s.engines[e].usable && !s.engines[e].fenced && s.freeLanes e 256 != []) with
  | some i, some e =>
    let r : SetupReq := ⟨i, BitVec.ofNat 11 s.pkg, BitVec.ofNat 11 far, e, 1, i, []⟩
    if maySetup s r then some r else none
  | _, _ => none

/-- The first circuit asked for by a held request or a coming slot is set up, where none to its package exists yet
(R369); while the engine's microcontroller reloads the request waits in it (R469). -/
def serveDemand (s : State) : State :=
  match s.demand with
  | [] => s
  | far :: rest =>
    if s.circuits.any (fun c => c.far.toNat == far && c.state != .ended) ∨ ¬ s.present far then { s with demand := rest }
    else match demandReq s far with
      | some r =>
        let s := { s with demand := rest }
        if s.engines[r.engine].driftOff then modEngine r.engine (fun e => { e with queued := e.queued ++ [.setup r] }) s
        else setupAt r s
      | none => { s with demand := rest ++ [far] }

/-- CIRCUIT_SETUP (R369); while the engine's microcontroller reloads, it waits in the engine (R469). -/
def execCircuitSetup (req : SetupReq) (s : State) : Host.Outcome State Fault Refusal :=
  occur (fun s =>
    if s.engines[req.engine].driftOff ∧ req.from_.toNat = s.pkg then
      modEngine req.engine (fun e => { e with queued := e.queued ++ [.setup req] }) s
    else setupAt req s) s

/-- A set-up acknowledged: the circuit is usable, with its delay measured, and its unacknowledged flits go out again
(R369, R370, R461, R466). -/
def ackSetup (circ : Nat) (rtt : BitVec 20) (s : State) : State :=
  modCirc circ (fun c =>
    if c.state = .setup then
      { c with state := .up, nacks := 0, attempts := 0, idle := 0, rtt := rtt, fdrift := 0, fdv := true, stale := false
               cfg := s.linkCfg, syncAt := s.tick, tx := c.tx.resend }
    else c) s

/-- CIRCUIT_SETUP_ACK (R369, R370). -/
def execCircuitSetupAck (circ : Nat) (rtt : BitVec 20) (s : State) : Host.Outcome State Fault Refusal := occur (ackSetup circ rtt) s

/-- The other end of a circuit that a modelled package has set up: it enters this package's table too (R369). -/
def farEnd (far : Nat) (lanes : Nat) (rtt : BitVec 20) (s : State) : State :=
  if s.circuits.any (Circuit.leads far) then s
  else match demandReq s far with
    | some r => ackSetup r.circ rtt { s with
        circuits := s.circuits.filter (fun c => c.id != r.circ) ++ [newCircuit s { r with lanes := lanes }] }
    | none => s

/-- A set-up that reaches a modelled package is acknowledged, with a measured delay (R369, R370; log 65). -/
def peerAck (circ : Nat) (s : State) : State :=
  match getCirc? s circ with
  | none => s
  | some c =>
    let rtt := BitVec.ofNat 20 (Config.freeNat 10 s.free s.tick)
    let me := s.pkg
    atPack (Pack.isPkg c.far.toNat) (farEnd me ((List.range 16).countP (fun i => c.lanes.getLsbD i)) rtt)
      (ackSetup circ rtt { s with free := s.free + 1 })

/-- CIRCUIT_SETUP_NACK (R369, R466). -/
def execCircuitSetupNack (circ : Nat) (s : State) : Host.Outcome State Fault Refusal := occur (nackCircuit circ) s

/-- CIRCUIT_SETUP_RETRY: the back-off has expired (R369). -/
def execCircuitSetupRetry (circ : Nat) (s : State) : Host.Outcome State Fault Refusal :=
  occur (modCirc circ (fun c => if c.state = .waiting ∧ c.retryAt ≤ s.tick then { c with state := .setup } else c)) s

/-- A circuit released: its ports and its entry (R369). -/
def tearCircuit (id : Nat) (s : State) : State :=
  { s with circuits := s.circuits.filter (fun c => c.id != id), ports := s.ports.filter (fun p => p.2 != id) }

/-- CIRCUIT_TEAR (R369, R469). -/
def execCircuitTear (circ : Nat) (s : State) : Host.Outcome State Fault Refusal :=
  occur (fun s => match getCirc? s circ with
    | some c =>
      if s.engines[c.engine].driftOff then modEngine c.engine (fun e => { e with queued := e.queued ++ [.tear circ] }) s
      else tearCircuit circ s
    | none => tearCircuit circ s) s

/-- Whether an open Damask collective has blocks that cross to a package: its slots reserve the circuit (R346,
R369). -/
def slotReserved (s : State) (far : Nat) : Bool :=
  s.damask.any (fun c => c.ended.isNone && c.members.any (fun m => m.pkg == far) && c.members.any (fun m => m.pkg != far))

/-- CIRCUIT_IDLE_TIMEOUT (R369). -/
def execCircuitIdleTimeout (circ : Nat) (s : State) : Host.Outcome State Fault Refusal :=
  occur (fun s => match getCirc? s circ with
    | some c =>
      if c.state = .up ∧ s.idleTime.toNat ≤ c.idle ∧ ¬ slotReserved s c.far.toNat ∧ ¬ s.engines[c.engine].driftOff then
        tearCircuit circ s
      else s
    | none => s) s

/-- The lowest lanes of a set, as many as the largest power of two in it (R466). -/
def rebond (lanes : BitVec 16) : BitVec 16 :=
  let live := (List.range 16).filter (fun i => lanes.getLsbD i)
  laneMask (live.take (bondSize live.length))

/-- LANE_LOCK_LOSS: the lane is fenced; its circuit is bonded again on the others, or fails with its last lane
(R404, R466). -/
def execLaneLockLoss (engine : Fin 8) (lane : Fin 16) (s : State) : Host.Outcome State Fault Refusal :=
  occur (fun s =>
    if ¬ s.engines[engine].lanes.getLsbD lane.val ∨ s.engines[engine].dark.getLsbD lane.val then s
    else
      let users := laneUsers s engine lane.val
      let off := ~~~(BitVec.ofNat 16 (2 ^ lane.val))
      let s := addRecord { code := s.failCode, sev := 2, mkind := 5, unit := engine.val, tag := lane.val }
        (modEngine engine (fun e => { e with dark := e.dark ||| ~~~off }) s)
      let s := { s with free := s.free + 1 }
      users.foldl (fun s c =>
        let rest := c.lanes &&& off
        if rest = 0 then failCircuit c.id s
        else modCirc c.id (fun c => { c with lanes := rebond rest, tx := c.tx.resend }) s) s) s

/-- MCU_WATCHDOG: the table and the delay entries are reloaded and drift correction is suspended; a second reset
within 2^30 ticks fences the engine, whose circuits are set up again elsewhere (R469). -/
def execMcuWatchdog (engine : Fin 8) (s : State) : Host.Outcome State Fault Refusal :=
  occur (fun s =>
    let e := s.engines[engine]
    let again : Bool := match e.lastReset with
      | some t => decide (s.tick ≤ t + 2 ^ 30)
      | none => false
    let mine := s.circuits.filter (fun c => c.engine == engine && c.state != .ended)
    if e.fenced then s
    else if again then
      let s := addRecord { code := fcMcuWatchdog, sev := 2, mkind := 5, unit := engine.val }
        (modEngine engine (fun e => { e with fenced := true, driftOff := false }) s)
      mine.foldl (fun s c => failCircuit c.id s) s
    else
      let up : Bool := mine.any (fun c => c.fdv)
      let s := modEngine engine (fun e => { e with lastReset := some s.tick, driftOff := up }) s
      addRecord { code := fcMcuWatchdog, sev := 0, mkind := 5, unit := engine.val }
        { s with circuits := s.circuits.map (fun c => if c.engine = engine then { c with stale := c.fdv } else c) }) s

/-- The requests that waited in an engine are taken in their order (R469). -/
def takeQueued (e : Fin 8) (s : State) : State :=
  s.engines[e].queued.foldl (fun s r => match r with
    | .setup r => setupAt r s
    | .tear id => tearCircuit id s) (modEngine e (fun x => { x with queued := [] }) s)

/-- Drift correction of a circuit's engine resumes when no reloaded entry of it is stale, and the waiting requests are
taken (R469). -/
def resumeDrift (id : Nat) (s : State) : State :=
  match getCirc? s id with
  | none => s
  | some c =>
    if s.engines[c.engine].driftOff ∧ s.circuits.all (fun x => x.engine != c.engine || !x.stale) then
      takeQueued c.engine (modEngine c.engine (fun e => { e with driftOff := false }) s)
    else s

/-- A delay entry refreshed, and what follows for its engine (R370, R469, R470). -/
def refreshRtt (id : Nat) (rtt : BitVec 20) (s : State) : State := resumeDrift id (refreshEntry id rtt s)

/-- TIME_SYNC_RECEIVE: a time-sync flit, with the delay measured by it (R370, R470). -/
def execTimeSyncReceive (circ : Nat) (f : FlitIn) (rtt : BitVec 20) (s : State) : Host.Outcome State Fault Refusal :=
  occur (fun s => if flitKind f = 4 then resumeDrift circ (receiveFlit circ f rtt s) else s) s

/-- TIME_SYNC_SEND: a time-sync flit with this package's TICK goes into the stream (R370). -/
def execTimeSyncSend (circ : Nat) (s : State) : Host.Outcome State Fault Refusal :=
  occur (modCirc circ (fun c =>
    if c.state = .up ∧ c.tx.open_ then
      { c with tx := c.tx.send 4 (BitVec.ofNat 2048 (s.tick % 2 ^ 64)), idle := 0, syncAt := s.tick }
    else c)) s

/-- DRIFT: a delay entry takes a new value, or time sync has been absent for 2^24 ticks (R470). -/
def execDrift (circ : Nat) (c : DriftCause) (s : State) : Host.Outcome State Fault Refusal :=
  occur (fun s => match c with
    | .rtt r => refreshRtt circ r s
    | .syncLost =>
      if s.pkg ≠ 0 ∧ s.synced ∧ 2 ^ 24 ≤ s.syncAge then
        addRecord { code := fcDrift, sev := 1, mkind := 9 } { s with synced := false }
      else s) s

/-- The links of a die. -/
def dieLinksOf (s : State) (d : Nat) : List (Fin 16) :=
  (List.finRange 16).filter (fun l => s.dieLinks[l].up && ((linkEnds l.val).1 == d || (linkEnds l.val).2 == d))

/-- DIE_LINK: a die link is lost and fenced; a die without a link stops the package (R404, R471). -/
def execDieLink (link : Fin 16) (s : State) : Host.Outcome State Fault Refusal :=
  occur (fun s =>
    if ¬ s.dieLinks[link].up then s
    else
      let s := { s with dieLinks := s.dieLinks.set link ⟨false, lcReplayMax s.linkCfg⟩ }
      let cut : Bool := (List.range 8).any (fun d => (dieLinksOf s d).isEmpty)
      addRecord { code := fcDieLink, sev := if cut then 3 else 2, mkind := 7, unit := link.val, die := (linkEnds link.val).1 } s) s

/-- A circuit set up at bring-up, with its delay (R379, stage 5); a package without a number sets none up (R368). -/
def bootCircuit (s : State) (x : SetupReq × BitVec 20) : State :=
  if maySetup s x.1 then ackSetup x.1.circ x.2 { s with circuits := s.circuits ++ [newCircuit s x.1] } else s

/-- PACKAGE_RESET: the reset values, then the boot stages; calibration writes the speed table, and the delay of each
circuit set up at bring-up is measured (R379 to R381). -/
def execPackageReset (b : BootInputs) (s : State) : Host.Outcome State Fault Refusal :=
  occur (fun s =>
    let r := bootStages b s.fuses
    let t := { coldReset s with bootst := r }
    if r.getLsbD 3 then b.circuits.foldl bootCircuit (writeSpeeds ((calibrateAll s.fuses b.passes).getD []) t) else t) s

end Sys2Proof.Machine
end

