-- ==== Sys2Proof/Machine/HostLink.lean ====
section
/-! DEFINITION. The host interface: HDM accesses, the host aperture, link errors, the link's loss and return, and
back-invalidation (06 R127; 15 R375, R376; 24 R472, R473). -/

namespace Sys2Proof.Machine

/-- The host sees poison. -/
def seePoison (s : State) : State := { s with poisonReturned := true, hostSees := [] }

/-- The record of a host access to an unbacked or faulting page (R472). -/
def hostPageError (ia : Nat) (s : State) : State :=
  addRecord { code := fcHostError, sev := 0, mkind := 8, addr := BitVec.ofNat 64 ia } s

/-- The lines of an access. -/
def linesOf (ia n : Nat) : List Nat := (lineParts ia n).filterMap (fun p => p.head?.map lineOf)

/-- A host access that must wait for something else is kept, in the order of the accesses (R127; log 69). -/
def hostWaits (a : HostAccess) (s : State) : State := { s with hostPend := a :: s.hostPend }

/-- What becomes of a host access that did not go through: one that meets another agent's replay, a log, a migration or a
host line waits; one that meets a page without a translation is `bad` (R127, R472). -/
def hostStopped (a : HostAccess) (bad poison : State → State) (s : State) : Stop → State
  | .page d p ia (.replay tid) => hostWaits a (holdFault d p ia (.replay tid) s)
  | .page _ _ _ _ => bad s
  | .trap c _ _ => if c = fcDataPoison then poison s else bad s
  | .hostLine l => hostWaits a (askHost l s)
  | .circuit p => hostWaits a (demandCircuit p s)
  | .wait _ => hostWaits a s
  | _ => s

/-- A host read of this package (R127, R375, R472): its lines may enter the host's cache. -/
def hostRead (a : HostAccess) (ia len : Nat) (cache : Bool) (s : State) : State :=
  if s.stopped then seePoison s
  else match readIa .host ia len s with
    | .ok (bs, s') =>
      { s' with hostSees := bs, poisonReturned := false
                hostLines := if cache then s'.hostLines ++ (linesOf ia len).filter (fun l => !s'.hostLines.contains l) else s'.hostLines }
    | .error e => hostStopped a (fun s => hostPageError ia (seePoison s)) seePoison s e

/-- A host write to this package, applied like any other write; it invalidates stash copies and no L1 copy (R127,
R472). -/
def hostWrite (a : HostAccess) (ia : Nat) (data : List (BitVec 8)) (s : State) : State :=
  if s.stopped then s
  else match writeIa .host ia data s with
    | .ok (_, s') => s'
    | .error e => hostStopped a (hostPageError ia) (hostPageError ia) s e

/-- The OFFSET that a host address reaches through the HDM decoder: HDMBASE + x reaches x, in the pageable span (R375). -/
def State.hdmOffset (s : State) (addr len : Nat) : Option Nat :=
  if s.hdmBase.toNat ≤ addr ∧ addr + len ≤ s.hdmBase.toNat + deviceSpan then some (addr - s.hdmBase.toNat) else none

/-- A host write to the copy aperture: a start at a channel's address, else dropped with a record (R324, R443). -/
def apertureWrite (off : Nat) (data : List (BitVec 8)) (s : State) : State :=
  if off % 16 = 0 ∧ data.length = 16 ∧ off < 512 then
    reachChan (Fin.ofNat 32 (off / 16)) (BitVec.ofNat 128 (bytesNat data)) none s
  else addRecord { code := fcAperture, sev := 0, mkind := 8, addr := BitVec.ofNat 64 (s.pkg * 2 ^ 47 + deviceSpan + off) } s

/-- Whether a host access reaches the package: over the link, and but for BAR0 reads once bring-up is complete (R375, R379,
R473). -/
def State.reached (s : State) : HostAccess → Bool
  | .bar0Read _ _ => s.hostUp
  | _ => s.hostUp && s.bootst.getLsbD 3

/-- What a host access does (R375, R443): an address that the HDM decoder does not cover is none of this package's; BAR2
reaches the device span, whose upper half is the host aperture. -/
def hostDoes (a : HostAccess) (s : State) : State :=
  match a with
  | .bar0Read off len =>
    let r := readBar0 off len s
    { r.2 with hostSees := r.1, poisonReturned := false }
  | .read addr len cache => match s.hdmOffset addr len with
    | some off => hostRead a (s.pkg * 2 ^ 47 + off) len cache s
    | none => s
  | .write addr data => match s.hdmOffset addr data.length with
    | some off => hostWrite a (s.pkg * 2 ^ 47 + off) data s
    | none => s
  | .bar2Read off len =>
    if s.stopped then seePoison s
    else if off % 2 ^ 40 < 2 ^ 39 then { s with hostSees := List.replicate len 0, poisonReturned := false }
    else hostRead a (s.pkg * 2 ^ 47 + deviceSpan + off % 2 ^ 40) len false s
  | .bar2Write off data =>
    if s.stopped then s
    else if off % 2 ^ 40 < 2 ^ 39 then apertureWrite (off % 2 ^ 40) data s
    else hostWrite a (s.pkg * 2 ^ 47 + deviceSpan + off % 2 ^ 40) data s

/-- Whether a host access is answered by the management controller alone. -/
def ofBar0 : HostAccess → Bool
  | .bar0Read _ _ => true
  | _ => false

/-- HDM_HOST_ACCESS: an access of the host through HDM, BAR0 or BAR2; behind one that waits, others wait too (R375). -/
def execHdmHostAccess (a : HostAccess) (s : State) : Host.Outcome State Fault Refusal :=
  occur (fun s =>
    if ¬ s.reached a then s
    else if ofBar0 a ∨ s.hostPend = [] then hostDoes a s
    else { s with hostPend := s.hostPend ++ [a] }) s

/-- The oldest host access that waits is tried again (R127). -/
def retryHost (s : State) : State :=
  match s.hostPend with
  | [] => s
  | a :: rest => hostDoes a { s with hostPend := rest }

/-- What poison from the host aperture does to the reader: a stream traps, a unit's job fails (R473). -/
def poisonReader (by_ : Requester) (ia : Nat) (s : State) : State :=
  match by_ with
  | .stream tid st => asTask tid st (takeTrap fcDataPoison 0 (BitVec.ofNat 32 (ia % 128)) (BitVec.ofNat 64 ia)) s
  | .bte n => failUnit (.bte n) fcDataPoison s
  | .lighter n => failUnit (.lighter n) fcDataPoison s
  | _ => s

/-- HOST_APERTURE_ACCESS: OFFSET 0x7F80_0000_0000 + y reaches host address HWBASE + y (R376, R473). -/
def execHostApertureAccess (by_ : Requester) (off : Nat) (write : Option (List (BitVec 8))) (len : Nat) (s : State) :
    Host.Outcome State Fault Refusal :=
  occur (fun s =>
    let ia := s.pkg * 2 ^ 47 + hostAperture + off % 2 ^ 39
    match write with
    | some bs => if ¬ s.hostUp then dropHostWrite s else match writeIa by_ ia bs s with
        | .ok (_, s') => s'
        | .error _ => s
    | none => if ¬ s.hostUp then poisonReader by_ ia s else match readIa by_ ia len s with
        | .ok (_, s') => s'
        | .error _ => s) s

/-- HOST_ERROR: what the link reports through AER (R472). -/
def execHostError (e : HostErr) (s : State) : Host.Outcome State Fault Refusal :=
  occur (fun s =>
    let s := { s with aer := s.aer ++ [e] }
    match e with
    | .corrected => countCorrected .host 1 s
    | .retrained w => addRecord { code := fcHostError, sev := 0, mkind := 8 }
        (if [1, 2, 4, 8, 16].contains w then { s with hostWidth := w } else s)
    | .internal => s) s

/-- HOST_LINK_DOWN (R473). -/
def execHostLinkDown (s : State) : Host.Outcome State Fault Refusal :=
  occur (fun s => if s.hostUp then { s with hostUp := false, hostDropped := false } else s) s

/-- HOST_LINK_RETURN: device state is kept; lines that the host cached are no longer coherent (R473). -/
def execHostLinkReturn (s : State) : Host.Outcome State Fault Refusal :=
  occur (fun s => if s.hostUp then s else { s with hostUp := true, hostLines := [], backInval := [] }) s

/-- A line that the host holds no more: the device write that waits for it can be applied (R127). -/
def hostGaveUp (line : Nat) (s : State) : State :=
  { s with hostLines := s.hostLines.filter (fun l => l != line), backInval := s.backInval.filter (fun x => x.1 != line) }

/-- Whether a back-invalidation of a line has gone unanswered for 2^24 ticks (R473). -/
def invalidationLate (s : State) (line : Nat) : Bool := s.backInval.any (fun x => x.1 == line && decide (x.2 + 2 ^ 24 ≤ s.tick))

/-- BACK_INVALIDATE_TIMEOUT: treated as done, with a record (R473). -/
def execBackInvalidateTimeout (ia : Nat) (s : State) : Host.Outcome State Fault Refusal :=
  occur (fun s =>
    if invalidationLate s (lineOf ia) then
      addRecord { code := fcHostError, sev := 1, mkind := 8, addr := BitVec.ofNat 64 (lineOf ia) } (hostGaveUp (lineOf ia) s)
    else s) s

/-- BACK_INVALIDATE_RESPONSE (R127). -/
def execBackInvalidateResponse (ia : Nat) (s : State) : Host.Outcome State Fault Refusal :=
  occur (fun s => if s.backInval.any (fun x => x.1 == lineOf ia) then hostGaveUp (lineOf ia) s else s) s

end Sys2Proof.Machine
end

