-- ==== Sys2Proof/Machine/Dispatch.lean ====
section
/-! DEFINITION. What each instruction and event does: one arm per constructor. -/

namespace Sys2Proof.Machine

def exec (i : Instr) (s : State) : Host.Outcome State Fault Refusal :=
  match i with
  | .nop f => Sys2Proof.Machine.execNop f s
  | .li f => Sys2Proof.Machine.execLi f s
  | .mov f => Sys2Proof.Machine.execMov f s
  | .add f => Sys2Proof.Machine.execAdd f s
  | .addi f => Sys2Proof.Machine.execAddi f s
  | .sub f => Sys2Proof.Machine.execSub f s
  | .mul f => Sys2Proof.Machine.execMul f s
  | .mulh f => Sys2Proof.Machine.execMulh f s
  | .div f => Sys2Proof.Machine.execDiv f s
  | .rem f => Sys2Proof.Machine.execRem f s
  | .and f => Sys2Proof.Machine.execAnd f s
  | .or f => Sys2Proof.Machine.execOr f s
  | .xor f => Sys2Proof.Machine.execXor f s
  | .andn f => Sys2Proof.Machine.execAndn f s
  | .shl f => Sys2Proof.Machine.execShl f s
  | .shr f => Sys2Proof.Machine.execShr f s
  | .sar f => Sys2Proof.Machine.execSar f s
  | .rot f => Sys2Proof.Machine.execRot f s
  | .clz f => Sys2Proof.Machine.execClz f s
  | .popc f => Sys2Proof.Machine.execPopc f s
  | .bext f => Sys2Proof.Machine.execBext f s
  | .bdep f => Sys2Proof.Machine.execBdep f s
  | .min f => Sys2Proof.Machine.execMin f s
  | .max f => Sys2Proof.Machine.execMax f s
  | .madd f => Sys2Proof.Machine.execMadd f s
  | .cmp f => Sys2Proof.Machine.execCmp f s
  | .sel f => Sys2Proof.Machine.execSel f s
  | .fop f => Sys2Proof.Machine.execFop f s
  | .fcvt f => Sys2Proof.Machine.execFcvt f s
  | .fcmp f => Sys2Proof.Machine.execFcmp f s
  | .plog f => Sys2Proof.Machine.execPlog f s
  | .br f => Sys2Proof.Machine.execBr f s
  | .brc f => Sys2Proof.Machine.execBrc f s
  | .call f => Sys2Proof.Machine.execCall f s
  | .ret f => Sys2Proof.Machine.execRet f s
  | .loop f => Sys2Proof.Machine.execLoop f s
  | .qtry f => Sys2Proof.Machine.execQtry f s
  | .qtryPush f => Sys2Proof.Machine.execQtryPush f s
  | .qcnt f => Sys2Proof.Machine.execQcnt f s
  | .qpeek f => Sys2Proof.Machine.execQpeek f s
  | .ssig f => Sys2Proof.Machine.execSsig f s
  | .swait f => Sys2Proof.Machine.execSwait f s
  | .stry f => Sys2Proof.Machine.execStry f s
  | .fence f => Sys2Proof.Machine.execFence f s
  | .ctlr f => Sys2Proof.Machine.execCtlr f s
  | .ctlw f => Sys2Proof.Machine.execCtlw f s
  | .trap f => Sys2Proof.Machine.execTrap f s
  | .bkpt f => Sys2Proof.Machine.execBkpt f s
  | .stop f => Sys2Proof.Machine.execStop f s
  | .gstart f => Sys2Proof.Machine.execGstart f s
  | .gpatch f => Sys2Proof.Machine.execGpatch f s
  | .gquery f => Sys2Proof.Machine.execGquery f s
  | .gjoin f => Sys2Proof.Machine.execGjoin f s
  | .gleave f => Sys2Proof.Machine.execGleave f s
  | .gmemb f => Sys2Proof.Machine.execGmemb f s
  | .gbar f => Sys2Proof.Machine.execGbar f s
  | .gred f => Sys2Proof.Machine.execGred f s
  | .gbcast f => Sys2Proof.Machine.execGbcast f s
  | .tspawn f => Sys2Proof.Machine.execTspawn f s
  | .renq f => Sys2Proof.Machine.execRenq f s
  | .rsig f => Sys2Proof.Machine.execRsig f s
  | .bind f => Sys2Proof.Machine.execBind f s
  | .unbind f => Sys2Proof.Machine.execUnbind f s
  | .acq f => Sys2Proof.Machine.execAcq f s
  | .rel f => Sys2Proof.Machine.execRel f s
  | .xpbgo f => Sys2Proof.Machine.execXpbgo f s
  | .fmtend f => Sys2Proof.Machine.execFmtend f s
  | .sleep f => Sys2Proof.Machine.execSleep f s
  | .tickwait f => Sys2Proof.Machine.execTickwait f s
  | .speedq f => Sys2Proof.Machine.execSpeedq f s
  | .evmask f => Sys2Proof.Machine.execEvmask f s
  | .noderel f => Sys2Proof.Machine.execNoderel f s
  | .stragq f => Sys2Proof.Machine.execStragq f s
  | .ld f => Sys2Proof.Machine.execLd f s
  | .ldacq f => Sys2Proof.Machine.execLdacq f s
  | .ldv f => Sys2Proof.Machine.execLdv f s
  | .ldvs f => Sys2Proof.Machine.execLdvs f s
  | .gath f => Sys2Proof.Machine.execGath f s
  | .pref f => Sys2Proof.Machine.execPref f s
  | .rld f => Sys2Proof.Machine.execRld f s
  | .rldv f => Sys2Proof.Machine.execRldv f s
  | .stash f => Sys2Proof.Machine.execStash f s
  | .unstash f => Sys2Proof.Machine.execUnstash f s
  | .discard f => Sys2Proof.Machine.execDiscard f s
  | .cpygo f => Sys2Proof.Machine.execCpygo f s
  | .cpymc f => Sys2Proof.Machine.execCpymc f s
  | .lgo f => Sys2Proof.Machine.execLgo f s
  | .lhalt f => Sys2Proof.Machine.execLhalt f s
  | .ringset f => Sys2Proof.Machine.execRingset f s
  | .ringput f => Sys2Proof.Machine.execRingput f s
  | .ringq f => Sys2Proof.Machine.execRingq f s
  | .winq f => Sys2Proof.Machine.execWinq f s
  | .plhint f => Sys2Proof.Machine.execPlhint f s
  | .pgstate f => Sys2Proof.Machine.execPgstate f s
  | .bchk f => Sys2Proof.Machine.execBchk f s
  | .xlatq f => Sys2Proof.Machine.execXlatq f s
  | .lstat f => Sys2Proof.Machine.execLstat f s
  | .vadd f => Sys2Proof.Machine.execVadd f s
  | .vsub f => Sys2Proof.Machine.execVsub f s
  | .vmul f => Sys2Proof.Machine.execVmul f s
  | .vfma f => Sys2Proof.Machine.execVfma f s
  | .vfms f => Sys2Proof.Machine.execVfms f s
  | .vneg f => Sys2Proof.Machine.execVneg f s
  | .vabs f => Sys2Proof.Machine.execVabs f s
  | .vmin f => Sys2Proof.Machine.execVmin f s
  | .vmax f => Sys2Proof.Machine.execVmax f s
  | .vdiv f => Sys2Proof.Machine.execVdiv f s
  | .vsqrt f => Sys2Proof.Machine.execVsqrt f s
  | .vrcp f => Sys2Proof.Machine.execVrcp f s
  | .vrsq f => Sys2Proof.Machine.execVrsq f s
  | .vcmp f => Sys2Proof.Machine.execVcmp f s
  | .vsel f => Sys2Proof.Machine.execVsel f s
  | .vand f => Sys2Proof.Machine.execVand f s
  | .vor f => Sys2Proof.Machine.execVor f s
  | .vxor f => Sys2Proof.Machine.execVxor f s
  | .vandn f => Sys2Proof.Machine.execVandn f s
  | .vshl f => Sys2Proof.Machine.execVshl f s
  | .vshr f => Sys2Proof.Machine.execVshr f s
  | .vsar f => Sys2Proof.Machine.execVsar f s
  | .vfshl f => Sys2Proof.Machine.execVfshl f s
  | .vfshr f => Sys2Proof.Machine.execVfshr f s
  | .vclz f => Sys2Proof.Machine.execVclz f s
  | .vpopc f => Sys2Proof.Machine.execVpopc f s
  | .vcvt f => Sys2Proof.Machine.execVcvt f s
  | .vsrnd f => Sys2Proof.Machine.execVsrnd f s
  | .vperm f => Sys2Proof.Machine.execVperm f s
  | .vshuf f => Sys2Proof.Machine.execVshuf f s
  | .vbcast f => Sys2Proof.Machine.execVbcast f s
  | .vextr f => Sys2Proof.Machine.execVextr f s
  | .vins f => Sys2Proof.Machine.execVins f s
  | .vredadd f => Sys2Proof.Machine.execVredadd f s
  | .vredmax f => Sys2Proof.Machine.execVredmax f s
  | .vredmin f => Sys2Proof.Machine.execVredmin f s
  | .vgmax f => Sys2Proof.Machine.execVgmax f s
  | .vgsum f => Sys2Proof.Machine.execVgsum f s
  | .vscan f => Sys2Proof.Machine.execVscan f s
  | .vcomp f => Sys2Proof.Machine.execVcomp f s
  | .vexpd f => Sys2Proof.Machine.execVexpd f s
  | .viota f => Sys2Proof.Machine.execViota f s
  | .vmov f => Sys2Proof.Machine.execVmov f s
  | .vli f => Sys2Proof.Machine.execVli f s
  | .vsfn f => Sys2Proof.Machine.execVsfn f s
  | .vsfl f => Sys2Proof.Machine.execVsfl f s
  | .vstat f => Sys2Proof.Machine.execVstat f s
  | .vmulh f => Sys2Proof.Machine.execVmulh f s
  | .vmadd f => Sys2Proof.Machine.execVmadd f s
  | .vcplx f => Sys2Proof.Machine.execVcplx f s
  | .vpcnt f => Sys2Proof.Machine.execVpcnt f s
  | .vplog f => Sys2Proof.Machine.execVplog f s
  | .vpfirst f => Sys2Proof.Machine.execVpfirst f s
  | .vslide f => Sys2Proof.Machine.execVslide f s
  | .vdot f => Sys2Proof.Machine.execVdot f s
  | .vclamp f => Sys2Proof.Machine.execVclamp f s
  | .mma f => Sys2Proof.Machine.execMma f s
  | .mmat f => Sys2Proof.Machine.execMmat f s
  | .aclr f => Sys2Proof.Machine.execAclr f s
  | .aget f => Sys2Proof.Machine.execAget f s
  | .aput f => Sys2Proof.Machine.execAput f s
  | .ascale f => Sys2Proof.Machine.execAscale f s
  | .drain f => Sys2Proof.Machine.execDrain f s
  | .rpop f => Sys2Proof.Machine.execRpop f s
  | .sigt f => Sys2Proof.Machine.execSigt f s
  | .sigchk f => Sys2Proof.Machine.execSigchk f s
  | .fftset f => Sys2Proof.Machine.execFftset f s
  | .fftrun f => Sys2Proof.Machine.execFftrun f s
  | .spmul f => Sys2Proof.Machine.execSpmul f s
  | .shtl f => Sys2Proof.Machine.execShtl f s
  | .blkt f => Sys2Proof.Machine.execBlkt f s
  | .fmtpop f => Sys2Proof.Machine.execFmtpop f s
  | .st f => Sys2Proof.Machine.execSt f s
  | .strel f => Sys2Proof.Machine.execStrel f s
  | .stv f => Sys2Proof.Machine.execStv f s
  | .stvs f => Sys2Proof.Machine.execStvs f s
  | .scat f => Sys2Proof.Machine.execScat f s
  | .amo f => Sys2Proof.Machine.execAmo f s
  | .amov f => Sys2Proof.Machine.execAmov f s
  | .red f => Sys2Proof.Machine.execRed f s
  | .redv f => Sys2Proof.Machine.execRedv f s
  | .skupd f => Sys2Proof.Machine.execSkupd f s
  | .skqry f => Sys2Proof.Machine.execSkqry f s
  | .skadd f => Sys2Proof.Machine.execSkadd f s
  | .skclr f => Sys2Proof.Machine.execSkclr f s
  | .uop f => Sys2Proof.Machine.execUop f s
  | .ucvt f => Sys2Proof.Machine.execUcvt f s
  | .nfchk f => Sys2Proof.Machine.execNfchk f s
  | .scommit f => Sys2Proof.Machine.execScommit f s
  | .sflush f => Sys2Proof.Machine.execSflush f s
  | .rstv f => Sys2Proof.Machine.execRstv f s
  | .skstat f => Sys2Proof.Machine.execSkstat f s
  | .zero f => Sys2Proof.Machine.execZero f s
  | .stnt f => Sys2Proof.Machine.execStnt f s
  | .rrput f => Sys2Proof.Machine.execRrput f s
  | .stls f => Sys2Proof.Machine.execStls f s
  | .unassignedOpcode a0 a1 => Sys2Proof.Machine.execUnassignedOpcode a0 a1 s
  | .sectionEntry a0 => Sys2Proof.Machine.execSectionEntry a0 s
  | .trapEntry a0 a1 a2 a3 => Sys2Proof.Machine.execTrapEntry a0 a1 a2 a3 s
  | .taskStart a0 => Sys2Proof.Machine.execTaskStart a0 s
  | .taskEnd a0 => Sys2Proof.Machine.execTaskEnd a0 s
  | .taskFreeze a0 a1 => Sys2Proof.Machine.execTaskFreeze a0 a1 s
  | .preemption a0 a1 => Sys2Proof.Machine.execPreemption a0 a1 s
  | .taskResume a0 => Sys2Proof.Machine.execTaskResume a0 s
  | .distributorPick => Sys2Proof.Machine.execDistributorPick s
  | .semaphoreWaitSatisfied a0 a1 a2 => Sys2Proof.Machine.execSemaphoreWaitSatisfied a0 a1 a2 s
  | .remoteSignalApply a0 => Sys2Proof.Machine.execRemoteSignalApply a0 s
  | .eventDeliver a0 => Sys2Proof.Machine.execEventDeliver a0 s
  | .ringSlotClaim a0 a1 => Sys2Proof.Machine.execRingSlotClaim a0 a1 s
  | .quayGroupTick a0 a1 a2 => Sys2Proof.Machine.execQuayGroupTick a0 a1 a2 s
  | .groupCollectiveComplete a0 a1 => Sys2Proof.Machine.execGroupCollectiveComplete a0 a1 s
  | .renqBlockArrival a0 => Sys2Proof.Machine.execRenqBlockArrival a0 s
  | .jobUnitRecordStart a0 => Sys2Proof.Machine.execJobUnitRecordStart a0 s
  | .commandBlockDone a0 => Sys2Proof.Machine.execCommandBlockDone a0 s
  | .copyApertureStart a0 a1 a2 => Sys2Proof.Machine.execCopyApertureStart a0 a1 a2 s
  | .bteJobStart a0 => Sys2Proof.Machine.execBteJobStart a0 s
  | .bteChunkComplete a0 => Sys2Proof.Machine.execBteChunkComplete a0 s
  | .engineJobComplete a0 => Sys2Proof.Machine.execEngineJobComplete a0 s
  | .completionRingWrite a0 => Sys2Proof.Machine.execCompletionRingWrite a0 s
  | .engineJobFail a0 a1 => Sys2Proof.Machine.execEngineJobFail a0 a1 s
  | .drainJobWrite a0 => Sys2Proof.Machine.execDrainJobWrite a0 s
  | .lighterProgramStart a0 => Sys2Proof.Machine.execLighterProgramStart a0 s
  | .lighterEnd a0 => Sys2Proof.Machine.execLighterEnd a0 s
  | .lighterBase a0 a1 => Sys2Proof.Machine.execLighterBase a0 a1 s
  | .lighterDim a0 a1 a2 a3 => Sys2Proof.Machine.execLighterDim a0 a1 a2 a3 s
  | .lighterPush a0 a1 a2 a3 a4 a5 => Sys2Proof.Machine.execLighterPush a0 a1 a2 a3 a4 a5 s
  | .lighterGather a0 a1 a2 a3 a4 a5 a6 => Sys2Proof.Machine.execLighterGather a0 a1 a2 a3 a4 a5 a6 s
  | .lighterLoop a0 a1 a2 a3 => Sys2Proof.Machine.execLighterLoop a0 a1 a2 a3 s
  | .lighterSig a0 a1 a2 => Sys2Proof.Machine.execLighterSig a0 a1 a2 s
  | .lighterWwait a0 a1 a2 a3 => Sys2Proof.Machine.execLighterWwait a0 a1 a2 a3 s
  | .lighterJump a0 a1 => Sys2Proof.Machine.execLighterJump a0 a1 s
  | .lighterIdx a0 a1 => Sys2Proof.Machine.execLighterIdx a0 a1 s
  | .lighterAdv a0 a1 => Sys2Proof.Machine.execLighterAdv a0 a1 s
  | .lighterPushFillComplete a0 => Sys2Proof.Machine.execLighterPushFillComplete a0 s
  | .lighterNextPageWalk a0 => Sys2Proof.Machine.execLighterNextPageWalk a0 s
  | .damaskMemberStart a0 a1 => Sys2Proof.Machine.execDamaskMemberStart a0 a1 s
  | .damaskBlockWrite a0 a1 => Sys2Proof.Machine.execDamaskBlockWrite a0 a1 s
  | .damaskPhaseComplete a0 a1 => Sys2Proof.Machine.execDamaskPhaseComplete a0 a1 s
  | .damaskSourceReadDone a0 a1 => Sys2Proof.Machine.execDamaskSourceReadDone a0 a1 s
  | .damaskMembershipComplete a0 a1 => Sys2Proof.Machine.execDamaskMembershipComplete a0 a1 s
  | .damaskSlotStart a0 a1 => Sys2Proof.Machine.execDamaskSlotStart a0 a1 s
  | .damaskMemberLost a0 a1 a2 => Sys2Proof.Machine.execDamaskMemberLost a0 a1 a2 s
  | .grresLoad a0 a1 => Sys2Proof.Machine.execGrresLoad a0 a1 s
  | .grresEvict a0 => Sys2Proof.Machine.execGrresEvict a0 s
  | .grstart a0 a1 => Sys2Proof.Machine.execGrstart a0 a1 s
  | .stepBegin a0 => Sys2Proof.Machine.execStepBegin a0 s
  | .stepEnd a0 => Sys2Proof.Machine.execStepEnd a0 s
  | .nodeComplete a0 a1 => Sys2Proof.Machine.execNodeComplete a0 a1 s
  | .homeSliceWrite a0 a1 a2 => Sys2Proof.Machine.execHomeSliceWrite a0 a1 a2 s
  | .homeSliceRead a0 a1 a2 => Sys2Proof.Machine.execHomeSliceRead a0 a1 a2 s
  | .homeSliceAtomic a0 a1 a2 a3 a4 a5 a6 => Sys2Proof.Machine.execHomeSliceAtomic a0 a1 a2 a3 a4 a5 a6 s
  | .acknowledgementArrival a0 => Sys2Proof.Machine.execAcknowledgementArrival a0 s
  | .stashFill a0 a1 => Sys2Proof.Machine.execStashFill a0 a1 s
  | .stashRecall a0 a1 => Sys2Proof.Machine.execStashRecall a0 a1 s
  | .guardGrant a0 => Sys2Proof.Machine.execGuardGrant a0 s
  | .gateReport a0 a1 a2 => Sys2Proof.Machine.execGateReport a0 a1 a2 s
  | .sketchUpdateApply a0 a1 a2 a3 => Sys2Proof.Machine.execSketchUpdateApply a0 a1 a2 a3 s
  | .rstvWriteApply a0 => Sys2Proof.Machine.execRstvWriteApply a0 s
  | .rrputFillApply a0 => Sys2Proof.Machine.execRrputFillApply a0 s
  | .migration a0 a1 a2 => Sys2Proof.Machine.execMigration a0 a1 a2 s
  | .translationFault a0 a1 a2 => Sys2Proof.Machine.execTranslationFault a0 a1 a2 s
  | .sidelogWaitEnter a0 => Sys2Proof.Machine.execSidelogWaitEnter a0 s
  | .sidelogEntryApply a0 a1 => Sys2Proof.Machine.execSidelogEntryApply a0 a1 s
  | .faultresRetry a0 a1 => Sys2Proof.Machine.execFaultresRetry a0 a1 s
  | .faultresAbort a0 a1 => Sys2Proof.Machine.execFaultresAbort a0 a1 s
  | .walkerInvalidate a0 a1 => Sys2Proof.Machine.execWalkerInvalidate a0 a1 s
  | .objectTableInvalidate a0 => Sys2Proof.Machine.execObjectTableInvalidate a0 s
  | .pkgnumWrite a0 => Sys2Proof.Machine.execPkgnumWrite a0 s
  | .pkgmapWrite a0 a1 => Sys2Proof.Machine.execPkgmapWrite a0 a1 s
  | .frozenResume a0 => Sys2Proof.Machine.execFrozenResume a0 s
  | .frozenRelease a0 => Sys2Proof.Machine.execFrozenRelease a0 s
  | .frozenJobSlotFree a0 a1 => Sys2Proof.Machine.execFrozenJobSlotFree a0 a1 s
  | .registerWrite a0 a1 => Sys2Proof.Machine.execRegisterWrite a0 a1 s
  | .errorRecordWrite => Sys2Proof.Machine.execErrorRecordWrite s
  | .correctedErrorThreshold a0 a1 => Sys2Proof.Machine.execCorrectedErrorThreshold a0 a1 s
  | .eccUncorrected a0 => Sys2Proof.Machine.execEccUncorrected a0 s
  | .patrolScrub a0 a1 a2 => Sys2Proof.Machine.execPatrolScrub a0 a1 a2 s
  | .deadlockTimeout a0 => Sys2Proof.Machine.execDeadlockTimeout a0 s
  | .stallTimeout a0 => Sys2Proof.Machine.execStallTimeout a0 s
  | .packageReset a0 => Sys2Proof.Machine.execPackageReset a0 s
  | .ageingMarginLow a0 a1 => Sys2Proof.Machine.execAgeingMarginLow a0 a1 s
  | .speedTableUpdate => Sys2Proof.Machine.execSpeedTableUpdate s
  | .checkpoint => Sys2Proof.Machine.execCheckpoint s
  | .checkpointResume => Sys2Proof.Machine.execCheckpointResume s
  | .flitDataReceive a0 a1 => Sys2Proof.Machine.execFlitDataReceive a0 a1 s
  | .keyMarkerReceive a0 a1 => Sys2Proof.Machine.execKeyMarkerReceive a0 a1 s
  | .flitAckReceive a0 a1 a2 => Sys2Proof.Machine.execFlitAckReceive a0 a1 a2 s
  | .timeSyncReceive a0 a1 a2 => Sys2Proof.Machine.execTimeSyncReceive a0 a1 a2 s
  | .keySlotLoad a0 a1 a2 a3 a4 => Sys2Proof.Machine.execKeySlotLoad a0 a1 a2 a3 a4 s
  | .circuitRekey a0 a1 a2 a3 a4 a5 => Sys2Proof.Machine.execCircuitRekey a0 a1 a2 a3 a4 a5 s
  | .ctrExhaust a0 => Sys2Proof.Machine.execCtrExhaust a0 s
  | .circuitSetup a0 => Sys2Proof.Machine.execCircuitSetup a0 s
  | .circuitSetupAck a0 a1 => Sys2Proof.Machine.execCircuitSetupAck a0 a1 s
  | .circuitSetupNack a0 => Sys2Proof.Machine.execCircuitSetupNack a0 s
  | .circuitSetupRetry a0 => Sys2Proof.Machine.execCircuitSetupRetry a0 s
  | .circuitTear a0 => Sys2Proof.Machine.execCircuitTear a0 s
  | .circuitIdleTimeout a0 => Sys2Proof.Machine.execCircuitIdleTimeout a0 s
  | .circuitFail a0 => Sys2Proof.Machine.execCircuitFail a0 s
  | .laneLockLoss a0 a1 => Sys2Proof.Machine.execLaneLockLoss a0 a1 s
  | .mcuWatchdog a0 => Sys2Proof.Machine.execMcuWatchdog a0 s
  | .drift a0 a1 => Sys2Proof.Machine.execDrift a0 a1 s
  | .dieLink a0 => Sys2Proof.Machine.execDieLink a0 s
  | .hdmHostAccess a0 => Sys2Proof.Machine.execHdmHostAccess a0 s
  | .hostApertureAccess a0 a1 a2 a3 => Sys2Proof.Machine.execHostApertureAccess a0 a1 a2 a3 s
  | .hostError a0 => Sys2Proof.Machine.execHostError a0 s
  | .hostLinkDown => Sys2Proof.Machine.execHostLinkDown s
  | .backInvalidateTimeout a0 => Sys2Proof.Machine.execBackInvalidateTimeout a0 s
  | .tickTimeout a0 => Sys2Proof.Machine.execTickTimeout a0 s
  | .loadReplyArrival a0 => Sys2Proof.Machine.execLoadReplyArrival a0 s
  | .backInvalidateResponse a0 => Sys2Proof.Machine.execBackInvalidateResponse a0 s
  | .hostLinkReturn => Sys2Proof.Machine.execHostLinkReturn s
  | .powerStateChange a0 => Sys2Proof.Machine.execPowerStateChange a0 s
  | .powerBudgetLimit a0 => Sys2Proof.Machine.execPowerBudgetLimit a0 s
  | .haltNotice => Sys2Proof.Machine.execHaltNotice s
  | .hardwareFailureFence a0 => Sys2Proof.Machine.execHardwareFailureFence a0 s
  | .timeSyncSend a0 => Sys2Proof.Machine.execTimeSyncSend a0 s

end Sys2Proof.Machine
end

