-- ==== Sys2Proof/Machine/Enable.lean ====
section
/-! DEFINITION. Which event of the engines, of the memory side and of the Quay die comes about next when it is
their turn, and what a package that is stopped, halted or without power still does (log 5, log 6, log 14). -/

namespace Sys2Proof.Machine

/-- An event as it happens. -/
abbrev Happening := State → Host.Outcome State Fault Refusal

/-- A happening that may come about now, or nothing. -/
def due (c : Bool) (h : Happening) : List Happening := if c then [h] else []

/-- Whether bring-up is complete (R379, Table 16.1). -/
def State.ready (s : State) : Bool := s.bootst.getLsbD 3

/-- Whether the package runs: brought up, not stopped with SEV 3, and powered (R379, R383, R411). -/
def State.running (s : State) : Bool := s.ready && !s.stopped && s.bootFail == 0 && !s.asleep

/-- Whether the current task's issue cycle of this round of turns is withheld while power is limited: of its rounds the
share that is in proportion to its core's weight, at a rate the controller chooses (R383; log 5). -/
def State.withheld (s : State) : Bool :=
  s.limited &&
  (let rate := Config.freeNat 6 0 0 % 256
   let w := s.weights.getD s.task.core 0
   let all := 256 * (1 + s.weights.foldl max 0)
   let c := s.task.cycles.toNat / (5 * max 1 ((allTasks s).countP (fun t => t.status == .resident)))
   decide (c * w * rate / all < (c + 1) * w * rate / all))

/-- Whether a package that does not run still answers an event: a reset; a change of power and BAR0 reads before bring-up
ends (R379); the management registers, the host's accesses and the error ring when it is stopped (R408, R472); the link
itself (R473). -/
def answered (s : State) : Instr → Bool
  | .packageReset _ => true
  | .powerStateChange _ => s.bootFail == 0
  | .hdmHostAccess a => s.power != .p3 && (ofBar0 a || (s.ready && !s.asleep))
  | .registerWrite _ _ => s.ready && s.bootFail == 0 && !s.asleep
  | .errorRecordWrite => s.ready && !s.asleep
  | .hostLinkDown => true
  | .hostLinkReturn => true
  | .hostError _ => s.power != .p3
  | _ => s.running

/-- The collectives' blocks that move next: of each the first that may (R339). -/
def blockOf (s : State) (c : DColl) : Option DamaskBlock :=
  c.members.findSome? (fun x => c.members.findSome? (fun y =>
    if x.started ∧ y.started then
      let p := xpbOf x.xpb.toNat
      (p.blocks (x.rank - p.rank0) (y.rank - p.rank0)).find? (blockDue s c)
    else none))

/-- Whether a Damask block is to claim a slot of a task's ring, which it does before a remote put (R334). -/
def damaskClaims (s : State) (tid : Nat) (ring : Fin 8) : Bool :=
  s.collectives.any (fun c => c.members.any (fun m =>
    m.tid == tid && (xpbOf m.xpb.toNat).dstRing && (xpbOf m.xpb.toNat).ring == ring
      && (blockOf s c).any (fun b => b.dst == m.rank && m.slots.all (fun x => x.2 != b.phase))))

/-- Whether a remote put may claim its slot now: no other filler of the ring waits (R334). -/
def putTurn (s : State) (m : RrputMsg) : Bool :=
  match rankTask s m.group m.rank.toNat with
  | some t => !claimsFirst (s.homeView (s.pkgOf t.tid * 2 ^ 47)) t.tid m.ring 66 && !damaskClaims s t.tid m.ring
  | none => true

/-- What the head of a C-stream send queue does (R365). -/
def sendCDue (t : Task) : List Happening :=
  match t.sendC with
  | .signal m :: _ => [execRemoteSignalApply m]
  | .block m :: _ => [execRenqBlockArrival m]
  | .arrival p :: _ => due (t.status == .resident) (occur (asTask t.tid .c (finishArrival p)))
  | .start _ _ _ :: _ => [occur (sendStart t.tid)]
  | [] => []

/-- What the head of an S-stream send queue does (R365). -/
def sendSDue (s : State) (t : Task) : List Happening :=
  match t.sendS with
  | .rstv _ m :: _ => [execRstvWriteApply m]
  | .rrput m :: _ => due (putTurn s m) (execRrputFillApply m)
  | [] => []

/-- The happenings of one task: acknowledgements, replies, sends, its log, its job unit, its timeouts and its end. -/
def taskDue (s : State) (t : Task) : List Happening :=
  let id := t.tid
  due (t.acks != []) (execAcknowledgementArrival id)
  ++ due (t.rlds.any (fun r => !r.ready)) (execLoadReplyArrival id)
  ++ sendCDue t
  ++ sendSDue s t
  ++ due (!t.heldEvents.isEmpty && decide (t.q15.length < 64)) (execEventDeliver id)
  ++ due (t.logWait != [] && decide (t.sidelog.length < 64)) (execSidelogWaitEnter id)
  ++ (match t.sidelog.find? (fun e => (t.replayable e.seq).isSome && !isHeld s e.page (.replay id)) with
      | some e => [execSidelogEntryApply id e.seq]
      | none => [])
  ++ due (t.status == .resident && ((t.block.map (fun b => b.records != [])).getD (t.inbound != []))) (execJobUnitRecordStart id)
  ++ due ((t.block.map (fun b => b.records == [] && b.open_ == 0)).getD false) (execCommandBlockDone id)
  ++ due ((t.deadline.map (fun d => decide (d ≤ s.tick))).getD false && t.c.wait == some .time) (execTickTimeout id)
  ++ due (t.status == .resident && t.deadlocked && decide (4096 ≤ t.dlCycles)) (execDeadlockTimeout id)
  ++ due (stallDue s t) (execStallTimeout id)
  ++ due (mayEnd t) (execTaskEnd id)

/-- Whether a unit's held access, or one that waits for the host, keeps it from going on. -/
def unitFree (s : State) (by_ : Requester) : Bool := !unitStuck s by_

/-- The happenings of one BTE channel. -/
def chanDue (s : State) (n : Fin 32) : List Happening :=
  let c := s.chans[n]
  let free := unitFree s (.bte n)
  due (s.aperture.any (fun x => x.1 == n.val) && decide (c.queue.length < 16)) (occur (takeStart n))
  ++ due (bteDue s n) (execBteJobStart n)
  ++ due (c.held.isSome && free) (execCompletionRingWrite (.bte n))
  ++ (match c.run with
      | some r =>
        if c.held.isSome then []
        else if r.chunk < r.nChunks then
          due free (if r.job.drain.isSome then execDrainJobWrite n else execBteChunkComplete n)
        else [execEngineJobComplete (.bte n)]
      | none => [])

/-- An LGO that waits at its Lighter is taken once the queue has room (R330). -/
def takeLgo (n : Fin 32) (s : State) : State :=
  match s.lgos.find? (fun x => x.1 == n.val) with
  | some x =>
    if s.lighters[n].queue.length < 4 then
      modLighter n (fun c => { c with queue := c.queue ++ [x.2] }) { s with lgos := s.lgos.erase x }
    else s
  | none => s

/-- The happenings of one Lighter. -/
def lighterDues (s : State) (n : Fin 32) : List Happening :=
  let c := s.lighters[n]
  let free := unitFree s (.lighter n)
  due (s.lgos.any (fun x => x.1 == n.val) && decide (c.queue.length < 4)) (occur (takeLgo n))
  ++ due (lighterDue s n) (execLighterProgramStart n)
  ++ due (c.held.isSome && free) (execCompletionRingWrite (.lighter n))
  ++ due (queuedHalt s n).isSome (execEngineJobComplete (.lighter n))
  ++ (match c.run with
      | some r =>
        if c.held.isSome then []
        else due ((lighterRuns s n).isSome && free) (lighterTurn n)
          ++ due (r.flight != []) (execLighterPushFillComplete n)
          ++ due ((lighterRuns s n).isSome && r.wantsPage.isSome) (execLighterNextPageWalk n)
          ++ due (r.halted && r.flight == [] && r.slot.isNone) (execEngineJobComplete (.lighter n))
      | none => [])

/-- The happenings of one Damask collective. -/
def damaskDue (s : State) (c : DColl) : List Happening :=
  c.members.flatMap (fun m =>
    due (memberReady s c.key.group m && c.ended.isNone) (execDamaskMemberStart c.key m.tid)
    ++ due (phaseDue c m) (execDamaskPhaseComplete c.key m.tid)
    ++ due (sourceDue c m) (execDamaskSourceReadDone c.key m.tid)
    ++ due (memberDone c m) (execDamaskMembershipComplete c.key m.tid))
  ++ (match blockOf s c with
      | some b => [execDamaskBlockWrite c.key b]
      | none => [])
  ++ (match slotDue s c with
      | some q => [execDamaskSlotStart c.key (circuitsUp s c q)]
      | none => [])
  ++ due (circuitsWanted s c != []) (occur (wantCircuit c))

/-- A graph load that waited for a page goes on (R349). -/
def resumeLoad (slot : Nat) (s : State) : State :=
  match (getSlot s slot).loading with
  | some obj => loadGraph slot obj s
  | none => s

/-- The happenings of one residence slot. -/
def slotDues (s : State) (slot : Fin 64) : List Happening :=
  let g := s.gslots[slot]
  due (g.loading.isSome && !unitStuck s .quay) (occur (resumeLoad slot.val))
  ++ due (g.running.isSome && !g.inStep && !g.failed && !s.halted) (execStepBegin slot)
  ++ ((List.range g.nodes.length).zip g.nodes).flatMap (fun (x : Nat × NodeSt) => due (nodeDone g x.2) (execNodeComplete slot x.1))
  ++ due (stepDone s slot.val) (execStepEnd slot)

/-- The pre-emptions that are due: for the best node that waits for a core, and of a victim chosen before that Damask no
longer holds (R347, R358). -/
def preemptDues (s : State) : List Happening :=
  let nodes := s.victims.map (fun v => (v.1, v.2.1)) ++ ((dealable s).head?.map (fun x => (x.1, x.2.1))).toList
  match nodes.find? (fun x => match preemptDue s x.1 x.2 with
      | some t => (pendingVictim s x.1 x.2).isNone || !damaskHolds s t.tid
      | none => false) with
  | some x => [execPreemption x.1 x.2]
  | none => []

/-- The happenings of the work distributor and of the cores' queues (R21, R49, R357, R358). -/
def distributorDue (s : State) : List Happening :=
  due (nextPick s).isSome execDistributorPick
  ++ preemptDues s
  ++ (List.finRange 192).flatMap (fun n => match s.cores[n].queue with
      | .tile _ _ _ :: _ => due (coreIdle s n.val) (execTaskStart n.val)
      | .resume _ _ _ :: _ => due (coreIdle s n.val) (execTaskResume n.val)
      | [] => [])

/-- The happenings of circuits: set-up and retries, flits on their way, acknowledgements, time sync, exhausted counters and
idle circuits (R369 to R372, R374, R465). -/
def circuitDue (s : State) (c : Circuit) : List Happening :=
  due (c.state == .setup && s.hasPeer c.far.toNat) (occur (peerAck c.id))
  ++ due (c.state == .waiting && decide (c.retryAt ≤ s.tick)) (execCircuitSetupRetry c.id)
  ++ due (c.state == .up && c.tx.wire != []) (occur (flitArrives c.id))
  ++ due c.ackDue (occur (sendAck c.id))
  ++ due (c.state == .up && c.tx.open_ && decide (c.syncAt + 2 ^ 20 ≤ s.tick)) (execTimeSyncSend c.id)
  ++ due (decide (ctrStop ≤ c.tx.ctr) && !c.tx.stopped) (execCtrExhaust c.id)
  ++ due (c.state == .up && decide (s.idleTime.toNat ≤ c.idle) && !slotReserved s c.far.toNat && !s.engines[c.engine].driftOff)
      (execCircuitIdleTimeout c.id)

/-- The happenings of the groups and guards kept by this package (R121, R191). -/
def quayDue (s : State) : List Happening :=
  (s.groups.flatMap (fun g => (g.colls.filter (fun c => c.full)).map (fun c => execGroupCollectiveComplete g.ia c.kind)))
  ++ s.guardQ.map (fun q => execGuardGrant q.ia)

/-- The happenings of a running package, apart from those of the fabric. -/
def runningDue (s : State) : List Happening :=
  (allTasks s).flatMap (taskDue s)
  ++ (List.finRange 32).flatMap (chanDue s)
  ++ (List.finRange 32).flatMap (lighterDues s)
  ++ s.damask.flatMap (damaskDue s)
  ++ quayDue s
  ++ (List.finRange 64).flatMap (slotDues s)
  ++ distributorDue s

/-- Whether a task's pre-emption is delayed, so that the task goes on in a halted package (R47, R384). -/
def State.delayed (s : State) (t : Task) : Bool := t.status == .resident && damaskHolds s t.tid

/-- The happenings of a halted package: tasks whose Damask memberships delay their saving go on with their engines' jobs;
then they are saved, and a checkpoint is finished (R47, R384, R414). -/
def haltedDue (s : State) : List Happening :=
  let ours (tid : Nat) : Bool := (allTasks s).any (fun t => t.tid == tid && s.delayed t)
  ((allTasks s).filter s.delayed).flatMap (taskDue s)
  ++ ((List.finRange 32).filter (fun n => (s.chans[n].run.bind (fun r => r.job.tid)).any ours
      || (s.chans[n].run.isNone && (s.chans[n].queue.head?.bind (fun j => j.tid)).any ours))).flatMap (chanDue s)
  ++ ((List.finRange 32).filter (fun n => s.lighters[n].run.any (fun r => ours r.prog.tid)
      || (s.lighters[n].run.isNone && s.lighters[n].queue.head?.any (fun p => ours p.tid)))).flatMap (lighterDues s)
  ++ s.damask.flatMap (damaskDue s)
  ++ quayDue s
  ++ ((allTasks s).filter (fun t => t.status == .resident && !damaskHolds s t.tid)).map (fun t => occur (quiesceTask t.tid))
  ++ due (s.ckpt && s.quiet && s.migrating == []) (occur finishCheckpoint)

/-- Whether a record that the management controller holds can be written to its ring (R408). -/
def recordDue (s : State) : List Happening := due (s.errHeld != [] && s.errLog2 != 0 && !unitStuck s .quay) execErrorRecordWrite

/-- Every happening that may come about now. -/
def allDue (s : State) : List Happening :=
  (if s.halted then haltedDue s else runningDue s)
  ++ recordDue s
  ++ s.circuits.flatMap (circuitDue s)
  ++ due (s.demand != []) (occur serveDemand)
  ++ s.migrating.map (fun m => execMigration m.region m.die m.frame)
  ++ due (s.hostPend != []) (occur retryHost)
  ++ (s.backInval.filter (fun x => invalidationLate s x.1)).map (fun x => execBackInvalidateTimeout x.1)
  ++ due (s.pkg != 0 && s.synced && decide (2 ^ 24 ≤ s.syncAge)) (execDrift 0 .syncLost)

/-- The happening whose turn it is: they take turns by package time, so that none waits for ever (log 5); a package that
is stopped writes its records only (R408, R411). -/
def pickEvent (s : State) : Option Happening :=
  let l := if s.running then allDue s else if answered s .errorRecordWrite then recordDue s else []
  if l.isEmpty then none else l[s.tick / 5 % l.length]?

end Sys2Proof.Machine
end

