-- ==== Sys2Proof/Machine/Step.lean ====
section
/-! DEFINITION. One step of the machine: the next event of the agenda, or the turn of a stream, which
enters a section or fetches, decodes and executes one word, or the turn of the engines (log 5, log 6). -/

namespace Sys2Proof.Machine

/-- The turn passes to the next package that is modelled (log 5). -/
def nextPack (s : State) : State :=
  match s.peers with
  | [] => s
  | p :: ps => { s with toPack := p, peers := ps ++ [s.toPack] }

/-- The outcome of a step with what happens around it: time passes in the package, the turn when `turn` is set, and the
turn of the package. -/
def around (turn : Bool) (o : Host.Outcome State Fault Refusal) : Host.Outcome State Fault Refusal :=
  match o with
  | .next s => .next (nextPack (advanceTime (if turn then nextTurn s else s)))
  | .fault f => .fault f
  | .refused r => .refused r

/-- Whether the current stream has a turn: its task is on its core, it has not finished, the package is not halted but for
a task whose saving Damask delays, and the issue cycle is not withheld (R47, R383, R384). -/
def State.streamTurn (s : State) : Bool :=
  s.task.status == .resident && !s.strm.fin && (!s.halted || s.delayed s.task) && !s.withheld

/-- One turn of the current stream. -/
def runStream (s : State) : Host.Outcome State Fault Refusal :=
  if ¬ s.streamTurn then .next s
  else if s.strm.arrive ≠ .inSection then .next (enterSection s)
  else
    match fetchUnits s s.strm.pc 3 with
    | .trap c i va => .next (takeTrapAt c 0 i va va s)
    | .hold d p ia => .next (holdFetch d p ia s)
    | .wait c => .next (waitFetch c s)
    | .bytes bs =>
      match decodeBytes bs with
      | .ok (i, _) => exec i s
      | .error e => .next (formatTrap bs e s)

/-- One turn of the engines and of the Quay die. -/
def runBackground (s : State) : Host.Outcome State Fault Refusal :=
  match pickEvent s with
  | some h => h s
  | none => .next s

/-- One step.  A package that does not run answers only what R379, R383, R408 and R472 let it answer. -/
def step (s : State) : Host.Outcome State Fault Refusal :=
  match s.agenda with
  | i :: rest => around false (if answered s i then exec i { s with agenda := rest } else .next { s with agenda := rest })
  | [] =>
    if ¬ s.running then around false (runBackground s)
    else if s.bg then around true (runBackground s)
    else around true (runStream s)

/-- The stream that issues an opcode (Table 21.1): the C stream where any may. -/
def streamFor (op : Nat) : Stream :=
  if 0x60 ≤ op ∧ op < 0x78 then .a
  else if (0x80 ≤ op ∧ op < 0xB8) ∨ (0xC0 ≤ op ∧ op < 0xD0) then .x
  else if 0xD0 ≤ op ∧ op < 0xE8 then .s
  else .c

/-- The keys of the 12 bytes of the word a stream stands at, where its fetch succeeds. -/
def wordKeys (s : State) : Option (List Nat) :=
  let unit (va : BitVec 64) : Option (List Nat) :=
    match s.windows8.find? (fun x => x.x && x.covers va.toNat) with
    | none => none
    | some x =>
      let ia := (va.toNat + x.offset.toNat * 4096) % 2 ^ 58
      match fetchUnit s va, locate s ia with
      | .bytes _, .stack e key => if discarded e then none else some (span key 4)
      | .bytes _, .flat key => some (span key 4)
      | _, _ => none
  match unit s.strm.pc, unit (s.strm.pc + 4), unit (s.strm.pc + 8) with
  | some a, some b, some c => some (a ++ b ++ c)
  | _, _, _ => none

/-- The state in which a stream of a running task stands at a word: the agenda empty, the package brought up and
running, the task resident, the stream unfinished and inside a section that holds its pc (log 4). -/
def readyToFetch (st : Stream) (s : State) : State :=
  let s := { s with
    agenda := [], bg := false, cur := st, stopped := false, halted := false, limited := false, power := .p0
    bootst := 0xE
    task := { s.task with status := .resident } }
  modStrm (fun r =>
    if r.arrive = .inSection then { r with fin := false }
    else { r with fin := false, arrive := .inSection, sec := ⟨r.pc - 12, 0, 4095, false, false⟩ }) s

/-- A page of code at VA 0 to 0xFFFF: window w0, home map, walker entry, and the stream at VA 12 (log 4). -/
def mapCode (s : State) : State :=
  let s := { s with
    task := { s.task with win := s.task.win.set 0 { Window.init with limit := 15, v := true, x := true } }
    homeMap := putKey 0 0#4 s.homeMap
    walks := ⟨0, 0, 0, 0x10000, false, false⟩ :: s.walks
    pkgnum := 0
    migrating := s.migrating.filter (fun m => m.region != 0)
    held := s.held.filter (fun h => h.page != 0)
    poison := s.poison.filter (fun k => k != 1 && k != 2) }
  modStrm (fun r => { r with pc := 12, sec := ⟨0, 0, 4095, false, false⟩ }) s

/-- The state with an instruction stored where step fetches its next one (log 4). -/
def State.withFetchWord (s : State) (nbits w : Nat) : State :=
  let word := w % 2 ^ nbits
  let s := readyToFetch (streamFor (word / 2 ^ 88 % 256)) s
  match wordKeys s with
  | some ks => { s with mem := writeCells s.mem (ks.zip (natBytes 12 word)) }
  | none =>
    let s := mapCode s
    { s with mem := writeCells s.mem ((span 12 12).zip (natBytes 12 word)) }

end Sys2Proof.Machine
end

