-- ==== Sys2Proof/Safety.lean ====
section
/-! DEFINITION. What a safe run is, and the terms in which claims speak of a word: when it issues, when its operands
are there, what reading and writing its operands does. -/

namespace Sys2Proof

/-- A run of k steps that ends in a state. -/
def Safe (k : Nat) (s : Machine.State) : Prop :=
  match k with
  | 0 => True
  | k + 1 => ∃ s', Machine.step s = .next s' ∧ Safe k s'

end Sys2Proof

namespace Sys2Proof.Machine

/-- A word passes stages 2 to 5 of Table 21.4: its stream may issue it, no field rule is broken, and PRED holds. -/
def Issues (op : BitVec 8) (p : Pred) (check : State → Option (BitVec 32)) (s : State) : Prop :=
  issuedBy op s.cur = true ∧ check s = none ∧ predHolds p s = true

/-- Stage 6 of Table 21.4: the queues popped hold enough, and the queues pushed have room (R33). -/
def Ready (srcs dsts : List Operand) (s : State) : Prop :=
  (∀ q ∈ srcs.flatMap queueOf, (srcs.flatMap queueOf).count q ≤ s.task.queueCount q)
  ∧ ∀ q ∈ dsts.flatMap queueOf, s.task.queueFull q = false

/-- The state after a scalar destination has been written: a register, a predicate or a queue (R50, R51, R33). -/
def put (o : Operand) (v : BitVec 64) (s : State) : State :=
  match o with
  | .g n => writeG n v s
  | .p n => writeP n v s
  | .q n => modCur (fun t => t.pushQ n.val (v.setWidth 2048)) s
  | _ => s

/-- Operand B of a word with the ALU layout: IMM32, or what the B field holds once A has been read. -/
def valueB (f : RAlu) (s : State) : BitVec 64 := if f.immb then immInt f.imm else (took f.a s).peekSrc f.b

/-- The state after both sources of a word with the ALU layout have been read. -/
def tookAB (f : RAlu) (s : State) : State := if f.immb then took f.a s else took f.b (took f.a s)

/-- The word has written a result and raised its flags, and retires. -/
def aluDone (f : RAlu) (s : State) (r : BitVec 64 × FlagSet) : Host.Outcome State Fault Refusal :=
  .next (retire (put f.d r.1 (raiseS r.2 (tookAB f s))))

/-- The generator state the elements of a word draw from, and the state after it has advanced (R78). -/
def drawn (sel : Nat × Nat) (s : State) : BitVec 64 := if sel.1 = 4 then xsNext s.strm.seed else s.strm.seed
def advanced (sel : Nat × Nat) (s : State) : State :=
  if sel.1 = 4 then modStrm (fun r => { r with seed := xsNext s.strm.seed }) s else s

/-- Operand B of a floating-point word and its sign bit, once A has been read (R140). -/
def valueFB (f : RAlu) (s : State) : FVal × Bool :=
  let fm := floatFmt f.ty.toNat
  if f.immb then (immFloat fm f.imm, if fm.fb = 23 then f.imm.msb else (immFloat fm f.imm).neg)
  else
    let y := (took f.a s).peekSrc f.b
    (readF fm y, y.getLsbD (fm.width - 1))

/-- Control goes to a target that R29 accepts; a rejected one traps BRANCH_TARGET and changes nothing else. -/
def goTo (op : BitVec 8) (va : BitVec 64) (s t : State) : Host.Outcome State Fault Refusal :=
  if targetKind s.strm.sec va = .bad then .next (takeTrap fcBranchTarget op (va.setWidth 32) va s) else .next (jumpTo va t)

/-- The head of queue q delivered to D: an event of q15 goes to a register pair, a scalar element to every 64-bit
position of a vector register (R174, R34). -/
def delivered (q : Nat) (d : Operand) (s : State) : State :=
  match d with
  | .v n => if q = 12 then writeV n (s.task.headQ 12) s else writeV n (bcast64 ((s.task.headQ q).setWidth 64)) s
  | .g n =>
    if q = 15 then writeG (Fin.ofNat 32 (n.val + 1)) ((s.task.q15.headD 0).extractLsb' 64 64)
      (writeG n ((s.task.q15.headD 0).extractLsb' 0 64) s)
    else put d ((s.task.headQ q).setWidth 64) s
  | _ => put d ((s.task.headQ q).setWidth 64) s

/-- The amount of a semaphore word: the low 32 bits of A in the .reg form, else the field (R177). -/
def semCount (f : EForm) (field : Nat) (s : State) : Nat := if regForm f then (s.peekSrc f.a).toNat % 2 ^ 32 else field

/-- The state after a semaphore word has read A, where it does. -/
def semTook (f : EForm) (s : State) : State := if regForm f then took f.a s else s

/-- The wait a stream is served for: the one it already waits with, when the word names the same (R39). -/
def waitHeld (w : SemWait) (s : State) : SemWait :=
  match s.strm.semw with
  | some g => if g.k = w.k ∧ g.thr = w.thr ∧ g.consume = w.consume then g else w
  | none => w

/-- The state after a semaphore wait has been served in the stream's place: a consuming wait has subtracted. -/
def served (w : SemWait) (s : State) : State :=
  modStrm (fun r => { r with semw := none }) { s with task := s.task.serve w }

/-- The state after the current task's wait of a message, if it has one, has been served (R39). -/
def waitServed (w : Option SemWait) (s : State) : State :=
  match w with
  | some w => { s with task := s.task.serve w }
  | none => s

/-- The writes a word still waits for: those open when it first issued, or the list given, that are open now (R118). -/
def openStill (begin_ now : List Nat) (s : State) : List Nat := (s.strm.await.getD begin_).filter (fun n => now.contains n)

/-- The stream waits for these writes and no others (R118). -/
def awaiting (rest : List Nat) (s : State) : State := modStrm (fun r => { r with await := some rest }) s

/-- The values of sources read one after the other, each with the queue it pops, and the state after it (R33). -/
def readAll : List Operand → State → List (Option Nat × BitVec 64) × State
  | [], s => ([], s)
  | o :: os, s => (((queueOf o).head?, s.peekSrc o) :: (readAll os (took o s)).1, (readAll os (took o s)).2)

/-- The sources of a word that may wait after it has issued: those it keeps, or those it reads now and keeps (R33). -/
def keptSources (os : List Operand) (s : State) : List (BitVec 64) × State :=
  match s.strm.srcs with
  | some l => (l.map (·.2), s)
  | none => ((readAll os s).1.map (·.2), modStrm (fun r => { r with srcs := some (readAll os s).1 }) (readAll os s).2)

/-- A package that takes a request at once: this one, or one whose circuit is up and has room (R364, R369, R372). -/
def InReach (pkg : Nat) (s : State) : Prop :=
  pkg = s.pkg ∨ (s.present pkg = true ∧ s.circuitLost pkg = false ∧ s.circuitUp pkg = true ∧ s.canSend pkg = true)

/-- The state after a request to a package has set out. -/
def reachedOut (pkg : Nat) (s : State) : State := if pkg = s.pkg then s else sendFree pkg s

/-- A VA in a window names an object at an IA: it is aligned, the window takes all of it there with the right, and the
package that holds it is in reach and has there neither the device span nor the host aperture (R58, R183, R425, R442,
R443). -/
def NamesObject (win : Nat) (va : BitVec 64) (size align : Nat) (right : Right) (ia : Nat) (s : State) : Prop :=
  va.toNat % align = 0 ∧ translate (s.window win) va.toNat size right = .ok ia
  ∧ s.present (iaPkg ia) = true ∧ iaOff ia < deviceSpan ∧ InReach (iaPkg ia) s

/-- What a collective word, with the VA of its group and its operand B, puts into the send queue, from which it retires
(R191, R365; log 62). -/
def arrivedWith (kind : CollKind) (f : EForm) (va b : BitVec 64) (s : State) : State :=
  modCur (fun t => { t with sendC := t.sendC ++
    [.arrival ⟨kind, (translate (s.window f.sub.toNat) va.toNat 64 .a).toOption, va, f.sub.toNat, b, f.obj, f.ssem, f.sinc, s.strm.pc,
      waitOf f.wmode f.wsem f.wthr⟩] }) s

/-- The state after BASE and INDEX have been read, and the address they give (R143). -/
def accessT (f : MForm) (s : State) : State := took f.index (took f.base s)
def accessVa (f : MForm) (s : State) : BitVec 64 := mAddr f (s.peekSrc f.base) ((took f.base s).peekSrc f.index)

/-- The elements of width w that a source of a vector word gives (R221). -/
def elemsOf (w : Nat) (o : Operand) (s : State) : List Nat :=
  match o with
  | .v n => elems (s.readV n) w
  | .q n => if n.val = 12 then elems (s.task.headQ 12) w else List.replicate (2048 / w) ((s.peekSrc o).toNat % 2 ^ w)
  | o => List.replicate (2048 / w) ((s.peekSrc o).toNat % 2 ^ w)

/-- The elements of operand B, or of the immediate that stands for it, and the state after B has been read. -/
def elemsB (w : Nat) (f : VForm) (s : State) : List Nat :=
  if f.immb then List.replicate (2048 / w) (immElem f.ty.toNat f.imm % 2 ^ w) else elemsOf w f.b s
def tookVB (f : VForm) (s : State) : State := if f.immb then s else took f.b s

/-- The elements of A, B and C of a vector word that uses B (ub) and C (uc), and the state after reading them. -/
def elemsAbc (f : VForm) (w : Nat) (ub uc : Bool) (s : State) : List Nat × List Nat × List Nat :=
  let a := elemsOf w f.a s
  let s1 := took f.a s
  let s2 := if ub then tookVB f s1 else s1
  (a, if ub then elemsB w f s1 else a, if uc then elemsOf w f.c s2 else a)
def tookAbc (f : VForm) (ub uc : Bool) (s : State) : State :=
  let s1 := took f.a s
  let s2 := if ub then tookVB f s1 else s1
  if uc then took f.c s2 else s2

/-- A vector destination written (R222). -/
def putV (o : Operand) (v : BitVec 2048) (s : State) : State :=
  match o with
  | .v n => writeV n v s
  | .q n => modCur (fun t => t.pushQ n.val v) s
  | _ => s

/-- The flags of the active elements (R224). -/
def laneFlags (act : List Bool) (rs : List (Nat × FlagSet)) : FlagSet :=
  ((act.zip rs).map (fun x => if x.1 then some x.2 else none)).foldl (fun a x => match x with
    | some r => a.or r.2
    | none => a) FlagSet.none

/-- The elements a destination receives: an inactive one is kept or zeroed (R222, R223). -/
def merged (f : VForm) (w : Nat) (xs : List (Option Nat)) (s : State) : List Nat :=
  (xs.zip (s.oldElems f.d f.zm w)).map (fun x => x.1.getD x.2)

/-- The state after the active elements have been written and their flags raised (R223, R224). -/
def lanesDone (f : VForm) (w : Nat) (act : List Bool) (rs : List (Nat × FlagSet)) (s : State) : State :=
  let t := raiseS (laneFlags act rs) s
  putV f.d (vecOf w (merged f w ((act.zip rs).map (fun x => if x.1 then some x.2.1 else none)) t)) t

/-- The lanes' frame of a vector word and the state after its draw (R78, R224). -/
def ctxOf (f : VForm) (w : Nat) (s : State) : LaneCtx :=
  let sel := roundSel s f.rm f.rbm1
  ⟨w, activeOf (s.maskOf f) w, sel, drawn sel s⟩
def ctxState (f : VForm) (s : State) : State := advanced (roundSel s f.rm f.rbm1) s

/-- A word whose elements are computed one by one, from A and, with ub and uc, B and C, has written them and retires. -/
def laneWord (f : VForm) (ub uc : Bool) (g : LaneCtx → Nat × Nat × Nat × Nat → Nat × FlagSet) (s : State) :
    Host.Outcome State Fault Refusal :=
  let w := vWidth f.ty.toNat
  let x := elemsAbc f w ub uc s
  let t := tookAbc f ub uc s
  let c := ctxOf f w t
  let u := ctxState f t
  let v := if immSignals f && c.act.any id then raiseS FlagSet.onlyNv u else u
  .next (retire (lanesDone f w c.act ((tuples x.1 x.2.1 x.2.2).map (g c)) v))

/-- A word that moves elements or computes on their bits: no flags, no draw (R230, R237). -/
def movedWord (f : VForm) (w : Nat) (xs : List Nat) (s : State) : Host.Outcome State Fault Refusal :=
  .next (retire (lanesDone f w (activeOf (s.maskOf f) w) (quiet xs) s))

/-- How VCVT converts element x of A to element j of D; k numbers the elements of the wider type (R232 to R235). -/
def vcvtOne (f : VForm) (c : LaneCtx) (scales : List Nat) (k j x : Nat) : Nat × FlagSet :=
  let t := f.ty.toNat
  let d := f.sub.toNat
  if tyC t then cvtComplex c d t j x
  else if d = 0xF then toE8m0 (fdecode (floatFmt t) x)
  else if t = 0xF then fPart (floatFmt d) (c.mode (vWidth d) j) (e8m0Value x, FlagSet.none)
  else if t = 0xE then
    fPart (floatFmt d) (c.mode (vWidth d) j) (mxValue x (scales.getD ((f.imm.toNat * cvtCount (vWidth t) (vWidth d) + k) / 32) 0), FlagSet.none)
  else cvtElem d t f.sat (c.mode (vWidth d) j) x

/-- The matrix converter's draw, and the state after it (R78, R263). -/
def drawnM (sel : Nat × Nat) (s : State) : BitVec 64 := if sel.1 = 4 then xsNext s.task.seedm else s.task.seedm
def advancedM (sel : Nat × Nat) (s : State) : State :=
  if sel.1 = 4 then modCur (fun t => { t with seedm := xsNext s.task.seedm }) s else s

/-- A tile written. -/
def putTile (n : Fin 4) (x : Tile) (s : State) : State := modCur (fun t => { t with t := t.t.set n x }) s

/-- No write of the task stands in the way of a release at .die or wider, and none waits for a log entry (R117, R123, R438,
R439). -/
def Released (s : State) : Prop := s.task.logWait = [] ∧ writesPerformed s.task 2#2 = true

/-- An instruction may pop the rings it does not keep (R123, R261). -/
def MayPop (rs : List (Option (Fin 8) × Bool)) (s : State) : Prop :=
  rs.any (fun r => r.1.isSome && !r.2) = true → Released s

/-- The rings popped of an instruction that has read their slots (R60, R261). -/
def popped (rs : List (Option (Fin 8) × Bool)) (s : State) : State :=
  modCur (fun t => { t with rings := Vector.ofFn (fun i : Fin 8 =>
    if rs.any (fun r => r.1 == some i && !r.2) then t.rings[i].pop else t.rings[i]) }) s

/-- The flags of a list of results. -/
def flagsOf (rs : List (Nat × FlagSet)) : FlagSet := rs.foldl (fun a r => a.or r.2) FlagSet.none

/-- A word retires with its own signal, or traps SEM_OVERFLOW after its effect (R39, R429). -/
def signalled (op : BitVec 8) (k : BitVec 8) (n : Nat) (s : State) : Host.Outcome State Fault Refusal :=
  match signalTask s.task.tid k n s with
  | some t => .next (retire t)
  | none => .next (takeTrap fcSemOverflow op (BitVec.ofNat 32 k.toNat) 0 s)

/-- A package's memory is in canonical form, and so is the part of it that its last checkpoint kept (R384, R413; log 2). -/
def Pack.memOk (p : Pack) : Prop :=
  Memory.wf p.mem = true ∧ ∀ im, p.image = some im → Memory.wf im.mem = true ∧ ∀ c ∈ im.mem, c.1 < 2 ^ 58

/-- The memory of every modelled package is in canonical form. -/
def MemInv (s : State) : Prop := ∀ p ∈ s.packs, p.memOk

end Sys2Proof.Machine
end

