-- ==== Sys2Proof/Certificates/Slice0/Obligations.lean ====
section
/-! DEFINITION. The statements for the provers: what the rules of the spec say each instruction and event does. -/

open Sys2Proof Sys2Proof.Machine

/-- R25, R50: a word at the stream's pc that decodes is executed, and time, the turn of the stream and that of the package
go on around it; a word that the format forbids, a unit that cannot be fetched, a held or waiting fetch and a header
that has not been entered are answered as the rules say; the agenda's event runs instead of a stream. -/
def Obligations.StepRunsDecodedWord : Prop :=
  (∀ (s t : State) (i : Instr) (rest : List Instr), s.agenda = i :: rest → answered s i = true →
    exec i { s with agenda := rest } = .next t → core.step s = .next (nextPack (advanceTime t)))
  ∧ ∀ s : State, s.agenda = [] → s.running = true → s.bg = false → s.task.status = .resident → s.strm.fin = false →
    s.halted = false → s.withheld = false →
    (s.strm.arrive ≠ .inSection → core.step s = .next (nextPack (advanceTime (nextTurn (enterSection s)))))
    ∧ (s.strm.arrive = .inSection → ∀ bs, fetchUnits s s.strm.pc 3 = .bytes bs →
      (∀ i rest, decodeBytes bs = .ok (i, rest) →
        core.step s = (match exec i s with
          | .next t => .next (nextPack (advanceTime (nextTurn t)))
          | .fault f => .fault f
          | .refused r => .refused r))
      ∧ ∀ e, decodeBytes bs = .error e → core.step s = .next (nextPack (advanceTime (nextTurn (formatTrap bs e s)))))
    ∧ (s.strm.arrive = .inSection → ∀ c i va, fetchUnits s s.strm.pc 3 = .trap c i va →
      core.step s = .next (nextPack (advanceTime (nextTurn (takeTrapAt c 0 i va va s)))))
    ∧ (s.strm.arrive = .inSection → ∀ d p ia, fetchUnits s s.strm.pc 3 = .hold d p ia →
      core.step s = .next (nextPack (advanceTime (nextTurn (holdFetch d p ia s)))))
    ∧ (s.strm.arrive = .inSection → ∀ c, fetchUnits s s.strm.pc 3 = .wait c →
      core.step s = .next (nextPack (advanceTime (nextTurn (waitFetch c s)))))

/-- 07, 08, 10, 11, 14, 21: words that the spec prints decode to the instruction each is printed for. -/
def Obligations.PrintedWordsDecode : Prop :=
  decode 0x1806_2E00_0000_5007_0000_0000#96 = .ok (.cmp ⟨⟨false, 0#3⟩, .p 1, .sp .tile, .g 0, .g 0, 1#8, false, true, 0#4, 0#3, 7#5, 0#32⟩)
  ∧ decode 0xD010_C100_1600_0200_0000_0008#96 =
    .ok (.st ⟨⟨false, 1#3⟩, .g 6, .g 4, .g 0, 1#3, 3#3, 0#3, false, 0#3, 0#4, 0#2, 0#2, true, false, 8#40⟩)
  ∧ decode 0xD501_2104_1602_0200_0000_0000#96 =
    .ok (.amo ⟨⟨false, 0#3⟩, .g 9, .g 4, .g 8, 1#3, 3#3, 0#3, false, 0#3, 8#4, 0#2, 0#2, true, false, 0#40⟩)
  ∧ decode 0x2800_5000_2800_0000_0000_0000#96 =
    .ok (.swait ⟨⟨false, 0#3⟩, 5#8, 2#16, 2#2, 0#8, 0#12, 0#16, .g 0, .g 0, false, 0#2, 0#4⟩)
  ∧ decode 0x2000_610C_0000_FFFF_FFFF_FFFB#96 = .ok (.brc ⟨⟨false, 0#3⟩, .g 3, .g 4, 3#4, -5#48⟩)
  ∧ decode 0x6000_E102_A480_4000_0000_0010#96 =
    .ok (.ld ⟨⟨false, 0#3⟩, .g 7, .g 4, .g 5, 2#3, 2#3, 2#3, false, 0#3, 1#4, 0#2, 0#2, false, false, 16#40⟩)
  ∧ decode 0x8208_90A1_8069_0100_0000_0000#96 =
    .ok (.vmul ⟨⟨false, 0#3⟩, .v 4, .v 2, .v 3, .g 0, 3#3, 9#5, 0#6, false, true, false, 0#4, 0#3, 0#32⟩)
  ∧ decode 0xC00C_0000_0026_0001_0000_0000#96 =
    .ok (.mma ⟨⟨false, 0#3⟩, .t 0, .g 0, .g 0, .g 0, 9#4, 8#4, 0#3, false, 0#2, 1#8, 0#32⟩)
  ∧ decode 0xC600_0000_001C_0040_04B0_8601#96 =
    .ok (.drain ⟨⟨false, 0#3⟩, 0#8, 0#16, 0#2, 7#8, 1#12, 0x12#16, .t 1, .g 6, false, 0#2, 1#4⟩)
  ∧ decode 0x4000_0000_0018_0040_8002_0500#96 =
    .ok (.gstart ⟨⟨false, 0#3⟩, 0#8, 0#16, 0#2, 6#8, 1#12, 0x200#16, .g 4, .g 5, false, 0#2, 0#4⟩)
  ∧ decode 0xB880_0000_0000_0000_0000_0000#96 = .ok (.unassignedOpcode 0xB8#8 0x80_0000_0000_0000_0000_0000#88)
  ∧ decode 0x2700_0000_0024_00C0_0000_0080#96 = .error .reservedEForm

/-- R114 and the reset columns of Tables 14.3, 15.6, 16.4, 20.3, 23.1 and 24.1: what package reset leaves; and memory, in
which nothing is listed, in its canonical form (the model's own convention, log 2). -/
def Obligations.ResetValues : Prop :=
  let s := core.reset
  s = State.reset ∧ s.sliceSeq = Vector.replicate 128 0
  ∧ (∀ n : Fin 64, s.gslots[n].oreg = 0 ∧ s.gslots[n].v = false ∧ s.gslots[n].err = 0 ∧ s.gslots[n].last = 0 ∧ s.gslots[n].done = 0
    ∧ s.gslots[n].running = none ∧ s.gslots[n].queued = none)
  ∧ s.pkgnum = 0 ∧ s.pkgmap = 0
  ∧ s.bootst.extractLsb' 0 3 = 1#3 ∧ s.bootst.getLsbD 3 = false ∧ s.bootst.getLsbD 4 = false ∧ s.bootst.extractLsb' 8 8 = 0#8
  ∧ s.errBase = 0 ∧ s.errCfg.extractLsb' 8 8 = 16#8 ∧ s.errCfg.extractLsb' 0 5 = 0#5 ∧ s.errCfg.getLsbD 16 = false ∧ s.errLost = 0
  ∧ (∀ n : Fin 16, s.frozen[n].v = false ∧ s.frozen[n].bkpt = false)
  ∧ s.syncCfg.extractLsb' 36 4 = 3#4 ∧ s.syncCfg.getLsbD 32 = false ∧ s.syncCfg.extractLsb' 16 16 = 0#16 ∧ s.syncCfg.extractLsb' 0 16 = 0x100#16
  ∧ s.linkCfg.extractLsb' 48 8 = 8#8 ∧ s.linkCfg.extractLsb' 40 8 = 4#8 ∧ s.linkCfg.extractLsb' 32 8 = 64#8
  ∧ s.linkCfg.extractLsb' 24 8 = 8#8 ∧ s.linkCfg.extractLsb' 16 8 = 3#8 ∧ s.linkCfg.extractLsb' 0 16 = 0x10#16
  ∧ s.mem = [] ∧ MemInv s

/-- 07: decoding the encoding of a well-formed word gives the word back, with every operand at every value its field
admits; and a word that decodes is the encoding of what it decodes to. -/
def Obligations.EncodeDecodeRoundTrip : Prop :=
  (∀ (i : Instr) (w : BitVec 96), i.wf = true → encode i = some w → decode w = .ok i)
  ∧ (∀ i : Instr, i.wf = true → (encode i).isSome = true)
  ∧ ∀ (w : BitVec 96) (i : Instr), decode w = .ok i → i.wf = true ∧ encode i = some w

/-- R6, R108, R413: every step keeps memory, and the copy of it that a checkpoint has left, in canonical form. -/
def Obligations.MemoryStaysCanonical : Prop :=
  ∀ s t : State, MemInv s → core.step s = .next t → MemInv t

/-- R50: g0 reads as zero; a write to it is discarded while the word's other effects take place; the 32 registers of a
stream are its own; and a task starts with every register zero. -/
def Obligations.GeneralRegisters : Prop :=
  (∀ s : State, s.readG 0 = 0)
  ∧ (∀ (v : BitVec 64) (s : State), writeG 0 v s = s)
  ∧ (∀ (f : RAlu) (s : State), f.d = .g 0 → Ready (srcsAB f) [f.d] s → Issues 0x03 f.pred (aluCheck (intRule2 true) f) s →
    exec (.add f) s = .next (retire (raiseS (intResult f.ty f.sat (intVal f.ty (s.peekSrc f.a) + intVal f.ty (valueB f s))).2
      (tookAB f s))))
  ∧ (∀ (n m : Fin 32) (v : BitVec 64) (s : State), n ≠ 0 → (writeG n v s).readG m = if m = n then v else s.readG m)
  ∧ (∀ (n m : Fin 32) (v : BitVec 64) (s : State) (st : Stream), st ≠ s.cur →
    ({ writeG n v s with cur := st } : State).readG m = ({ s with cur := st } : State).readG m)
  ∧ (∀ (core slot node : Nat) (tile step patch : BitVec 64) (n : NodeSt) (s u : State) (t : Task) (st : Stream) (m : Fin 32),
    launchTask core slot node tile n step patch s = .ok (t, u) → (t.strm st).g[m] = 0)

/-- R161, R162: the edge cases of DIV and REM, which never trap; and a shift counts by the low bits of B, by its own
width. -/
def Obligations.DivisionAndShiftRules : Prop :=
  ∀ (f : RAlu) (s : State), Ready (srcsAB f) [f.d] s →
    let x := intVal f.ty (s.peekSrc f.a)
    let y := intVal f.ty (valueB f s)
    let w := intWidth f.ty
    let least : Int := -((2 ^ (w - 1) : Nat) : Int)
    let n := (valueB f s).toNat % w
    (Issues 0x08 f.pred (aluCheck (intRule2 true) f) s →
      (y = 0 → exec (.div f) s = aluDone f s
        (if intSigned f.ty then BitVec.allOnes 64 else BitVec.ofNat 64 (2 ^ w - 1), FlagSet.onlyDz))
      ∧ (intSigned f.ty = true → x = least → y = -1 → f.sat = false → exec (.div f) s = aluDone f s (BitVec.ofInt 64 least, FlagSet.none))
      ∧ (intSigned f.ty = true → x = least → y = -1 → f.sat = true →
        exec (.div f) s = aluDone f s (BitVec.ofInt 64 (-least - 1), FlagSet.onlySat)))
    ∧ (Issues 0x09 f.pred (aluCheck (intRule2 false) f) s →
      (y = 0 → exec (.rem f) s = aluDone f s (intExt f.ty x, FlagSet.onlyDz))
      ∧ (intSigned f.ty = true → x = least → y = -1 → exec (.rem f) s = aluDone f s (0, FlagSet.none)))
    ∧ (Issues 0x0E f.pred (aluCheck (intRule2 false) f) s →
      exec (.shl f) s = aluDone f s (intExt f.ty (x * 2 ^ n), FlagSet.none) ∧ (n = 0 → intExt f.ty (x * 2 ^ n) = intExt f.ty x))
    ∧ (Issues 0x0F f.pred (aluCheck (intRule2 false) f) s →
      let r : Int := ((s.peekSrc f.a).toNat % 2 ^ w / 2 ^ n : Nat)
      exec (.shr f) s = aluDone f s (intExt f.ty r, FlagSet.none) ∧ (n = 0 → intExt f.ty r = intExt f.ty x))
    ∧ (Issues 0x10 f.pred (aluCheck (intRule2 false) f) s →
      let r := sxInt w (s.peekSrc f.a).toNat / 2 ^ n
      exec (.sar f) s = aluDone f s (intExt f.ty r, FlagSet.none) ∧ (n = 0 → intExt f.ty r = intExt f.ty x))
    ∧ (Issues 0x11 f.pred (aluCheck (intRule2 false) f) s →
      let r := rotN w (s.peekSrc f.a).toNat n
      exec (.rot f) s = aluDone f s (intExt f.ty (r : Nat), FlagSet.none) ∧ (n = 0 → intExt f.ty (r : Nat) = intExt f.ty x))

/-- R166: PLOG applies its truth table to each of the 64 bit positions; a write to p0 is discarded; an operand that is no
predicate, a TYPE or high SUB bits that are not zero trap ILLEGAL_OPERAND. -/
def Obligations.PredicateLogic : Prop :=
  ∀ (f : RAlu) (s : State), predHolds f.pred s = true →
    (∀ d a b : Fin 8, f.d = .p d → f.a = .p a → f.b = .p b → f.c = .g 0 → f.ty = 0#5 → f.sub.toNat < 16 → f.rm = 0#3 → f.rbm1 = 0#4 →
      f.sat = false → f.immb = false → f.imm = 0#32 →
      ∃ x : BitVec 64, (∀ i : Fin 64,
          x.getLsbD i.val = f.sub.getLsbD (2 * ((s.readP a).getLsbD i.val).toNat + ((s.readP b).getLsbD i.val).toNat))
        ∧ exec (.plog f) s = .next (retire (if d = 0 then s else writeP d x s)))
    ∧ ((∀ n, f.d ≠ .p n) ∨ (∀ n, f.a ≠ .p n) ∨ (∀ n, f.b ≠ .p n) ∨ f.ty ≠ 0#5 ∨ 16 ≤ f.sub.toNat →
      ∃ info, exec (.plog f) s = .next (takeTrap fcIllegalOperand 0x1E#8 info 0 s))

/-- R180: TRAP raises SOFTWARE_TRAP with the low half of IMM64 as INFO; it goes into the trap section where TRAPSEC.V is
set and freezes the task where it is clear; a high half that is not zero is ILLEGAL_OPERAND. -/
def Obligations.SoftwareTrap : Prop :=
  ∀ (f : IForm) (s : State), f.d = .g 0 → f.a = .g 0 → predHolds f.pred s = true →
    (f.imm.toNat < 2 ^ 32 → s.strm.trapsec.getLsbD 0 = true → exec (.trap f) s = .next (modStrm (fun r => { r with
      trapcause := f.imm.setWidth 32 ++ 0#16 ++ 0x2D#8 ++ fcSoftwareTrap, trappc := s.strm.pc
      trapsec := r.trapsec &&& ~~~1#64, pc := r.trapsec &&& ~~~3#64, arrive := .atHeader, wait := none, semw := none
      swaitSig := false, await := none, srcs := none }) (refundWait s)))
    ∧ (f.imm.toNat < 2 ^ 32 → s.strm.trapsec.getLsbD 0 = false → exec (.trap f) s = .next
      (freezeTask s.task.tid ⟨fcSoftwareTrap, 0x2D#8, some s.cur, 0, f.imm.setWidth 32, 0⟩ 0 s.strm.pc (refundWait s)))
    ∧ (2 ^ 32 ≤ f.imm.toNat → ∃ info, exec (.trap f) s = .next (takeTrap fcIllegalOperand 0x2D#8 info 0 s))

/-- R157, R158, R160: what a two-operand integer word leaves as it was: everything outside its task, the other streams,
every general register but D, the predicates, the control words, the flags but DZ and SAT, and everything of the task
but the queues it names; all of memory and of the local store. -/
def Obligations.RegisterWordFrame : Prop :=
  ∀ (f : RAlu) (n : Fin 32) (s : State), f.d = .g n → Ready (srcsAB f) [f.d] s →
    ∀ x ∈ [(0x03#8, true, Instr.add f), (0x05#8, true, .sub f), (0x06#8, true, .mul f), (0x07#8, false, .mulh f), (0x08#8, true, .div f),
        (0x09#8, false, .rem f), (0x0A#8, false, .and f), (0x0B#8, false, .or f), (0x0C#8, false, .xor f), (0x0D#8, false, .andn f),
        (0x0E#8, false, .shl f), (0x0F#8, false, .shr f), (0x10#8, false, .sar f), (0x11#8, false, .rot f), (0x14#8, false, .bext f),
        (0x15#8, false, .bdep f), (0x16#8, false, .min f), (0x17#8, false, .max f)],
      Issues x.1 f.pred (aluCheck (intRule2 x.2.1) f) s →
      ∃ t, exec x.2.2 s = .next t
        ∧ t = { s with task := t.task }
        ∧ (∀ a, readCell t.mem a = readCell s.mem a) ∧ (∀ a, readCell t.task.ls a = readCell s.task.ls a)
        ∧ (∀ st, st ≠ s.cur → t.task.strm st = s.task.strm st)
        ∧ (∀ m, m ≠ n → t.readG m = s.readG m) ∧ (∀ m, t.readP m = s.readP m)
        ∧ t.strm.sctl = s.strm.sctl ∧ t.strm.seed = s.strm.seed ∧ t.strm.trapsec = s.strm.trapsec
        ∧ t.strm.trapcause = s.strm.trapcause ∧ t.strm.trappc = s.strm.trappc ∧ t.strm.semw = s.strm.semw
        ∧ (∀ j, j ≠ 1 → j ≠ 5 → t.strm.fflags.getLsbD j = s.strm.fflags.getLsbD j)
        ∧ (∀ j, s.strm.fflags.getLsbD j = true → t.strm.fflags.getLsbD j = true)
        ∧ (∀ q : Fin 12, q.val ∉ (srcsAB f).flatMap queueOf → t.task.qs[q] = s.task.qs[q])
        ∧ { t.task with c := s.task.c, a := s.task.a, x := s.task.x, s := s.task.s, qs := s.task.qs, fmtDone := s.task.fmtDone } = s.task

/-- R58, R98, R111, R204, R290, R292: what ST and LD leave as it was. ST replaces exactly its bytes, at the address BASE +
INDEX · 2^SCALE + DISP in the local store, or at the place that address translates to in memory, and no other; LD from
memory writes no memory, no local store and no register but D. -/
def Obligations.LoadAndStoreFrames : Prop :=
  (∀ (f : MForm) (s : State), Issues 0xD0 f.pred (mCheck { storeRule with lsel := true, hint := true } f) s →
    Ready [f.base, f.index, f.d] [] s → s.task.logWait = [] →
    let va := (accessVa f s).toNat
    let t0 := took f.d (accessT f s)
    let n := sizeBytes f.size
    let bs := natBytes n ((accessT f s).peekSrc f.d).toNat
    (f.lsel = true → lsJudge .noStash t0.task va n = none → s.task.stash = [] → Memory.wf s.task.ls = true →
      ∃ t, exec (.st f) s = .next t ∧ t.mem = s.mem ∧ (∀ m, t.readG m = s.readG m) ∧ (∀ m, t.readP m = s.readP m)
        ∧ t.strm.fflags = s.strm.fflags ∧ t.others = s.others
        ∧ ∀ a, readCell t.task.ls a = if va ≤ a ∧ a < va + n then bs.getD (a - va) 0 else readCell s.task.ls a)
    ∧ (∀ ia e key, f.lsel = false → translate (t0.window f.win.toNat) va n .w = .ok ia → ia % 128 + n ≤ 128 →
      locate t0 ia = .stack e key → discarded e = false → s.held = [] → s.migrating = [] → s.hostLines = [] →
      (∀ k ∈ everyTask t0, k.stash = [] ∧ k.sidelog = [] ∧ k.logWait = []) → Memory.wf s.mem = true → s.offDie s.task < 64 →
      ∃ t, exec (.st f) s = .next t ∧ (∀ m, t.readG m = s.readG m) ∧ (∀ m, t.readP m = s.readP m)
        ∧ t.strm.fflags = s.strm.fflags ∧ t.task.ls = s.task.ls
        ∧ ∀ a, readCell t.mem a = if key ≤ a ∧ a < key + n then bs.getD (a - key) 0 else readCell s.mem a))
  ∧ (∀ (f : MForm) (s t : State), f.lsel = false → s.strm.trapsec.getLsbD 0 = true → s.strm.semw = none →
    (∀ p, s.circuitLost p = false) → (∀ k ∈ everyTask s, k.stash = []) → exec (.ld f) s = .next t →
    t.mem = s.mem ∧ t.task.ls = s.task.ls ∧ t.others = s.others ∧ t.strm.fflags = s.strm.fflags
    ∧ (∀ m, f.d ≠ .g m → t.readG m = s.readG m) ∧ (∀ m, t.readP m = s.readP m))

/-- R135, R417, R419, R421: every word, in order: a stream that may not issue its opcode traps ILLEGAL_OPCODE with INFO 1;
then, where its PRED test fails, it retires without effect, unless a field rule makes it trap ILLEGAL_OPERAND before. -/
def Obligations.IssueOrder : Prop :=
  ∀ (i : Instr) (w : BitVec 96) (s : State), i.wf = true → encode i = some w → unassigned (opField w) = false →
    (issuedBy (opField w) s.cur = false → exec i s = .next (takeTrap fcIllegalOpcode (opField w) 1 0 s))
    ∧ (issuedBy (opField w) s.cur = true → predHolds (predOf w) s = false →
      exec i s = .next (retire s) ∨ ∃ info, exec i s = .next (takeTrap fcIllegalOperand (opField w) info 0 s))

/-- R159, R160, R161, R162: the two-operand integer words write their result and flags, and retire. R159: MULH, MIN, MAX
and the bitwise words. -/
def Obligations.IntegerWords : Prop :=
  (∀ (f : RAlu) (s : State), Ready (srcsAB f) [f.d] s →
     let u := s.peekSrc f.a
     let v := valueB f s
     let x := intVal f.ty u
     let y := intVal f.ty v
     let n := v.toNat % intWidth f.ty
     let plain := fun (r : Int) => aluDone f s (intExt f.ty r, FlagSet.none)
     (Issues 0x03 f.pred (aluCheck (intRule2 true) f) s → exec (.add f) s = aluDone f s (intResult f.ty f.sat (x + y)))
     ∧ (Issues 0x05 f.pred (aluCheck (intRule2 true) f) s → exec (.sub f) s = aluDone f s (intResult f.ty f.sat (x - y)))
     ∧ (Issues 0x06 f.pred (aluCheck (intRule2 true) f) s → exec (.mul f) s = aluDone f s (intResult f.ty f.sat (x * y)))
     ∧ (Issues 0x08 f.pred (aluCheck (intRule2 true) f) s → exec (.div f) s = aluDone f s
         (if y = 0 then (intExt f.ty (-1), FlagSet.onlyDz) else intResult f.ty f.sat (x.tdiv y)))
     ∧ (Issues 0x09 f.pred (aluCheck (intRule2 false) f) s → exec (.rem f) s = aluDone f s
         (if y = 0 then (intExt f.ty x, FlagSet.onlyDz) else (intExt f.ty (x - x.tdiv y * y), FlagSet.none)))
     ∧ (Issues 0x0E f.pred (aluCheck (intRule2 false) f) s → exec (.shl f) s = plain (x * 2 ^ n))
     ∧ (Issues 0x0F f.pred (aluCheck (intRule2 false) f) s →
         exec (.shr f) s = plain ((u.toNat % 2 ^ intWidth f.ty / 2 ^ n : Nat) : Int))
     ∧ (Issues 0x10 f.pred (aluCheck (intRule2 false) f) s →
         exec (.sar f) s = plain (sxInt (intWidth f.ty) u.toNat / 2 ^ n)))
  ∧ (∀ (f : RAlu) (s : State), Ready (srcsAB f) [f.d] s →
       let u := s.peekSrc f.a
       let v := valueB f s
       let x := intVal f.ty u
       let y := intVal f.ty v
       let w := intWidth f.ty
       let plain := fun (r : Int) => aluDone f s (intExt f.ty r, FlagSet.none)
       let bits := fun (r : BitVec 64) => plain (r.toNat : Int)
       let ok := fun (op : BitVec 8) => Issues op f.pred (aluCheck (intRule2 false) f) s
       (ok 0x07 → f.sat = false → exec (.mulh f) s = plain (x * y / 2 ^ w))
       ∧ (ok 0x16 → f.sat = false → exec (.min f) s = plain (min x y))
       ∧ (ok 0x17 → f.sat = false → exec (.max f) s = plain (max x y))
       ∧ (ok 0x0A → exec (.and f) s = bits (u &&& v))
       ∧ (ok 0x0B → exec (.or f) s = bits (u ||| v))
       ∧ (ok 0x0C → exec (.xor f) s = bits (u ^^^ v))
       ∧ (ok 0x0D → exec (.andn f) s = bits (u &&& ~~~v))
       ∧ (ok 0x14 → exec (.bext f) s = bits (BitVec.ofNat 64 (bextN w u.toNat v.toNat)))
       ∧ (ok 0x15 → exec (.bdep f) s = bits (BitVec.ofNat 64 (bdepN w u.toNat v.toNat)))
       ∧ (ok 0x11 → exec (.rot f) s = plain ((rotN w u.toNat (v.toNat % w) : Nat) : Int)))

/-- R144, R159, R163: the words with one source, the three-operand word, and the immediates. R163, R34: MOV in its four
forms: the vector move of X, the event move of C, the predicate load, the integer copy. -/
def Obligations.MoveWords : Prop :=
  ((∀ (f : RAlu) (s : State), Ready [f.a] [f.d] s →
     let x := s.peekSrc f.a
     let one := fun (r : Int) => Host.Outcome.next (retire (put f.d (intExt f.ty r) (took f.a s)))
     (Issues 0x12 f.pred (aluCheck intRule1 f) s → exec (.clz f) s = one ((clzN (intWidth f.ty) x.toNat : Nat) : Int))
     ∧ (Issues 0x13 f.pred (aluCheck intRule1 f) s → exec (.popc f) s = one ((popcN (intWidth f.ty) x.toNat : Nat) : Int)))
   ∧ (∀ (f : RAlu) (s : State), Ready (srcsAB f ++ [f.c]) [f.d] s → Issues 0x1A f.pred (aluCheck { intRule2 true with c := .src } f) s →
     let t := tookAB f s
     let r := intResult f.ty f.sat (intVal f.ty (s.peekSrc f.a) * intVal f.ty (valueB f s) + intVal f.ty (t.peekSrc f.c))
     exec (.madd f) s = .next (retire (put f.d r.1 (raiseS r.2 (took f.c t)))))
   ∧ (∀ (f : IForm) (s : State),
     (Ready [] [f.d] s → Issues 0x01 f.pred (fun s => firstBroken [(Use.ok .dstP s f.d, 1), (specOk s f.a, 2), (f.a == .g 0, 2)]) s →
       exec (.li f) s = .next (retire (put f.d f.imm s)))
     ∧ (Ready [f.a] [f.d] s → Issues 0x04 f.pred (fun s => firstBroken [(Use.ok .dstP s f.d, 1), (Use.ok .src s f.a, 2)]) s →
       exec (.addi f) s = .next (retire (put f.d (s.peekSrc f.a + f.imm) (took f.a s))))))
  ∧ (∀ (f : RAlu) (s : State), Issues 0x02 f.pred (movCheck f) s → Ready [f.a] [f.d] s →
       (f.sub = 1#8 → s.cur = .x → ∀ d, f.d = .v d → exec (.mov f) s = .next (retire
         (match f.a with
           | .v n => writeV d (s.readV n) s
           | .q n => writeV d (s.task.headQ n.val) (modCur (fun t => t.dropQ n.val) s)
           | _ => writeV d 0 s)))
       ∧ (∀ d, ¬ (f.sub = 1#8 ∧ s.cur = .x) → f.a = .q 15 → f.d = .g d → exec (.mov f) s = .next (retire
         (modCur (fun t => { t with q15 := t.q15.tail })
           (writeG (Fin.ofNat 32 (d.val + 1)) ((s.task.q15.headD 0).extractLsb' 64 64)
             (writeG d ((s.task.q15.headD 0).extractLsb' 0 64) s)))))
       ∧ (∀ d, ¬ (f.sub = 1#8 ∧ s.cur = .x) → f.a ≠ .q 15 → f.d = .p d →
         exec (.mov f) s = .next (retire (writeP d (s.peekSrc f.a) (took f.a s))))
       ∧ (¬ (f.sub = 1#8 ∧ s.cur = .x) → f.a ≠ .q 15 → (∀ d, f.d ≠ .p d) →
         exec (.mov f) s = .next (retire (put f.d (intExt f.ty (intVal f.ty (s.peekSrc f.a))) (took f.a s)))))

/-- R164, R165, R166: compares write a truth value, SEL takes one of two sources, PLOG a truth table of two predicates.
R169, R170, R165: conversions, floating-point compares, and SEL. -/
def Obligations.CompareAndConvertWords : Prop :=
  (∀ (f : RAlu) (s : State),
     (zeroTest f.sub = false → Ready (srcsAB f) [f.d] s →
       Issues 0x18 f.pred (aluCheck { d := .dstP, a := .src, b := .src, c := .unused, ty := intTy, sub := cmpCodes
                                      rm := false, sat := false, immb := true } f) s →
       exec (.cmp f) s = .next (retire (put f.d
         (boolResult f.d (condInt f.sub.toNat (intVal f.ty (s.peekSrc f.a)) (intVal f.ty (valueB f s)))) (tookAB f s))))
     ∧ (zeroTest f.sub = true → Ready [f.a] [f.d] s →
       Issues 0x18 f.pred (aluCheck { d := .dstP, a := .src, b := .unused, c := .unused, ty := intTy, sub := cmpCodes
                                      rm := false, sat := false, immb := false } f) s →
       exec (.cmp f) s = .next (retire (put f.d
         (boolResult f.d (condInt f.sub.toNat (intVal f.ty (s.peekSrc f.a)) (intVal f.ty 0))) (took f.a s))))
     ∧ (Issues 0x1E f.pred (aluCheck { d := .pred, a := .pred, b := .pred, c := .unused, ty := fun t => t == 0#5
                                       sub := fun x => decide (x.toNat < 16), rm := false, sat := false, immb := false } f) s →
       exec (.plog f) s = .next (retire (put f.d (plogBits f.sub.toNat (s.peekSrc f.a) (s.peekSrc f.b)) s))))
  ∧ (∀ (f : RAlu) (s : State),
       (Issues 0x1C f.pred (aluCheck { d := .dst, a := .src, b := .unused, c := .unused, ty := fun t => decide (t.toNat < 0xE)
                                       sub := fun x => decide (x.toNat < 0xE), rm := true, sat := true, immb := false } f) s →
         Ready [f.a] [f.d] s →
         let src : BitVec 5 := f.sub.setWidth 5
         let sel := roundSel s f.rm f.rbm1
         let t := took f.a s
         let w := if intTy f.ty then intWidth f.ty else (floatFmt f.ty.toNat).width
         let r := fcvtResult f.ty src f.sat (modeOf sel (drawn sel t) 0 0 w) (s.peekSrc f.a)
         exec (.fcvt f) s = .next (retire (put f.d r.1 (raiseS r.2 (advanced sel t)))))
       ∧ (Issues 0x1D f.pred (aluCheck { d := .dstP, a := .src, b := .src, c := .unused, ty := scalarFloatTy
                                         sub := fun x => decide (1 ≤ x.toNat ∧ x.toNat ≤ 7), rm := false, sat := false, immb := true } f) s →
         Ready (srcsAB f) [f.d] s →
         let r := fcond f.sub.toNat (readF (floatFmt f.ty.toNat) (s.peekSrc f.a)) (valueFB f s).1
         exec (.fcmp f) s = .next (retire (put f.d (boolResult f.d r.1) (raiseS r.2 (tookAB f s)))))
       ∧ (Issues 0x19 f.pred (aluCheck { d := .dst, a := .src, b := .src, c := .pred, ty := fun t => decide (t.toNat < 0xC)
                                         sub := fun x => x == 0#8, rm := false, sat := false, immb := true } f) s →
         Ready (srcsAB f) [f.d] s →
         let fm := floatFmt f.ty.toNat
         let y := if f.immb ∧ ¬ intTy f.ty then
             (if fm = fmtF32 then f.imm.setWidth 64 else BitVec.ofNat 64 (fround fm .rne (immFloat fm f.imm)).1)
           else valueB f s
         exec (.sel f) s = .next (retire (put f.d
           (selResult f.ty (if ((tookAB f s).peekSrc f.c).getLsbD 0 then s.peekSrc f.a else y)) (took f.c (tookAB f s))))))

/-- R167, R168, R78: FOP writes the rounded result of its function and raises its flags; a stochastic word advances the
generator once. -/
def Obligations.ScalarFloatWord : Prop :=
  ∀ (f : RAlu) (s : State),
    let ub := fopUsesB f.sub
    let uc := fopUsesC f.sub
    Issues 0x1B f.pred (aluCheck { d := .dst, a := .src, b := if ub then .src else .unused, c := if uc then .src else .unused
                                   ty := scalarFloatTy, sub := fun x => decide (1 ≤ x.toNat ∧ x.toNat ≤ 0xC)
                                   rm := true, sat := false, immb := ub } f) s →
    Ready ((if ub then srcsAB f else [f.a]) ++ (if uc then [f.c] else [])) [f.d] s →
    let fm := floatFmt f.ty.toNat
    let sel := roundSel s f.rm f.rbm1
    let a := readF fm (s.peekSrc f.a)
    let b := if ub then valueFB f s else (.nan false, false)
    let t := if ub then tookAB f s else took f.a s
    let c := readF fm (if uc then t.peekSrc f.c else 0)
    let t := if uc then took f.c t else t
    let r := fopResult f.ty f.sub.toNat b.2 (modeOf sel (drawn sel t) 0 0 fm.width) a b.1 c
    exec (.fop f) s = .next (retire (put f.d r.1 (raiseS r.2 (advanced sel t))))

/-- R171, R172, R173, R29: branches, calls, returns and loops go to their targets. -/
def Obligations.BranchWords : Prop :=
  (∀ (f : BForm) (s : State),
    let next := s.strm.pc + 12
    let target := next + 12 * f.off.signExtend 64
    (Issues 0x1F f.pred (bCheck .unused .unused (f.cc == 0#4) f) s → exec (.br f) s = goTo 0x1F target s s)
    ∧ (∀ onPred one : Bool, onPred = (f.cc == 8#4 || f.cc == 9#4) → one = (onPred || f.cc == 0xA#4 || f.cc == 0xB#4) →
      Issues 0x20 f.pred (bCheck (if onPred then .pred else .src) (if one then .unused else .src)
        (decide (1 ≤ f.cc.toNat ∧ f.cc.toNat ≤ 6) || decide (8 ≤ f.cc.toNat ∧ f.cc.toNat ≤ 0xD)) f) s →
      Ready (if one then [f.a] else [f.a, f.b]) [] s →
      let t := if one then took f.a s else took f.b (took f.a s)
      exec (.brc f) s = if brcCond f.cc.toNat (s.peekSrc f.a) (if one then 0 else (took f.a s).peekSrc f.b)
        then goTo 0x20 target s t else .next (retire t))
    ∧ (Issues 0x21 f.pred (bCheck .greg .unused (f.cc == 0#4) f) s → exec (.call f) s = goTo 0x21 target s (put f.a next s))
    ∧ (Issues 0x23 f.pred (fun s => firstBroken [
        (Use.ok .greg s f.a && f.a != .g 0, 2), (specOk s f.b, 3), (f.cc == 0#4, 9), (f.b == .g 0, 3)]) s →
      let n := s.peekSrc f.a - 1
      exec (.loop f) s = if n = 0 then .next (retire (put f.a 0 s)) else goTo 0x23 target s (put f.a n s)))
  ∧ (∀ (f : RSys) (s : State), Issues 0x22 f.pred (sysCheck { nopRule with a := .src } f) s → Ready [f.a] [] s →
      exec (.ret f) s = goTo 0x22 (s.peekSrc f.a) s (took f.a s))

/-- R174, R175, R176: the queue words that never block. QTRY pops and QPEEK reads when the queue holds an element and the
destination has room, QTRY.push pushes when it has room, and each says in B whether it did; QCNT counts. R177, R39,
R429: SSIG adds to a semaphore or traps SEM_OVERFLOW; SWAIT blocks until its wait holds, and signals in the next step
where it carries a signal; STRY tests once. -/
def Obligations.QueueAndSemaphoreWords : Prop :=
  (∀ (f : RSys) (s : State) (q : Fin 16),
     let room := ∀ d ∈ queueOf f.d, s.task.queueFull d = false
     (f.a = .q q → Issues 0x24 f.pred (qpopCheck f) s →
       (0 < s.task.queueCount q.val ∧ room → exec (.qtry f) s = .next (retire (put f.b (BitVec.allOnes 64)
         (modCur (fun t => t.dropAny q.val) (delivered q.val f.d s)))))
       ∧ (¬ (0 < s.task.queueCount q.val ∧ room) → exec (.qtry f) s = .next (retire (put f.b 0 s))))
     ∧ (f.a = .q q → Issues 0x26 f.pred (qpopCheck f) s →
       (0 < s.task.queueCount q.val ∧ room → exec (.qpeek f) s = .next (retire (put f.b (BitVec.allOnes 64) (delivered q.val f.d s))))
       ∧ (¬ (0 < s.task.queueCount q.val ∧ room) → exec (.qpeek f) s = .next (retire (put f.b 0 s))))
     ∧ (f.d = .q q → Issues 0x24 f.pred (qpushCheck f) s →
       let held := ∀ p ∈ queueOf f.a, 0 < s.task.queueCount p
       (room ∧ held → exec (.qtryPush f) s = .next (retire (put f.b (BitVec.allOnes 64)
         (match f.a with
           | .v n => modCur (fun t => t.pushQ q.val (s.readV n)) s
           | a => put f.d (s.peekSrc a) (took a s)))))
       ∧ (¬ (room ∧ held) → exec (.qtryPush f) s = .next (retire (put f.b 0 s))))
     ∧ (f.a = .q q → Ready [] [f.d] s → Issues 0x25 f.pred (fun s => firstBroken [
         (Use.ok .dst s f.d, 1), (match f.a with | .q n => queueEnd s n.val | _ => false, 2), (specOk s f.b, 3),
         (specOk s f.c, 4), (f.sub == 0#8, 9), (f.rm == 0#3, 0xA), (!f.tag && f.scope == 0#2, 0xB), (f.imm == 0#32, 0xC),
         (f.ring1 == 0#4 && f.ring2 == 0#4, 0xD), (f.b == .g 0, 3), (f.c == .g 0, 4)]) s →
       exec (.qcnt f) s = .next (retire (put f.d (BitVec.ofNat 64 (s.task.queueCount q.val)) s))))
  ∧ (∀ (f : EForm) (s : State), Ready (if regForm f then [f.a] else []) [] s →
       (Issues 0x27 f.pred (semCheck .unused (f.wmode == 0#2 && f.wsem == 0#8 && f.wthr == 0#16 && (!regForm f || f.sinc == 0#12)) f) s →
         let t := semTook f s
         let n := semCount f f.sinc.toNat s
         (∀ u, signalTask t.task.tid f.ssem n t = some u → exec (.ssig f) s = .next (retire u))
         ∧ (signalTask t.task.tid f.ssem n t = none →
             exec (.ssig f) s = .next (takeTrap fcSemOverflow 0x27 (BitVec.ofNat 32 f.ssem.toNat) 0 s)))
       ∧ (Issues 0x28 f.pred (semCheck .unused ((f.wmode == 1#2 || f.wmode == 2#2) && (!regForm f || f.wthr == 0#16)) f) s →
         let t := semTook f s
         let w := waitHeld ⟨f.wsem, semCount f f.wthr.toNat s, f.wmode == 2#2, false⟩ t
         (s.strm.swaitSig = false → t.task.semReady w = false →
           exec (.swait f) s = .next (modStrm (fun r => { r with wait := some .sem, semw := some w }) s))
         ∧ (s.strm.swaitSig = false → t.task.semReady w = true → f.sinc = 0 → exec (.swait f) s = .next (retire (served w t)))
         ∧ (s.strm.swaitSig = false → t.task.semReady w = true → f.sinc ≠ 0 →
           exec (.swait f) s = .next (setWait .sem (modStrm (fun r => { r with swaitSig := true }) (served w t))))
         ∧ (s.strm.swaitSig = true → ∀ u,
           signalTask s.task.tid f.ssem f.sinc.toNat (modStrm (fun r => { r with swaitSig := false }) s) = some u →
           exec (.swait f) s = .next (retire u)))
       ∧ (Issues 0x29 f.pred (semCheck .pred
           ((f.wmode == 1#2 || f.wmode == 2#2) && (!regForm f || f.wthr == 0#16) && f.ssem == 0#8 && f.sinc == 0#12) f) s →
         let t := semTook f s
         let w : SemWait := ⟨f.wsem, semCount f f.wthr.toNat s, f.wmode == 2#2, false⟩
         exec (.stry f) s = .next (retire (if t.task.semReady w then put f.b (BitVec.allOnes 64) { t with task := t.task.serve w }
           else put f.b 0 t))))

/-- R118, R178, R179, R61: a fence waits for the writes that were open when it first issued and for no later one, CTLR
reads a control word, CTLW writes one and delivers its old value. R180, R181, R182: NOP retires, TRAP traps
SOFTWARE_TRAP with its code, BKPT freezes the task after the word while BOOTST.DBGEN is set and retires otherwise, and
STOP finishes its stream. -/
def Obligations.ControlAndTrapWords : Prop :=
  (∀ (f : RSys) (s : State),
     (Issues 0x2A f.pred (sysCheck { nopRule with sub := fun x => decide (x.toNat ≤ 2), scope := true } f) s →
       let rest := openStill (s.task.openWrites f.scope) (s.task.openWrites f.scope) s
       let t := if f.sub = 2#8 then s else awaiting rest s
       ((f.sub = 2#8 ∨ rest = []) → (f.sub = 1#8 ∨ s.cur ≠ .a ∨ ∀ r ∈ s.task.rlds, r.ready = true) →
         exec (.fence f) s = .next (retire (if f.sub ≠ 1#8 then acquireAt f.scope t else t)))
       ∧ (f.sub ≠ 2#8 → rest ≠ [] → exec (.fence f) s = .next (setWait .fence t)))
     ∧ (Issues 0x2B f.pred (fun s => (sysCheck { nopRule with d := .dst, sub := fun _ => true } f s).or
         (firstBroken [(ctlExists s.cur f.sub, 0x14)])) s → Ready [] [f.d] s →
       exec (.ctlr f) s = .next (retire (put f.d (s.readCtl f.sub) s)))
     ∧ (Issues 0x2C f.pred (fun s => (sysCheck { nopRule with d := .dst, a := .src, sub := fun _ => true } f s).or
         (firstBroken [(ctlExists s.cur f.sub, 0x14)])) s → Ready [f.a] [f.d] s →
       (∀ u, writeCtl f.sub (s.peekSrc f.a) (took f.a s) = some u → exec (.ctlw f) s = .next (retire (put f.d (s.readCtl f.sub) u)))
       ∧ (writeCtl f.sub (s.peekSrc f.a) (took f.a s) = none →
           exec (.ctlw f) s = .next (takeTrap fcIllegalOperand 0x2C (fieldInfo 0x14) 0 s))))
  ∧ ((∀ (f : IForm) (s : State),
       (Issues 0x2D f.pred (codeCheck f) s → exec (.trap f) s = .next (takeTrap fcSoftwareTrap 0x2D (f.imm.setWidth 32) 0 s))
       ∧ (Issues 0x2E f.pred (codeCheck f) s → exec (.bkpt f) s = .next (if s.bootst.getLsbD 4 then
           freezeTask s.task.tid ⟨fcBreakpoint, 0x2E, some s.cur, 0, f.imm.setWidth 32, 0⟩ 0 s.strm.pc (retire s) else retire s)))
     ∧ (∀ (f : RSys) (s : State),
       (Issues 0x00 f.pred (sysCheck nopRule f) s → exec (.nop f) s = .next (retire s))
       ∧ (Issues 0x2F f.pred (sysCheck nopRule f) s → exec (.stop f) s = .next (finishStream s))))

/-- R184, R185, R186, R187, R188: the graph words, where the graph object they name passes its checks. -/
def Obligations.GraphWords : Prop :=
  (∀ (f : EForm) (s t u : State) (slot : Nat),
    Issues 0x40 f.pred (eCheck { a := .src, b := .dst, sub := fun x => x == 0#4, wait := true, sig := true, obj := true } f) s →
    Ready [f.a] [f.b] s → gateWait (waitOf f.wmode f.wsem f.wthr) s = .ok ((), t) → useGraph f.obj t = .ok (slot, u) →
    (u.peekSrc f.a).toNat < 2 ^ 32 →
    let v := took f.a u
    let r := startGraph slot (u.peekSrc f.a).toNat (some (v.task.tid, f.ssem, f.sinc)) v
    exec (.gstart f) s = .next (retire (put f.b (BitVec.ofNat 64 r.2) r.1)))
  ∧ (∀ (f : RSys) (s t : State) (slot : Nat),
    (Issues 0x42 f.pred (sysCheck { d := .dst, a := .unused, b := .unused, c := .unused, sub := fun x => x == 0#8, imm := objImm } f) s →
      Ready [] [f.d] s → useGraph (f.imm.setWidth 16) s = .ok (slot, t) →
      exec (.gquery f) s = .next (retire (put f.d (getSlot t slot).query t)))
    ∧ (Issues 0x41 f.pred (sysCheck { d := .dst, a := .src, b := .src, c := .src, sub := fun x => x == 0#8, imm := objImm } f) s →
      Ready [f.a, f.b, f.c] [f.d] s → useGraph (f.imm.setWidth 16) s = .ok (slot, t) →
      let v := took f.c (took f.b (took f.a t))
      let off := (t.peekSrc f.a).toNat
      let n := ((took f.a t).peekSrc f.b).toNat
      let k := ((took f.b (took f.a t)).peekSrc f.c).toNat
      let g := getSlot v slot
      n ≤ g.patchSize → k < g.patchCap → off + n ≤ 0x180000 → lsCheck .any off n v = .ok ((), v) →
      (g.queued.isSome → exec (.gpatch f) s = .next (retire (put f.d 2 v)))
      ∧ (∀ bs w x tags, g.queued = none → lsLoad off n v = .ok (bs, w) → writeIa .quay (g.patchIa g.nextBank k) bs w = .ok (tags, x) →
        exec (.gpatch f) s = .next (retire (put f.d 0 x)))))
  ∧ (∀ (f : RSys) (s : State),
    (Issues 0x49 f.pred (sysCheck { d := .dst, a := .src, b := .src, c := .unused, sub := fun x => x == 0#8 } f) s →
      Ready [f.a, f.b] [f.d] s →
      let a := (s.peekSrc f.a).toNat
      let v := took f.b (took f.a s)
      let g := getSlot v (bits a 12 6)
      a < 2 ^ 18 → (g.v = true → bits a 0 12 < g.nnodes) →
      let r := if g.v then spawnTile (bits a 12 6) (bits a 0 12) ((took f.a s).peekSrc f.b) v else (v, 2)
      exec (.tspawn f) s = .next (retire (put f.d (BitVec.ofNat 64 r.2) r.1)))
    ∧ (Issues 0x56 f.pred (sysCheck nopRule f) s → writesPerformed s.task 2#2 = true → s.task.nodeRel = false →
      exec (.noderel f) s = .next (retire (modCur (fun t => { t with nodeRel := true }) (reportTile s.task.slot s.task.node s)))))

/-- R199, R200, R201, R202, R203: the end of formats, sleeping, waiting for a tick, speeds and the event mask. R120, R121,
R196, R197: bindings are made and removed; ACQ waits for its grant, REL frees the guard once the writes that were open
when it issued and its write-backs are performed. -/
def Obligations.TimeAndGuardWords : Prop :=
  (∀ (f : RSys) (s : State),
     (Issues 0x51 f.pred (sysCheck nopRule f) s →
       exec (.fmtend f) s = .next (retire (modCur (fun t => { t with fmtDone := true }) s)))
     ∧ (Issues 0x52 f.pred (sysCheck { d := .dst, a := .src, b := .src, c := .unused, sub := fun x => decide (x.toNat < 8) } f) s →
       Ready [f.a, f.b] [f.d] s →
       let t := took f.b (took f.a s)
       let b := (took f.a s).peekSrc f.b
       ∀ (w : Option Watch) (u : State),
       (f.a = .g 0 ∧ w = none ∧ u = t
         ∨ f.a ≠ .g 0 ∧ ∃ ia, windowIa f.sub.toNat (s.peekSrc f.a).toNat 1 .r .plain none t = .ok (ia, u)
           ∧ w = some (s.task.watch.getD ⟨lineOf ia, false⟩)) →
       (∀ c, sleepCause s w b = some c → exec (.sleep f) s = .next (retire (put f.d (BitVec.ofNat 64 c)
         (modCur (fun t => { t with watch := none, deadline := none }) u))))
       ∧ (sleepCause s w b = none → exec (.sleep f) s = .next (setWait .time { s with task := { s.task with
           watch := w, deadline := if b = 0 then none else some b.toNat } })))
     ∧ (∀ a : BitVec 64, Issues 0x53 f.pred (sysCheck { nopRule with d := .dst, a := .src } f) s →
       (s.strm.srcs = none → Ready [f.a] [] s) → (keptSources [f.a] s).1 = [a] →
       let v := (keptSources [f.a] s).2
       Ready [] [f.d] v →
       (a.toNat ≤ v.tick → exec (.tickwait f) s = .next (retire (put f.d (BitVec.ofNat 64 v.tick)
         (modCur (fun t => { t with deadline := none }) v))))
       ∧ (v.tick < a.toNat → exec (.tickwait f) s = .next (setWait .time (modCur (fun t => { t with deadline := some a.toNat }) v))))
     ∧ (Issues 0x54 f.pred (sysCheck { nopRule with d := .dst, a := .src, sub := fun x => decide (x.toNat < 3) } f) s →
       Ready [f.a] [f.d] s →
       let t := took f.a s
       exec (.speedq f) s = .next (retire (put f.d (BitVec.ofNat 64 (match f.sub.toNat with
         | 0 => t.speedOf (s.peekSrc f.a).toNat
         | 1 => (t.nodeCores.map t.speedOf).sum
         | _ => ((List.range 192).map t.speedOf).sum)) t)))
     ∧ (Issues 0x55 f.pred (sysCheck { nopRule with d := .dst, a := .src } f) s → Ready [f.a] [f.d] s → (s.peekSrc f.a).toNat < 8 →
       let t := took f.a s
       exec (.evmask f) s = .next (retire (put f.d (t.task.evmask.setWidth 64)
         (modCur (fun t => { t with evmask := (s.peekSrc f.a).setWidth 3 }) t)))))
  ∧ ((∀ (f : RSys) (s u : State) (guard region : Nat),
       Issues 0x4C f.pred (sysCheck { d := .unused, a := .src, b := .src, c := .src, sub := fun x => decide (x.toNat < 64) } f) s →
       Ready [f.a, f.b, f.c] [] s →
       let v := took f.c (took f.b (took f.a s))
       let va := (took f.a s).peekSrc f.b
       let len := (took f.b (took f.a s)).peekSrc f.c
       NamesObject (bits f.sub.toNat 0 3) (s.peekSrc f.a) 8 8 .a guard v →
       let t := reachedOut (iaPkg guard) v
       regionIa (bits f.sub.toNat 3 3) va.toNat len.toNat t = .ok (region, u) →
       u.task.bindings.length < 8 → (∀ b ∈ u.task.bindings, ¬ (region < b.ia + b.len ∧ b.ia < region + len.toNat)) →
       va.toNat % 128 = 0 → len.toNat % 128 = 0 → len ≠ 0 →
       exec (.bind f) s = .next (retire (modCur (fun t => { t with bindings := t.bindings ++ [⟨guard, va, region, len.toNat⟩] }) u)))
     ∧ (∀ (f : RSys) (s : State) (b : Binding),
       Issues 0x4D f.pred (sysCheck { d := .unused, a := .unused, b := .src, c := .unused
                                      sub := fun x => decide (x.toNat < 64) && x.toNat % 8 == 0 } f) s → Ready [f.b] [] s →
       let t := took f.b s
       let va := s.peekSrc f.b
       t.task.bindings.find? (fun x => x.va == va && windowAt t (bits f.sub.toNat 3 3) va.toNat == some x.ia) = some b →
       t.task.holdsGuard b.guard = false →
       exec (.unbind f) s = .next (retire (modCur (fun t => { t with bindings := t.bindings.erase b }) t)))
     ∧ (∀ (f : RSys) (s : State) (va : BitVec 64) (ia : Nat),
       (s.strm.srcs = none → Ready [f.a] [] s) → (keptSources [f.a] s).1 = [va] →
       let v := (keptSources [f.a] s).2
       let t := reachedOut (iaPkg ia) v
       (Issues 0x4E f.pred (sysCheck { d := .unused, a := .src, b := .unused, c := .unused, sub := fun x => decide (x.toNat < 16) } f) s →
         NamesObject (bits f.sub.toNat 0 3) va 8 8 .a ia v →
         (v.strm.wait = some .guarded → v.task.holdsGuard ia = true → exec (.acq f) s = .next (retire t))
         ∧ (v.strm.wait = some .guarded → v.task.holdsGuard ia = false → exec (.acq f) s = .next (setWait .guarded t))
         ∧ (v.strm.wait ≠ some .guarded → v.task.holdsGuard ia = false → (∃ b ∈ v.task.bindings, b.guard = ia) →
           exec (.acq f) s = .next (setWait .guarded (atPack (Pack.isPkg (iaPkg ia))
             (fun s => { s with guardQ := s.guardQ ++ [⟨ia, v.task.tid, f.sub.getLsbD 3⟩] }) t))))
       ∧ (Issues 0x4F f.pred (sysCheck { d := .unused, a := .src, b := .unused, c := .unused, sub := fun x => decide (x.toNat < 8) } f) s →
         NamesObject f.sub.toNat va 8 8 .a ia v → v.task.holdsGuard ia = true →
         let rest := openStill (v.task.openWrites 3#2) (v.task.openWrites 3#2) t
         (rest ≠ [] → exec (.rel f) s = .next (setWait .fence (awaiting rest t)))
         ∧ (rest = [] → ∀ ids u, writeBackLines v.task.tid (fun line => v.task.boundTo ia line) (awaiting rest t) = .ok (ids, u) →
           let w := awaiting ids u
           let after := openStill [] (w.task.openWrites 3#2) w
           (after ≠ [] → exec (.rel f) s = .next (setWait .fence (awaiting after w)))
           ∧ (after = [] → ∀ x, applyRelease w.task.tid ia (awaiting after w) = .ok ((), x) →
             exec (.rel f) s = .next (retire x))))))

/-- R42, R43, R44, R189, R193: the membership words, where no send of the task is in flight and the group they name is in
reach: GJOIN takes the lowest free rank, GLEAVE frees it, GMEMB counts, STRAGQ reads the history. R190, R191, R365,
R430: the collective words of a member with no earlier operation of the kind open put their arrival into the send
queue and C goes on (log 62); at the queue's head it retires once its wait is served and the task's writes are
performed, and with the record and the operand read then it is counted. -/
def Obligations.GroupWords : Prop :=
  (∀ (f : RSys) (s : State) (ia : Nat), NamesObject f.sub.toNat (s.peekSrc f.a) 64 64 .a ia (took f.a s) →
     let t := reachedOut (iaPkg ia) (took f.a s)
     (Issues 0x43 f.pred (sysCheck memberRule f) s → Ready [f.a] [f.d] s → s.task.sendC = [] → s.offDie s.task < 64 →
       exec (.gjoin f) s = .next (retire (put f.d (match (joinGroup ia t.task.tid t).2 with
         | some k => BitVec.ofNat 64 k
         | none => BitVec.allOnes 64) (joinGroup ia t.task.tid t).1)))
     ∧ (Issues 0x44 f.pred (sysCheck memberRule f) s → Ready [f.a] [f.d] s → s.task.sendC = [] → s.offDie s.task < 64 →
       arrivedOpen t ia t.task.tid = false → openDamask t ia t.task.tid = false →
       (((getGroup t ia).rankOf t.task.tid).isSome →
         exec (.gleave f) s = .next (retire (put f.d 0 (leaveGroup ia t.task.tid t))))
       ∧ ((getGroup t ia).rankOf t.task.tid = none → exec (.gleave f) s = .next (retire (put f.d 1 t))))
     ∧ (Issues 0x45 f.pred (sysCheck memberRule f) s → Ready [f.a] [f.d] s →
       exec (.gmemb f) s = .next (retire (put f.d (BitVec.ofNat 64 ((getGroup t ia).members.length * 2 ^ 32
         + ((getGroup t ia).rankOf t.task.tid).getD 0xFFFFFFFF)) t)))
     ∧ (Issues 0x57 f.pred (sysCheck { memberRule with b := .src } f) s → Ready [f.a, f.b] [f.d] s →
       exec (.stragq f) s = .next (retire (put f.d (if (t.peekSrc f.b).toNat < 8
         then (getGroup (took f.b t) ia).history.getD (t.peekSrc f.b).toNat 0 else 0) (took f.b t)))))
  ∧ ((∀ (f : EForm) (s : State), Ready [f.a, f.b] [] s →
       let t := took f.b (took f.a s)
       let va := s.peekSrc f.a
       let b := (took f.a s).peekSrc f.b
       let free := fun kind => ∀ ia, translate (t.window f.sub.toNat) va.toNat 64 .a = .ok ia → collBusy t ia kind t.task.tid = false
       t.task.sendC.length < 16 → t.offDie t.task < 64 →
       (Issues 0x46 f.pred (eCheck { collRule with b := .unused, obj := false } f) s → free .bar →
         exec (.gbar f) s = .next (retire (arrivedWith .bar f va b t)))
       ∧ (Issues 0x47 f.pred (eCheck collRule f) s → free .red → exec (.gred f) s = .next (retire (arrivedWith .red f va b t)))
       ∧ (Issues 0x48 f.pred (eCheck { collRule with obj := false } f) s → free .bcast →
         exec (.gbcast f) s = .next (retire (arrivedWith .bcast f va b t))))
     ∧ (∀ (p : PendingArrival) (s u : State) (a : GroupArrival),
       (∀ w, p.wait = some w → s.task.semReady w = true) → writesPerformed s.task ((p.group.map s.groupScope).getD 2#2) = true →
       arrivalOf p (waitServed p.wait s) = .ok (a, u) → arrivalFits s a = true →
       finishArrival p s = applyArrival a (modCur (fun t => { t with sendC := t.sendC.tail }) u))
     ∧ (∀ (p : PendingArrival) (s : State) (ia : Nat), NamesObject p.win p.va 64 64 .a ia s →
       let t := reachedOut (iaPkg ia) s
       ((getGroup t ia).rankOf t.task.tid).isSome = true →
       (p.kind = .bar → arrivalOf p s = .ok (⟨ia, .bar, t.task.tid, 0, 0, [], p.ssem, p.sinc, t.pkg⟩, t))
       ∧ (p.kind ≠ .bar → p.off.toNat % 16 = 0 → lsJudge .any s.task p.off.toNat 16 = none →
         ∀ r, lsNumber p.off.toNat 16 s = .ok (r, s) →
         let rec128 := BitVec.ofNat 128 r
         let c := collRec rec128
         ((c.op ≠ 3 ∧ p.obj = 0) ∨ (c.op = 3 ∧ p.kind = .red ∧ ∃ x, useObj p.obj 5 sketchOk (fun x => bitN x 81) s = .ok (x, s))) →
         collRecOk p.kind rec128 = true →
         lsChecks [(.any, p.off.toNat, 16), (.noStash, c.src, c.size), (.noStash, c.dst, c.size)] t = .ok ((), t) →
         lsClean c.src c.size t = .ok ((), t) →
         arrivalOf p s = .ok (⟨ia, p.kind, t.task.tid, rec128, if c.op = 3 then p.obj else 0, t.task.lsRead c.src c.size, p.ssem, p.sinc, t.pkg⟩, t))))

/-- R40, R45, R194, R195: RSIG and RENQ, once their wait is satisfied and the writes they order are performed, enter the
task's send queue. R198, R342, R365, R421, R430: XPBGO puts the start of its membership of the collective that the
exchange block names into the send queue, where its rank and its geometry fit: the job is counted, and a ring
destination is marked as filled; at the queue's head the member joins. -/
def Obligations.RemoteWords : Prop :=
  (∀ (f : EForm) (s t : State) (ia : Nat), Ready [f.a, f.b] [] s →
     gateWait (waitOf f.wmode f.wsem f.wthr) s = .ok ((), t) →
     (Issues 0x4B f.pred (eCheck { collRule with obj := false } f) s →
       NamesObject f.sub.toNat (t.peekSrc f.a) 64 64 .a ia (took f.a t) →
       let u := reachedOut (iaPkg ia) (took f.a t)
       let v := took f.b u
       let rank : BitVec 16 := (u.peekSrc f.b).setWidth 16
       writesPerformed v.task (scopeTo v (rankTask v ia rank.toNat)) = true → v.task.sendC.length < 16 → v.offDie v.task < 64 →
       exec (.rsig f) s = .next (retire (modCur (fun t => { t with
         sendC := t.sendC ++ [.signal ⟨v.task.tid, v.cur, ia, rank, f.ssem, f.sinc.toNat⟩] }) v)))
     ∧ (Issues 0x4A f.pred (eCheck { collRule with obj := false, sig := false } f) s →
       t.task.jobs < 16 → writesPerformed t.task 2#2 = true →
       let v := took f.b (took f.a t)
       let b := ((took f.a t).peekSrc f.b).toNat
       let off := bits b 32 21
       bits b 53 11 = 0 → bits b 16 16 = 0 → off % 16 = 0 → lsJudge .plain v.task off 16 = none →
       ∀ h, lsNumber off 16 v = .ok (h, v) → headerOk h = true →
       NamesObject f.sub.toNat (t.peekSrc f.a) 64 64 .a ia v →
       let w := reachedOut (iaPkg ia) v
       let n := 16 + 16 * bits h 0 5
       lsCheck .plain off n w = .ok ((), w) → lsClean off n w = .ok ((), w) →
       let rank : BitVec 16 := ((took f.a t).peekSrc f.b).setWidth 16
       ∀ x, rankTask w ia rank.toNat = some x → x.inbound.length < 8 → w.task.sendC.length < 16 → w.offDie w.task < 64 →
       exec (.renq f) s = .next (retire (modCur (fun t => { t with jobs := t.jobs + 1 }) (modCur (fun t => { t with
         sendC := t.sendC ++ [.block ⟨w.task.tid, ia, rank, w.task.lsRead off n⟩] }) w)))))
  ∧ ((∀ (f : EForm) (s : State) (x : BitVec 1024) (rank : Nat),
       Issues 0x50 f.pred (eCheck { a := .unused, b := .unused, sub := fun x => x == 0#4, wait := true, sig := true, obj := true } f) s →
       s.task.logWait = [] → s.task.jobs < 16 → writesPerformed s.task 2#2 = true → useXpb f.obj s = .ok (x, s) →
       let p := xpbOf x.toNat
       let k := rank - p.rank0
       let sn := rowSpan p.pitchIn p.z (p.len p.axIn) (p.rows p.axIn k)
       let dn := rowSpan p.pitchOut p.z (p.len p.axOut) (p.rows p.axOut k)
       pairOpen s p.group f.obj s.task.tid = false → (getGroup s p.group).rankOf s.task.tid = some rank →
       p.rank0 ≤ rank → k < p.size → lsCheck .plain p.srcOff sn s = .ok ((), s) →
       (p.dstRing = true → (s.ringOf p.ring).en = true ∧ p.slotNeed k ≤ ringSlotBytes (s.ringOf p.ring).cfg) →
       (p.dstRing = false → lsCheck .plain p.dstOff dn s = .ok ((), s) ∧ (p.srcOff + sn ≤ p.dstOff ∨ p.dstOff + dn ≤ p.srcOff)) →
       s.task.sendC.length < 16 → s.offDie s.task < 64 →
       let m : DMember := { tid := s.task.tid, rank := rank, pkg := s.pkg, xpb := x, wait := waitOf f.wmode f.wsem f.wthr
                            ssem := f.ssem, sinc := f.sinc, since := s.tick, started := false, tick := 0, phases := 0
                            srcDone := false, flits := 0, slips := 0, slots := [], done := false }
       exec (.xpbgo f) s = .next (retire (modCur (fun t => { fillMark p true t with jobs := t.jobs + 1 })
         (modCur (fun t => { t with sendC := t.sendC ++ [.start p.group f.obj m] }) s))))
     ∧ (∀ (s : State) (g : Nat) (i : BitVec 16) (m : DMember), s.task.status ≠ .vacant → s.task.sendC.head? = some (.start g i m) →
       InReach (bits g 47 11) s →
       sendStart s.task.tid s = joinColl g i m (popSendC s.task.tid (.start g i m) (reachedOut (bits g 47 11) s))))

/-- R106, R117, R143, R204 to R207: the loads, where their operands are there and their access passes its checks: LD and
LDACQ extend the bytes to 64 bits, LDV, LDVS and GATH push a vector on q12, RLD and RLDV keep the value for its reply.
R98, R100, R204, R208: LD of n bytes at an LS address that its checks accept and that no stash mapping holds reads
those bytes of the local store and changes only its destination; a PREF that is dropped changes nothing. -/
def Obligations.LoadWords : Prop :=
  (∀ (f : MForm) (s u : State) (bs : List (BitVec 8)),
     let t := accessT f s
     let va := accessVa f s
     (Issues 0x60 f.pred (mCheck { dOk := fun _ o => isG o, size := scalarSize, opk := loadOpk, lsel := true, cf := true } f) s →
       Ready [f.base, f.index] [] s → loadElems f false (f.hint != 1#3) [va] t = .ok (bs, u) →
       exec (.ld f) s = .next (retire (put f.d (extendLoad (f.opk.getLsbD 0) bs) u)))
     ∧ (Issues 0x61 f.pred (mCheck { dOk := fun _ o => isG o, size := scalarSize, opk := loadOpk, scope := true } f) s →
       Ready [f.base, f.index] [] s → loadElems f false false [va] t = .ok (bs, u) →
       exec (.ldacq f) s = .next (retire (acquireAt f.scope (put f.d (extendLoad (f.opk.getLsbD 0) bs) u))))
     ∧ (Issues 0x62 f.pred (mCheck { dOk := fun _ o => isQueue 12 o, size := fun x => x == 7#3, lsel := true, cf := true } f) s →
       Ready [f.base, f.index] [f.d] s → f.d = .q 12 → loadElems f false false [va] t = .ok (bs, u) →
       exec (.ldv f) s = .next (retire (modCur (fun t => t.pushQ 12 (vecBytes bs)) u)))
     ∧ (Issues 0x63 f.pred (mCheck { dOk := fun _ o => isQueue 12 o, indexOk := fun _ o => isG o, size := scalarSize, opk := loadOpk
                                     scale := false, lsel := true, cf := true } f) s → Ready [f.base] [f.d] s → f.d = .q 12 →
       loadElems f true false (stridedAddrs f (s.peekSrc f.base) ((took f.base s).peekSrc f.index)) t = .ok (bs, u) →
       exec (.ldvs f) s = .next (retire (modCur (fun t => t.pushQ 12 (vecBytes bs)) u)))
     ∧ (Issues 0x64 f.pred (mCheck { dOk := fun _ o => isQueue 12 o, indexOk := fun _ o => isG o, size := scalarSize, opk := loadOpk
                                     lsel := true, cf := true } f) s → Ready [f.base] [f.d] s → f.d = .q 12 →
       let n := 256 / sizeBytes f.size
       let at_ := ((took f.base s).peekSrc f.index).toNat
       ∀ ix v, lsCheck .plain at_ (4 * n) t = .ok ((), t) → lsLoad at_ (4 * n) t = .ok (ix, v) →
       (if f.lsel then loadLs f.cf (sizeBytes f.size) (indexedAddrs f (s.peekSrc f.base) (bytesElems 4 n ix)) v
         else loadMem f.win.toNat (sizeBytes f.size) true false (indexedAddrs f (s.peekSrc f.base) (bytesElems 4 n ix)) v) = .ok (bs, u) →
       exec (.gath f) s = .next (retire (modCur (fun t => t.pushQ 12 (vecBytes bs)) u)))
     ∧ (Issues 0x66 f.pred (mCheck { dOk := fun _ o => isQueue 3 o || isQueue 4 o || isQueue 5 o, size := scalarSize, opk := loadOpk } f) s →
       Ready [f.base, f.index] [f.d] s → loadElems f false false [va] t = .ok (bs, u) → ∀ q, f.d = .q q →
       exec (.rld f) s = .next (retire (modCur (fun t => { t with
         rlds := t.rlds ++ [⟨q.val, (extendLoad (f.opk.getLsbD 0) bs).setWidth 2048, false, loadLeaves u f.win.toNat va⟩] }) u)))
     ∧ (Issues 0x67 f.pred (mCheck { dOk := fun _ o => isQueue 12 o, size := fun x => x == 7#3 } f) s →
       Ready [f.base, f.index] [f.d] s → loadElems f false false [va] t = .ok (bs, u) →
       exec (.rldv f) s = .next (retire (modCur (fun t => { t with
         rlds := t.rlds ++ [⟨12, vecBytes bs, false, loadLeaves u f.win.toNat va⟩] }) u))))
  ∧ (∀ (f : MForm) (s : State),
       (Issues 0x60 f.pred (mCheck { dOk := fun _ o => isG o, size := scalarSize, opk := loadOpk, lsel := true, cf := true } f) s →
         Ready [f.base, f.index] [] s → f.lsel = true → f.cf = false → s.task.stash = [] →
         let off := (accessVa f s).toNat
         let n := sizeBytes f.size
         off + n ≤ 0x180000 → lsBadByte .any (accessT f s).task off n = none → s.task.lsPoison = [] →
         exec (.ld f) s = .next (retire (put f.d (extendLoad (f.opk.getLsbD 0) (readCells s.task.ls off n)) (accessT f s))))
       ∧ (Issues 0x65 f.pred (mCheck { dOk := fun _ o => o == .g 0, size := fun x => x == 0#3 } f) s →
         Ready [f.base, f.index] [] s →
         prefetchIa (accessT f s) f.win.toNat (accessVa f s).toNat = none ∨ f.hint ≠ 0#3 →
         exec (.pref f) s = .next (retire (accessT f s))))

/-- R102, R103, R108, R213, R214: STASH adds a mapping under the lowest free number, UNSTASH of a mapping with no dirty
line removes it, DISCARD counts the bytes of the pages it discards and drops the core's copies. R57, R59, R60, R215 to
R219: the words on rings, windows, pages and translation. -/
def Obligations.StashAndRingWords : Prop :=
  (∀ (f : RSys) (s t u : State) (ia : Nat),
     (Issues 0x68 f.pred (sysCheck { d := .dst, a := .src, b := .src, c := .src, sub := fun x => decide (x.toNat < 8) } f) s →
       Ready [f.a, f.b, f.c] [f.d] s → t = took f.c (took f.b (took f.a s)) →
       let a := s.peekSrc f.a
       let b := (took f.a s).peekSrc f.b
       let c := (took f.b (took f.a s)).peekSrc f.c
       let w := t.window f.sub.toNat
       a.toNat % 128 = 0 → b.toNat % 128 = 0 → c.toNat % 128 = 0 → c ≠ 0 →
       windowIa f.sub.toNat b.toNat c.toNat (if w.r then .r else .w) .atomic none t = .ok (ia, u) →
       iaOff ia + c.toNat ≤ deviceSpan → t.task.inStashArea a.toNat = true → a.toNat + c.toNat ≤ lscfgBase t.task.lscfg + lscfgSize t.task.lscfg →
       a.toNat + c.toNat ≤ 0x180000 →
       ∀ n, findBelow (fun n => t.task.stash.all (fun m => m.num != n)) 8 = some n →
       exec (.stash f) s = .next (retire (put f.d (BitVec.ofNat 64 n)
         (modCur (fun x => { x with stash := x.stash ++ [⟨n, a.toNat, b, ia, c.toNat, w.r, w.w, []⟩] }) u))))
     ∧ (Issues 0x69 f.pred (sysCheck { nopRule with a := .src } f) s → (s.strm.srcs = none → Ready [f.a] [] s) →
       ∀ va, (keptSources [f.a] s).1 = [va] →
       let v := (keptSources [f.a] s).2
       let a := va.toNat
       let w := awaiting (v.strm.await.getD []) v
       let rest := openStill [] w.task.unacked w
       v.task.stash.any (fun m => m.num == a) = true → (v.task.dirtyLines (fun _ => true)).filter (fun x => x.1.num == a) = [] →
       (rest = [] → exec (.unstash f) s = .next (retire
         (modCur (fun t => { t with stash := t.stash.filter (fun m => m.num != a) }) (awaiting rest w))))
       ∧ (rest ≠ [] → exec (.unstash f) s = .next (setWait .fence (awaiting rest w))))
     ∧ (Issues 0x6A f.pred (sysCheck { d := .dst, a := .src, b := .src, c := .unused, sub := fun x => decide (x.toNat < 8) } f) s →
       Ready [f.a, f.b] [f.d] s → t = took f.b (took f.a s) →
       let a := (s.peekSrc f.a).toNat
       let b := ((took f.a s).peekSrc f.b).toNat
       a % 65536 = 0 → b % 65536 = 0 → windowIa f.sub.toNat a b .w .atomic none t = .ok (ia, u) →
       u.hostLineIn ia b = none →
       let first := (ia + 65535) / 65536
       let pages := (List.range ((ia + b) / 65536 - first)).map (fun i => (first + i) * 65536)
       let r := pages.foldl (discardPage ia b) (u, 0)
       exec (.discard f) s = .next (retire (put f.d (BitVec.ofNat 64 r.2) (l1DropRange r.1.task.core ia b r.1)))))
  ∧ (∀ (f : RSys) (s : State),
       let n := ringField f.ring1
       (Issues 0x6F f.pred (sysCheck { nopRule with a := .src, ring1 := ringValid } f) s → Ready [f.a] [] s →
         let a := s.peekSrc f.a
         let t := took f.a s
         (t.ringOf n).lock &&& ~~~(t.ringOf n).void = 0#16 → (t.ringOf n).fillers = [] → (a = 0 ∨ t.task.ringCfgOk n.val a = true) →
         exec (.ringset f) s = .next (retire (modCur (fun t => t.modRing n (fun _ => { Ring.init with cfg := a, en := a != 0 })) t)))
       ∧ (Issues 0x70 f.pred (sysCheck { nopRule with a := .src, b := .src, ring1 := ringValid } f) s → Ready [f.a, f.b] [] s →
         let r := s.ringOf n
         let t := took f.b (took f.a s)
         let a := s.peekSrc f.a
         let b := (took f.a s).peekSrc f.b
         r.en = true → r.claimable = true → b ≠ 0 → lsCheck .plain a.toNat b.toNat t = .ok ((), t) → b.toNat ≤ ringSlotBytes r.cfg →
         lsClean a.toNat b.toNat t = .ok ((), t) →
         exec (.ringput f) s = .next (retire (modCur (fun t => (t.lsWrite (r.slotAt r.tail) (t.lsRead a.toNat b.toNat)).modRing n
           (fun r => r.claim.setFull r.tail)) t)))
       ∧ (Issues 0x71 f.pred (sysCheck { nopRule with d := .dst, sub := fun x => decide (x.toNat < 2), ring1 := ringValid } f) s →
         Ready [] [f.d] s →
         exec (.ringq f) s = .next (retire (put f.d (if f.sub = 0#8 then (s.ringOf n).cfg else (s.ringOf n).state) s)))
       ∧ (Issues 0x72 f.pred (sysCheck { nopRule with d := .dst, sub := fun x => decide (x.toNat < 4), imm := fun i => decide (i.toNat < 8) } f) s →
         Ready [] [f.d] s → exec (.winq f) s = .next (retire (put f.d ((s.window f.imm.toNat).word f.sub.toNat) s)))
       ∧ (Issues 0x73 f.pred (sysCheck { d := .unused, a := .src, b := .src, c := .src, sub := fun x => decide (x.toNat < 8) } f) s →
         Ready [f.a, f.b, f.c] [] s → exec (.plhint f) s = .next (retire (took f.c (took f.b (took f.a s)))))
       ∧ (Issues 0x74 f.pred (sysCheck { d := .dst, a := .src, b := .unused, c := .unused, sub := fun x => decide (x.toNat < 8) } f) s →
         Ready [f.a] [f.d] s → ∀ ia u, windowIa f.sub.toNat (s.peekSrc f.a).toNat 1 .r .plain none (took f.a s) = .ok (ia, u) →
         exec (.pgstate f) s = .next (retire (put f.d (pageState u ia) u)))
       ∧ (Issues 0x76 f.pred (sysCheck { nopRule with d := .dst, a := .src, sub := fun x => decide (x.toNat < 32) } f) s →
         Ready [f.a] [f.d] s →
         let w := (took f.a s).window (bits f.sub.toNat 2 3)
         let r := rightOf (bits f.sub.toNat 0 2)
         (∀ ia, translate w (s.peekSrc f.a).toNat 1 r = .ok ia → exec (.xlatq f) s = .next (retire (put f.d (BitVec.ofNat 64 ia) (took f.a s))))
         ∧ (∀ c, translate w (s.peekSrc f.a).toNat 1 r = .error c →
           exec (.xlatq f) s = .next (retire (put f.d (1#1 ++ 0#55 ++ c.1) (took f.a s))))))

/-- R209 to R212, R320, R323, R330: CPYGO, CPYMC and LGO hand a start to a unit that can take it and count a job, LHALT
marks the task's program, on its Lighter or saved by a pre-emption, LSTAT reads the unit's word, BCHK compares
coordinates with a shape. -/
def Obligations.LaunchWords : Prop :=
  (∀ (f : EForm) (s : State) (x : Nat) (va vb : BitVec 64), s.strm.wait ≠ some .unit →
    (s.strm.srcs = none → Ready [f.a, f.b] [] s) → (keptSources [f.a, f.b] s).1 = [va, vb] →
    let t := (keptSources [f.a, f.b] s).2
    let a := va.toNat
    let n : Fin 32 := Fin.ofNat 32 (a % 32)
    let counted := fun (v : State) => Host.Outcome.next (retire { v with task := { v.task with jobs := v.task.jobs + 1 } })
    t.task.logWait = [] → t.task.jobs < 16 → writesPerformed t.task 2#2 = true →
    (a % 32 / 4 = t.dieOf t.task.core ∨ t.offDie t.task < 64) →
    (useObj f.obj 2 templateOk (fun _ => true) t = .ok (x, t) → bits a 5 27 = 0 → s.chans[n].fenced = false →
      let d := startData f (vb.setWidth 32) (BitVec.ofNat 16 (bits a 32 32))
      let u := reachChan n d (some t.task.tid) t
      startWaits { u with task := { u.task with jobs := u.task.jobs + 1 } } = false →
      (Issues 0x6B f.pred (eCheck jobRule f) s → templateMode x ≠ 2 → bits a 32 32 = 0 → exec (.cpygo f) s = counted u)
      ∧ (Issues 0x6C f.pred (eCheck jobRule f) s → templateMode x = 2 → bits a 32 32 < 2 ^ (bits x 112 4 + 1) → exec (.cpymc f) s = counted u))
    ∧ (Issues 0x6D f.pred (eCheck jobRule f) s → useObj f.obj 7 lprogOk (fun _ => true) t = .ok (x, t) → s.lighters[n].fenced = false →
      let p : LProg := { tid := s.task.tid, obj := f.obj, tag := vb.setWidth 32, wait := waitOf f.wmode f.wsem f.wthr
                         ssem := f.ssem, sinc := f.sinc, block := false, halt := false }
      let u := reachLighter n p t
      lgoWaits { u with task := { u.task with jobs := u.task.jobs + 1 } } = false →
      exec (.lgo f) s = counted u))
  ∧ (∀ (f : RSys) (s : State), Ready [f.a] [] s →
    let n : Fin 32 := Fin.ofNat 32 ((s.peekSrc f.a).toNat % 32)
    let t := took f.a s
    (Issues 0x6E f.pred (sysCheck { nopRule with a := .src } f) s →
      let c := t.lighters[n]
      let runs := (c.run.map (fun r => r.prog.tid == t.task.tid)).getD false
      let saved := t.task.savedProgs.any (fun x => x.1 == n.val)
      let queued := c.queue.any (fun p => p.tid == t.task.tid)
      (runs = true ∨ (saved = false ∧ queued = true) → exec (.lhalt f) s = .next (retire (modLighter n (Lighter.haltOf t.task.tid) t)))
      ∧ (runs = false → saved = true ∨ queued = false →
        exec (.lhalt f) s = .next (retire (modCur (fun t => t.haltSaved n.val) t))))
    ∧ (Issues 0x77 f.pred (sysCheck { nopRule with d := .dst, a := .src } f) s → Ready [f.a] [f.d] s →
      exec (.lstat f) s = .next (retire (put f.d (lstatWord t n) t))))
  ∧ (∀ (f : EForm) (s u : State) (x : Nat) (bs : List (BitVec 8)),
    Issues 0x75 f.pred (eCheck { a := .src, b := .pred, sub := fun x => x == 0#4, wait := false, sig := false, obj := true } f) s →
    Ready [f.a] [] s → useObj f.obj 1 shapeOk (fun _ => true) s = .ok (x, s) →
    let h := shapeOf x
    let a := (s.peekSrc f.a).toNat
    h.inBounds = true → lsCheck .any a (4 * h.rank) (took f.a s) = .ok ((), took f.a s) →
    lsLoad a (4 * h.rank) (took f.a s) = .ok (bs, u) →
    exec (.bchk f) s = .next (retire (put f.b (predBits (!h.clipped (bytesElems 4 h.rank bs))) u)))

/-- R224, R226, R227, R251: the vector arithmetic words compute each active element from the elements of A, B and C, and
write it with its flags. R52, R222, R223: a vector register written by the elements of a word holds, at element i, the
result where the mask makes i active, and else its old value, or zero with ZM. -/
def Obligations.VectorArithmeticWords : Prop :=
  (∀ (f : VForm) (s : State), Ready [f.a, f.b, f.c] [f.d] s →
     let ok := fun (op : BitVec 8) (r : VRule) => Issues op f.pred (vCheck r f) s
     let un := fun (g : FVal → FVal × FlagSet) (h : Int → Int) => laneWord f false false (fun c => laneElem f c ⟨fun _ a _ _ => g a, fun a _ _ => h a⟩) s
     let bin := fun (g : Bool → FVal → FVal → FVal × FlagSet) (h : Int → Int → Int) =>
       laneWord f true false (fun c => laneElem f c ⟨fun r a b _ => g r a b, fun a b _ => h a b⟩) s
     let ter := fun (g : Bool → FVal → FVal → FVal → FVal × FlagSet) (h : Int → Int → Int → Int) => laneWord f true true (fun c => laneElem f c ⟨g, h⟩) s
     (ok 0x80 (rule2 true true true) → exec (.vadd f) s = bin faddE (fun a b => a + b))
     ∧ (ok 0x81 (rule2 true true true) → exec (.vsub f) s = bin (fun r a b => faddE r a b.negate) (fun a b => a - b))
     ∧ (ok 0x82 (rule2 false true true) → exec (.vmul f) s = bin (fun _ => fmulE) (fun a b => a * b))
     ∧ (ok 0x83 (rule3 tyF false true) → exec (.vfma f) s = ter fmaE (fun a _ _ => a))
     ∧ (ok 0x84 (rule3 tyF false true) → exec (.vfms f) s = ter (fun r a b c => fmaE r a b c.negate) (fun a _ _ => a))
     ∧ (ok 0x87 (rule2 false false false) → exec (.vmin f) s = bin (fun _ => fminmax false) min)
     ∧ (ok 0x88 (rule2 false false false) → exec (.vmax f) s = bin (fun _ => fminmax true) max)
     ∧ (ok 0x89 { rule2 false false true with ty := tyF } → exec (.vdiv f) s = bin (fun _ => fdivE) (fun a b => a + b))
     ∧ (ok 0xAF { rule2 false false false with ty := tyI } →
         exec (.vmulh f) s = bin (fun _ => fmulE) (fun a b => a * b / ((2 ^ vWidth f.ty.toNat : Nat) : Int)))
     ∧ (ok 0xB0 (rule3 tyI true false) → exec (.vmadd f) s = ter (fun _ a _ _ => (a, FlagSet.none)) (fun a b c => a * b + c))
     ∧ (ok 0xB7 (rule3 (fun t => tyF t || tyI t) false false) →
         exec (.vclamp f) s = ter (fun r a b c => uopE 7 r a b c) (fun a b c => min (max a b) c))
     ∧ (f.immb = false →
       (ok 0x85 (rule1 (fun t => tyF t || tyI t || tyC t) true false) → exec (.vneg f) s = un (fun a => (a.negate, snanFlag a)) (fun a => -a))
       ∧ (ok 0x86 (rule1 (fun t => tyF t || tyI t) true false) →
           exec (.vabs f) s = un (fun a => (a.withSign false, snanFlag a)) (fun a => (a.natAbs : Int)))
       ∧ (ok 0x8A (rule1 tyF false true) → exec (.vsqrt f) s = un fsqrtE id)
       ∧ (ok 0x8B (rule1 tyF false true) → exec (.vrcp f) s = un (fdivE (.fin false 1 0 false)) id)
       ∧ (ok 0x8C (rule1 tyF false true) → exec (.vrsq f) s = un frsqrtE id))
     ∧ (let ub := decide (f.sub.toNat < 4)
       let uc := f.sub == 2#6 || f.sub == 3#6
       ok 0xB1 { a := .v, b := if ub then .v else .none, c := if uc then .v else .none, ty := tyC
                 sub := fun x => decide (x < 6), rm := fun _ => true, immb := ub } →
       exec (.vcplx f) s = laneWord f ub uc (cplxElem f) s))
  ∧ (∀ (f : VForm) (d : Fin 32) (w i : Nat) (act : List Bool) (rs : List (Nat × FlagSet)) (s : State),
       f.d = .v d → 0 < w → w ∣ 2048 → act.length = 2048 / w → rs.length = 2048 / w → i < 2048 / w →
       elemN ((lanesDone f w act rs s).readV d) w i =
         (if act.getD i false then (rs.getD i (0, FlagSet.none)).1 % 2 ^ w else if f.zm then 0 else elemN (s.readV d) w i))

/-- R228, R229, R236: comparisons write a mask or a predicate, VSEL takes elements of A or B, VSRND rounds to a multiple
of 2^k. R74, R78, R224, R232 to R235: VCVT converts into part p of D where D is the narrower and from part p of A
where it is the wider; the elements outside a narrow part keep their value, and in mode SR SEED advances once. A
conversion to .mxf4 writes codes and scales, and the expansions take packed codes. -/
def Obligations.VectorCompareAndConvertWords : Prop :=
  (∀ (f : VForm) (s : State), Ready [f.a, f.b, f.c] [f.d] s →
     let w := vWidth f.ty.toNat
     let act := activeOf (s.maskOf f) w
     let one := f.sub == 0xA#6 || f.sub == 0xB#6
     let x := elemsAbc f w (!one) false s
     let t0 := tookAbc f (!one) false s
     let t := if immSignals f && act.any id then raiseS FlagSet.onlyNv t0 else t0
     let rs := (x.1.zip x.2.1).map (fun p =>
       if one = true ∧ tyF f.ty.toNat = true then fcond (if f.sub = 0xA#6 then 1 else 2) (fdecode (floatFmt f.ty.toNat) p.1) (.fin false 0 0 false)
       else vcmpElem f p.1 p.2)
     (Issues 0x8D f.pred (vCheck { d := .or .pd .vd, a := .v, b := if one then .none else .v, ty := cmpTypes f
                                   sub := vcmpSub f, immb := !one } f) s →
       ((∀ n, f.d ≠ .p n) → exec (.vcmp f) s =
         .next (retire (lanesDone f w act (rs.map (fun r => (if r.1 then 2 ^ w - 1 else 0, r.2))) t)))
       ∧ (∀ n : Fin 8, f.d = .p n → exec (.vcmp f) s = .next (retire (put f.d (BitVec.ofNat 64 (((List.range (act.zip rs).length).zip (act.zip rs)).map
           (fun y => if (if y.2.1 then y.2.2.1 else !f.zm && (s.readP n).getLsbD y.1) then 2 ^ y.1 else 0)).sum)
           (raiseS (laneFlags act (rs.map (fun r => (0, r.2)))) t)))))
     ∧ (Issues 0x8E f.pred (vCheck { a := .v, b := .v, c := .or .p .vo, ty := tyAny, immb := true } f) s →
       let x := elemsAbc f w true false s
       let t := tookAbc f true false s
       let pick := fun (sel : List Bool) => (sel.zip (x.1.zip x.2.1)).map (fun y => (if y.1 then y.2.1 else y.2.2, FlagSet.none))
       (∀ n, f.c = .p n → exec (.vsel f) s = .next (retire (lanesDone f w act (pick (activeOf (s.readP n) w)) t)))
       ∧ ((∀ n, f.c ≠ .p n) → exec (.vsel f) s =
           .next (retire (lanesDone f w act (pick ((elemsOf w f.c t).map (fun y => y != 0))) (took f.c t)))))
     ∧ (Issues 0x9B f.pred (vCheck { rule1 tyF false true with imm := fun x => decide (x < 65536) } f) s →
       let fm := floatFmt f.ty.toNat
       let a := elemsOf fm.width f.a s
       let c := ctxOf f fm.width (took f.a s)
       exec (.vsrnd f) s = .next (retire (lanesDone f fm.width c.act (((List.range a.length).zip a).map (fun y =>
         vsrndElem fm (sxInt 16 f.imm.toNat) (c.mode fm.width y.1) (fdecode fm y.2))) (ctxState f (took f.a s))))))
  ∧ (∀ (f : VForm) (s : State), Ready [f.a, f.b, f.c] [f.d] s → Issues 0x9A f.pred (vCheck (vcvtRule f) f) s →
       let ws := vWidth f.ty.toNat
       let wd := vWidth f.sub.toNat
       let src := elemsOf ws f.a s
       let scales := if f.ty.toNat = 0xE then elemsOf 8 f.b (took f.a s) else []
       let t := if f.ty.toNat = 0xE then took f.b (took f.a s) else took f.a s
       let c : LaneCtx := ctxOf f ws t
       let u := ctxState f t
       let n := cvtCount ws wd
       let p := f.imm.toNat * n
       let act := activeOf (u.maskOf f) (max ws wd)
       let rs := (List.range n).map (fun k => if wd ≤ ws then vcvtOne f c scales k (p + k) (src.getD k 0) else vcvtOne f c scales k k (src.getD (p + k) 0))
       let v := raiseS (laneFlags act rs) u
       let new := (act.zip rs).map (fun x => if x.1 then some x.2.1 else none)
       let keep := v.oldElems f.d false wd
       (f.sub.getLsbD 5 = false → f.sub.toNat ≠ 0xE → exec (.vcvt f) s = .next (retire (if wd ≤ ws
         then putV f.d (vecOf wd (keep.take p ++ (new.zip ((v.oldElems f.d f.zm wd).drop p)).map (fun x => x.1.getD x.2) ++ keep.drop (p + n))) v
         else putV f.d (vecOf wd (merged f wd new v)) v)))
       ∧ (f.sub.toNat = 0xE → ∀ x, vcvtToMx f src c u = .ok ((), x) → exec (.vcvt f) s = .next (retire x))
       ∧ (f.sub.getLsbD 5 = true →
         let k := f.sub.toNat % 32
         let b := if k < 3 then (0 : BitVec 2048) else (match f.b with
           | .v n => (took f.a s).readV n
           | .q n => (took f.a s).task.headQ n.val
           | _ => 0)
         let a := match f.a with
           | .v n => s.readV n
           | .q n => s.task.headQ n.val
           | _ => 0
         let z := ctxState f (if k < 3 then took f.a s else took f.b (took f.a s))
         let w := if k < 3 then 4 else 6
         exec (.vcvt f) s = .next (retire (lanesDone f 8 (activeOf (z.maskOf f) 8) ((List.range 256).map (fun i =>
           fPart (if k = 4 then fmtE5m2 else fmtE4m3) .rne
             (expandVal k (bits (a.toNat + 2 ^ 2048 * b.toNat) (256 * w * f.imm.toNat + w * i) w), FlagSet.none))) z))))

/-- R230, R231: the vector bit words. R237 to R243: the words that move elements. -/
def Obligations.VectorBitAndMoveWords : Prop :=
  (∀ (f : VForm) (s : State), Ready [f.a, f.b, f.c] [f.d] s →
     let w := vWidth f.ty.toNat
     let ok := fun (op : BitVec 8) (r : VRule) => Issues op f.pred (vCheck r f) s
     let each := fun (ub uc : Bool) (g : Nat → Nat → Nat → Nat) =>
       let x := elemsAbc f w ub uc s
       movedWord f w ((tuples x.1 x.2.1 x.2.2).map (fun y => g y.2.1 y.2.2.1 y.2.2.2 % 2 ^ w)) (tookAbc f ub uc s)
     let un := fun (g : Nat → Nat) => each false false (fun a _ _ => g a)
     let bin := fun (g : Nat → Nat → Nat) => each true false (fun a b _ => g a b)
     (ok 0x8F bitRule2 → exec (.vand f) s = bin (fun a b => a &&& b))
     ∧ (ok 0x90 bitRule2 → exec (.vor f) s = bin (fun a b => a ||| b))
     ∧ (ok 0x91 bitRule2 → exec (.vxor f) s = bin (fun a b => a ^^^ b))
     ∧ (ok 0x92 bitRule2 → exec (.vandn f) s = bin (fun a b => a &&& (2 ^ w - 1 - b)))
     ∧ (ok 0x93 bitRule2 → exec (.vshl f) s = bin (fun a b => a * 2 ^ (b % w)))
     ∧ (ok 0x94 bitRule2 → exec (.vshr f) s = bin (fun a b => a / 2 ^ (b % w)))
     ∧ (ok 0x95 bitRule2 → exec (.vsar f) s = bin (fun a b => wrapN w (sxInt w a / ((2 ^ (b % w) : Nat) : Int))))
     ∧ (ok 0x96 { bitRule2 with c := .v } → exec (.vfshl f) s = each true true (fun a b c => (a * 2 ^ w + b) * 2 ^ (c % w) / 2 ^ w))
     ∧ (ok 0x97 { bitRule2 with c := .v } → exec (.vfshr f) s = each true true (fun a b c => (a * 2 ^ w + b) / 2 ^ (c % w)))
     ∧ (ok 0x98 (rule1 tyI false false) → exec (.vclz f) s = un (clzN w))
     ∧ (ok 0x99 (rule1 tyI false false) → exec (.vpopc f) s = un (popcN w)))
  ∧ (∀ (f : VForm) (s : State), Ready [f.a, f.b, f.c] [f.d] s →
       let w := vWidth f.ty.toNat
       let n := 2048 / w
       let a := elemsOf w f.a s
       let t := took f.a s
       (Issues 0xAA f.pred (vCheck (rule1 tyAny false false) f) s → exec (.vmov f) s = movedWord f w a t)
       ∧ (Issues 0xAB f.pred (vCheck { a := .none, ty := tyNoMx, imm := fun _ => true } f) s →
         exec (.vli f) s = movedWord f w (List.replicate n (immElem f.ty.toNat f.imm % 2 ^ w)) s)
       ∧ (Issues 0x9C f.pred (vCheck { a := .vo, b := .v, ty := fun t => tyNoMx t && t != 0x11, immb := true } f) s →
         exec (.vperm f) s = movedWord f w ((elemsB w f t).map (fun x => a.getD x 0)) (tookVB f t))
       ∧ (let two := decide (f.sub.toNat < 4)
         Issues 0x9D f.pred (vCheck { a := .vo, b := if two then .vo else .none, ty := tyNoMx, sub := fun x => decide (x < 6) } f) s →
         exec (.vshuf f) s = movedWord f w ((List.range n).map (shufElem f.sub.toNat n a (if two then elemsOf w f.b t else a)))
           (if two then took f.b t else t))
       ∧ (let vec := isVec f.a
         Issues 0x9E f.pred (fun s => (vCheck { a := .or .vo .s, b := if vec then .s else .none, ty := tyNoMx, immb := vec } f s).or
           (firstBroken [(vec || f.ty != 0x11#5, 2)])) s →
         exec (.vbcast f) s = if vec then movedWord f w (List.replicate n (a.getD (if f.immb then f.imm.toNat else (t.peekSrc f.b).toNat) 0)) (tookVB f t)
           else movedWord f w (List.replicate n ((s.peekSrc f.a).toNat % 2 ^ w)) t)
       ∧ (Issues 0x9F f.pred (vCheck { d := .sd, a := .vo, b := .s, ty := fun t => tyNoMx t && t != 0x11, immb := true
                                       mask := false, zm := false } f) s →
         exec (.vextr f) s = .next (retire (put f.d (elemScalar f.ty (a.getD (if f.immb then f.imm.toNat else (t.peekSrc f.b).toNat) 0)) (tookVB f t))))
       ∧ (Issues 0xA0 f.pred (vCheck { d := .vreg, a := .s, b := .s, ty := fun t => tyNoMx t && t != 0x11, immb := true
                                       mask := false, zm := false } f) s →
         let i := if f.immb then f.imm.toNat else (t.peekSrc f.b).toNat
         let old := s.oldElems f.d false w
         exec (.vins f) s = .next (retire (putV f.d (vecOf w (if i < old.length then old.set i ((s.peekSrc f.a).toNat % 2 ^ w) else old)) (tookVB f t))))
       ∧ (Issues 0xB5 f.pred (vCheck { a := .vo, b := .v, c := .s, ty := tyNoMx, sub := fun x => decide (x < 2), imm := fun _ => true } f) s →
         let u := took f.b t
         exec (.vslide f) s = movedWord f w ((List.range n).map (slideElem (f.sub == 1#6) n ((u.peekSrc f.c).toNat + f.imm.toNat) a (elemsOf w f.b t))) (took f.c u))
       ∧ (Issues 0xA7 f.pred (vCheck { a := .vo, ty := tyNoMx } f) s →
         let xs := selected (activeOf (s.maskOf f) w) a
         exec (.vcomp f) s = .next (retire (putV f.d (vecOf w (merged f w (xs.map some ++ List.replicate (n - xs.length) none) t)) t)))
       ∧ (Issues 0xA8 f.pred (vCheck { a := .vo, ty := tyNoMx } f) s →
         exec (.vexpd f) s = .next (retire (putV f.d (vecOf w (merged f w (expandActive (activeOf (s.maskOf f) w) a) t)) t)))
       ∧ (Issues 0xA9 f.pred (vCheck { a := .s, b := .s, ty := tyI, immb := true } f) s →
         let b := if f.immb then immInt f.imm else t.peekSrc f.b
         exec (.viota f) s = movedWord f w ((List.range n).map (fun i => (s.peekSrc f.a + BitVec.ofNat 64 i * b).toNat % 2 ^ w)) (tookVB f t)))

/-- R244 to R248: reductions of a register to one element, by segments, and scans, in the tree order of R245. R249, R250,
R252 to R255, R258: predicate logic and counts, the integer dot product, the special functions and the loading of an
image. -/
def Obligations.VectorReductionWords : Prop :=
  (∀ (f : VForm) (s : State), Ready [f.a, f.b, f.c] [f.d] s →
     let t := f.ty.toNat
     let w := vWidth t
     let fm := floatFmt t
     let a := elemsOf w f.a s
     let u := took f.a s
     let c := ctxOf f w u
     let v := ctxState f u
     let toVec := match f.d with
       | .v _ => true
       | .q n => n.val == 13
       | _ => false
     let whole := fun (o : RedOp) =>
       let r : Nat × FlagSet :=
         if tyI t then
           let x := reduceI o f.ty c.act a
           let y := if toVec then intResult f.ty f.sat x else redScalar f.ty f.sat x
           (y.1.toNat, y.2)
         else if tyC t then
           cPack c t 0 (reduceF o t c.act (a.map (fun x => (cParts t x).1))) (reduceF o t c.act (a.map (fun x => (cParts t x).2)))
         else fPart fm (c.mode w 0) (reduceF o t c.act (a.map (fdecode fm)))
       let z := raiseS r.2 v
       Host.Outcome.next (retire (if toVec then putV f.d (BitVec.ofNat 2048 (r.1 % 2 ^ w)) z else put f.d (BitVec.ofNat 64 r.1) z))
     let segs := chunksOf (segLen f.imm.toNat (2048 / w)) 256 (c.act.zip a)
     let bySeg := fun (o : RedOp) =>
       let rs := segs.flatMap (fun seg => List.replicate seg.length (if tyI t then (o.emptyF, reduceI o f.ty (seg.map Prod.fst) (seg.map Prod.snd))
         else (reduceF o t (seg.map Prod.fst) ((seg.map Prod.snd).map (fdecode fm)), 0)))
       Host.Outcome.next (retire (lanesDone f w c.act (((List.range rs.length).zip rs).map (fun x => segFinal f c x.1 x.2.1 x.2.2)) v))
     (Issues 0xA1 f.pred (fun s => (vCheck (redRule f true true) f s).or (firstBroken [(f.ty != 0x11#5 || VUse.ok s f.d .vd, 1)])) s →
       exec (.vredadd f) s = whole .add)
     ∧ (Issues 0xA2 f.pred (vCheck (redRule f false false) f) s → exec (.vredmax f) s = whole .max)
     ∧ (Issues 0xA3 f.pred (vCheck (redRule f false false) f) s → exec (.vredmin f) s = whole .min)
     ∧ (Issues 0xA4 f.pred (vCheck (segRule f false false) f) s → exec (.vgmax f) s = bySeg .max)
     ∧ (Issues 0xA5 f.pred (vCheck (segRule f true true) f) s → exec (.vgsum f) s = bySeg .add)
     ∧ (Issues 0xA6 f.pred (vCheck { segRule f true true with sub := fun x => decide (x < 8) && x % 4 != 3 } f) s →
       let o := scanOp f.sub.toNat
       let excl := f.sub.getLsbD 2
       let vals := fun (seg : List (Bool × Nat)) => seg.map (fun x => (x.1, ((fdecode fm x.2, FlagSet.none) : Flagged)))
       let rs := if tyI t then segs.flatMap (fun seg => (scanSeg o.iop excl (o.emptyI f.ty)
         (seg.map (fun x => (x.1, intVal f.ty (BitVec.ofNat 64 x.2))))).map (fun y => (o.emptyF, y)))
         else segs.flatMap (fun seg => (scanSeg (o.fop (extFmt t)) excl o.emptyF (vals seg)).map (fun y => (y, 0)))
       let z := lanesDone f w c.act (((List.range rs.length).zip rs).map (fun x => segFinal f c x.1 x.2.1 x.2.2)) v
       exec (.vscan f) s = .next (retire (if tyI t then z else raiseS ((segs.map (fun seg =>
         ((scanSeg (o.fop (extFmt t)) false o.emptyF (vals seg)).getLastD o.emptyF).2)).foldl FlagSet.or FlagSet.none) z)))
     ∧ (Issues 0xAE f.pred (vCheck { a := .vo, ty := fun t => t == 8 || t == 9, rm := fun _ => true
                                     imm := fun x => segOk f.ty.toNat x && x != 1, zm := false } f) s →
       let c := ctxOf f fm.width (took f.a s)
       let segs := chunksOf (segLen f.imm.toNat (2048 / fm.width)) 256 (c.act.zip (elemsOf fm.width f.a s))
       let rs := segs.flatMap (fun seg => statRecord t (seg.map Prod.fst) ((seg.map Prod.snd).map (fdecode fm)))
       let out := ((List.range rs.length).zip rs).map (fun x => fPart fm (c.mode fm.width x.1) x.2)
       exec (.vstat f) s = .next (retire (putV f.d (vecOf fm.width (out.map Prod.fst)) (raiseS (out.foldl (fun a x => a.or x.2) FlagSet.none) v)))))
  ∧ (∀ (f : VForm) (s : State), Ready [f.a, f.b, f.c] [f.d] s →
       let w := vWidth f.ty.toNat
       let t := took f.a s
       (let act := predList (s.maskOf f) w
         let bits := fun (rs : List Bool) => BitVec.ofNat 64 (((List.range (act.zip rs).length).zip (act.zip rs)).map
           (fun y => if (if y.2.1 then y.2.2 else !f.zm && (s.oldPred f.d).getLsbD y.1) then 2 ^ y.1 else 0)).sum
         Issues 0xB3 f.pred (vCheck (vplogRule f) f) s →
         (f.sub.toNat < 16 → exec (.vplog f) s = .next (retire (put f.d
           (bits (predList (plogBits f.sub.toNat (s.peekSrc f.a) (t.peekSrc f.b)) w)) (took f.b t))))
         ∧ (f.sub.toNat = 16 → exec (.vplog f) s = movedWord f w ((activeOf (s.peekSrc f.a) w).map (fun x => if x then 2 ^ w - 1 else 0)) t)
         ∧ (f.sub.toNat = 32 → let a := elemsOf w f.a s
           exec (.vplog f) s = .next (retire (put f.d (bits ((List.range (maskBits w)).map (fun l =>
             ((List.range a.length).zip a).any (fun x => lanePos w x.1 == l && x.2 != 0)))) t))))
       ∧ (Issues 0xB2 f.pred (vCheck countRule f) s →
         exec (.vpcnt f) s = .next (retire (put f.d (BitVec.ofNat 64 (countedBits f (s.peekSrc f.a) t).length) t)))
       ∧ (Issues 0xB4 f.pred (vCheck countRule f) s →
         (∀ l, (countedBits f (s.peekSrc f.a) t).head? = some l →
           exec (.vpfirst f) s = .next (retire (put f.d (BitVec.ofNat 64 (if w ≤ 32 then l * (32 / w) else l)) t)))
         ∧ ((countedBits f (s.peekSrc f.a) t).head? = none → exec (.vpfirst f) s = .next (retire (put f.d (BitVec.ofNat 64 (2048 / w)) t))))
       ∧ (Issues 0xB6 f.pred (vCheck { rule3 (fun t => t == 0 || t == 1 || t == 4 || t == 5) true false with sub := fun x => decide (x < 2) } f) s →
         let u := tookVB f t
         let tb := if f.sub = 1#6 then f.ty ^^^ 4#5 else f.ty
         let lanes := chunksOf (32 / w) 64 ((elemsOf w f.a s).zip (elemsB w f t))
         let v := took f.c u
         exec (.vdot f) s = .next (retire (lanesDone f 32 (activeOf (v.maskOf f) 32) ((lanes.zip (elemsOf 32 f.c u)).map (fun x =>
           let r := intResult 2#5 f.sat (sxInt 32 x.2 + dotLane f.ty tb x.1)
           (r.1.toNat % 2 ^ 32, r.2))) v)))
       ∧ (let fm := floatFmt f.ty.toNat
         let k := f.sub.toNat
         let act := activeOf (s.maskOf f) w
         Issues 0xAC f.pred (vCheck (vsfnRule f) f) s →
         (k < 16 → exec (.vsfn f) s = .next (retire (lanesDone f w act ((elemsOf w f.a s).map (fun x =>
           shippedElem f.ty.toNat k (fdecode fm x))) t)))
         ∧ (∀ slot, 16 ≤ k → (s.task.sfn[k - 16]?).getD none = some slot → formsCover (slot.words.headD 0).toNat f.ty.toNat = true →
           lsCheck .plain slot.off (8 * slot.words.length) s = .ok ((), s) → lsClean slot.off (8 * slot.words.length) s = .ok ((), s) →
           imageAt s.task slot.off slot.words.length = slot.words →
           exec (.vsfn f) s = .next (retire (lanesDone f w act ((elemsOf w f.a s).map (fun x =>
             sfnElem f.ty.toNat (slot.words.getD 1 0).toNat slot.words (fdecode fm x))) t)))
         ∧ (∀ slot, 16 ≤ k → (s.task.sfn[k - 16]?).getD none = some slot → formsCover (slot.words.headD 0).toNat f.ty.toNat = true →
           lsCheck .plain slot.off (8 * slot.words.length) s = .ok ((), s) → lsClean slot.off (8 * slot.words.length) s = .ok ((), s) →
           imageAt s.task slot.off slot.words.length ≠ slot.words →
           exec (.vsfn f) s = .next (retire (lanesDone f w act (quiet (elems (vecBytes ((List.range 256).map (fun i =>
             Config.freeByte (t.free + i)))) w)) { t with free := t.free + 256 }))))
       ∧ (Issues 0xAD f.pred (vCheck { d := .none, a := .s, ty := fun t => t == 0, mask := false, zm := false
                                       imm := fun x => decide (16 ≤ x) && decide (x < 24) } f) s →
         let off := (s.peekSrc f.a).toNat
         let img := imageAt t.task off (imgLen ((imageAt t.task off 1).headD 0).toNat)
         off % 8 = 0 →
         (imageFault t.task off img = none → lsClean off (8 * imgLen ((imageAt t.task off 1).headD 0).toNat) t = .ok ((), t) → exec (.vsfl f) s = .next (retire (modCur (fun t => { t with
           sfn := t.sfn.setIfInBounds (f.imm.toNat - 16) (some ⟨off, img⟩) }) t)))
         ∧ (∀ o, imageFault t.task off img = some o →
           exec (.vsfl f) s = .next (takeTrap fcIllegalOperand 0xAD (BitVec.ofNat 32 o) 0 s))))

/-- R263 to R270: MMA and MMAT, with a format word at the head of q14 and their operands in place, replace the tile by the
products' sums, count a use of the format word and pop the rings they read. R271 to R274, R277 to R279: the words that
clear, read, write and scale a tile, sign it, compare a signature and pop a ring. R275, R276: DRAIN converts every
element of its tile into the job's data and queues the job. -/
def Obligations.TileWords : Prop :=
  (∀ (f : RSys) (s : State) (w : BitVec 64) (h : MmaShape),
     Issues 0xC0 f.pred (sysCheck mmaRule f) s ∨ Issues 0xC1 f.pred (sysCheck mmaRule f) s →
     s.task.q14.head? = some w → gateRings [ringNamed f.ring1, ringNamed f.ring2] s = .ok ((), s) →
     let t := took f.b (took f.a s)
     let z := f.sub.getLsbD 0
     let n := tileNum f.d
     let pops := [(ringNamed f.ring1, f.sub.getLsbD 1), (ringNamed f.ring2, f.sub.getLsbD 2)]
     let ab := rowBytes h.aty h.k
     let run := fun (mmat : Bool) (a b : LsArg) =>
       let r := mmaResult h z mmat (t.tile n) (lsRows t.task a.off h.apitch 64 ab) (lsRows t.task b.off h.bpitch (h.bRows mmat) (rowBytes h.bty (h.bElems mmat)))
       let u := raiseS r.2.1 (modCur Task.useFormat t)
       Host.Outcome.next (retire (popped pops (putTile n { (u.tile n).fill h.mode r.1 with ovf := (u.tile n).ovf || r.2.2 } u)))
     let clean := fun (mmat : Bool) (a b : LsArg) => lsCleanRows a.off h.apitch 64 ab t = .ok ((), t)
       ∧ lsCleanRows b.off h.bpitch (h.bRows mmat) (rowBytes h.bty (h.bElems mmat)) t = .ok ((), t)
     let arg := fun (mmat : Bool) => lsArg t (ringNamed f.ring2) ((took f.a s).peekSrc f.b) (h.bpitch * (h.bRows mmat - 1) + rowBytes h.bty (h.bElems mmat))
     let a := lsArg t (ringNamed f.ring1) (s.peekSrc f.a) (h.apitch * 63 + ab)
     (z = true ∨ (t.tile n).mode = h.mode) → MayPop pops s →
     (Issues 0xC0 f.pred (sysCheck mmaRule f) s → mmaShape false w = some h → checkArgs [a, arg false] t = .ok ((), t) → clean false a (arg false) →
       exec (.mma f) s = run false a (arg false))
     ∧ (Issues 0xC1 f.pred (sysCheck mmaRule f) s → mmaShape true w = some h → checkArgs [a, arg true] t = .ok ((), t) →
       checkBeats a.off h.apitch 64 ab 0 t = .ok ((), t) →
       checkBeats (arg true).off h.bpitch (h.bRows true) (rowBytes h.bty (h.bElems true)) 1 t = .ok ((), t) → clean true a (arg true) →
       exec (.mmat f) s = run true a (arg true)))
  ∧ (∀ (f : RSys) (s : State),
       (Issues 0xC2 f.pred (sysCheck { matRule with d := .tile, sub := fun x => decide (x.toNat < 3) } f) s →
         exec (.aclr f) s = .next (retire (putTile (tileNum f.d) { mode := f.sub.setWidth 2, ovf := false, el := Vector.replicate 4096 0 } s)))
       ∧ (Issues 0xC3 f.pred (sysCheck { matRule with d := .vdst, a := .tile, b := .src, rm := true
                                                      sub := fun x => decide (x.toNat < 64) } f) s → Ready [f.b] [f.d] s →
         let u := took f.b s
         let t := u.tile (tileNum f.a)
         let ty := f.sub.toNat % 32
         ∀ cells, lineCells t.mode (f.sub.getLsbD 5) (s.peekSrc f.b) (halfLine t.mode (f.sub.getLsbD 5) ty) = some cells →
         getTyOk t.mode ty = true →
         let sel := sysSel u f.rm
         let w := vWidth ty
         let rs := ((List.range cells.length).zip cells).map (fun x =>
           leaveTile t.mode ty (modeOf sel (drawnM sel u) (lanePos w x.1) (subPos w x.1) w) t x.2)
         exec (.aget f) s = .next (retire (putV f.d (vecOf w (rs.map Prod.fst)) (raiseS (flagsOf rs) (advancedM sel u)))))
       ∧ (Issues 0xC4 f.pred (sysCheck { matRule with d := .tile, a := .vsrc, b := .src, sub := fun x => decide (x.toNat < 64) } f) s →
         Ready [f.a, f.b] [] s →
         let u := took f.b (took f.a s)
         let n := tileNum f.d
         let t := u.tile n
         let ty := f.sub.toNat % 32
         let v := match f.a with
           | .v k => s.readV k
           | .q k => s.task.headQ k.val
           | _ => 0
         ∀ cells, lineCells t.mode (f.sub.getLsbD 5) ((took f.a s).peekSrc f.b) (t.mode == 2 && f.sub.getLsbD 5) = some cells →
         putTyOk t.mode ty = true →
         exec (.aput f) s = .next (retire (putTile n { t with
           el := ((List.range cells.length).zip cells).foldl (fun (e : Vector (BitVec 66) 4096) (x : Nat × (Nat × Nat)) =>
             e.setIfInBounds (x.2.1 * modeCols t.mode + x.2.2) (BitVec.ofNat 66 (enterTile t.mode ty (elemN v (vWidth ty) x.1)))) t.el } u)))
       ∧ (Issues 0xC5 f.pred (sysCheck { matRule with d := .tile, a := .src, rm := true, sub := fun x => decide (x.toNat < 2) } f) s →
         Ready [f.a] [] s →
         let a := s.peekSrc f.a
         let u := took f.a s
         let n := tileNum f.d
         let t := u.tile n
         t.mode ≠ 1 → (f.sub.getLsbD 0 = true → a.toNat < 2 ^ 16) → (f.sub.getLsbD 0 = false → t.mode = 0 → a.toNat < 2 ^ 32) →
         let sel := sysSel u f.rm
         let k := if f.sub.getLsbD 0 then .fin false 1 (sxInt 16 a.toNat) false
           else if t.mode = 0 then fdecode fmtF32 (a.toNat % 2 ^ 32) else fdecode fmtF64 a.toNat
         let rs := (cellList t.mode).map (fun x =>
           match k with
           | .nan sig => ((modeFmt t.mode).nanBits, if sig then FlagSet.onlyNv else FlagSet.none)
           | k =>
             let e := fmulE (t.val x.1 x.2) k
             let r := fround (modeFmt t.mode) (modeOf sel (drawnM sel u) (x.2 % 64) (x.1 % 4) 32) e.1
             (r.1, e.2.or r.2))
         exec (.ascale f) s = .next (retire (putTile n (t.fill t.mode (rs.map Prod.fst)) (raiseS (flagsOf rs) (advancedM sel u)))))
       ∧ (Issues 0xC7 f.pred (sysCheck { matRule with ring1 := fun r => r.getLsbD 3 } f) s →
         let n := ringField f.ring1
         (s.ringOf n).en = true → (s.ringOf n).headFull = true → Released s →
         exec (.rpop f) s = .next (retire (popped [(some n, false)] s)))
       ∧ (Issues 0xC8 f.pred (sysCheck { matRule with d := .dst, a := .tile, b := .src } f) s → Ready [f.b] [f.d] s →
         exec (.sigt f) s = .next (retire (put f.d (((took f.b s).tile (tileNum f.a)).signature (s.peekSrc f.b)) (took f.b s))))
       ∧ (Issues 0xC9 f.pred (sysCheck { matRule with d := .pred, a := .src, b := .src, sub := fun x => decide (x.toNat < 2)
                                                      imm := fun _ => true } f) s → Ready [f.a, f.b] [] s →
         let a := s.peekSrc f.a
         let b := (took f.a s).peekSrc f.b
         let u := took f.b (took f.a s)
         (a = b → exec (.sigchk f) s = .next (retire (put f.d (BitVec.allOnes 64) u)))
         ∧ (a ≠ b → f.sub.getLsbD 0 = false → exec (.sigchk f) s = .next (retire (let v := put f.d 0 u
             pushEventTo v.task.tid .core (eventOf (eventLow f.imm.toNat 0 fcSigMismatch.toNat 7) a.toNat) v)))
         ∧ (a ≠ b → f.sub.getLsbD 0 = true → exec (.sigchk f) s = .next (takeTrap fcSigMismatch 0xC9 f.imm 0 s)))
       ∧ (Issues 0xCF f.pred (sysCheck { matRule with d := .greg } f) s → ∀ w r, s.task.q14 = w :: r →
         exec (.fmtpop f) s = .next (retire (put f.d w (modCur (fun t => { t with q14 := r, q14uses := 0 }) s)))))
  ∧ (∀ (f : EForm) (s : State) (x : Nat),
       Issues 0xC6 f.pred (eCheck { a := .tile, b := .greg, sub := fun x => decide (x.toNat < 2), wait := true, sig := true, obj := true } f) s →
       s.task.logWait = [] → s.task.jobs < 16 → writesPerformed s.task 2#2 = true → stagedDrains s < 2 →
       let add := f.sub.getLsbD 0
       let h := shapeOf x
       let off := (s.peekSrc f.b).toNat
       let rec_ := bytesNat (s.task.lsRead off 48)
       let chan : Fin 32 := Fin.ofNat 32 (bits rec_ 288 5)
       let t := s.tile (tileNum f.a)
       useObj f.obj 1 drainRank (drainRight add) s = .ok (x, s) → (∃ g, f.b = .g g) → off % 16 = 0 →
       lsCheck .plain off 48 s = .ok ((), s) → lsClean off 48 s = .ok ((), s) → drainRecOk h.rank rec_ = true → drainTyOk t.mode add h.fmt = true →
       s.chans[chan].queue.length < 16 → s.aperture.any (fun x => x.1 == chan.val) = false →
       let sel := roundSel s (BitVec.ofNat 3 (bits rec_ 296 3)) (BitVec.ofNat 4 (bits rec_ 299 4))
       let rs := (cellList t.mode).map (fun c => leaveTile t.mode h.fmt (modeOf sel (drawnM sel s) (c.2 % 64) (c.1 % 4) (vWidth h.fmt)) t c)
       let job : BteJob :=
         { tid := some s.task.tid, tmpl := 0, tag := BitVec.ofNat 32 (bits rec_ 256 32), mask := 0, wait := waitOf f.wmode f.wsem f.wthr
           ssem := f.ssem, sinc := f.sinc, block := false, code := 0, multi := none
           drain := some { shape := f.obj, coord := (List.range h.rank).map (fun d => bits rec_ (32 * d) 32), cols := modeCols t.mode
                           add := add, data := rs.map (fun r => BitVec.ofNat 64 r.1) } }
       let u := raiseS (flagsOf rs) (advancedM sel s)
       exec (.drain f) s = .next (retire (modChan chan (fun c => { c with queue := c.queue ++ [job] })
         { u with task := { u.task with jobs := u.task.jobs + 1 } })))

/-- R280 to R289: the transforms, the spectral multiply, the Legendre stage and the block transpose, once their waits are
served and their local-store operands are in place. -/
def Obligations.TransformWords : Prop :=
  (∀ (f : EForm) (s t : State) (x : Nat), gateWait (waitOf f.wmode f.wsem f.wthr) s = .ok ((), t) →
    (Issues 0xCA f.pred (eCheck { a := .unused, b := .unused, sub := fun x => decide (x.toNat < 4), wait := true, sig := true, obj := true } f) s →
      useObj f.obj 6 (fun _ => true) (fun _ => true) t = .ok (x, t) →
      (planBad x = none → exec (.fftset f) s = signalled 0xCA f.ssem f.sinc.toNat
        (modCur (fun t => { t with plans := t.plans.set (Fin.ofNat 4 f.sub.toNat) (some (BitVec.ofNat 512 x)) }) t))
      ∧ (∀ o, planBad x = some o → exec (.fftset f) s = .next (takeTrap fcIllegalOperand 0xCA (BitVec.ofNat 32 o) 0 s)))
    ∧ (Issues 0xCD f.pred (eCheck { a := .tile, b := .greg, sub := fun x => decide (x.toNat < 4), wait := true, sig := true, obj := true } f) s →
      useObj f.obj 6 legendreOk (fun _ => true) t = .ok (x, t) →
      let l := legendreOf x
      let v := took f.b t
      gateRings [some l.ring] t = .ok ((), t) →
      let p := lsArg v (some l.ring) 0 (l.rows * l.tpitch)
      let fo := lsArg v none (t.peekSrc f.b) ((l.k - 1) * l.fpitch + modeCols l.mode * l.z)
      let n := tileNum f.a
      checkArgs [fo, p] v = .ok ((), v) → lsCleanRows p.off l.tpitch l.rows (l.k * l.z) v = .ok ((), v) →
      lsCleanRows fo.off l.fpitch l.k (modeCols l.mode * l.z) v = .ok ((), v) → MayPop [(some l.ring, f.sub.getLsbD 0)] v → (f.sub.getLsbD 1 = true ∨ (v.tile n).mode = l.mode) →
      let r := shtlResult l (f.sub.getLsbD 1) (v.tile n) (lsRows v.task p.off l.tpitch l.rows (l.k * l.z))
        (lsRows v.task fo.off l.fpitch l.k (modeCols l.mode * l.z))
      exec (.shtl f) s = signalled 0xCD f.ssem f.sinc.toNat (popped [(some l.ring, f.sub.getLsbD 0)]
        (putTile n ((v.tile n).fill l.mode r.1) (raiseS r.2 v)))))
  ∧ (∀ (f : RSys) (s : State),
    (Issues 0xCB f.pred (sysCheck { matRule with a := .greg, b := .greg, sub := fun x => decide (x.toNat < 8), ring1 := ringOpt } f) s →
      gateRings [ringNamed f.ring1] s = .ok ((), s) → 
      let t := took f.b (took f.a s)
      ∀ x, t.task.plans[f.sub.toNat % 4]? = some (some x) →
      let p := planOf x.toNat
      let a := lsArg t (ringNamed f.ring1) (s.peekSrc f.a) ((p.batch - 1) * p.ibatch + p.n * p.es)
      let b := lsArg t none ((took f.a s).peekSrc f.b) ((p.batch - 1) * p.obatch + p.n * p.es)
      checkArgs [a, b] t = .ok ((), t) → lsCleanRows a.off p.ibatch p.batch (p.n * p.es) t = .ok ((), t) →
      MayPop [(ringNamed f.ring1, f.sub.getLsbD 2)] t →
      let ins := (List.range p.batch).map (fun i => bytesElems p.es p.n (t.task.lsRead (a.off + i * p.ibatch) (p.n * p.es)))
      let r := (ins.mapM p.run).run FlagSet.none
      exec (.fftrun f) s = .next (retire (popped [(ringNamed f.ring1, f.sub.getLsbD 2)]
        (modCur (fun t => ((List.range p.batch).zip r.1).foldl (fun (t : Task) (x : Nat × List (BitVec 8)) =>
          t.lsWrite (b.off + x.1 * p.obatch) x.2) t) (raiseS r.2 t)))))
    ∧ (Issues 0xCC f.pred (sysCheck { matRule with a := .greg, b := .greg, c := .greg, sub := fun x => decide (x.toNat < 16)
                                                   ring1 := ringOpt, ring2 := ringOpt, imm := spmulOk (f.sub.getLsbD 0) } f) s →
      gateRings [ringNamed f.ring1, ringNamed f.ring2] s = .ok ((), s) →
      let t := took f.c (took f.b (took f.a s))
      let big := f.sub.getLsbD 0
      let acc := f.sub.getLsbD 1
      let es := if big then 16 else 8
      let n := bits f.imm.toNat 0 13
      let km := bits f.imm.toNat 13 12
      let a := lsArg t (ringNamed f.ring1) (s.peekSrc f.a) (n * es)
      let b := lsArg t (ringNamed f.ring2) ((took f.a s).peekSrc f.b) ((2 * km - 1) * es)
      let c := lsArg t none ((took f.b (took f.a s)).peekSrc f.c) (n * es)
      checkArgs [a, b, c] t = .ok ((), t) → lsClean a.off (n * es) t = .ok ((), t) →
      lsClean b.off ((2 * km - 1) * es) t = .ok ((), t) → lsClean c.off (n * es) t = .ok ((), t) →
      MayPop [(ringNamed f.ring1, f.sub.getLsbD 2), (ringNamed f.ring2, f.sub.getLsbD 3)] t →
      let rd (x : LsArg) (k : Nat) : List CVal := (bytesElems es k (t.task.lsRead x.off (k * es))).map (complexOf big)
      let ws := rd b (2 * km - 1)
      let old := t.task.lsRead c.off (n * es)
      let r := (((List.range n).zip ((rd a n).zip (rd c n))).mapM (fun (x : Nat × CVal × CVal) =>
        let w := if x.1 < km then ws[x.1]? else if n - km < x.1 then ws[x.1 + 2 * km - 1 - n]? else none
        match w with
        | some w => spmulElem big x.2.1 w (if acc then some x.2.2 else none)
        | none => pure (if acc then (old.drop (x.1 * es)).take es else List.replicate es 0))).run FlagSet.none
      exec (.spmul f) s = .next (retire (popped [(ringNamed f.ring1, f.sub.getLsbD 2), (ringNamed f.ring2, f.sub.getLsbD 3)]
        (modCur (fun t => t.lsWrite c.off r.1.flatten) (raiseS r.2 t)))))
    ∧ (Issues 0xCE f.pred (sysCheck { matRule with a := .greg, b := .greg, c := .src, sub := fun x => decide (x.toNat < 2) } f) s →
      Ready [f.c] [] s →
      let t := took f.c (took f.b (took f.a s))
      let a := s.peekSrc f.a
      let b := (took f.a s).peekSrc f.b
      let c := ((took f.b (took f.a s)).peekSrc f.c).toNat
      let n := 256 * c
      a.toNat % 32 = 0 → b.toNat % 32 = 0 → 1 ≤ c → c ≤ 64 → checkArgs [lsArg t none a n, lsArg t none b n] t = .ok ((), t) →
      lsClean a.toNat n t = .ok ((), t) →
      (¬ (a ≠ b ∧ overlaps a.toNat n b.toNat n = true) → exec (.blkt f) s = .next (retire (modCur (fun t => t.lsWrite b.toNat
        ((List.range c).flatMap (fun k => transposeBlock (f.sub.getLsbD 0) (((t.lsRead a.toNat n).drop (256 * k)).take 256)))) t)))
      ∧ (a ≠ b → overlaps a.toNat n b.toNat n = true → exec (.blkt f) s = .next (retire (modCur (fun x => x.lsWrite b.toNat
          ((List.range n).map (fun i => Config.freeByte (t.free + i)))) { t with free := t.free + n })))))

/-- R98, R106, R116, R290, R292, R293: the scalar and vector stores and ZERO, where their address passes its checks. To
the local store they replace exactly their bytes; to memory their bytes go to the home slices as write events. R205,
R206, R294, R295: STVS and SCAT store the elements of the vector one by one, at the strided or indexed addresses. -/
def Obligations.StoreWords : Prop :=
  (∀ (f : MForm) (s : State), s.task.logWait = [] →
     let scalar := fun (op : BitVec 8) (rel : Bool) (r : MRule) (i : Instr) => Issues op f.pred (mCheck r f) s → Ready [f.base, f.index, f.d] [] s →
       (rel = true → writesPerformed s.task f.scope = true) →
       let va := (accessVa f s).toNat
       let t := took f.d (accessT f s)
       let bs := natBytes (sizeBytes f.size) ((accessT f s).peekSrc f.d).toNat
       (∀ u, f.lsel = true → lsCheck .noStash va bs.length t = .ok ((), t) → lsStore va bs t = .ok ((), u) → exec i s = .next (retire u))
       ∧ (∀ ia u v, f.lsel = false → windowIa f.win.toNat va bs.length .w .plain none t = .ok (ia, u) →
         storeMem op f false (f.hint == 1#3) [(va, ia, bs)] u = .ok ((), v) → exec i s = .next (retire v))
     let vector := fun (op : BitVec 8) (drop : Bool) (r : MRule) (i : Instr) => Issues op f.pred (mCheck r f) s → Ready [f.base, f.d] [] s →
       let b := s.peekSrc f.base
       let x := (took f.base s).peekSrc f.index
       let t := took f.d (took f.index (took f.base s))
       let v := match f.d with
         | .v n => (took f.index (took f.base s)).readV n
         | .q n => (took f.index (took f.base s)).task.headQ n.val
         | _ => 0
       ∀ first len, byteRange x = some (first, len) →
       let va := (mBase f b).toNat + first
       let bs := ((bytesOfVec v).drop first).take len
       (∀ u, f.lsel = true → lsCheck .noStash va len t = .ok ((), t) → lsStore va bs t = .ok ((), u) → exec i s = .next (retire u))
       ∧ (∀ ia u w, f.lsel = false → windowIa f.win.toNat (va % 2 ^ 64) len .w .plain none t = .ok (ia, u) →
         storeMem op f false drop [(va % 2 ^ 64, ia, bs)] u = .ok ((), w) → exec i s = .next (retire w))
     scalar 0xD0 false { storeRule with lsel := true, hint := true } (.st f)
     ∧ scalar 0xD1 true { storeRule with scope := true } (.strel f)
     ∧ vector 0xD2 (f.hint == 1#3) { vstoreRule with hint := true } (.stv f)
     ∧ vector 0xE5 true vstoreRule (.stnt f)
     ∧ vector 0xE7 false { vstoreRule with lsel := true, onlyLs := true, tag := false } (.stls f)
     ∧ (Issues 0xE4 f.pred (mCheck { storeRule with dOk := fun _ o => o == .g 0, indexOk := fun _ o => isG o
                                                    size := fun x => x == 0#3, scale := false, tag := false } f) s → Ready [f.base] [] s →
       let va := (mBase f (s.peekSrc f.base)).toNat
       let n := ((took f.base s).peekSrc f.index).toNat
       let t := took f.index (took f.base s)
       va % 128 = 0 → n % 128 = 0 → 128 ≤ n → n ≤ 2 ^ 20 →
       ∀ ia u v, windowIa f.win.toNat va n .w .plain none t = .ok (ia, u) →
         storeMem 0xE4 f false false [(va, ia, List.replicate n 0)] u = .ok ((), v) → exec (.zero f) s = .next (retire v)))
  ∧ (∀ (f : MForm) (s u : State), s.task.logWait = [] → Ready [f.base, f.d] [] s →
       let b := s.peekSrc f.base
       let g := (took f.base s).peekSrc f.index
       let t0 := took f.index (took f.base s)
       let t := took f.d t0
       let v := match f.d with
         | .v n => t0.readV n
         | .q n => t0.task.headQ n.val
         | _ => 0
       let n := 256 / sizeBytes f.size
       (Issues 0xD3 f.pred (mCheck elemRule f) s →
         storeElems 0xD3 f v ((stridedAddrs f b g).map (fun a => some a.toNat)) t = .ok ((), u) → exec (.stvs f) s = .next (retire u))
       ∧ (Issues 0xD4 f.pred (mCheck { elemRule with scale := true } f) s → lsCheck .plain g.toNat (4 * n) t = .ok ((), t) →
         lsClean g.toNat (4 * n) t = .ok ((), t) →
         storeElems 0xD4 f v (indexedAddrs f b (bytesElems 4 n (t.task.lsRead g.toNat (4 * n)))) t = .ok ((), u) →
         exec (.scat f) s = .next (retire u)))

/-- R290, R297 to R299: the atomics deliver the old value, the reductions return none, and the acquire forms act when they
retire. R297: what an atomic operation stores, on 32- and 64-bit integers; the 32-bit operand is the low half. -/
def Obligations.AtomicWords : Prop :=
  (∀ (f : MForm) (s : State), s.task.logWait = [] → (f.ord.getLsbD 1 = true → writesPerformed s.task f.scope = true) →
     let va := (mBase f (s.peekSrc f.base)).toNat
     let n := sizeBytes f.size
     let t0 := took f.base s
     let t := took f.index t0
     let y := t0.peekSrc f.index
     let v := match f.index with
       | .v k => t0.readV k
       | .q k => t0.task.headQ k.val
       | _ => 0
     let acq := fun (u : State) => if f.ord.getLsbD 0 then acquireAt f.scope u else u
     (Issues 0xD5 f.pred (mCheck { atomicRule with dOk := fun s o => if f.opk = 9#4 then isG o else dstOk s o
                                                   opk := fun x => decide (x.toNat ≤ 0xC), ord := fun _ => true } f) s →
       Ready [f.base, f.index] [f.d] s → ∀ ia u x w, atomicIa f va none t = .ok (ia, u) →
       let e := match f.d with
         | .g k => s.readG k
         | _ => 0
       atomicReply f ia y.toNat e.toNat u = .ok (x, w) →
       exec (.amo f) s = .next (retire (acq (put f.d (BitVec.ofNat 64 x) w))))
     ∧ (Issues 0xD7 f.pred (mCheck atomicRule f) s → Ready [f.base, f.index] [] s → ∀ ia u w, atomicIa f va none t = .ok (ia, u) →
       reduceMem 0xD7 f [(va, ia, y.toNat)] u = .ok ((), w) → exec (.red f) s = .next (retire w))
     ∧ (∀ ias u, Ready [f.base, f.index] [] s → 
       (Issues 0xD6 f.pred (mCheck { atomicRule with dOk := fun _ o => isG o, indexOk := dataQ, ord := fun _ => true } f) s →
         let d := t.peekSrc f.d
         let t' := took f.d t
         atomicIas f va t' = .ok (ias, u) → d.toNat % 32 = 0 → lsCheck .plain d.toNat 256 u = .ok ((), u) →
         ∀ olds w x, ((List.range ias.length).zip ias).mapM (fun (x : Nat × Nat) => atomicReply f x.2 (elemN v (8 * n) x.1) 0) u = .ok (olds, w) →
         lsStore d.toNat (elemsBytes n olds) w = .ok ((), x) → exec (.amov f) s = .next (retire (acq x)))
       ∧ (Issues 0xD8 f.pred (mCheck { atomicRule with indexOk := dataQ } f) s → atomicIas f va t = .ok (ias, u) →
         ∀ w, reduceMem 0xD8 f (((List.range ias.length).zip ias).map (fun (x : Nat × Nat) => ((va + x.1 * n) % 2 ^ 64, x.2, elemN v (8 * n) x.1))) u = .ok ((), w) →
         exec (.redv f) s = .next (retire w))))
  ∧ (∀ (n old x e : Nat), n = 4 ∨ n = 8 → let w := 8 * n
       let a : Int := sxInt w (old % 2 ^ w)
       let b : Int := sxInt w (x % 2 ^ w)
       atomicNew 0 n old x e = (old + x) % 2 ^ w
       ∧ atomicNew 1 n old x e = (old &&& x) % 2 ^ w
       ∧ atomicNew 2 n old x e = (old ||| x) % 2 ^ w
       ∧ atomicNew 3 n old x e = (old ^^^ x) % 2 ^ w
       ∧ sxInt w (atomicNew 4 n old x e) = min a b
       ∧ sxInt w (atomicNew 5 n old x e) = max a b
       ∧ atomicNew 6 n old x e = min (old % 2 ^ w) (x % 2 ^ w)
       ∧ atomicNew 7 n old x e = max (old % 2 ^ w) (x % 2 ^ w)
       ∧ atomicNew 8 n old x e = x % 2 ^ w
       ∧ atomicNew 9 n old x e = (if old % 2 ^ w = e % 2 ^ w then x else old) % 2 ^ w)

/-- R300 to R302, R365, R441: RSTV enters the S-stream send queue, RRPUT enters it and waits until its put has been
applied, SFLUSH writes the dirty lines of its range back and waits until those writes are acknowledged or logged. -/
def Obligations.RemoteStoreWords : Prop :=
  (∀ (f : MForm) (s : State), Issues 0xE2 f.pred (mCheck { vstoreRule with ord := fun x => x == 0#2 || x == 2#2, scope := true, disp := false } f) s →
    Ready [f.base, f.d] [] s → s.task.logWait = [] → (f.ord.getLsbD 1 = true → writesPerformed s.task f.scope = true) →
    s.task.sendS.length < 16 → s.offDie s.task < 64 →
    let va := (s.peekSrc f.base).toNat
    let x := (took f.base s).peekSrc f.index
    let t0 := took f.index (took f.base s)
    let t := took f.d t0
    let v := match f.d with
      | .v n => t0.readV n
      | .q n => t0.task.headQ n.val
      | _ => 0
    let off := bits x.toNat 32 21
    va % 64 = 0 → bits x.toNat 53 11 = 0 → bits x.toNat 16 16 = 0 → off % 32 = 0 →
    ∀ ia u, windowIa f.win.toNat va 64 .a .atomic none t = .ok (ia, u) →
    exec (.rstv f) s = .next (retire (modCur (fun t => { t with
      sendS := t.sendS ++ [.rstv t.wnext ⟨t.tid, ia, x.setWidth 16, BitVec.ofNat 21 off, v, f.tag, s.pkg, t.core⟩]
      wnext := t.wnext + 1 }) u)))
  ∧ (∀ (f : EForm) (s : State),
    Issues 0xE6 f.pred (eCheck { a := .src, b := .src, sub := fun x => decide (x.toNat < 8), wait := true, sig := true, obj := false } f) s →
    (s.strm.wait = some .reply → s.task.sendS = [] →
      exec (.rrput f) s = .next (retire (modStrm (fun r => { r with semw := none }) s)))
    ∧ (s.strm.wait = some .reply → s.task.sendS ≠ [] → exec (.rrput f) s = .next (setWait .reply s))
    ∧ (s.strm.wait ≠ some .reply → (s.strm.srcs = none → Ready [f.a, f.b] [] s) →
      ∀ va vb t ia x, (keptSources [f.a, f.b] s).1 = [va, vb] → (keptSources [f.a, f.b] s).2.task.logWait = [] →
      gateWait (waitOf f.wmode f.wsem f.wthr) (keptSources [f.a, f.b] s).2 = .ok ((), t) →
      s.task.sendS.length < 16 → t.offDie t.task < 64 →
      let b := vb.toNat
      let ring : Fin 8 := Fin.ofNat 8 (bits b 16 3)
      let len := 256 * bits b 19 12
      let off := bits b 32 21
      bits b 31 1 = 0 → bits b 53 11 = 0 → len ≠ 0 → off % 32 = 0 → NamesObject f.sub.toNat va 64 64 .a ia t →
      let u := reachedOut (iaPkg ia) t
      lsCheck .plain off len u = .ok ((), u) →
      rankTask s ia (bits b 0 16) = some x → x.rings[ring].en = true → len ≤ ringSlotBytes x.rings[ring].cfg →
      lsClean off len u = .ok ((), u) → writesPerformed s.task (scopeTo s (some x)) = true →
      exec (.rrput f) s = .next (setWait .reply (modStrm (fun r => { r with
          semw := (waitOf f.wmode f.wsem f.wthr).map (fun w => { w with granted := true }) })
        (modCur (fun t => { t with sendS := t.sendS ++
          [.rrput ⟨t.tid, ia, BitVec.ofNat 16 (bits b 0 16), ring, s.task.lsRead off len, f.ssem, f.sinc.toNat, s.pkg, t.core⟩] }) u)))))
  ∧ (∀ (f : RSys) (s : State),
    Issues 0xE1 f.pred (sysCheck { d := .unused, a := .src, b := .src, c := .src, sub := fun x => x == 0#8 } f) s →
    (s.strm.await.isSome = true →
      let rest := openStill [] s.task.unacked s
      exec (.sflush f) s = .next (if rest = [] then retire (awaiting rest s) else setWait .fence (awaiting rest s)))
    ∧ (s.strm.await.isSome = false → (s.strm.srcs = none → Ready [f.a, f.b, f.c] [] s) →
      ∀ va vb vc, (keptSources [f.a, f.b, f.c] s).1 = [va, vb, vc] →
      let a := va.toNat
      ∀ m, s.task.stash.find? (fun m => m.num == a) = some m →
      let lo := if vc.toNat = 0 then 0 else vb.toNat
      let n := if vc.toNat = 0 then m.len else vc.toNat
      lo < m.len → lo + n ≤ m.len →
      let lines := (s.task.dirtyLines (fun _ => true)).filter (fun x => x.1.num == a && decide (x.2 < lo + n) && decide (lo < x.2 + 128))
      ∀ ids u, lines.mapM (fun x => writeBackLine s.task.tid x.1 x.2) (keptSources [f.a, f.b, f.c] s).2 = .ok (ids, u) →
      let rest := openStill ids u.task.unacked u
      exec (.sflush f) s = .next (if rest = [] then retire (awaiting rest u) else setWait .fence (awaiting rest u))))

/-- R303 to R309: the sketch words: SKUPD adds every element to every row, SKQRY writes medians, SKADD adds two sketches,
SKCLR zeroes one, SKSTAT reads a descriptor's second quarter. R304, R306: a counter update at its home slice adds with
saturation to the int32 range and marks the sketch when it saturated. R310, R311: UOP and UCVT compute each element of
the local-store arrays, in order, and write the results at D; a destination that overlaps a source otherwise than
exactly receives undefined bytes. R12, R310: what UOP and UCVT leave at D: the results with their flags raised, or
bytes that nothing constrains. -/
def Obligations.SketchWords : Prop :=
  ((∀ (f : EForm) (s t : State) (x : Nat), gateWait (waitOf f.wmode f.wsem f.wthr) s = .ok ((), t) →
     let sig := fun (u : State) => agentSignal { mkind := 6, unit := 0, stream := 3 } u.task.tid u.task.tid f.ssem f.sinc.toNat u
     (Issues 0xD9 f.pred (eCheck sketchRule f) s → Ready [f.a, f.b] [] s → useObj f.obj 5 sketchOk skUpd t = .ok (x, t) →
       ∀ off idx u v, sketchElems f t = .ok ((off, idx), u) → lsClean off (4 * idx.length) u = .ok ((), u) →
       (idx.zip ((bytesElems 4 idx.length (u.task.lsRead off (4 * idx.length))).map (fdecode fmtF32))).forM
         (fun p => sketchElem f.obj x p.1 p.2) u = .ok ((), v) →
       exec (.skupd f) s = .next (retire (sig v)))
     ∧ (Issues 0xDA f.pred (eCheck sketchRule f) s → Ready [f.a, f.b] [] s → useObj f.obj 5 sketchOk skRd t = .ok (x, t) →
       ∀ off idx u es v, sketchElems f t = .ok ((off, idx), u) → idx.mapM (sketchEst x) u = .ok (es, v) →
       let fs := es.map (fun e => fround fmtF32 .rne (ofScaled e (skScale x) false))
       exec (.skqry f) s = signalled 0xDA f.ssem f.sinc.toNat
         (modCur (fun t => t.lsWrite off (elemsBytes 4 (fs.map Prod.fst))) (raiseS (flagsOf fs) v)))
     ∧ (Issues 0xDB f.pred (eCheck { sketchRule with b := .unused, sub := fun x => x == 0#4 } f) s → Ready [f.a] [] s →
       useObj f.obj 5 sketchOk skUpd t = .ok (x, t) →
       let a := t.peekSrc f.a
       let t' := took f.a t
       bits a.toNat 16 48 = 0 → ∀ y cs u v, useObj (a.setWidth 16) 5 sketchOk skRd t' = .ok (y, t') → sketchGeom y = sketchGeom x →
       readSketch t'.self y t' = .ok (cs, u) →
       ((sketchPlaces x).zip cs).forM (fun p => sketchApply t'.self f.obj x p.1.1 p.1.2 p.2) u = .ok ((), v) →
       exec (.skadd f) s = .next (retire (sig (if bitN y 127 then setSketchSat f.obj true v else v))))
     ∧ (Issues 0xDC f.pred (eCheck { sketchRule with a := .unused, b := .unused, sub := fun x => x == 0#4 } f) s →
       useObj f.obj 5 sketchOk skUpd t = .ok (x, t) →
       ∀ tags u, writeIa t.self (skBase x) (List.replicate (4 * sketchCount x) 0) t = .ok (tags, u) →
       exec (.skclr f) s = .next (retire (sig (setSketchSat f.obj false u)))))
   ∧ (∀ (f : RSys) (s : State) (x : Nat),
     Issues 0xE3 f.pred (sysCheck { nopRule with d := .dst, sub := fun x => decide (x.toNat < 2), imm := objImm } f) s →
     Ready [] [f.d] s → useObj (f.imm.setWidth 16) 5 sketchOk skRd s = .ok (x, s) →
     let t := put f.d (BitVec.ofNat 64 (bits x 64 64)) s
     exec (.skstat f) s = .next (retire (if f.sub = 1#8 then setSketchSat (f.imm.setWidth 16) false t else t))))
  ∧ (∀ (a b : Int), -(2 ^ 31 : Int) ≤ a → a < 2 ^ 31 →
       (satCounter a b).1 = max (-(2 ^ 31)) (min (2 ^ 31 - 1) (a + b))
       ∧ ((satCounter a b).2 = true ↔ a + b < -(2 ^ 31) ∨ 2 ^ 31 ≤ a + b))
  ∧ (∀ (f : RAlu) (s : State),
       (let fn := f.sub.toNat % 64
         let uses := (uopUses fn).getD (false, false)
         let sb := f.sub.getLsbD 6
         let sc := f.sub.getLsbD 7
         Issues 0xDD f.pred (updCheck .greg .greg (uopUse uses.1 sb) (uopUse uses.2 sc) (scalarFloatTy f.ty)
           ((uopUses fn).isSome && (uses.1 || !sb) && (uses.2 || !sc)) f) s →
         Ready ((if uses.1 then [f.b] else []) ++ (if uses.2 then [f.c] else [])) [] s →
         let n := f.imm.toNat
         let z := tyBytes f.ty.toNat
         let d := s.peekSrc f.d
         let a := (took f.d s).peekSrc f.a
         let b := (took f.a (took f.d s)).peekSrc f.b
         let c := (took f.b (took f.a (took f.d s))).peekSrc f.c
         let t := took f.c (took f.b (took f.a (took f.d s)))
         let lsB := uses.1 && !sb
         let lsC := uses.2 && !sc
         let arrays := [a] ++ (if lsB then [b] else []) ++ (if lsC then [c] else [])
         d.toNat % z = 0 → a.toNat % z = 0 → (lsB = true → b.toNat % z = 0) → (lsC = true → c.toNat % z = 0) →
         lsChecks ((arrays ++ [d]).map (fun x => (.any, x.toNat, z * n))) t = .ok ((), t) →
         ∀ as bs cs u v w, uopOperand true false a f.ty n t = .ok (as, u) → uopOperand uses.1 sb b f.ty n u = .ok (bs, v) →
         uopOperand uses.2 sc c f.ty n v = .ok (cs, w) →
         let sel := roundSel s f.rm f.rbm1
         let fm := floatFmt f.ty.toNat
         let rs := ((List.range n).zip (as.zip (bs.zip cs))).map (fun x =>
           let mode := updMode sel (drawn sel w) fm.width x.1
           let e := uopE fn (mode == .rdn) x.2.1 x.2.2.1 x.2.2.2
           let r := fround fm mode e.1
           (r.1, e.2.or r.2))
         ∀ y, updWrite (arrays.any (fun x => x != d && overlaps d.toNat (z * n) x.toNat (z * n))) d.toNat z rs (advanced sel w) = .ok ((), y) →
         exec (.uop f) s = .next (retire y))
       ∧ (Issues 0xDE f.pred (updCheck .greg .greg .unused .unused (decide (f.ty.toNat ≤ 0x11))
           (decide (f.sub.toNat < 32) && ucvtPair f.sub.toNat f.ty.toNat) f) s →
         let n := f.imm.toNat
         let src : BitVec 5 := f.sub.setWidth 5
         let zs := tyBytes src.toNat
         let zd := tyBytes f.ty.toNat
         let d := s.peekSrc f.d
         let a := (took f.d s).peekSrc f.a
         let t := took f.a (took f.d s)
         d.toNat % zd = 0 → a.toNat % zs = 0 → lsChecks [(.any, a.toNat, zs * n), (.any, d.toNat, zd * n)] t = .ok ((), t) →
         ∀ bs u y, lsLoad a.toNat (zs * n) t = .ok (bs, u) →
         let sel := roundSel s f.rm f.rbm1
         let rs := ((List.range n).zip (bytesElems zs n bs)).map (fun x => ucvtElem f.ty src (updMode sel (drawn sel u) (8 * zd) x.1) x.2)
         updWrite (overlaps d.toNat (zd * n) a.toNat (zs * n) && !(d == a && zd == zs)) d.toNat zd rs (advanced sel u) = .ok ((), y) →
         exec (.ucvt f) s = .next (retire y)))
  ∧ (∀ (bad : Bool) (d z : Nat) (rs : List (Nat × FlagSet)) (s : State), s.task.stash = [] →
       updWrite bad d z rs s = .ok ((), if bad
         then modCur (fun t => t.lsWrite d ((List.range (z * rs.length)).map (fun i => Config.freeByte (s.free + i)))) { s with free := s.free + z * rs.length }
         else modCur (fun t => t.lsWrite d (elemsBytes z (rs.map Prod.fst))) (raiseS (flagsOf rs) s)))

/-- R313, R314: NFCHK reports to the gate, and SCOMMIT of a step that the gate's generation has passed, or has not
reached, returns at once with the status the gate gives it; one that is held retires with the decision's status. -/
def Obligations.GateWords : Prop :=
  (∀ (f : EForm) (s t v w : State) (ia : Nat) (bs : List (BitVec 8)),
    Issues 0xDF f.pred (eCheck { sketchRule with sub := fun x => decide (x.toNat < 8), obj := false } f) s →
    Ready [f.a, f.b] [] s → s.task.logWait = [] → gateWait (waitOf f.wmode f.wsem f.wthr) s = .ok ((), t) →
    writesPerformed t.task 3#2 = true →
    let va := t.peekSrc f.a
    let b := ((took f.a t).peekSrc f.b).toNat
    let off := bits b 0 21
    let n := bits b 32 20
    let ty := bits b 56 5
    let t' := took f.b (took f.a t)
    va.toNat % 64 = 0 → bits b 21 11 = 0 → bits b 52 4 = 0 → bits b 61 3 = 0 → n ≠ 0 → scalarFloatTy (BitVec.ofNat 5 ty) = true →
    NamesObject f.sub.toNat va 64 64 .a ia t' →
    let u := reachedOut (iaPkg ia) t'
    lsCheck .any off (tyBytes ty * n) u = .ok ((), u) →
    lsLoad off (tyBytes ty * n) u = .ok (bs, v) →
    gateReport v.self ia ((bytesElems (tyBytes ty) n bs).any (isNonfinite (floatFmt ty))) v = .ok ((), w) →
    exec (.nfchk f) s = signalled 0xDF f.ssem f.sinc.toNat (l1DropLines w.task.core [lineOf ia] w))
  ∧ (∀ (f : EForm) (s : State) (va vb : BitVec 64),
    Issues 0xE0 f.pred (eCheck { sketchRule with b := .greg, sub := fun x => decide (x.toNat < 8), obj := false } f) s →
    (s.strm.srcs = none → Ready [f.a, f.b] [] s) → (keptSources [f.a, f.b] s).1 = [va, vb] →
    let v := (keptSources [f.a, f.b] s).2
    let w := waitOf f.wmode f.wsem f.wthr
    let done := fun (reply : BitVec 64) (u : State) =>
      let x := acquireAt 3#2 (put f.b reply (modStrm (fun r => { r with semw := none }) u))
      if reply.toNat % 4 = 1 then signalled 0xE0 f.ssem f.sinc.toNat x else .next (retire x)
    let held := fun (u : State) => Host.Outcome.next (setWait .gate (if u.strm.wait = some .gate then u
      else modStrm (fun r => { r with semw := w.map (fun w => { w with granted := true }) }) u))
    (∀ c, commitOf v v.task.tid = some c →
      (c.reply = none → exec (.scommit f) s = held v)
      ∧ (∀ r, c.reply = some r → exec (.scommit f) s = done r (dropCommit c v)))
    ∧ (∀ t ia answer x, commitOf v v.task.tid = none → gateWait w v = .ok ((), t) → NamesObject f.sub.toNat va 64 64 .a ia t →
      atHome v.self ia (fun b => gateRequest b v.task.tid ia (vb.toNat % 2 ^ 32)) (reachedOut (iaPkg ia) t) = .ok (answer, x) →
      (∀ r, answer = some r → exec (.scommit f) s = done r x)
      ∧ (∀ c, answer = none → commitOf x v.task.tid = some c → x.task.tid = v.task.tid →
        (c.reply = none → exec (.scommit f) s = held x)
        ∧ (∀ r, c.reply = some r → exec (.scommit f) s = done r (dropCommit c x)))))
  ∧ (∀ (by_ : Requester) (u r0 r1 r2 r3 r4 r5 : State) (tid ia step w0 w1 b0 b1 size : Nat),
    recallLine (lineOf ia) true none u = .ok ((), r0) →
    gateWord by_ ia 0 r0 = .ok (w0, r1) → gateWord by_ ia 1 r1 = .ok (w1, r2) → gateWord by_ ia 2 r2 = .ok (b0, r3) →
    gateWord by_ ia 3 r3 = .ok (b1, r4) → gateWord by_ ia 4 r4 = .ok (size, r5) →
    bits w0 32 16 ≠ 0 → b0 % 65536 = 0 → b1 % 65536 = 0 → size % 65536 = 0 →
    let gen := bits w1 0 32
    ((step + 1) % 2 ^ 32 = gen → gateRequest by_ tid ia step u = .ok (some (gateStatus w1 (bits w1 33 2)), r5))
    ∧ ((step + 1) % 2 ^ 32 ≠ gen → step ≠ gen → gateRequest by_ tid ia step u = .ok (some (gateStatus w1 3), r5)))

/-- R27, R28, R134, R420: control reaches a section: a bad header traps ILLEGAL_ENCODING, an unmet dependency holds the
stream, and else the section begins at its first word. Where control reaches a lead unit, the unit has to be zero.
R63: with TRAPSEC.V set a trap writes TRAPCAUSE and TRAPPC, clears TRAPSEC.V and goes to the header at TRAPSEC.ADDR;
the threshold a consuming wait had taken and the elements a held word had popped are given back before. -/
def Obligations.SectionAndTrapEntry : Prop :=
  (∀ (st : Stream) (s : State) (hs : List (BitVec 8)),
     let u := { s with cur := st }
     let lead := if u.strm.arrive = .atLead then u.strm.pc else u.strm.pc - 4
     let h := bytesNat hs
     u.strm.fin = false → u.strm.arrive ≠ .inSection → (u.strm.arrive = .atLead → fetchUnits u lead 1 = .bytes [0, 0, 0, 0]) →
     fetchUnits u (lead + 4) 2 = .bytes hs →
     (∀ b, headerFault h = some b → exec (.sectionEntry st) s = .next
       { takeTrapAt fcIllegalEncoding 0 (BitVec.ofNat 32 (0x40000000 + b)) (lead + 4) (lead + 4) u with cur := s.cur })
     ∧ (∀ d, headerFault h = none → unmetDep u h = some d → exec (.sectionEntry st) s = .next
       { modStrm (fun r => { r with wait := some (.dep d) }) u with cur := s.cur })
     ∧ (headerFault h = none → unmetDep u h = none → exec (.sectionEntry st) s = .next
       { modStrm (fun r => { r with
           sec := ⟨lead, BitVec.ofNat 16 h, BitVec.ofNat 12 (bits h 16 12), bitN h 28, bitN h 29⟩
           arrive := .inSection, pc := lead + 12, wait := none }) u with cur := s.cur }))
  ∧ (∀ (st : Stream) (code op : BitVec 8) (info : BitVec 32) (s : State),
       let u := refundWait { s with cur := st }
       u.strm.trapsec.getLsbD 0 = true → code ≠ fcCircuitFail →
       exec (.trapEntry st code op info) s = .next { modStrm (fun r => { r with
         trapcause := info ++ 0#16 ++ op ++ code, trappc := s.task.strm st |>.pc, trapsec := r.trapsec &&& ~~~1#64
         pc := r.trapsec &&& ~~~3#64, arrive := .atHeader, wait := none, semw := none, swaitSig := false, await := none, srcs := none }) u with cur := s.cur })

/-- R63, R400, R402, R416, R467: with TRAPSEC.V clear the task freezes with the trap's fault, and so it does at any trap
for a lost circuit; an unassigned opcode is such a trap in every stream. R400, R402: a frozen task's context is kept
in a context area and in the first free entry of the frozen-context table, which names the area, and its record says
so; a BREAKPOINT freeze keeps the task for the host, and its node's policy does not run, but for a graph that has
failed already, which becomes idle with its last task (R457). R402, R403, R457: the host resumes a BREAKPOINT task,
which joins its node's resume queue, or releases a frozen context, which frees its entry; zero written to a frozen-job
slot frees it. -/
def Obligations.FreezingTasks : Prop :=
  ((∀ (st : Stream) (code op : BitVec 8) (info : BitVec 32) (s : State),
     let u := refundWait { s with cur := st }
     (u.strm.trapsec.getLsbD 0 = false ∨ code = fcCircuitFail) →
     exec (.trapEntry st code op info) s = .next
       { freezeTask s.task.tid ⟨code, op, some st, 0, info, 0⟩ 0 (s.task.strm st).pc u with cur := s.cur })
   ∧ ∀ (op : BitVec 8) (rest : BitVec 88) (s : State),
     exec (.unassignedOpcode op rest) s = .next (takeTrap fcIllegalOpcode op 0 0 s))
  ∧ (∀ (s : State) (t : Task) (f : FreezeCause) (n : Nat),
       ownTask? s t.tid = some t → t.status = .resident → f.code = fcBreakpoint →
       findBelow (fun n => match s.frozen[n]? with | some e => !e.v | none => false) 16 = some n →
       let v := stopEngines t.tid (discardUnretired t.tid (unqueue t.tid s))
       let pc := match f.st with | some st => (t.strm st).pc | none => 0
       let u := addRecord (ofTask v t
         { code := f.code, sev := 1, mkind := 1, op := f.op, also := f.also, kept := true
           stream := match f.st with | some st => streamNum st | none => 7
           addr := f.addr, info := f.info, tag := 0, pc := pc }) v
       let w := keepContext t.tid true (modTask t.tid (fun t => { t with status := .frozen, bkpt := true }) u)
       exec (.taskFreeze t.tid f) s = .next (settleFailed t.slot { w with
         frozen := w.frozen.setIfInBounds n ⟨t.tid, true, true, (((ownTask? w t.tid).bind (·.area)).map w.areaIa).getD 0⟩ }))
  ∧ ((∀ (s : State) (n : Fin 16) (t : Task) (ctx : Nat), s.frozen[n.val]? = some ⟨t.tid, true, true, ctx⟩ →
       getTask? s t.tid = some t → (getSlot s t.slot).failed = false → (getSlot s t.slot).running ≠ none →
       exec (.frozenResume n) s = .next (modNode t.slot t.node (fun nd => { nd with resume := nd.resume ++ [t.tid] })
         (modTask t.tid (fun t => { t with status := .saved, bkpt := false })
           { s with frozen := s.frozen.setIfInBounds n.val ⟨0, false, false, 0⟩ })))
     ∧ (∀ (s : State) (n : Fin 16) (tid ctx : Nat) (b : Bool), s.frozen[n.val]? = some ⟨tid, b, true, ctx⟩ →
       let u := { s with frozen := s.frozen.setIfInBounds n.val ⟨0, false, false, 0⟩ }
       exec (.frozenRelease n) s = .next (modTask tid (fun t => { t with status := .ended })
         (if b then applyPolicy tid fcBreakpoint u else removeFromGroups tid u)))
     ∧ (∀ (s : State) (die : Fin 8) (j : Fin 4), exec (.frozenJobSlotFree die j) s = .next
         { s with frozenJobs := s.frozenJobs.setIfInBounds (4 * die.val + j.val) ⟨0, 0, 0, false⟩ }))

/-- R20, R21, R62: what a task holds at launch: every register zero, each stream at its node's entry point with its trap
section and its seed, four streams unfinished, and nothing pending. R21, R59, R352: the tile at the head of an idle
core's queue starts; a declared ring that is invalid freezes the task before its first instruction. R22, R120: a task
ends when its streams have finished and nothing of it is pending: its dirty copies are written back first and the
guards it still holds are released, and a task that cannot end yet is not ended. -/
def Obligations.TaskLife : Prop :=
  (∀ (core slot node : Nat) (tile step patch : BitVec 64) (n : NodeSt) (s u : State) (t : Task),
     launchTask core slot node tile n step patch s = .ok (t, u) →
     (∀ st : Stream,
       let r := t.strm st
       let trap := BitVec.ofNat 64 (n.word (11 + streamNum st))
       r.pc = BitVec.ofNat 64 (n.word (streamNum st)) ∧ r.g = Vector.replicate 32 0 ∧ r.p = Vector.replicate 8 0 ∧ r.fin = false
       ∧ r.trapsec = (if trap = 0 then 0 else (trap &&& ~~~3#64) ||| 1#64) ∧ r.trapcause = 0 ∧ r.trappc = 0
       ∧ r.seed = launchSeed tile step (BitVec.ofNat 64 (slot % 64 * 4096 + node % 4096)) st)
     ∧ t.status = .resident ∧ t.core = core ∧ t.tile = tile ∧ t.step = step ∧ t.patch = patch ∧ t.v = Vector.replicate 32 0
     ∧ t.jobs = 0 ∧ t.sidelog = [] ∧ t.stash = [] ∧ t.bindings = [])
  ∧ (∀ (core slot node : Nat) (tile : BitVec 64) (n : NodeSt) (s u : State) (t : Task),
       (s.cores[core]?).bind (fun c => c.queue.head?) = some (.tile slot node tile) → (getSlot s slot).nodes[node]? = some n →
       coreIdle s core = true →
       launchTask core slot node tile n (getSlot s slot).stepPatch.1 (getSlot s slot).stepPatch.2 s = .ok (t, u) →
       let v := noteSaved t.tid (l1Drop core (addTask t { popQueue core u with nextTask := u.nextTask + 1, taskSeq := u.taskSeq + 1 }))
       exec (.taskStart core) s = .next (match badRing t with
         | none => v
         | some r => freezeTask t.tid ⟨fcRingMisuse, 0, none, 0, ringInfo r.val 4, 0⟩ 0 0 v))
  ∧ (∀ (s u v : State) (tid : Nat) (t t' : Task) (ns : List Nat),
       getTask? s tid = some t →
       (mayEnd t = false → exec (.taskEnd tid) s = .next s)
       ∧ (mayEnd t = true → writeBackLines tid (fun _ => true) s = .ok (ns, u) → getTask? u tid = some t' →
         (mayEnd t' = false → exec (.taskEnd tid) s = .next u)
         ∧ (mayEnd t' = true → releaseGuards tid t'.guards u = .ok ((), v) → exec (.taskEnd tid) s = .next (endTask tid v))))

/-- R47, R48, R347, R358, R458: a due pre-emption gives lower items back at once; a started Damask membership delays the
rest, and else the victim is saved and queued for resumption; with no context area left it runs on and one record is
written. R49, R356, R357, R359: the distributor deals the best item to the core of the placement set that the weights
pick; a saved task resumes from its context area on the core whose queue it heads. -/
def Obligations.PlacingTasks : Prop :=
  (∀ (s : State) (slot node : Nat) (t : Task), preemptDue s slot node = some t →
     let u := if (pendingVictim s slot node).isSome then s
       else clearQueue t.core (getSlot s slot).prio { s with victims := [(slot, node, t.tid)] }
     (damaskHolds u t.tid = true → exec (.preemption slot node) s = .next u)
     ∧ (damaskHolds u t.tid = false → areaFree u = true → exec (.preemption slot node) s = .next
       (modNode t.slot t.node (fun n => { n with resume := n.resume ++ [t.tid] })
         (saveTask t.tid { u with preemptFail := false, victims := [] })))
     ∧ (damaskHolds u t.tid = false → areaFree u = false → exec (.preemption slot node) s = .next
       (addTaskRecord t.tid { code := fcPreemptFail, sev := 0, mkind := 1 } { u with preemptFail := true, victims := [] })))
  ∧ ((∀ (s : State) (slot node core : Nat) (n n' : NodeSt) (item : QItem) (cur : List Int),
       nextPick s = some (slot, node, n) → n.take slot node = some (item, n') →
       pickCore s n (((getSlot s slot).running.map (·.weights)).getD []) = some (core, cur) →
       exec .distributorPick s = .next (enqueue core item (modNode slot node (fun _ => { n' with cur := cur }) s)))
     ∧ (∀ (s : State) (core slot node tid : Nat),
       (s.cores[core]?).bind (fun c => c.queue.head?) = some (.resume slot node tid) → coreIdle s core = true →
       s.task.tid = tid → s.task.status = .saved → s.task.poisoned = false →
       let v := takeContext tid (popQueue core s)
       let t' := { v.task with status := .resident, core := core, speed := BitVec.ofNat 64 (v.speedOf core) }
       let w := l1Drop core { v with task := t', preemptFail := false }
       exec (.taskResume core) s = .next
         (modTask tid (fun t => { t with savedQueue := [], savedProgQueue := [] }) (requeueJobs w.task w))))

/-- R36, R37, R39, R41: in one cycle a counter takes its signals in the order of the agents and then serves its waiters;
the oldest held event enters q15 as soon as q15 has room. R451, R452: a deadlock that is certain freezes the task
after 4,096 cycles; a suspected stall is reported once, or freezes it where STALLFRZ is set. -/
def Obligations.SemaphoresEventsAndStalls : Prop :=
  ((∀ (s : State) (tid : Nat) (k : BitVec 8) (x y : SemSignal), agentOrder x.agent < agentOrder y.agent →
     exec (.semaphoreWaitSatisfied tid k [y, x]) s = exec (.semaphoreWaitSatisfied tid k [x, y]) s
     ∧ exec (.semaphoreWaitSatisfied tid k [x, y]) s = .next (serveWaiters tid k (addSignal tid k y (addSignal tid k x s))))
   ∧ (∀ (s : State) (k : BitVec 8) (x : SemSignal), s.task.status = .resident → s.task.sem k + x.inc < 2 ^ 32 →
     exec (.semaphoreWaitSatisfied s.task.tid k [x]) s = .next (serveWaiters s.task.tid k
       (modCur (fun t => { t with k := t.k.set k.toNat (BitVec.ofNat 32 (t.sem k + x.inc)) k.isLt, stallTicks := 0, stallDone := false }) s)))
   ∧ (∀ (s : State) (e : EventSource × BitVec 128) (r : List (EventSource × BitVec 128)), s.task.status ≠ .vacant → s.task.heldEvents = e :: r →
     exec (.eventDeliver s.task.tid) s = .next (if s.task.q15.length < 64
       then modCur (fun t => { t.deliver with q15 := t.q15 ++ [e.2], heldEvents := r }) s else s)))
  ∧ (∀ (s : State) (tid : Nat) (t : Task), getTask? s tid = some t →
       (t.status = .resident → t.deadlocked = true → 4096 ≤ t.dlCycles → exec (.deadlockTimeout tid) s = .next
         (freezeTask tid ⟨fcDeadlock, 0, t.firstBlocked, 0, BitVec.ofNat 32 t.blockedMask, 0⟩ 0 0 s))
       ∧ (t.dlCycles < 4096 → exec (.deadlockTimeout tid) s = .next s)
       ∧ (stallDue s t = true → s.stallFreeze = true → exec (.stallTimeout tid) s = .next
         (freezeTask tid ⟨fcDeadlock, 0, t.firstBlocked, 0, BitVec.ofNat 32 (2 ^ 31 + t.blockedMask), 0⟩ 0 0 s))
       ∧ (stallDue s t = true → s.stallFreeze = false → exec (.stallTimeout tid) s = .next (addTaskRecord tid
           { code := fcDeadlock, sev := 0, mkind := 1, info := BitVec.ofNat 32 (2 ^ 31 + t.blockedMask)
             stream := (t.firstBlocked.map streamNum).getD 7 } (modTask tid (fun t => { t with stallDone := true }) s))))

/-- R349, R350: a host load puts the checked graph into its slot or reports why not; a running graph is neither loaded
over nor evicted; a host start of a resident graph begins or queues it and leaves its status in GRSTAT.LAST. R351,
R352, R353, R355: a step begins with every node's tiles undealt and its predecessors to wait for; the nodes without
predecessors are ready, and the graph is in its step. R352: a node completes when all its tiles are reported; each
node that its successor list names counts one predecessor fewer, and one whose last predecessor that was is ready.
R351, R360: a step that is done ends: its record is written, and the next step or the queued start follows. -/
def Obligations.GraphLife : Prop :=
  ((∀ (s : State) (slot : Fin 64) (obj : BitVec 16),
     let t := modSlot slot.val (fun g => { g with oreg := obj }) s
     ((getSlot s slot.val).running ≠ none →
       exec (.grresLoad slot obj) s = .next (modSlot slot.val (fun g => { g with err := 3 }) t)
       ∧ exec (.grresEvict slot) s = .next (modSlot slot.val (fun g => { g with err := 3 }) s))
     ∧ ((getSlot s slot.val).running = none →
       exec (.grresEvict slot) s = .next (modSlot slot.val (fun g =>
         { g with v := false, err := 0, nodes := [], header := 0, loading := none }) s)
       ∧ (∀ e, objCheck t none obj 8 graphOk (fun _ => true) = .error e →
         exec (.grresLoad slot obj) s = .next (modSlot slot.val (fun g => { g with loading := none, err := 1 }) t))
       ∧ (∀ h ns u, objCheck t none obj 8 graphOk (fun _ => true) = .ok h →
         readNodes (bits h 0 58) (bits h 64 13) (bits h 64 13) t = .ok (some ns, u) →
         exec (.grresLoad slot obj) s = .next (modSlot slot.val (fun g =>
           if depsOk ns then { g with
             obj := obj, v := true, err := 0, header := BitVec.ofNat 512 h, nodes := ns, loading := none, nextBank := false
             failed := false, inStep := false }
           else { g with loading := none, err := 2 }) u))
       ∧ (∀ h u, objCheck t none obj 8 graphOk (fun _ => true) = .ok h →
         readNodes (bits h 0 58) (bits h 64 13) (bits h 64 13) t = .ok (none, u) →
         exec (.grresLoad slot obj) s = .next (modSlot slot.val (fun g => { g with loading := none, err := 1 }) u))))
   ∧ (∀ (s : State) (slot : Fin 64) (n : BitVec 32),
     let g := getSlot s slot.val
     let x : Start := { steps := if n = 0 then g.stepCount else n.toNat, step := 0, bank := false, sig := none, begin_ := 0, weights := [] }
     (g.v = false → exec (.grstart slot n) s = .next (modSlot slot.val (fun g => { g with last := 3 }) s))
     ∧ (g.v = true → g.running = none → exec (.grstart slot n) s = .next
         (modSlot slot.val (fun g => { beginStart s x g with last := 0 }) s))
     ∧ (g.v = true → g.running ≠ none → g.queued = none → exec (.grstart slot n) s = .next
         (modSlot slot.val (fun g => { g with queued := some x, last := 1 }) s))
     ∧ (g.v = true → g.running ≠ none → g.queued ≠ none → exec (.grstart slot n) s = .next
         (modSlot slot.val (fun g => { g with last := 2 }) s))))
  ∧ (∀ (s : State) (slot : Fin 64) (r : Start), (getSlot s slot.val).running = some r →
       (getSlot s slot.val).inStep = false → (getSlot s slot.val).failed = false → s.halted = false →
       ∃ t, exec (.stepBegin slot) s = .next t
         ∧ (getSlot t slot.val).inStep = true ∧ (getSlot t slot.val).running = some { r with begin_ := s.tick }
         ∧ (getSlot t slot.val).nodes.length = (getSlot s slot.val).nodes.length
         ∧ (∀ (i : Nat) (n m : NodeSt), (getSlot s slot.val).nodes[i]? = some n → (getSlot t slot.val).nodes[i]? = some m →
             m.record = n.record ∧ m.preds = n.ndep ∧ m.ready = decide (n.ndep = 0) ∧ m.total = n.tileCount + n.nextSpawn.length
             ∧ m.reported = 0 ∧ m.nextTile = 0 ∧ m.spawnq = n.nextSpawn ∧ m.complete = false ∧ m.resume = [])
         ∧ (∀ k : Fin 64, k ≠ slot → getSlot t k.val = getSlot s k.val) ∧ t.mem = s.mem ∧ t.task = s.task)
  ∧ (∀ (s : State) (slot : Fin 64) (node : Nat) (n : NodeSt), (getSlot s slot.val).nodes[node]? = some n →
       (nodeDone (getSlot s slot.val) n = false → exec (.nodeComplete slot node) s = .next s)
       ∧ (nodeDone (getSlot s slot.val) n = true → ∀ k, n.succ = [k] → k ≠ node →
         ∃ t, exec (.nodeComplete slot node) s = .next t
           ∧ (getSlot t slot.val).nodes[node]? = some { n with complete := true }
           ∧ (getSlot t slot.val).lastNode = node
           ∧ ∀ m, (getSlot s slot.val).nodes[k]? = some m → ∃ o, (getSlot t slot.val).nodes[k]? = some { m with
               preds := m.preds - 1, ready := m.ready || decide (m.preds - 1 = 0), order := o }))
  ∧ (∀ (s u : State) (slot : Fin 64) (r : Start), (getSlot s slot.val).running = some r →
       (stepDone s slot.val = false → exec (.stepEnd slot) s = .next s)
       ∧ (stepDone s slot.val = true → writeStep (getSlot s slot.val) r s = .ok ((), u) →
         (r.step + 1 < r.steps → exec (.stepEnd slot) s = .next (modSlot slot.val (fun g =>
           { g with inStep := false, running := some { r with step := r.step + 1 } }) u))
         ∧ (r.steps ≤ r.step + 1 → r.sig = none → exec (.stepEnd slot) s = .next (modSlot slot.val (fun g =>
           let h := { g with done := (g.done + 1) % 2 ^ 32, inStep := false }
           match g.queued with
           | some q => beginStart u q { h with queued := none }
           | none => { h with running := none }) u))
         ∧ (∀ tid k inc, r.steps ≤ r.step + 1 → r.sig = some (tid, k, inc) → inc ≠ 0 →
           let v := agentSignal { mkind := 0, unit := 0, stream := 0 } tid tid k inc.toNat u
           exec (.stepEnd slot) s = .next (modSlot slot.val (fun g =>
           let h := { g with done := (g.done + 1) % 2 ^ 32, inStep := false }
           match g.queued with
           | some q => beginStart v q { h with queued := none }
           | none => { h with running := none }) v))))

/-- R44, R191, R192, R193, R455, R467: a collective that has all its members completes: each member that is still in the
group, in rank order, receives the result, its event and its signal, or is removed where no circuit reaches it any
more, and the group keeps the history of barriers. R42, R43, R453: in one tick the Quay die counts arrivals, then
removes members, then admits joins. -/
def Obligations.GroupLife : Prop :=
  (∀ (s : State) (ia : Nat) (kind : CollKind) (c : Coll), (getGroup s ia).colls.find? (fun c => c.kind == kind) = some c →
     let as := c.ranked.map (·.2)
     let first := collRec ((as.headD ⟨0, kind, 0, 0, 0, [], 0, 0, 0⟩).record)
     let mismatch := kind != .bar && collMismatch s as
     let result : Option (List (BitVec 8)) :=
       if kind = .bar ∨ mismatch ∨ first.op = 3 then none
       else if kind = .red then some (reduceAll first (as.map (·.operand)))
       else (c.ranked.find? (fun x => x.1 == first.root)).map (fun x => x.2.operand)
     let status := if mismatch then fcGroupMismatch else if c.lost ≠ [] then fcMemberLost else 0
     let spread := if kind = .bar then min (c.last - c.first) (2 ^ 32 - 1) else 0
     let high := BitVec.ofNat 64 (c.lastRank % 65536 + 2 ^ 20 * min c.lost.length 4095 + 2 ^ 32 * spread)
     (c.full = false → exec (.groupCollectiveComplete ia kind) s = .next s)
     ∧ (c.full = true →
       (∀ u, (if kind = .red ∧ mismatch = false ∧ first.op = 3 then sketchSum (as.map (fun a => (a.pkg, a.obj))) s else .ok ((), s)) = .ok ((), u) →
       let g := getGroup u ia
       let cores := as.filterMap (fun a => (getTask? u a.tid).map (fun t => (u.pkgOf a.tid, t.core)))
       exec (.groupCollectiveComplete ia kind) s = .next ((as.filter (fun a => (g.rankOf a.tid).isSome)).foldl
         (fun s a => if s.cutFrom a.pkg then removeMember ia a.tid s
           else deliverColl c ia status spread result (cores.all (fun x => some x == cores.head?)) a s)
         (putGroup { g with
           colls := g.colls.filter (fun x => x.kind != kind)
           history := if kind = .bar ∧ as ≠ [] then (high :: g.history).take 8 else g.history } u)))))
  ∧ (∀ (s : State) (as : List GroupArrival) (rs js : List (Nat × Nat)),
       exec (.quayGroupTick as rs js) s = .next (js.foldl (fun s j => (joinGroup j.1 j.2 s).1)
         (rs.foldl (fun s r => removeMember r.1 r.2 s) (as.foldl arriveNow s)))
       ∧ (∀ (ia tid r : Nat), as = [] → rs = [(ia, tid)] → js = [] → (getGroup s ia).rankOf tid = some r →
           (getGroup s ia).colls = [] → (∀ c ∈ s.collectives, c.key.group ≠ ia) →
           exec (.quayGroupTick as rs js) s = .next (putGroup { getGroup s ia with
             members := (getGroup s ia).members.filter (fun m => m.2 != tid), colls := [] } s)))

/-- R40, R41, R45, R194, R195, R364, R429, R454, R467: a remote signal adds to the counter of the rank's task, and a
command block enters its inbound queue of 8 or waits; a message for a vacant rank, or for a package that no circuit
reaches any more, is dropped with one record. R300, R301, R364, R366, R429, R454, R467: an RSTV write lands in the
target's local store with its event and its acknowledgement, an RRPUT fill claims slot TAIL and makes it full, both
once their circuit is up; a vacant rank and a package that no circuit reaches any more give a record and no write, and
a fill waits while its slot is locked. -/
def Obligations.RemoteArrivals : Prop :=
  ((∀ (s : State) (m : RemoteSignal),
     (∀ t, rankTask s m.group m.rank.toNat = some t →
       (InReach (s.pkgOf t.tid) s → exec (.remoteSignalApply m) s = .next
         (agentSignal { mkind := 0, unit := 0, addr := BitVec.ofNat 64 m.group, rank := m.rank.toNat, stream := streamNum m.st }
           m.src t.tid m.sem m.inc (popSendC m.src (.signal m) (reachedOut (s.pkgOf t.tid) s))))
       ∧ (s.cutFrom (s.pkgOf t.tid) = true → exec (.remoteSignalApply m) s = .next
         (addTaskRecord m.src { code := fcCircuitFail, sev := 1, mkind := 0, stream := streamNum m.st, tag := m.rank.toNat
                                addr := BitVec.ofNat 64 m.group } (popSendC m.src (.signal m) s))))
     ∧ (rankTask s m.group m.rank.toNat = none → exec (.remoteSignalApply m) s = .next
       (addTaskRecord m.src { code := fcRankVacant, sev := 0, mkind := 0, stream := streamNum m.st, tag := m.rank.toNat
                              addr := BitVec.ofNat 64 m.group } (popSendC m.src (.signal m) s))))
   ∧ (∀ (s : State) (m : BlockMsg),
     (∀ t, rankTask s m.group m.rank.toNat = some t →
       (t.inbound.length < 8 → InReach (s.pkgOf t.tid) s → exec (.renqBlockArrival m) s = .next
         (modTask t.tid (fun t => { t with inbound := t.inbound ++ [m] }) (popSendC m.src (.block m) (reachedOut (s.pkgOf t.tid) s))))
       ∧ (t.inbound.length < 8 → s.cutFrom (s.pkgOf t.tid) = true → exec (.renqBlockArrival m) s = .next
         (addTaskRecord m.src { code := fcCircuitFail, sev := 1, mkind := 0, stream := 0, tag := m.rank.toNat
                                addr := BitVec.ofNat 64 m.group } (modTask m.src Task.endJob (popSendC m.src (.block m) s))))
       ∧ (8 ≤ t.inbound.length → exec (.renqBlockArrival m) s = .next s))
     ∧ (rankTask s m.group m.rank.toNat = none → exec (.renqBlockArrival m) s = .next
       (addTaskRecord m.src { code := fcRankVacant, sev := 0, mkind := 0, stream := 0, tag := m.rank.toNat
                              addr := BitVec.ofNat 64 m.group } (modTask m.src Task.endJob (popSendC m.src (.block m) s))))))
  ∧ ((∀ (s : State) (m : RstvMsg),
       let ack (id : Nat) (code : BitVec 8) (s : State) : State :=
         let off := ((getTask? s m.src).map (fun t => decide (s.offDie t < 64))).getD false
         modTask m.src (fun t => { t with
           acks := t.acks ++ [⟨BitVec.ofNat 64 (65536 * m.rank.toNat + 256 * code.toNat), m.tag, id, [], off⟩] }) s
       let fail (code : BitVec 8) (s : State) : State := ack (popRstv m s).2 code (addTaskRecord m.src
         { code := code, sev := if code = fcCircuitFail then 1 else 0, mkind := 0, stream := 3, op := 0xE2, tag := m.rank.toNat
           addr := BitVec.ofNat 64 m.group } (popRstv m s).1)
       (rankTask s m.group m.rank.toNat = none → exec (.rstvWriteApply m) s = .next (fail fcRankVacant s))
       ∧ (∀ t, rankTask s m.group m.rank.toNat = some t → s.cutFrom (s.pkgOf t.tid) = true →
         exec (.rstvWriteApply m) s = .next (fail fcCircuitFail s))
       ∧ (∀ t, rankTask s m.group m.rank.toNat = some t → InReach (s.pkgOf t.tid) s →
         let u := reachedOut (s.pkgOf t.tid) s
         (∀ code i, lsJudge .noStash t m.off.toNat 256 = some (code, i) → exec (.rstvWriteApply m) s = .next (fail code u))
         ∧ (lsJudge .noStash t m.off.toNat 256 = none →
           let v := refreshArea t.tid (modTask t.tid (fun t => t.deliver.lsWrite m.off.toNat (bytesOfVec m.data)) (popRstv m u).1)
           exec (.rstvWriteApply m) s = .next (ack (popRstv m u).2 0
             (pushEventTo t.tid .remote (remoteEvent m.spkg m.score m.off.toNat 1 none) v)))))
     ∧ (∀ (s : State) (m : RrputMsg),
       let lost (code : BitVec 8) (sev : Nat) : State := addTaskRecord m.src
         { code := code, sev := sev, mkind := 0, stream := 3, tag := m.rank.toNat, addr := BitVec.ofNat 64 m.group }
         (popSendS m.src (.rrput m) s)
       (rankTask s m.group m.rank.toNat = none → exec (.rrputFillApply m) s = .next (lost fcRankVacant 0))
       ∧ (∀ t, rankTask s m.group m.rank.toNat = some t →
         (s.cutFrom (s.pkgOf t.tid) = true → exec (.rrputFillApply m) s = .next (lost fcCircuitFail 1))
         ∧ (InReach (s.pkgOf t.tid) s →
           let u := reachedOut (s.pkgOf t.tid) s
           (putFits t m = false → exec (.rrputFillApply m) s = .next u)
           ∧ (putFits t m = true →
             let off := t.rings[m.ring].slotAt t.rings[m.ring].tail
             let v := refreshArea t.tid (modTask t.tid (fun t => (t.lsWrite off m.data).modRing m.ring (fun r => r.claim.setFull r.tail))
               (popSendS m.src (.rrput m) u))
             let w := agentSignal { mkind := 0, unit := 0, addr := BitVec.ofNat 64 m.group, rank := m.rank.toNat, stream := 3 }
               m.src t.tid m.sem m.inc v
             exec (.rrputFillApply m) s = .next
               (pushEventTo t.tid .remote (remoteEvent m.spkg m.score off (m.data.length / 256) (some m.ring)) w))))))

/-- R60, R114, R200, R201, R204, R207, R334: what reaches a task from outside its streams: a reply fills the queue entry
that its word reserved at issue, an acknowledgement that can be delivered pushes its word into q8 when the store asked
for it, a ring slot is claimed when its LOCK is clear, and a tick that has come ends a timed wait. -/
def Obligations.ArrivalsAtATask : Prop :=
  ∀ (s : State), s.task.status ≠ .vacant →
    let tid := s.task.tid
    (∀ r rest, s.task.rlds = r :: rest → r.ready = false →
      exec (.loadReplyArrival tid) s = .next
        (modCur (fun t => Task.settleRlds r.q ({ r with ready := true, off := false } :: rest) t.deliver) s)
      ∧ ((∀ x ∈ rest, x.q ≠ r.q) → exec (.loadReplyArrival tid) s = .next
        (modCur (fun t => { t.deliver.appendQ r.q r.val with rlds := rest }) s)))
    ∧ (∀ a rest, s.task.acks = a :: rest →
      (a.tag = false → s.task.ackReady a = true →
        exec (.acknowledgementArrival tid) s = .next (modCur (fun t => { t with acks := rest }) s))
      ∧ (a.tag = true → s.task.ackReady a = true → exec (.acknowledgementArrival tid) s = .next
        (modCur (fun t => ({ t with acks := rest }).pushQ 8 (a.word.setWidth 2048)) s))
      ∧ (rest = [] → a.tag = true → s.task.queueFull 8 = true → exec (.acknowledgementArrival tid) s = .next s))
    ∧ (∀ k : Fin 8, let g := s.task.rings[k]
      (g.en = true → g.lock.getLsbD g.tail = false → exec (.ringSlotClaim tid k) s = .next (modCur (fun t => t.modRing k (fun g =>
        { g with lock := g.lock ||| BitVec.ofNat 16 (2 ^ g.tail), tail := (g.tail + 1) % ringSlots g.cfg })) s))
      ∧ (g.en = true → g.lock.getLsbD g.tail = true → exec (.ringSlotClaim tid k) s = .next s))
    ∧ (∀ d, s.task.deadline = some d → s.task.c.wait = some .time →
      (d ≤ s.tick → exec (.tickTimeout tid) s = .next (modCur (fun t => { t with deadline := none, c := { t.c with wait := none } }) s))
      ∧ (s.tick < d → exec (.tickTimeout tid) s = .next s))

/-- R36, R45, R331, R332: the next record of a command block starts when its wait is served and its unit has room; a
record that breaks Table 12.9 ends the block once its wait is served; after every record the target receives its event
and the sender has one job fewer. A job unit that holds an event starts nothing. R324: a copy-aperture start joins its
channel's queue of 16, or waits behind the starts that wait; the oldest waiting start is taken once the queue has
room. -/
def Obligations.CommandsOfEngines : Prop :=
  (∀ (s : State) (tid : Nat) (t0 : Task) (b : BlockRun), ownTask? s tid = some t0 → t0.tid = tid → t0.status = .resident →
     let t := if t0.block = none then takeBlock t0 else t0
     t.block = some b →
     let u := modTask tid (fun _ => t) s
     (eventWaits s .jobUnit (some tid) = true → exec (.jobUnitRecordStart tid) s = .next s)
     ∧ (∀ x rest, b.records = x :: rest → eventWaits s .jobUnit (some tid) = false →
       let w := if b.semw.isSome then b.semw else (blockRec x).wait
       (jobReady u (some tid) w = false → exec (.jobUnitRecordStart tid) s = .next (modBlock tid (fun x => { x with semw := w }) u))
       ∧ (jobReady u (some tid) w = true →
         ((blockRec x).ok = false → exec (.jobUnitRecordStart tid) s = .next (modBlock tid (fun x =>
           { x with records := [], semw := none, code := if x.code = 0 then fcIllegalOperand else x.code }) (serveJob (some tid) w u)))
         ∧ ((blockRec x).ok = true → blockRoom u t (blockRec x) = true →
           exec (.jobUnitRecordStart tid) s = .next (startRecord tid (blockRec x) (serveJob (some tid) w u)))
         ∧ ((blockRec x).ok = true → blockRoom u t (blockRec x) = false → exec (.jobUnitRecordStart tid) s = .next u)))
     ∧ (t0.block = some b → b.records = [] → b.open_ = 0 → exec (.commandBlockDone tid) s = .next
         (pushEventTo tid .jobUnit (eventOf (eventLow b.tag.toNat (Config.freeNat 1 s.free s.tick) b.code.toNat 3) (Config.freeNat 2 s.free s.tick))
           (modTask b.src Task.endJob (modTask tid (fun t => { t with block := none }) { s with free := s.free + 1 }))))
     ∧ (t0.block = some b → b.open_ ≠ 0 → exec (.commandBlockDone tid) s = .next s))
  ∧ (∀ (s : State) (n : Fin 32) (d : BitVec 128) (tid : Option Nat),
       (s.aperture.find? (fun x => x.1 == n.val) = none → s.chans[n].queue.length < 16 →
         exec (.copyApertureStart n d tid) s = .next (modChan n (fun c => { c with queue := c.queue ++ [jobOf d tid] }) s))
       ∧ ((s.aperture.find? (fun x => x.1 == n.val) ≠ none ∨ 16 ≤ s.chans[n].queue.length) →
         exec (.copyApertureStart n d tid) s = .next { s with aperture := s.aperture ++ [(n.val, d, tid)] })
       ∧ (∀ x, s.aperture.find? (fun x => x.1 == n.val) = some x →
         takeStart n s = if s.chans[n].queue.length < 16
           then modChan n (fun c => { c with queue := c.queue ++ [jobOf x.2.1 x.2.2] }) { s with aperture := s.aperture.erase x } else s))

/-- R317, R323, R333, R404, R444: the job at a channel's head starts when it is due: its entries are read and checked, a
failed check ends it with no chunk; a job brought back goes on at its saved chunk; a fenced channel ends either with
its code. R322, R323, R363, R446, R447: a chunk of a copy, fill or add job moves its elements and counts; a chunk that
cannot wait for its fault fails the job; a drain writes its tile in one chunk; both wait while their die's
reservations are in use. -/
def Obligations.CopyJobs : Prop :=
  (∀ (s : State) (n : Fin 32),
     (bteDue s n = false → exec (.bteJobStart n) s = .next s)
     ∧ (∀ tid old r, bteDue s n = true → savedRun s n = some (tid, old, r) → s.chans[n].fenced = false →
       exec (.bteJobStart n) s = .next (modChan n (fun c => { c with run := some r })
         (modTask tid (fun t => { t with savedJobs := t.savedJobs.filter (fun x => x.1 != old) }) s)))
     ∧ (∀ tid old r, bteDue s n = true → savedRun s n = some (tid, old, r) → s.chans[n].fenced = true →
       exec (.bteJobStart n) s = .next (endBte n r 2 s.chans[n].fcode r.chunk (modChan n (fun c => { c with run := some r })
         (modTask tid (fun t => { t with savedJobs := t.savedJobs.filter (fun x => x.1 != old) }) s))))
     ∧ (∀ j rest, bteDue s n = true → savedRun s n = none → s.chans[n].queue = j :: rest → s.chans[n].fenced = true →
       exec (.bteJobStart n) s = .next (endBte n (emptyRun j) 2 s.chans[n].fcode 0
         (modChan n (fun c => { c with queue := c.queue.tail, run := some (emptyRun j) }) s)))
     ∧ (∀ j rest, bteDue s n = true → savedRun s n = none → s.chans[n].queue = j :: rest → s.chans[n].fenced = false →
       let u := serveJob j.tid j.wait (modChan n (fun c => { c with queue := c.queue.tail, run := some (emptyRun j) }) s)
       let t := j.tid.bind (getTask? u)
       let r := match j.drain with
         | some d => drainStart u t j d
         | none => templateStart u t j
       (∀ code, r = .error code → exec (.bteJobStart n) s = .next (endBte n (emptyRun j) 2 code 0 u))
       ∧ (∀ x, r = .ok x → (j.drain.isSome ∨ (templateFields x.body.toNat).dring = none) →
         exec (.bteJobStart n) s = .next (modChan n (fun c => { c with run := some x }) u))
       ∧ (∀ x tid k, r = .ok x → j.drain = none → j.tid = some tid → (templateFields x.body.toNat).dring = some k →
         exec (.bteJobStart n) s = .next (modTask tid (fun t => t.modRing k (fun g => { g with fillers := g.fillers ++ [0] }))
           (modChan n (fun c => { c with run := some x }) u)))))
  ∧ ((∀ (s : State) (n : Fin 32) (r : BteRun), s.chans[n].run = some r → r.job.drain = none → r.chunk < r.nChunks →
       s.chans[n].held = none →
       (poolFree s (n.val / 4) = false → exec (.bteChunkComplete n) s = .next s)
       ∧ (poolFree s (n.val / 4) = true →
       (∀ c i a, bteChunk n r s = .error (.trap c i a) → exec (.bteChunkComplete n) s = .next (failBte n c s))
       ∧ (∀ d p ia b, bteChunk n r s = .error (.page d p ia b) → exec (.bteChunkComplete n) s = .next (holdFault d p ia b s))
       ∧ (let p := templateFields r.body.toNat
         let src := shapeOf r.src.toNat
         let dst := shapeOf ((r.dsts.headD 0).toNat)
         let cs := chunkCoords (spaceOf p r.src.toNat (r.dsts.map (·.toNat))) (spaceZ p r.src.toNat (r.dsts.map (·.toNat))) p.chunk r.chunk
         ∀ m u, p.mode ≠ 2 → p.dring = none → r.tags.contains r.chunk = false →
           applyActs (.bte n) (p.mode == 1) dst.fmt dst.z (fillBytes dst.z p.fill) (cs.map (elemAct p src dst)) s = .ok (m, u) →
           exec (.bteChunkComplete n) s = .next (arrivalSignal n r.job p 1 (modRun n (fun r => { r with
             chunk := r.chunk + 1, bytes := [r.bytes.headD 0 + m.1], fill := r.fill + m.2
             tags := if p.mode = 1 then r.tags ++ [r.chunk] else r.tags }) u)))))
     ∧ (∀ (s u : State) (n : Fin 32) (r : BteRun) (d : DrainJob), s.chans[n].run = some r → r.job.drain = some d →
       r.chunk = 0 → s.chans[n].held = none → poolFree s (n.val / 4) = true → drainChunk n r d s = .ok ((), u) → exec (.drainJobWrite n) s = .next u)
     ∧ (∀ (s : State) (n : Fin 32) (r : BteRun), s.chans[n].run = some r → (r.job.drain = none ∨ r.chunk ≠ 0) →
       exec (.drainJobWrite n) s = .next s))

/-- R325, R326, R403, R447: a job whose chunks are all done ends with status 0, a multicast that lost destinations with 1
or 2, and a failed one with 2; its record is written when its ring has room, and only then is the unit free. R23, R35,
R403: a released channel is idle, and the job's task has one job fewer, an event that names the record, and on DONE
the job's signal. -/
def Obligations.JobEnds : Prop :=
  ((∀ (s : State) (n : Fin 32) (r : BteRun), s.chans[n].run = some r → s.chans[n].held = none →
     (r.chunk < r.nChunks → exec (.engineJobComplete (.bte n)) s = .next s)
     ∧ (r.nChunks ≤ r.chunk → r.multi = false → exec (.engineJobComplete (.bte n)) s = .next (endBte n r 0 0 r.chunk s))
     ∧ (r.nChunks ≤ r.chunk → r.multi = true → exec (.engineJobComplete (.bte n)) s = .next
       (if r.bitmap = r.job.mask then endBte n r 0 0 r.chunk s else endBte n r (if r.bitmap = 0 then 2 else 1) r.bfault r.chunk s))
     ∧ (∀ code, exec (.engineJobFail (.bte n) code) s = .next (failBte n code s)))
   ∧ (∀ (s u : State) (e : Engine) (rec_ : BitVec 128), unitHeld s e = some rec_ →
     (ringPut (engineBy e) (ringRegs s e).1 (ringRegs s e).2 16 rec_.toNat s = .ok (true, u) →
       exec (.completionRingWrite e) s = .next (releaseUnit e rec_ u))
     ∧ (ringPut (engineBy e) (ringRegs s e).1 (ringRegs s e).2 16 rec_.toNat s = .ok (false, u) →
       exec (.completionRingWrite e) s = .next s)
     ∧ ((ringRegs s e).2 = 0 → exec (.completionRingWrite e) s = .next (releaseUnit e rec_ s))))
  ∧ (∀ (s : State) (n : Fin 32) (r : BteRun) (rec_ : BitVec 128), s.chans[n].run = some r → r.job.block = false →
       s.chans[n].held = some rec_ → s.chans[n].log2 = 0 → (r.job.drain.isSome ∨ (templateFields r.body.toNat).dring = none) →
       r.job.tid = some s.task.tid →
       s.task.status ≠ .vacant →
       let u := modChan n (fun c => { c with run := none, held := none }) s
       let v := modCur (fun t => ({ t with jobs := t.jobs - 1 } : Task).pushEvent (.bte n) (eventOf (eventLow (bits rec_.toNat 32 32) n.val
         (recFault rec_).toNat 1) (bits rec_.toNat 64 64))) u
       exec (.completionRingWrite (.bte n)) s = .next (if recStatus rec_ = 0
         then agentSignal { mkind := 2, unit := n.val, stream := r.job.stream } s.task.tid s.task.tid r.job.ssem r.job.sinc.toNat v else v))

/-- R95, R328, R330: a Lighter's register commands: the one the program stands at changes its register and the program
goes to the next command, or to the target of a jump or of a loop that has iterations left. R37, R38, R39, R328, R330:
SIG and END wait for the pushes in flight; WWAIT is served when its counter has reached the threshold, and else the
program waits as an agent of its wait channel. R60, R206, R328, R329, R334: a push claims slot TAIL in one step and in
a later one fills it with the elements of its nest and counts them; a gather takes its offsets from the index list and
gives zero bytes for index 0x8000_0000; with the slot locked, another filler first or two pushes in flight the program
waits, and without the right to read it fails. R95, R210, R317, R329, R330, R333, R404: a program starts with every
register zero once its entry passes its checks; one that its task brought back goes on; a fenced Lighter ends either
with its code; a push that lands sets FULL and then signals; the next page is walked ahead; a halted program with no
push claimed or in flight ends HALTED. -/
def Obligations.LighterPrograms : Prop :=
  (∀ (s t : State) (n : Fin 32) (r : LRun) (c : LCmd), lighterRuns s n = some r →
     poolFree s (n.val / 4) = true → fetchCmd n r s = .ok (c, t) →
     let next (f : LRun → LRun) : State := modLRun n (fun r => { f r with pc := r.pc + 1, waiting := none, slot := none }) t
     (∀ ia, c = .base ia → exec (.lighterBase n ia) s = .next (next (fun r => { r with cur := ia })))
     ∧ (∀ ia, c = .idx ia → exec (.lighterIdx n ia) s = .next (next (fun r => { r with idxp := ia })))
     ∧ (∀ off, c = .adv off → exec (.lighterAdv n off) s = .next (next (fun r => { r with cur := r.cur + off.signExtend 58 })))
     ∧ (∀ d k st, c = .dim d k st → exec (.lighterDim n d k st) s = .next (next (fun r =>
         { r with count := r.count.set d.toNat k d.isLt, stride := r.stride.set d.toNat st d.isLt })))
     ∧ (∀ x, c = .jump x → exec (.lighterJump n x) s = .next (modLRun n (fun r => { r with pc := x.toNat }) t))
     ∧ (∀ l k x, c = .loop l k x → exec (.lighterLoop n l k x) s = .next (modLRun n (fun r =>
         let m := (if r.cnt[l.toNat]'(l.isLt) = 0 then k else r.cnt[l.toNat]'(l.isLt)) - 1
         { r with cnt := r.cnt.set l.toNat m l.isLt, pc := if m = 0 then r.pc + 1 else x.toNat }) t))
     ∧ (∀ ia, c ≠ .base ia → exec (.lighterBase n ia) s = .next t))
  ∧ (∀ (s t : State) (n : Fin 32) (r : LRun) (c : LCmd), lighterRuns s n = some r →
       poolFree s (n.val / 4) = true → fetchCmd n r s = .ok (c, t) →
       let next (f : LRun → LRun) (u : State) : State := modLRun n (fun r => { f r with pc := r.pc + 1, waiting := none, slot := none }) u
       (∀ k inc, c = .sig k inc → exec (.lighterSig n k inc) s = .next
         (if r.flight = [] then next id (unitSignal 3 n.val r.prog.stream r.prog.tid r.prog.block k inc.toNat t) else t))
       ∧ (∀ m k thr, c = .wwait m k thr →
         let w := r.semw.getD ⟨k, thr.toNat, m == 2, false⟩
         exec (.lighterWwait n m k thr) s = .next (if jobReady t (some r.prog.tid) (some w)
           then next (fun r => { r with semw := none }) (serveJob (some r.prog.tid) (some w) t)
           else modLRun n (fun r => { r with semw := some w }) t))
       ∧ (c = .stop_ → exec (.lighterEnd n) s = .next (if r.flight = [] then endLighter n 0 0 t else t)))
  ∧ (∀ (s t : State) (n : Fin 32) (r : LRun) (c : LCmd) (ring elog : BitVec 3) (ssem : BitVec 8) (sinc : BitVec 12),
       lighterRuns s n = some r →
       poolFree s (n.val / 4) = true → fetchCmd n r s = .ok (c, t) →
       let k : Fin 8 := Fin.ofNat 8 ring.toNat
       let z := 2 ^ elog.toNat
       (∀ ndim, c = .push ring ndim elog ssem sinc →
         let ds := (List.range ndim.toNat).map (fun i => ((r.count.toList.getD i 0).toNat, (r.stride.toList.getD i 0).toInt))
         let ias := (nestOffsets ds).flatMap (fun o => span (((r.cur.toNat : Int) + o) % ((2 ^ 58 : Nat) : Int)).toNat z)
         (r.slot = none → r.canRead = false → exec (.lighterPush n ring ndim elog ssem sinc) s = .next (failLighter n fcObjectRights s))
         ∧ (∀ u, claimPush n r k (z * nestCount ds) t = .ok (none, u) → exec (.lighterPush n ring ndim elog ssem sinc) s = .next u)
         ∧ (∀ u v slot bs, claimPush n r k (z * nestCount ds) t = .ok (some slot, u) → lighterRead n ias u = .ok (bs, v) →
           exec (.lighterPush n ring ndim elog ssem sinc) s = .next
             (modLRun n (fun r => { r with flight := r.flight ++ [⟨k, slot, ssem, sinc⟩], chunks := r.chunks + 1
                                           bytes := r.bytes + bs.length, pc := r.pc + 1, waiting := none, slot := none })
               (modTask r.prog.tid (fun t => t.lsWrite (t.rings[k].slotAt slot) bs) (modLRun n (fun r => r.movePage ias) v)))))
       ∧ (∀ tk b, r.slot = none → r.canRead = true → getTask? t r.prog.tid = some tk → tk.rings[k].en = true →
         b ≤ ringSlotBytes tk.rings[k].cfg →
         let u := assignRing n tk.tid k t
         ((tk.rings[k].claimable = false ∨ 2 ≤ r.flight.length ∨ claimsFirst t tk.tid k (33 + n.val) = true) →
           claimPush n r k b t = .ok (none, modLRun n (fun r => { r with waiting := some k }) u))
         ∧ (tk.rings[k].claimable = true → r.flight.length < 2 → claimsFirst t tk.tid k (33 + n.val) = false →
           claimPush n r k b t = .ok (none, modLRun n (fun r => { r with waiting := none, slot := some (k, tk.rings[k].tail) })
             (modTask tk.tid (fun t => t.modRing k Ring.claim) u))))
       ∧ (∀ count scale, c = .gather ring elog ssem sinc count scale →
         (∀ u, claimPush n r k (z * count.toNat) t = .ok (none, u) → exec (.lighterGather n ring elog ssem sinc count scale) s = .next u)
         ∧ (∀ u v w slot ib parts, claimPush n r k (z * count.toNat) t = .ok (some slot, u) →
           lighterRead n (span r.idxp.toNat (4 * count.toNat)) u = .ok (ib, v) →
           (bytesElems 4 count.toNat ib).mapM (fun (i : Nat) =>
             if i = 0x80000000 then pure (List.replicate z 0)
             else lighterRead n (span (((r.cur.toNat : Int) + sxInt 32 i * 2 ^ scale.toNat) % ((2 ^ 58 : Nat) : Int)).toNat z)) v
             = .ok (parts, w) →
           exec (.lighterGather n ring elog ssem sinc count scale) s = .next
             (modLRun n (fun r => { r with flight := r.flight ++ [⟨k, slot, ssem, sinc⟩], chunks := r.chunks + 1
                                           bytes := r.bytes + parts.flatten.length, pc := r.pc + 1, waiting := none, slot := none })
               (modTask r.prog.tid (fun t => t.lsWrite (t.rings[k].slotAt slot) parts.flatten)
                 (modLRun n (fun r => { r with idxp := r.idxp + BitVec.ofNat 58 (4 * count.toNat) }) w))))))
  ∧ ((∀ (s : State) (n : Fin 32) (p : LProg) (rest : List LProg), lighterDue s n = true → savedProg s n = none →
       s.lighters[n].queue = p :: rest →
       let run (body : BitVec 512) (u : State) : State := modTask p.tid (fun t => { t with lstat := t.lstat.filter (fun l => l.unit != n.val) })
         (modLighter n (fun c => { c with queue := c.queue.tail, run := some (LRun.start p body) }) u)
       let u := serveJob (some p.tid) p.wait s
       (∀ b, s.lighters[n].fenced = false → objCheck u (getTask? u p.tid) p.obj 7 lprogOk (fun _ => true) = .ok b →
         exec (.lighterProgramStart n) s = .next (run (BitVec.ofNat 512 b) u))
       ∧ (∀ code, s.lighters[n].fenced = false → objCheck u (getTask? u p.tid) p.obj 7 lprogOk (fun _ => true) = .error code →
         exec (.lighterProgramStart n) s = .next (endLighter n 2 code (run 0 u)))
       ∧ (∀ b, s.lighters[n].fenced = true → objCheck s (getTask? s p.tid) p.obj 7 lprogOk (fun _ => true) = .ok b →
         exec (.lighterProgramStart n) s = .next (endLighter n 2 s.lighters[n].fcode (run (BitVec.ofNat 512 b) s)))
       ∧ (∀ code, s.lighters[n].fenced = true → objCheck s (getTask? s p.tid) p.obj 7 lprogOk (fun _ => true) = .error code →
         exec (.lighterProgramStart n) s = .next (endLighter n 2 s.lighters[n].fcode (run 0 s))))
     ∧ (∀ (s : State) (n : Fin 32) (tid old : Nat) (r : LRun), lighterDue s n = true → savedProg s n = some (tid, old, r) →
       let u := modLighter n (fun c => { c with run := some { r with addr := none, curPage := none, nextPage := none } })
         (modTask tid (fun t => { t with savedProgs := t.savedProgs.filter (fun x => x.1 != old) }) s)
       exec (.lighterProgramStart n) s = .next (if s.lighters[n].fenced then endLighter n 2 s.lighters[n].fcode u else u))
     ∧ (∀ (s : State) (n : Fin 32) (r : LRun) (f : LPush) (fs : List LPush), s.lighters[n].run = some r → r.flight = f :: fs →
       let u := modTask r.prog.tid (fun t => t.modRing f.ring (fun g => { g with full := g.full ||| BitVec.ofNat 16 (2 ^ f.slot) }))
         (modLRun n (fun r => { r with flight := fs }) s)
       exec (.lighterPushFillComplete n) s = .next (if f.sinc = 0 then u
         else unitSignal 3 n.val 1 r.prog.tid r.prog.block f.ssem f.sinc.toNat u))
     ∧ (∀ (s : State) (n : Fin 32) (r : LRun) (p : Nat), lighterRuns s n = some r → r.wantsPage = some p →
       (∀ e key, locate (s.homeView (p * 65536)) (p * 65536) = .stack e key →
         exec (.lighterNextPageWalk n) s = .next (modLRun n (fun r => { r with nextPage := some p })
           (if s.homedHere (p * 65536) then cacheWalk e s else s)))
       ∧ ((∀ e key, locate (s.homeView (p * 65536)) (p * 65536) ≠ .stack e key) → exec (.lighterNextPageWalk n) s = .next s))
     ∧ (∀ (s : State) (n : Fin 32) (r : LRun), s.lighters[n].run = some r → r.halted = true → r.flight = [] → r.slot = none →
       s.lighters[n].held = none → exec (.engineJobComplete (.lighter n)) s = .next (endLighter n 3 0 s))
     ∧ (∀ (s : State) (n : Fin 32) (r : LRun) (code : BitVec 8), lighterRuns s n = some r →
       exec (.engineJobFail (.lighter n) code) s = .next (failLighter n code s)))

/-- R36, R123, R342, R344, R456, R466: a member starts with the exchange record of that moment once its task is resident,
its wait holds and its writes are performed, and differing exchange records end the collective; a complete membership
ends with XPBGO's signal and its event; a lost member ends it for all others. R334, R338, R339, R340, R342, R346,
R371: a due block is read at its source and written transposed at its destination; into a ring it needs its phase's
slot, which is claimed in phase order and after the fillers that come first; one that crosses packages is sent over
its circuit. R343: when every block bound for a member in its next phase has moved, the phase's ring slot becomes full
and the phase is signalled; when every block it sends has been read, its source is signalled once. R346, R459: at its
slot a phase whose circuits are ready keeps the slots its crossing blocks need; else every later phase moves one slot
on. -/
def Obligations.DamaskCollectives : Prop :=
  (∀ (s : State) (key : CollKey) (c : DColl) (m : DMember), getColl? s key = some c →
     (c.member? m.tid = some m →
       (memberReady s key.group m = true → c.ended = none →
         let u := modMember key m.tid (fun m => { m with started := true, tick := s.tick, wait := none, xpb := xpbNow s key.xpb m }) (match m.wait with
           | some w => modTask m.tid (fun t => t.serve w) s
           | none => s)
         (c.members.any (fun x => x.started && x.xpb != xpbNow s key.xpb m) = false → exec (.damaskMemberStart key m.tid) s = .next u)
         ∧ (∀ d, c.members.any (fun x => x.started && x.xpb != xpbNow s key.xpb m) = true → getColl? u key = some d →
           exec (.damaskMemberStart key m.tid) s = .next (closeColl key (endCollective fcGroupMismatch none d u))))
       ∧ (memberReady s key.group m = false → exec (.damaskMemberStart key m.tid) s = .next s)
       ∧ (memberDone c m = true → exec (.damaskMembershipComplete key m.tid) s = .next (closeColl key
           (modMember key m.tid (fun m => { m with done := true })
             (modTask m.tid (fillMark (xpbOf m.xpb.toNat) false) (endMembership c 0 m s)))))
       ∧ (memberDone c m = false → exec (.damaskMembershipComplete key m.tid) s = .next s))
     ∧ (∀ rank, c.atRank? rank = some m → c.ended = none →
       exec (.damaskMemberLost key rank fcMemberLost) s = .next (closeColl key (endCollective fcMemberLost (some m.tid) c s))
       ∧ exec (.damaskMemberLost key rank fcCircuitFail) s = .next (closeColl key (endCollective fcCircuitFail none c s))))
  ∧ (∀ (s : State) (key : CollKey) (c : DColl) (b : DamaskBlock) (x y : DMember) (st : Task) (r : Ring × List (Fin 16 × Nat)),
       getColl? s key = some c → c.atRank? b.src = some x → c.atRank? b.dst = some y →
       (blockDue s c b = false → exec (.damaskBlockWrite key b) s = .next s)
       ∧ (blockDue s c b = true → getTask? s x.tid = some st → blockSlots s (xpbOf x.xpb.toNat) y b.phase = some r →
         let p := xpbOf x.xpb.toNat
         let y' := { y with slots := r.2, flits := y.flits + 1 }
         let u := modTask y.tid (fun t => t.modRing p.ring (fun _ => r.1)) s
         let v := copyBlock p b st y' u
         exec (.damaskBlockWrite key b) s = .next (modColl key (fun c => { c with moved := c.moved ++ [b] })
           (modMember key y.tid (fun _ => y') (if c.crossing b
             then sendBlock x.pkg y.pkg (slotTagOf s c b.phase) (blockText p b y' st v) v else v))))
       ∧ ((xpbOf x.xpb.toNat).dstRing = true → y.slots.all (fun z => z.2 != b.phase) = true →
         claimsFirst (s.homeView (y.pkg * 2 ^ 47)) y.tid (xpbOf x.xpb.toNat).ring 65 = true → exec (.damaskBlockWrite key b) s = .next s))
  ∧ (∀ (s : State) (key : CollKey) (c : DColl) (m : DMember), getColl? s key = some c → c.member? m.tid = some m →
       let p := c.xpbAll
       (phaseDue c m = false → exec (.damaskPhaseComplete key m.tid) s = .next s)
       ∧ (phaseDue c m = true →
         let sem := BitVec.ofNat 8 (p.psem + (if p.pstep then m.phases else 0))
         let count (u : State) : State := modMember key m.tid (fun m => { m with phases := m.phases + 1 }) u
         (m.slots.find? (fun x => x.2 == m.phases) = none → exec (.damaskPhaseComplete key m.tid) s = .next
           (agentSignal { mkind := 4, unit := 0, stream := 0 } m.tid m.tid sem p.pinc (count s)))
         ∧ (∀ k, m.slots.find? (fun x => x.2 == m.phases) = some (k, m.phases) → exec (.damaskPhaseComplete key m.tid) s = .next
           (agentSignal { mkind := 4, unit := 0, stream := 0 } m.tid m.tid sem p.pinc (count
             (modTask m.tid (fun t => t.modRing p.ring (fun g => { g with full := g.full ||| BitVec.ofNat 16 (2 ^ k.val) })) s)))))
       ∧ (sourceDue c m = false → exec (.damaskSourceReadDone key m.tid) s = .next s)
       ∧ (sourceDue c m = true →
         let u := modMember key m.tid (fun m => { m with srcDone := true }) s
         exec (.damaskSourceReadDone key m.tid) s = .next (if p.rinc = 0 then u
           else agentSignal { mkind := 4, unit := 0, stream := 0 } m.tid m.tid p.rsem p.rinc u)))
  ∧ (∀ (s : State) (key : CollKey) (c : DColl), getColl? s key = some c →
       (slotDue s c = none → ∀ ready, exec (.damaskSlotStart key ready) s = .next s)
       ∧ (∀ q, slotDue s c = some q →
         exec (.damaskSlotStart key true) s = .next
           (modColl key (fun d => { d with slotPhase := q + 1, slotMove := d.slotMove + (slotsNeeded s c q - 1) }) s)
         ∧ exec (.damaskSlotStart key false) s = .next
           (((span q (c.xpbAll.phases - q)).filter (fun r => (crossBlocks c r) != [])).foldl (fun u r =>
             (crossMembers c r).foldl (fun u tid => slipMember key r (c.slotOf s r + 1) tid u) u)
             (modColl key (fun d => { d with slotMove := d.slotMove + 1 }) s))))

/-- R89, R92, R104, R111, R114, R297, R433: the events of a home slice: a write applies its bytes and acknowledges each
line to the S stream that sent it, a read only counts, an atomic leaves the value of its operation; one that meets a
translation fault is held and changes nothing else. R121, R122: the first waiting request of a guard is granted when
its lock word allows it: an exclusive one takes the free word, a shared one counts itself, and the grant drops the
requester's L1 lines; else it waits. -/
def Obligations.HomeSlicesAndGuards : Prop :=
  (∀ (by_ : Requester) (ia : Nat) (s : State),
     let ack (a : Nat) (word : BitVec 64) (s : State) : State := match by_ with
       | .stream tid .s => ownAck tid a word false s
       | _ => s
     (∀ data words u, writeIa by_ ia data s = .ok (words, u) → exec (.homeSliceWrite by_ ia data) s = .next
       (words.foldl (fun (s : State) (x : Nat × BitVec 64) => ack x.1 x.2 s) u))
     ∧ (∀ data d p a b, writeIa by_ ia data s = .error (.page d p a b) →
       exec (.homeSliceWrite by_ ia data) s = .next (holdFault d p a b s))
     ∧ (∀ n bs u, readIa by_ ia n s = .ok (bs, u) → exec (.homeSliceRead by_ ia n) s = .next u)
     ∧ (∀ n d p a b, readIa by_ ia n s = .error (.page d p a b) → exec (.homeSliceRead by_ ia n) s = .next (holdFault d p a b s))
     ∧ (∀ (opk : BitVec 4) (n : Nat) (flt : Bool) (operand expected : BitVec 64), n = 4 ∨ n = 8 → ia % n = 0 →
       (flt = true → 0xA ≤ opk.toNat ∧ opk.toNat ≤ 0xC ∨ opk = 8) → (flt = false → opk.toNat < 0xA) →
       let new (old : List (BitVec 8)) : List (BitVec 8) := natBytes n (atomicNew opk n (bytesNat old) operand.toNat expected.toNat)
       (∀ x word u, updateLine by_ (span ia n) (fun old => (new old, bytesNat old)) s = .ok ((word, x), u) →
         exec (.homeSliceAtomic by_ ia opk n flt operand expected) s = .next (ack ia word u))
       ∧ (∀ bs word u v w, iaPkg ia = s.pkg → recallLine (lineOf ia) true none s = .ok ((), u) →
         readEvent false by_ (span ia n) u = .ok (bs, v) → applyLine by_ ((span ia n).zip (new bs)) v = .ok (word, w) →
         exec (.homeSliceAtomic by_ ia opk n flt operand expected) s = .next (ack ia word w))))
  ∧ (∀ (s u : State) (ia : Nat) (q : GuardReq) (bs : List (BitVec 8)), s.guardQ.find? (fun q => q.ia == ia) = some q →
       readIa (.stream q.tid .c) ia 8 s = .ok (bs, u) →
       let w := bytesNat bs
       (∀ v, grantable q.shared w = true →
         pokeIa (.stream q.tid .c) ia (natBytes 8 (if q.shared then guardWord false (guardShr w + 1) (guardGen w)
           else guardWord true 0 (guardGen w))) u = .ok ((), v) →
         let x := modTask q.tid (fun t => { t.deliver with guards := t.guards ++ [(ia, q.shared)] }) { v with guardQ := v.guardQ.erase q }
         exec (.guardGrant ia) s = .next (atTask q.tid (fun s => match ownTask? s q.tid with
           | some t => l1Drop t.core s
           | none => s) x))
       ∧ (grantable q.shared w = false → exec (.guardGrant ia) s = .next u))

/-- R303, R306, R313, R314: an update adds to a counter of a valid sketch with saturation, and a report counts at its gate
and lets a held request decide; other operands change nothing. R103, R104: the line of a mapping that an offset
touches is fetched when it has no copy, and the copies of a line are recalled or dropped when another agent comes to
it. -/
def Obligations.SketchGateAndStashEvents : Prop :=
  ((∀ (s u : State) (obj : BitVec 16) (row bucket : Nat) (inc : Int) (word : BitVec 64) (sat : Bool),
     let x := (objEntry s obj).2.toNat
     let ia := skBase x + 4 * (row * 2 ^ skLogw x + bucket)
     (objEntry s obj).1 = 5 → sketchOk x = true → row < skRows x → bucket < 2 ^ skLogw x →
     updateLine .quay (span ia 4) (fun old =>
       let r := satCounter (sxInt 32 (bytesNat old)) inc
       (natBytes 4 (wrapN 32 r.1), r.2)) s = .ok ((word, sat), u) →
     exec (.sketchUpdateApply obj row bucket inc) s = .next (if sat then setSketchSat obj true u else u))
   ∧ (∀ (s : State) (obj : BitVec 16) (row bucket : Nat) (inc : Int),
     (skRows (objEntry s obj).2.toNat ≤ row ∨ (objEntry s obj).1 ≠ 5) → exec (.sketchUpdateApply obj row bucket inc) s = .next s)
   ∧ (∀ (s u v : State) (by_ : Requester) (ia : Nat) (nf : Bool) (word : BitVec 64), ia % 64 = 0 →
     updateLine by_ (span ia 8) (fun old =>
       let w0 := bytesNat old
       (natBytes 8 ((bits w0 0 32 + 1) % 2 ^ 32 + 2 ^ 32 * bits w0 32 16 + 2 ^ 48 * b2n (nf || bitN w0 48) + 2 ^ 49 * bits w0 49 15), ())) s
       = .ok ((word, ()), u) →
     atHome by_ ia (fun b => gateDecide b ia) u = .ok ((), v) → exec (.gateReport by_ ia nf) s = .next v)
   ∧ (∀ (s : State) (by_ : Requester) (ia : Nat) (nf : Bool), ia % 64 ≠ 0 → exec (.gateReport by_ ia nf) s = .next s))
  ∧ (∀ (s : State) (tid off : Nat) (m : Stash), (getTask? s tid).bind (fun t => t.stashAt off) = some m →
       let line := (off - m.lsOff) / 128 * 128
       (m.lines.any (fun l => l.off == line) = true → exec (.stashFill tid off) s = .next s)
       ∧ (∀ u, m.lines.any (fun l => l.off == line) = false → fillStash tid m line s = .ok ((), u) →
         exec (.stashFill tid off) s = .next u)
       ∧ (∀ ia w u, recallLine (lineOf ia) w none s = .ok ((), u) → exec (.stashRecall ia w) s = .next u)
       ∧ (∀ ia w, stashHolders s (lineOf ia) = [] → exec (.stashRecall ia w) s = .next s))

/-- R433, R434, R436, R437, R439: an access that faults is held, a write goes to its task's log besides; a freed entry is
taken by the first waiting write; a retry lets every held access of the page walk again, and an abort ends each. R94,
R95, R96, R97, R315, R317, R440: an invalidation drops what the walker keeps of a page and the Lighter registers that
hold it, an object-table invalidation reads the entry again, and a migration marks the entries of a region that is not
pinned and not busy, and then moves the region to its new die. -/
def Obligations.TranslationEvents : Prop :=
  (∀ (s : State),
     (∀ by_ ia kind, (∀ d, locate (s.homeView ia) ia ≠ .fault d) → exec (.translationFault by_ ia kind) s = .next s)
     ∧ (∀ tid st ia d va pc op opk size tag data, locate (s.homeView ia) ia = .fault d →
       let ws := [faultWrite ia va pc op opk size tag data]
       exec (.translationFault (.stream tid st) ia (.write va pc op opk size tag data)) s = .next
         (enterLog tid (ia / 65536) (((getTask? s tid).map (fun t => numberWrites t ws)).getD ws)
           (modTask tid (fun t => { t with wnext := t.wnext + 1 }) s)))
     ∧ (∀ by_ ia d kind, locate (s.homeView ia) ia = .fault d → kind = .load ∨ kind = .chunk →
       exec (.translationFault by_ ia kind) s = .next (holdFault (d.getD (requesterDie s by_)) (ia / 65536) ia by_ s))
     ∧ (∀ tid, exec (.sidelogWaitEnter tid) s = .next (refreshArea tid (modTask tid (fun t => match t.logWait with
         | w :: r => if t.sidelog.length < 64 then
             { t with sidelog := t.sidelog ++ [{ w with seq := t.logSeq }], logSeq := t.logSeq + 1, logWait := r
                      logFull := t.logFull && decide (r ≠ []) } else t
         | [] => { t with logFull := false }) s)))
     ∧ (∀ tid seq e u, (getTask? s tid).bind (fun t => t.replayable seq) = some e → replayEntry tid e s = .ok ((), u) →
       exec (.sidelogEntryApply tid seq) s = .next u)
     ∧ (∀ tid seq, (getTask? s tid).bind (fun t => t.replayable seq) = none → exec (.sidelogEntryApply tid seq) s = .next s)
     ∧ (∀ (die : Fin 8) page, heldAt s die.val page = [] →
       exec (.faultresRetry die page) s = .next s ∧ exec (.faultresAbort die page) s = .next
         { s with held := s.held.filter (fun h => !(h.die == die.val && h.page == page)) })
     ∧ (∀ (die : Fin 8) page, heldAt s die.val page ≠ [] →
       (let u := invalidatePage die.val (page % 2 ^ 31) s
        exec (.faultresRetry die page) s = .next { u with
         held := u.held.filter (fun h => !(h.die == die.val && h.page == page)) })
       ∧ exec (.faultresAbort die page) s = .next ((heldAt s die.val page).foldl abortHeld
         { s with held := s.held.filter (fun h => !(h.die == die.val && h.page == page)) })))
  ∧ (∀ (s : State),
       (∀ (die : Fin 8) ia,
         let page := iaOff ia / 65536
         let hit (e : WalkEntry) : Bool := e.die == die.val && (e.page == page || (e.big && e.page / 32 == page / 32))
         let big := s.walks.any (fun e => hit e && e.big) || ((walk s die.val (page * 65536)).map (·.big)).getD false
         let t := { s with
           walks := s.walks.filter (fun e => !hit e)
           noWalks := s.noWalks.filter (fun x => !(x.1 == die.val && (x.2 == page || (big && x.2 / 32 == page / 32)))) }
         exec (.walkerInvalidate die ia) s = .next (if big then dropPageRegs (s.pkg * 2 ^ 47 + page / 32 * 2 ^ 21) (2 ^ 21) t
           else dropPageRegs (s.pkg * 2 ^ 47 + page * 65536) 65536 t))
       ∧ (∀ index,
         let kind := readCell s.mem ((s.tagBase.toNat + 4 * index.toNat) % 2 ^ 39)
         let body := bytesNat ((span 0 64).map (fun i => readCell s.mem (bodyKey s index i)))
         let rest := s.objs.filter (fun e => e.index != index)
         exec (.objectTableInvalidate index) s = .next { s with
           objs := if kind = 0 then rest else rest ++ [⟨index, kind, BitVec.ofNat 512 body⟩] })
       ∧ (∀ region (die : Fin 8) frame, s.migrating = [] → regionBusy s region = true →
         exec (.migration region die frame) s = .next s)
       ∧ (∀ region (die : Fin 8) frame a1 b1,
         let off := region * 2 ^ 21
         let old := s.homeOf off
         s.migrating = [] → old < 8 → old ≠ die.val → regionBusy s region = false → off < deviceSpan → frame < 2 ^ 15 →
         level1At s old off = some a1 → level1At s die.val off = some b1 →
         (mayMove s old a1 die.val b1 = false → exec (.migration region die frame) s = .next s)
         ∧ (mayMove s old a1 die.val b1 = true → exec (.migration region die frame) s = .next
           (dropPageRegs (s.pkg * 2 ^ 47 + off) (2 ^ 21)
             { (regionEntries s old a1).foldl (setMig true old) s with migrating := [⟨region, die, frame⟩] })))
       ∧ (∀ (m : Moving) (die : Fin 8) frame a1 b1,
         let off := m.region * 2 ^ 21
         let old := s.homeOf off
         let t := { s with migrating := s.migrating.erase m }
         s.migrating.find? (fun x => x.region == m.region) = some m →
         level1At t old off = some a1 → level1At t m.die.val off = some b1 →
         let u := (regionEntries t old a1).foldl (setMig false old) t
         let e := readPte u old a1
         (bitN e 1 = true → exec (.migration m.region die frame) s = .next (regionMoved m.region m.die.val
           (writePte old a1 0 (writePte m.die.val b1 (pteTo e (m.frame * 2 ^ 21))
             (moveFrame (stackKey old (pteAddr e)) (stackKey m.die.val (m.frame * 2 ^ 21)) (2 ^ 21) u)))))
         ∧ (bitN e 1 = false → exec (.migration m.region die frame) s = .next (regionMoved m.region m.die.val
           (movePages old m.die.val (pteAddr e) (pteAddr (readPte u m.die.val b1)) m.frame u)))))

/-- R317, R368, R376, R385, R434, R461: PKGNUM is held while a graph is resident or a circuit is up; 64 bits of PKGMAP are
replaced; a write to BAR0 changes the register its offset names, at once or, for the registers that say so, when it is
read back, keeps read-only fields, and reaches nothing while bring-up failed. -/
def Obligations.RegisterWrites : Prop :=
  ∀ (s : State) (v : BitVec 64),
    ((s.anyResident = true ∨ ∃ c ∈ s.circuits, c.state = .up) → exec (.pkgnumWrite v) s = .next s)
    ∧ (s.anyResident = false → (∀ c ∈ s.circuits, c.state ≠ .up) → exec (.pkgnumWrite v) s = .next { s with pkgnum := v &&& 0xFFF#64 })
    ∧ (∀ word : Fin 32, ∃ t, exec (.pkgmapWrite word v) s = .next t ∧ t.mem = s.mem ∧ t.task = s.task
        ∧ ∀ i < 2048, t.pkgmap.getLsbD i = if i / 64 = word.val then v.getLsbD (i % 64) else s.pkgmap.getLsbD i)
    ∧ (∀ offset, s.bootFail ≠ 0 → exec (.registerWrite offset v) s = .next s)
    ∧ (s.bootFail = 0 →
      exec (.registerWrite 0x30000 v) s = .next { s with bodyBase := v }
      ∧ exec (.registerWrite 0x30008 v) s = .next { s with tagBase := v }
      ∧ (∀ d : Fin 8, exec (.registerWrite (0x20000 + 0x100 * d.val) v) s = .next { s with roots := s.roots.setIfInBounds d.val v })
      ∧ (∀ off, (off = 0x30010 ∨ off = 0x60020
          ∨ (∃ d : Fin 8, off = 0x20000 + 0x100 * d.val + 8 ∨ off = 0x20000 + 0x100 * d.val + 16)
          ∨ ∃ w : Fin 32, off = 0x60100 + 8 * w.val) →
        exec (.registerWrite off v) s = .next { s with regPend := s.regPend ++ [(off, v)] })
      ∧ exec (.registerWrite 0x60010 v) s = .next (if s.anyResident = true ∨ ∃ c ∈ s.circuits, c.state = .up then s
        else { s with regPend := s.regPend ++ [(0x60010, v)] })
      ∧ (∀ n : Fin 64, exec (.registerWrite (0x40000 + 32 * n.val + 8) v) s = exec (.grstart n (v.setWidth 32)) s)
      ∧ (∀ n : Fin 32, exec (.registerWrite (0x50000 + 16 * n.val) v) s = .next (modChan n (fun c => { c with base := bits v.toNat 7 51 * 128 }) s)
        ∧ exec (.registerWrite (0x50000 + 16 * n.val + 8) v) s = .next (modChan n (fun c => { c with log2 := v.toNat % 32 }) s)
        ∧ exec (.registerWrite (0x50200 + 16 * n.val) v) s = .next (modLighter n (fun c => { c with base := bits v.toNat 7 51 * 128 }) s))
      ∧ exec (.registerWrite 0x60028 v) s = .next { s with hwbase := v }
      ∧ exec (.registerWrite 0x100000 v) s = .next { s with errBase := v &&& 0x03FF_FFFF_FFFF_FF80#64 }
      ∧ exec (.registerWrite 0x100010 v) s = .next { s with errLost := s.errLost &&& ~~~(v.setWidth 32) })
    ∧ (∀ off, s.regPend = [] → (readBar0 off 8 { s with regPend := [(off, v)] }).2 =
      { regEffect off v s with free := (regEffect off v s).free + 1 })
    ∧ exec (.objectTableInvalidate (v.setWidth 16)) s = .next (regEffect 0x30010 v s)
    ∧ exec (.pkgnumWrite v) s = .next (regEffect 0x60010 v s)
    ∧ regEffect 0x60020 v s = { s with linkCfg := mergeLinkCfg s.linkCfg v }
    ∧ (∀ w : Fin 32, exec (.pkgmapWrite w v) s = .next (regEffect (0x60100 + 8 * w.val) v s))
    ∧ (∀ d : Fin 8, exec (.walkerInvalidate d v.toNat) s = .next (regEffect (0x20000 + 0x100 * d.val + 8) v s)
      ∧ (bits v.toNat 0 2 = 1 → exec (.faultresRetry d (bits v.toNat 16 42)) s = .next (regEffect (0x20000 + 0x100 * d.val + 16) v s))
      ∧ (bits v.toNat 0 2 = 2 → exec (.faultresAbort d (bits v.toNat 16 42)) s = .next (regEffect (0x20000 + 0x100 * d.val + 16) v s)))

/-- R407, R408, R410, R411, R412: a held error record is written when its ring has room and may interrupt the host; more
than CETHR corrected errors of a unit within 2^30 ticks write one record, and for a frame only the second time; an
uncorrectable word is poisoned and reported, and one in a table is reported and the table reloaded. R404: a failed
unit is fenced until package reset, with one record of severity 2 whose code the spec does not give; a fenced core's
task freezes and a fenced unit's job fails; a frame above the stack does not exist. R15, R382, R383, R384, R404, R414,
R415: ageing raises the voltage, else lowers a pending speed by 10 MHz, else reports; speeds change only between graph
starts; the package checkpoints, restores, halts and changes its power state. -/
def Obligations.ErrorAndManagementEvents : Prop :=
  (∀ (s : State),
     (s.errHeld = [] ∨ s.errLog2 = 0 → exec .errorRecordWrite s = .next s)
     ∧ (∀ r rest u, s.errHeld = r :: rest → s.errLog2 ≠ 0 → ringPut .quay s.errRing s.errLog2 64 r.toNat s = .ok (true, u) →
       exec .errorRecordWrite s = .next { u with errHeld := rest, hostIrqs := if u.errIrq ∧ recordSev r ≠ 0 then u.hostIrqs + 1 else u.hostIrqs })
     ∧ (∀ u n,
       let old := (s.ceCount.find? (fun c => c.unit == u)).getD ⟨u, [], 0⟩
       let times := (s.tick, n) :: old.times.filter (fun x => decide (s.tick < x.1 + 2 ^ 30))
       let sum := (times.map (·.2)).sum
       let t (times : List (Nat × Nat)) (past : Nat) : State :=
         { s with ceCount := s.ceCount.filter (fun c => c.unit != u) ++ [⟨old.unit, times, past⟩] }
       (sum ≤ s.ceThreshold → exec (.correctedErrorThreshold u n) s = .next (t times old.past))
       ∧ (s.ceThreshold < sum → (∀ d f, u ≠ .frame d f) ∨ old.past = 1 → exec (.correctedErrorThreshold u n) s = .next
         (addRecord (s.ceRecord u sum) (t [] (old.past + 1))))
       ∧ (s.ceThreshold < sum → ∀ d f, u = .frame d f → old.past ≠ 1 → exec (.correctedErrorThreshold u n) s = .next (t [] (old.past + 1))))
     ∧ (∀ key, key < 2 ^ 39 → exec (.eccUncorrected (.memory key)) s = .next
       (addRecord { code := fcEccUncorrected, sev := 0, mkind := 6, die := key / 2 ^ 36, addr := BitVec.ofNat 64 (key % 2 ^ 36) }
         (poisonWord (stackKey (key / 2 ^ 36) (key % 2 ^ 36)) s)))
     ∧ (∀ index : BitVec 16, exec (.eccUncorrected (.object index)) s = .next
       (addRecord { code := fcEccUncorrected, sev := 0, mkind := 6, addr := BitVec.ofNat 64 index.toNat } (reloadObject index s)))
     ∧ exec (.eccUncorrected .quay) s = .next (addRecord { code := fcEccUncorrected, sev := 3, mkind := 9 } s)
     ∧ (∀ tid t, getTask? s tid = some t →
       (t.status = .resident → exec (.eccUncorrected (.taskState tid)) s = .next (freezeTask tid ⟨fcDataPoison, 0, none, 0, 0, 0⟩ 0 0 s))
       ∧ (∀ off, off < Config.lsBytes → t.lsPoison.contains (off / 8) = false → exec (.eccUncorrected (.localStore tid off)) s = .next
         (addTaskRecord tid { code := fcEccUncorrected, sev := 0, mkind := 6, addr := BitVec.ofNat 64 off }
           (modTask tid (fun t => { t with lsPoison := if t.lsPoison.contains (off / 8) then t.lsPoison else t.lsPoison ++ [off / 8] }) s))))
     ∧ (∀ (die : Fin 8) addr, addr < Config.stackBytes →
       exec (.patrolScrub die addr .clean) s = .next s
       ∧ exec (.patrolScrub die addr .uncorrectable) s = .next
         (addRecord { code := fcEccUncorrected, sev := 0, mkind := 6, die := die.val, addr := BitVec.ofNat 64 addr }
           (poisonWord (stackKey die.val addr) s))
       ∧ exec (.patrolScrub die addr .corrected) s = .next (countCorrected (.frame die (addr / 65536)) 1 (countCorrected (.stack die) 1 s))))
  ∧ (∀ (s : State),
       let code := s.failCode
       let u := { s with free := s.free + 1 }
       (∀ n l, n < 192 → exec (.hardwareFailureFence (.core n l)) s = .next { fenceCore n l s with free := s.free + 1 })
       ∧ (∀ n : Fin 32, exec (.hardwareFailureFence (.bte n)) s = .next (failUnit (.bte n) code
         (addRecord { code := code, sev := 2, mkind := 2, unit := n.val, die := n.val / 4 }
           (modChan n (fun c => { c with fenced := true, fcode := code }) u))))
       ∧ (∀ n : Fin 32, exec (.hardwareFailureFence (.lighter n)) s = .next (failUnit (.lighter n) code
         (addRecord { code := code, sev := 2, mkind := 3, unit := n.val, die := n.val / 4 }
           (modLighter n (fun c => { c with fenced := true, fcode := code }) u))))
       ∧ (∀ n, s.sliceFenced.contains n.val = false → exec (.hardwareFailureFence (.slice n)) s = .next
         (addRecord { code := code, sev := 2, mkind := 6, unit := n.val % 16, die := n.val / 16 }
           { u with sliceFenced := s.sliceFenced ++ [n.val] }))
       ∧ (∀ d a, a < Config.stackBytes → s.frameFenced.contains (d.val, a / 65536) = false →
         exec (.hardwareFailureFence (.frame d a)) s = .next
           (addRecord { code := code, sev := 2, mkind := 6, die := d.val, addr := BitVec.ofNat 64 (a / 65536 * 65536) }
             { u with frameFenced := s.frameFenced ++ [(d.val, a / 65536)]
                      walks := s.walks.filter (fun e => !(e.die == d.val && e.frame / 65536 == a / 65536)) }))
       ∧ (∀ d a, Config.stackBytes ≤ a → exec (.hardwareFailureFence (.frame d a)) s = .fault .stackAddress))
  ∧ (∀ (s : State),
       (∀ core : Fin 192, let c := s.cores[core]
         exec (.ageingMarginLow core.val true) s = .next (modCore core.val (fun c => { c with voltage := c.voltage + 1 }) s)
         ∧ (1910 ≤ c.pendingSpeed.getD c.speed → s.guaranteed + 10 ≤ s.pendingSum →
           exec (.ageingMarginLow core.val false) s = .next
             (modCore core.val (fun c => { c with pendingSpeed := some (c.pendingSpeed.getD c.speed - 10) }) s))
         ∧ (c.pendingSpeed.getD c.speed < 1910 ∨ s.pendingSum < s.guaranteed + 10 →
           exec (.ageingMarginLow core.val false) s = .next
             (addRecord { code := fcSpeedFloor, sev := 0, mkind := 9, core := core.val, die := s.dieOf core.val } s)))
       ∧ (s.anyRunning = true → exec .speedTableUpdate s = .next s)
       ∧ (s.anyRunning = false → exec .speedTableUpdate s = .next
         { s with cores := s.cores.map (fun c => { c with speed := c.pendingSpeed.getD c.speed, pendingSpeed := none }) })
       ∧ exec .haltNotice s = .next (quiesce s)
       ∧ (let q := quiesce s
         let e := (List.range 192).foldl (fun s i => emptyQueue i s) q
         (q.quiet = true → q.migrating = [] → exec .checkpoint s = .next { e with image := some (imageOf e), halted := false, ckpt := false })
         ∧ (q.quiet = false ∨ q.migrating ≠ [] → exec .checkpoint s = .next { q with ckpt := true }))
       ∧ (s.image = none → exec .checkpointResume s = .next s)
       ∧ (∀ im, s.image = some im → exec .checkpointResume s = .next (restoreImage s.imageSeq im s))
       ∧ (∀ p ∈ s.packs, ∀ im, p.image = some im → im.seq ≤ s.imageSeq)
       ∧ (∀ b, exec (.powerBudgetLimit b) s = .next { s with limited := b })
       ∧ (s.power ≠ .p3 → exec (.powerStateChange .p0) s = .next { s with power := .p0 })
       ∧ (s.power = .p3 → exec (.powerStateChange .p0) s = .next (coldReset s))
       ∧ (s.power ≠ .p3 → s.quiet = true → exec (.powerStateChange .p1) s = .next { s with power := .p1 })
       ∧ (s.power ≠ .p3 → s.quiet = true → s.anyRunning = false →
         exec (.powerStateChange .p2) s = .next (holdPower s))
       ∧ (s.quiet = false → exec (.powerStateChange .p2) s = .next s)
       ∧ exec (.powerStateChange .p3) s = .next { coldReset s with power := .p3 })

/-- R368, R379, R380, R381: a package reset leaves the reset values, clears device memory, keeps host memory and the
fuses, and the boot stages end in READY with the speeds of calibration, or at the first stage that fails; no circuit
is set up while the package has no number. -/
def Obligations.PackageReset : Prop :=
  ∀ (s : State) (b : BootInputs),
    let xs := calibrateAll s.fuses b.passes
    let code : BitVec 64 := if b.fusesOk = false ∨ s.fuses.ok = false then 0x101 else if imageOk b s.fuses = false then 0x202
      else if b.hbmOk = false then 0x303 else if xs = none then 0x404 else 0xE
    let t := { coldReset s with bootst := code }
    exec (.packageReset b) s = .next (if code = 0xE then writeSpeeds (xs.getD []) t else t)
    ∧ (∃ u, exec (.packageReset b) s = .next u ∧ u.task = State.reset.task ∧ u.others = [] ∧ u.circuits = [] ∧ u.errHeld = []
      ∧ u.roots = State.reset.roots ∧ u.pkgnum = 0 ∧ u.fuses = s.fuses ∧ u.bootst = code
      ∧ ∀ k, readCell u.mem k = if k < 2 ^ 58 then 0 else readCell s.mem k)
    ∧ ((BitVec.ofNat 256 (bytesNat (shake256 32 b.key)) ≠ s.fuses.keyHash ∨ b.version < s.fuses.rollback) → imageOk b s.fuses = false)
    ∧ (∀ xs, calibrateAll s.fuses b.passes = some xs → xs.length = s.fuses.liveCount ∧ s.guaranteed ≤ xs.sum ∧ ∀ x ∈ xs, 1900 ≤ x ∧ x ≤ 2600)

/-- R372, R373, R462: the receiver of an established circuit judges a flit by its codeword, its CRC, its SEQ and its tag,
in that order; one that passes is delivered once and advances SEQ, and a rejected one changes the negative
acknowledgement and counts only. R372, R373, R374: a flit whose codeword, CRC, SEQ, counter and tag all hold passes;
accepting it moves SEQ on by one and takes its CTR, and a key marker erases its slot. R372, R373, R374, R464, R465: an
acknowledgement drops the flits before its SEQ, and a negative one sends the rest again as they are stored; a sender
with 2,048 unacknowledged flits takes no new one; a key enters its slot; re-keying a sender encrypts its
unacknowledged flits again from CTR 0; at 2^48 - 2^16 a sender stops with one record. -/
def Obligations.FlitEvents : Prop :=
  (∀ (s : State) (id : Nat) (f : FlitIn) (c : Circuit) (rtt : BitVec 20), getCirc? s id = some c →
     ∀ x ∈ [(flitKind f = 0 ∨ flitKind f = 3, Instr.flitDataReceive id f, c.rtt), (flitKind f = 1, .keyMarkerReceive id f, c.rtt),
         (flitKind f = 2, .flitAckReceive c.far id f, c.rtt), (flitKind f = 4, .timeSyncReceive id f rtt, rtt)],
       (¬ x.1 → exec x.2.1 s = .next s)
       ∧ (c.state ≠ .up → flitKind f ≠ 4 → exec x.2.1 s = .next s)
       ∧ (c.state = .up → x.1 → flitKind f ≠ 4 →
         let t := if f.corrected then countCorrected (.optical c.engine) 1 s else s
         let got := modCirc id (fun c => { c with rx := c.rx.accept f, idle := 0 }) t
         (judge c.rx f = .passes → flitKind f ≠ 2 → exec x.2.1 s = .next got)
         ∧ (judge c.rx f = .passes → flitKind f = 2 → exec x.2.1 s = .next (modCirc id (fun d => { d with
             tx := d.tx.acked (bits (c.rx.text? f).toNat 0 12) (bitN (c.rx.text? f).toNat 12) }) got))
         ∧ (judge c.rx f = .auth → exec x.2.1 s = .next (rejectAuth c f t))
         ∧ (judge c.rx f = .codeword ∨ judge c.rx f = .crc ∨ judge c.rx f = .order → exec x.2.1 s = .next (rejectPlain c f s))))
  ∧ (∀ (d : RecvDir) (f : FlitIn) (k : BitVec 256),
       (f.codewordOk = false → judge d f = .codeword)
       ∧ (f.codewordOk = true → crc32 (flitBytes f.header f.payload f.tag) ≠ f.crc → judge d f = .crc)
       ∧ (f.codewordOk = true → crc32 (flitBytes f.header f.payload f.tag) = f.crc → flitSeq f ≠ d.seq → judge d f = .order)
       ∧ (f.codewordOk = true → crc32 (flitBytes f.header f.payload f.tag) = f.crc → flitSeq f = d.seq →
         (d.key (flitSlot f) = none → judge d f = .auth)
         ∧ (∀ n, d.key (flitSlot f) = some k → d.last (flitSlot f) = some n → flitCtr f ≤ n → judge d f = .auth)
         ∧ (∀ n, d.key (flitSlot f) = some k → d.last (flitSlot f) = some n → n < flitCtr f →
           gcmTag k (flitIv (d.salt (flitSlot f)) (flitCtr f)) f.header f.payload = f.tag → judge d f = .passes))
       ∧ (d.accept f).seq = (d.seq + 1) % 4096 ∧ (d.accept f).last (flitSlot f) = some (flitCtr f)
       ∧ (flitKind f = 1 → (d.accept f).key (flitSlot f) = none))
  ∧ (∀ (s : State) (id : Nat),
       (∀ (d : SendDir) (a b : List (FlitIn × BitVec 2048)) (f : FlitIn × BitVec 2048), d.unacked = a ++ f :: b →
         (∀ x ∈ a, flitSeq x.1 ≠ flitSeq f.1) →
         d.acked (flitSeq f.1) false = { d with unacked := f :: b }
         ∧ d.acked (flitSeq f.1) true = { d with unacked := f :: b, wire := d.wire ++ f.1 :: b.map (·.1) })
       ∧ (∀ (d : SendDir) kind text, 2048 ≤ d.unacked.length → d.send kind text = d)
       ∧ (∀ (d : SendDir) (kind : Nat) (text : BitVec 2048) (k : BitVec 256), kind < 8 → d.stopped = false → d.unacked.length < 2048 → d.ctr < ctrMarker →
         d.key d.slot = some k → d.seq < 4096 →
         ∃ f, d.send kind text = { d with unacked := d.unacked ++ [(f, text)], wire := d.wire ++ [f], ctr := d.ctr + 1, seq := (d.seq + 1) % 4096 }
           ∧ flitCtr f = d.ctr ∧ flitSeq f = d.seq ∧ flitSlot f = d.slot ∧ flitKind f = kind)
       ∧ (∀ (d : SendDir) (kind : Nat) (text : BitVec 2048) (k j : BitVec 256), d.stopped = false → d.unacked.length < 2047 → ctrMarker ≤ d.ctr →
         d.ctr < ctrStop → d.key d.slot = some k → d.key (!d.slot) = some j →
         ∃ f g, (d.send kind text).unacked = d.unacked ++ [(f, 0), (g, text)] ∧ flitKind f = 1 ∧ flitSlot f = d.slot ∧ flitCtr f = d.ctr
           ∧ flitSlot g = !d.slot ∧ flitCtr g = 0 ∧ (d.send kind text).key d.slot = none ∧ (d.send kind text).slot = !d.slot)
       ∧ (∀ slot key salt, exec (.keySlotLoad id false slot key salt) s = .next (modCirc id (fun c => { c with
           rx := if slot then { c.rx with key1 := some key, salt1 := salt, last1 := none }
             else { c.rx with key0 := some key, salt0 := salt, last0 := none } }) s))
       ∧ (∀ slot key salt, exec (.keySlotLoad id true slot key salt) s = .next (modCirc id (fun c =>
           let d := if slot then { c.tx with key1 := some key, salt1 := salt } else { c.tx with key0 := some key, salt0 := salt }
           { c with tx := if d.stopped then d else d.turnOver }) s))
       ∧ (∀ c k0 k1 s0 s1, getCirc? s id = some c →
         exec (.circuitRekey id true k0 k1 s0 s1) s = .next (modCirc id (fun c => { c with tx := { c.tx with
           key0 := some k0, key1 := some k1, salt0 := s0, salt1 := s1, slot := false
           unacked := resealAll k0 s0 0 c.tx.unacked, wire := (resealAll k0 s0 0 c.tx.unacked).map (·.1), ctr := c.tx.unacked.length, stopped := false } }) s)
         ∧ (lcAuthMax c.cfg ≤ c.rx.authFails → exec (.circuitRekey id false k0 k1 s0 s1) s = .next
           (addRecord { code := fcAuthFail, sev := 1, mkind := 5, unit := c.engine.val } (modCirc id (fun c => { c with rx := { c.rx with
             key0 := some k0, key1 := some k1, salt0 := s0, salt1 := s1, last0 := none, last1 := none
             authFails := 0, rekeyed := true } }) s))))
       ∧ (∀ c, getCirc? s id = some c →
         (c.tx.ctr < 2 ^ 48 - 2 ^ 16 → exec (.ctrExhaust id) s = .next s)
         ∧ (2 ^ 48 - 2 ^ 16 ≤ c.tx.ctr → c.tx.stopped = false → exec (.ctrExhaust id) s = .next
           (addRecord { code := fcCtrExhaust, sev := 1, mkind := 5, unit := c.engine.val }
             (modCirc id (fun c => { c with tx := { c.tx with stopped := true } }) s)))))

/-- R367, R368, R369, R466, R469: a set-up of this package enters the circuit table and its port goes to the lowest
package number; an ACK makes the circuit usable, a NACK waits for its back-off and tries again; a circuit that is
torn, idle too long or failed gives its ports back. R370, R404, R466, R469, R470, R471: the engines, package time and
the die links: a lane that loses lock is fenced and its circuits rebond; a second microcontroller reset within 2^30
ticks fences the engine; a time stamp sets the slew; a die link is fenced, and a die without links stops the package. -/
def Obligations.CircuitAndFabricEvents : Prop :=
  (∀ (s : State) (id : Nat),
     (∀ req, (s.engines[req.engine].driftOff = false ∨ req.from_.toNat ≠ s.pkg) → exec (.circuitSetup req) s = .next (setupAt req s))
     ∧ (∀ req, s.engines[req.engine].driftOff = true → req.from_.toNat = s.pkg → exec (.circuitSetup req) s = .next
       (modEngine req.engine (fun e => { e with queued := e.queued ++ [.setup req] }) s))
     ∧ (∀ req, req.from_.toNat = s.pkg → s.engines[req.engine].driftOff = false → maySetup s req = true → getCirc? s req.circ = none →
       req.rivals = [] → s.ports = [] → exec (.circuitSetup req) s = .next
         { s with circuits := s.circuits ++ [newCircuit s req], ports := [(req.port, req.circ)] })
     ∧ (∀ rtt, exec (.circuitSetupAck id rtt) s = .next (modCirc id (fun c => if c.state = .setup
         then { c with state := .up, nacks := 0, attempts := 0, idle := 0, rtt := rtt, fdrift := 0, fdv := true, stale := false, cfg := s.linkCfg
                       syncAt := s.tick, tx := { c.tx with wire := c.tx.unacked.map (·.1) } }
         else c) s))
     ∧ (∀ c, getCirc? s id = some c → c.state = .setup → c.nacks + 1 < 16 → exec (.circuitSetupNack id) s = .next
       (modCirc id (fun c' => { c' with nacks := c.nacks + 1, state := .waiting, retryAt := s.tick + backOff s (c.nacks + 1) })
         { s with ports := s.ports.filter (fun p => p.2 != id) }))
     ∧ exec (.circuitSetupRetry id) s = .next (modCirc id (fun c => if c.state = .waiting ∧ c.retryAt ≤ s.tick
         then { c with state := .setup } else c) s)
     ∧ (∀ c, getCirc? s id = some c →
       (s.engines[c.engine].driftOff = false → exec (.circuitTear id) s = .next { s with
         circuits := s.circuits.filter (fun c => c.id != id), ports := s.ports.filter (fun p => p.2 != id) })
       ∧ (c.state = .up → s.idleTime.toNat ≤ c.idle → slotReserved s c.far.toNat = false → s.engines[c.engine].driftOff = false →
         exec (.circuitIdleTimeout id) s = .next { s with
           circuits := s.circuits.filter (fun c => c.id != id), ports := s.ports.filter (fun p => p.2 != id) })
       ∧ (c.idle < s.idleTime.toNat → exec (.circuitIdleTimeout id) s = .next s)
       ∧ (∀ e, c.state = .up → engineFor s c.engine id = some e → exec (.circuitFail id) s = .next
         { modCirc id (fun d => { d with engine := e, lanes := laneMask ((s.freeLanes e id).take
                                           (min (bondSize (s.freeLanes e id).length) (bondSize ((List.range 16).countP (fun i => c.lanes.getLsbD i)))))
                                         state := .setup, nacks := 0, attempts := 0, fdv := false
                                         rx := { d.rx with rejects := 0, authFails := 0, rekeyed := false, nakSent := false } }) s with
           ports := s.ports.filter (fun p => p.2 != id) })
       ∧ (c.state = .up → engineFor s c.engine id = none → exec (.circuitFail id) s = .next (endCircuit id s))))
  ∧ (∀ (s : State),
       (∀ (e : Fin 8) (lane : Fin 16), (s.engines[e].lanes.getLsbD lane.val = false ∨ s.engines[e].dark.getLsbD lane.val = true) → exec (.laneLockLoss e lane) s = .next s)
       ∧ (∀ (e : Fin 8) (lane : Fin 16), s.engines[e].lanes.getLsbD lane.val = true → s.engines[e].dark.getLsbD lane.val = false →
         laneUsers s e lane.val = [] →
         let t := addRecord { code := s.failCode, sev := 2, mkind := 5, unit := e.val, tag := lane.val }
           (modEngine e (fun x => { x with dark := x.dark ||| ~~~ ~~~(BitVec.ofNat 16 (2 ^ lane.val)) }) s)
         exec (.laneLockLoss e lane) s = .next { t with free := t.free + 1 })
       ∧ (∀ e : Fin 8, s.engines[e].fenced = true → exec (.mcuWatchdog e) s = .next s)
       ∧ (∀ e : Fin 8, s.engines[e].fenced = false → s.engines[e].lastReset = none → s.circuits = [] → exec (.mcuWatchdog e) s = .next
         (addRecord { code := fcMcuWatchdog, sev := 0, mkind := 5, unit := e.val }
           (modEngine e (fun x => { x with lastReset := some s.tick, driftOff := false }) s)))
       ∧ (∀ (e : Fin 8) (t : Nat), s.engines[e].fenced = false → s.engines[e].lastReset = some t → s.tick ≤ t + 2 ^ 30 → s.circuits = [] →
         exec (.mcuWatchdog e) s = .next (addRecord { code := fcMcuWatchdog, sev := 2, mkind := 5, unit := e.val }
           (modEngine e (fun x => { x with fenced := true, driftOff := false }) s)))
       ∧ (∀ id c f rtt, getCirc? s id = some c → c.state = .up → flitKind f = 4 → judge c.rx f = .passes → f.corrected = false →
         let u := refreshEntry id rtt (modCirc id (fun c => { c with rx := c.rx.accept f, idle := 0 }) s)
         (u.pkg = 0 → exec (.timeSyncReceive id f rtt) s = .next (resumeDrift id u))
         ∧ (u.pkg ≠ 0 → ∀ d, getCirc? u id = some d →
           let diff : Int := (bits (c.rx.text? f).toNat 0 64 : Int) + oneWay u d - u.tick
           exec (.timeSyncReceive id f rtt) s = .next (resumeDrift id
             { u with slew := diff, syncAge := 0, synced := u.synced || decide (-2 ≤ diff ∧ diff ≤ 2), free := u.free + 1 })))
       ∧ (∀ id rtt, exec (.drift id (.rtt rtt)) s = .next (resumeDrift id (refreshEntry id rtt s)))
       ∧ (∀ id, exec (.timeSyncSend id) s = .next (modCirc id (fun c => if c.state = .up ∧ c.tx.open_
           then { c with tx := c.tx.send 4 (BitVec.ofNat 2048 (s.tick % 2 ^ 64)), idle := 0, syncAt := s.tick } else c) s))
       ∧ (∀ id, s.pkg ≠ 0 → s.synced = true → 2 ^ 24 ≤ s.syncAge → exec (.drift id .syncLost) s = .next
         (addRecord { code := fcDrift, sev := 1, mkind := 9 } { s with synced := false }))
       ∧ (∀ l : Fin 16, s.dieLinks[l].up = false → exec (.dieLink l) s = .next s)
       ∧ (∀ l : Fin 16, s.dieLinks[l].up = true →
         let t := { s with dieLinks := s.dieLinks.set l ⟨false, lcReplayMax s.linkCfg⟩ }
         let sev := if (List.range 8).any (fun d => (dieLinksOf t d).isEmpty) then 3 else 2
         exec (.dieLink l) s = .next (addRecord { code := fcDieLink, sev := sev, mkind := 7, unit := l.val, die := (linkEnds l.val).1 } t)))

/-- R127, R324, R375, R376, R379, R385, R443, R472, R473: the host reads and writes device memory through HDM where
HDMBASE covers its address and bring-up is complete, reads BAR0 and reaches the copy and host apertures through BAR2;
the package reaches host memory through the aperture; without the link a read is poison and a write is dropped; a
back-invalidation ends with its answer, or after 2^24 ticks with a record. -/
def Obligations.HostEvents : Prop :=
  ∀ (s : State),
    (∀ a, (s.hostUp = false ∨ (s.bootst.getLsbD 3 = false ∧ ofBar0 a = false)) → exec (.hdmHostAccess a) s = .next s)
    ∧ (s.hostUp = true → ∀ off n, exec (.hdmHostAccess (.bar0Read off n)) s = .next
      { (readBar0 off n s).2 with hostSees := (readBar0 off n s).1, poisonReturned := false })
    ∧ (s.hostUp = true → s.bootst.getLsbD 3 = true → ∀ a, s.hostPend ≠ [] → ofBar0 a = false →
      exec (.hdmHostAccess a) s = .next { s with hostPend := s.hostPend ++ [a] })
    ∧ (s.hostUp = true → s.bootst.getLsbD 3 = true → s.stopped = false → s.hostPend = [] →
      (∀ addr n bs u, s.hdmBase.toNat ≤ addr → addr + n ≤ s.hdmBase.toNat + deviceSpan →
        readIa .host (s.pkg * 2 ^ 47 + (addr - s.hdmBase.toNat)) n s = .ok (bs, u) →
        exec (.hdmHostAccess (.read addr n false)) s = .next { u with hostSees := bs, poisonReturned := false })
      ∧ (∀ addr data u tags, s.hdmBase.toNat ≤ addr → addr + data.length ≤ s.hdmBase.toNat + deviceSpan →
        writeIa .host (s.pkg * 2 ^ 47 + (addr - s.hdmBase.toNat)) data s = .ok (tags, u) →
        exec (.hdmHostAccess (.write addr data)) s = .next u)
      ∧ (∀ addr n b data, (addr < s.hdmBase.toNat ∨ s.hdmBase.toNat + deviceSpan < addr + n) → data.length = n →
        exec (.hdmHostAccess (.read addr n b)) s = .next s ∧ exec (.hdmHostAccess (.write addr data)) s = .next s)
      ∧ (∀ off data, off < 512 → off % 16 = 0 → data.length = 16 → exec (.hdmHostAccess (.bar2Write off data)) s = .next
        (reachChan (Fin.ofNat 32 (off / 16)) (BitVec.ofNat 128 (bytesNat data)) none s))
      ∧ (∀ off data, off < 2 ^ 39 → (512 ≤ off ∨ off % 16 ≠ 0 ∨ data.length ≠ 16) → exec (.hdmHostAccess (.bar2Write off data)) s = .next
        (addRecord { code := fcAperture, sev := 0, mkind := 8, addr := BitVec.ofNat 64 (s.pkg * 2 ^ 47 + deviceSpan + off) } s))
      ∧ (∀ off data u tags, 2 ^ 39 ≤ off → off < 2 ^ 40 → writeIa .host (s.pkg * 2 ^ 47 + deviceSpan + off) data s = .ok (tags, u) →
        exec (.hdmHostAccess (.bar2Write off data)) s = .next u))
    ∧ (∀ by_ off bs u tags, s.hostUp = true → writeIa by_ (s.pkg * 2 ^ 47 + hostAperture + off % 2 ^ 39) bs s = .ok (tags, u) →
      ∀ n, exec (.hostApertureAccess by_ off (some bs) n) s = .next u)
    ∧ (∀ by_ off bs u n, s.hostUp = true → readIa by_ (s.pkg * 2 ^ 47 + hostAperture + off % 2 ^ 39) n s = .ok (bs, u) →
      exec (.hostApertureAccess by_ off none n) s = .next u)
    ∧ (∀ by_ off bs n, s.hostUp = false → exec (.hostApertureAccess by_ off (some bs) n) s = .next (dropHostWrite s)
      ∧ exec (.hostApertureAccess by_ off none n) s = .next (poisonReader by_ (s.pkg * 2 ^ 47 + hostAperture + off % 2 ^ 39) s))
    ∧ exec (.hostError .corrected) s = .next (countCorrected .host 1 { s with aer := s.aer ++ [.corrected] })
    ∧ exec (.hostError .internal) s = .next { s with aer := s.aer ++ [.internal] }
    ∧ exec (.hostError (.retrained 8)) s = .next (addRecord { code := fcHostError, sev := 0, mkind := 8 }
        { s with aer := s.aer ++ [.retrained 8], hostWidth := 8 })
    ∧ (s.hostUp = true → exec .hostLinkDown s = .next { s with hostUp := false, hostDropped := false }
      ∧ exec .hostLinkReturn s = .next s)
    ∧ (s.hostUp = false → exec .hostLinkDown s = .next s
      ∧ exec .hostLinkReturn s = .next { s with hostUp := true, hostLines := [], backInval := [] })
    ∧ (∀ ia,
      let gone : State := { s with hostLines := s.hostLines.filter (fun l => l != lineOf ia)
                                   backInval := s.backInval.filter (fun x => x.1 != lineOf ia) }
      (s.backInval.any (fun x => x.1 == lineOf ia) = true → exec (.backInvalidateResponse ia) s = .next gone)
      ∧ (invalidationLate s (lineOf ia) = true → exec (.backInvalidateTimeout ia) s = .next
        (addRecord { code := fcHostError, sev := 1, mkind := 8, addr := BitVec.ofNat 64 (lineOf ia) } gone))
      ∧ (invalidationLate s (lineOf ia) = false → exec (.backInvalidateTimeout ia) s = .next s))
end

