-- ==== Sys2Proof/Laws/Decode.lean ====
section
/-! SUPPORT. Operand codes and the six forms, written and read back. -/

namespace Sys2Proof

theorem operandOf_operandCode (o : Operand) : operandOf (operandCode o) = o := by
  cases o with
  | g n => revert n; decide
  | q n => revert n; decide
  | p n => revert n; decide
  | sp n => cases n <;> decide
  | v n => revert n; decide
  | t n => revert n; decide
  | rsv n => revert n; decide

theorem operandCode_operandOf (x : BitVec 7) : operandCode (operandOf x) = x := by revert x; decide

/-- One bit is a field of width 1. -/
theorem getLsbD_eq_field {n : Nat} (x : BitVec n) (i : Nat) : x.getLsbD i = (x.extractLsb' i 1).getLsbD 0 := by simp

theorem bit1_getLsbD (b : Bool) : (bit1 b).getLsbD 0 = b := by cases b <;> rfl

theorem bit1_field {n : Nat} (x : BitVec n) (i : Nat) : bit1 (x.getLsbD i) = x.extractLsb' i 1 := by
  apply BitVec.eq_of_getLsbD_eq
  intro j hj
  obtain rfl : j = 0 := by omega
  rw [bit1_getLsbD, getLsbD_eq_field]

/-- Adjacent fields of a word, side by side, are one field. -/
theorem fields_join {n : Nat} (w : BitVec n) (s l m : Nat) (t : Nat) (h : t = s + l) :
    w.extractLsb' t m ++ w.extractLsb' s l = w.extractLsb' s (m + l) := by
  subst h
  apply BitVec.eq_of_getLsbD_eq
  intro i hi
  simp only [BitVec.getLsbD_append, BitVec.getLsbD_extractLsb']
  by_cases h1 : i < l
  · have : i < m + l := by omega
    simp [h1, this]
  · have h2 : i - l < m := by omega
    have h3 : s + l + (i - l) = s + i := by omega
    simp [h1, h2, hi, h3]

/-- Every field of the form is read where it is written. -/
theorem rAluOf_rAluWord (op : BitVec 8) (f : RAlu) : rAluOf (rAluWord op f) = f := by
  obtain ⟨⟨pn, pp⟩, x1, x2, x3, x4, x5, x6, x7, x8, x9, x10, x11⟩ := f
  simp only [rAluOf, predOf, operandAt, RAlu.mk.injEq, Pred.mk.injEq]
  unfold rAluWord headWord
  refine ⟨⟨?_, ?_⟩, ?_, ?_, ?_, ?_, ?_, ?_, ?_, ?_, ?_, ?_, ?_⟩
  all_goals first
    | refine (congrArg operandOf ?_).trans (operandOf_operandCode _)
    | refine ((getLsbD_eq_field _ _).trans (congrArg (fun y : BitVec 1 => y.getLsbD 0) ?_)).trans (bit1_getLsbD _)
    | skip
  all_goals
    repeat' first
      | refine (BitVec.extractLsb'_append_eq_of_add_le (by decide)).trans ?_
      | refine (BitVec.extractLsb'_append_eq_of_le (by decide)).trans ?_
    simp

theorem opField_rAluWord (op : BitVec 8) (f : RAlu) : opField (rAluWord op f) = op := by
  unfold opField rAluWord headWord
  repeat' first
    | refine (BitVec.extractLsb'_append_eq_of_add_le (by decide)).trans ?_
    | refine (BitVec.extractLsb'_append_eq_of_le (by decide)).trans ?_
  simp

theorem predOf_rAluWord (op : BitVec 8) (f : RAlu) : predOf (rAluWord op f) = f.pred := by
  have h := congrArg RAlu.pred (rAluOf_rAluWord op f)
  exact h

/-- Every field of the form is read where it is written. -/
theorem rSysOf_rSysWord (op : BitVec 8) (f : RSys) : rSysOf (rSysWord op f) = f := by
  obtain ⟨⟨pn, pp⟩, x1, x2, x3, x4, x5, x6, x7, x8, x9, x10, x11⟩ := f
  simp only [rSysOf, predOf, operandAt, RSys.mk.injEq, Pred.mk.injEq]
  unfold rSysWord headWord
  refine ⟨⟨?_, ?_⟩, ?_, ?_, ?_, ?_, ?_, ?_, ?_, ?_, ?_, ?_, ?_⟩
  all_goals first
    | refine (congrArg operandOf ?_).trans (operandOf_operandCode _)
    | refine ((getLsbD_eq_field _ _).trans (congrArg (fun y : BitVec 1 => y.getLsbD 0) ?_)).trans (bit1_getLsbD _)
    | skip
  all_goals
    repeat' first
      | refine (BitVec.extractLsb'_append_eq_of_add_le (by decide)).trans ?_
      | refine (BitVec.extractLsb'_append_eq_of_le (by decide)).trans ?_
    simp

theorem opField_rSysWord (op : BitVec 8) (f : RSys) : opField (rSysWord op f) = op := by
  unfold opField rSysWord headWord
  repeat' first
    | refine (BitVec.extractLsb'_append_eq_of_add_le (by decide)).trans ?_
    | refine (BitVec.extractLsb'_append_eq_of_le (by decide)).trans ?_
  simp

theorem predOf_rSysWord (op : BitVec 8) (f : RSys) : predOf (rSysWord op f) = f.pred := by
  have h := congrArg RSys.pred (rSysOf_rSysWord op f)
  exact h

/-- Every field of the form is read where it is written. -/
theorem iFormOf_iFormWord (op : BitVec 8) (f : IForm) : iFormOf (iFormWord op f) = f := by
  obtain ⟨⟨pn, pp⟩, x1, x2, x3⟩ := f
  simp only [iFormOf, predOf, operandAt, IForm.mk.injEq, Pred.mk.injEq]
  unfold iFormWord headWord
  refine ⟨⟨?_, ?_⟩, ?_, ?_, ?_⟩
  all_goals first
    | refine (congrArg operandOf ?_).trans (operandOf_operandCode _)
    | refine ((getLsbD_eq_field _ _).trans (congrArg (fun y : BitVec 1 => y.getLsbD 0) ?_)).trans (bit1_getLsbD _)
    | skip
  all_goals
    repeat' first
      | refine (BitVec.extractLsb'_append_eq_of_add_le (by decide)).trans ?_
      | refine (BitVec.extractLsb'_append_eq_of_le (by decide)).trans ?_
    simp

theorem opField_iFormWord (op : BitVec 8) (f : IForm) : opField (iFormWord op f) = op := by
  unfold opField iFormWord headWord
  repeat' first
    | refine (BitVec.extractLsb'_append_eq_of_add_le (by decide)).trans ?_
    | refine (BitVec.extractLsb'_append_eq_of_le (by decide)).trans ?_
  simp

theorem predOf_iFormWord (op : BitVec 8) (f : IForm) : predOf (iFormWord op f) = f.pred := by
  have h := congrArg IForm.pred (iFormOf_iFormWord op f)
  exact h

/-- Every field of the form is read where it is written. -/
theorem mFormOf_mFormWord (op : BitVec 8) (f : MForm) : mFormOf (mFormWord op f) = f := by
  obtain ⟨⟨pn, pp⟩, x1, x2, x3, x4, x5, x6, x7, x8, x9, x10, x11, x12, x13, x14⟩ := f
  simp only [mFormOf, predOf, operandAt, MForm.mk.injEq, Pred.mk.injEq]
  unfold mFormWord headWord
  refine ⟨⟨?_, ?_⟩, ?_, ?_, ?_, ?_, ?_, ?_, ?_, ?_, ?_, ?_, ?_, ?_, ?_, ?_⟩
  all_goals first
    | refine (congrArg operandOf ?_).trans (operandOf_operandCode _)
    | refine ((getLsbD_eq_field _ _).trans (congrArg (fun y : BitVec 1 => y.getLsbD 0) ?_)).trans (bit1_getLsbD _)
    | skip
  all_goals
    repeat' first
      | refine (BitVec.extractLsb'_append_eq_of_add_le (by decide)).trans ?_
      | refine (BitVec.extractLsb'_append_eq_of_le (by decide)).trans ?_
    simp

theorem opField_mFormWord (op : BitVec 8) (f : MForm) : opField (mFormWord op f) = op := by
  unfold opField mFormWord headWord
  repeat' first
    | refine (BitVec.extractLsb'_append_eq_of_add_le (by decide)).trans ?_
    | refine (BitVec.extractLsb'_append_eq_of_le (by decide)).trans ?_
  simp

theorem predOf_mFormWord (op : BitVec 8) (f : MForm) : predOf (mFormWord op f) = f.pred := by
  have h := congrArg MForm.pred (mFormOf_mFormWord op f)
  exact h

/-- Every field of the form is read where it is written. -/
theorem bFormOf_bFormWord (op : BitVec 8) (f : BForm) : bFormOf (bFormWord op f) = f := by
  obtain ⟨⟨pn, pp⟩, x1, x2, x3, x4⟩ := f
  simp only [bFormOf, predOf, operandAt, BForm.mk.injEq, Pred.mk.injEq]
  unfold bFormWord headWord
  refine ⟨⟨?_, ?_⟩, ?_, ?_, ?_, ?_⟩
  all_goals first
    | refine (congrArg operandOf ?_).trans (operandOf_operandCode _)
    | refine ((getLsbD_eq_field _ _).trans (congrArg (fun y : BitVec 1 => y.getLsbD 0) ?_)).trans (bit1_getLsbD _)
    | skip
  all_goals
    repeat' first
      | refine (BitVec.extractLsb'_append_eq_of_add_le (by decide)).trans ?_
      | refine (BitVec.extractLsb'_append_eq_of_le (by decide)).trans ?_
    simp

theorem opField_bFormWord (op : BitVec 8) (f : BForm) : opField (bFormWord op f) = op := by
  unfold opField bFormWord headWord
  repeat' first
    | refine (BitVec.extractLsb'_append_eq_of_add_le (by decide)).trans ?_
    | refine (BitVec.extractLsb'_append_eq_of_le (by decide)).trans ?_
  simp

theorem predOf_bFormWord (op : BitVec 8) (f : BForm) : predOf (bFormWord op f) = f.pred := by
  have h := congrArg BForm.pred (bFormOf_bFormWord op f)
  exact h

/-- Every field of the form is read where it is written. -/
theorem eFormOf_eFormWord (op : BitVec 8) (f : EForm) : eFormOf (eFormWord op f) = f := by
  obtain ⟨⟨pn, pp⟩, x1, x2, x3, x4, x5, x6, x7, x8, x9, x10, x11⟩ := f
  simp only [eFormOf, predOf, operandAt, EForm.mk.injEq, Pred.mk.injEq]
  unfold eFormWord headWord
  refine ⟨⟨?_, ?_⟩, ?_, ?_, ?_, ?_, ?_, ?_, ?_, ?_, ?_, ?_, ?_⟩
  all_goals first
    | refine (congrArg operandOf ?_).trans (operandOf_operandCode _)
    | refine ((getLsbD_eq_field _ _).trans (congrArg (fun y : BitVec 1 => y.getLsbD 0) ?_)).trans (bit1_getLsbD _)
    | skip
  all_goals
    repeat' first
      | refine (BitVec.extractLsb'_append_eq_of_add_le (by decide)).trans ?_
      | refine (BitVec.extractLsb'_append_eq_of_le (by decide)).trans ?_
    simp

theorem opField_eFormWord (op : BitVec 8) (f : EForm) : opField (eFormWord op f) = op := by
  unfold opField eFormWord headWord
  repeat' first
    | refine (BitVec.extractLsb'_append_eq_of_add_le (by decide)).trans ?_
    | refine (BitVec.extractLsb'_append_eq_of_le (by decide)).trans ?_
  simp

theorem predOf_eFormWord (op : BitVec 8) (f : EForm) : predOf (eFormWord op f) = f.pred := by
  have h := congrArg EForm.pred (eFormOf_eFormWord op f)
  exact h

/-- Every field of the form is read where it is written. -/
theorem vFormOf_vFormWord (op : BitVec 8) (f : VForm) : vFormOf (vFormWord op f) = f := by
  obtain ⟨⟨pn, pp⟩, x1, x2, x3, x4, x5, x6, x7, x8, x9, x10, x11, x12, x13⟩ := f
  simp only [vFormOf, predOf, operandAt, VForm.mk.injEq, Pred.mk.injEq]
  unfold vFormWord headWord
  refine ⟨⟨?_, ?_⟩, ?_, ?_, ?_, ?_, ?_, ?_, ?_, ?_, ?_, ?_, ?_, ?_, ?_⟩
  all_goals first
    | refine (congrArg operandOf ?_).trans (operandOf_operandCode _)
    | refine ((getLsbD_eq_field _ _).trans (congrArg (fun y : BitVec 1 => y.getLsbD 0) ?_)).trans (bit1_getLsbD _)
    | skip
  all_goals
    repeat' first
      | refine (BitVec.extractLsb'_append_eq_of_add_le (by decide)).trans ?_
      | refine (BitVec.extractLsb'_append_eq_of_le (by decide)).trans ?_
    simp

theorem opField_vFormWord (op : BitVec 8) (f : VForm) : opField (vFormWord op f) = op := by
  unfold opField vFormWord headWord
  repeat' first
    | refine (BitVec.extractLsb'_append_eq_of_add_le (by decide)).trans ?_
    | refine (BitVec.extractLsb'_append_eq_of_le (by decide)).trans ?_
  simp

theorem predOf_vFormWord (op : BitVec 8) (f : VForm) : predOf (vFormWord op f) = f.pred := by
  have h := congrArg VForm.pred (vFormOf_vFormWord op f)
  exact h

theorem field_all {n : Nat} (w : BitVec n) : w.extractLsb' 0 n = w := by simp

/-- Every word is made of its fields. -/
theorem rAluWord_rAluOf (w : BitVec 96) (h : w.extractLsb' 54 2 = 0#2) : rAluWord (opField w) (rAluOf w) = w := by
  unfold rAluWord headWord opField rAluOf predOf
  simp only [operandAt, operandCode_operandOf, bit1_field]
  rw [← h]
  refine Eq.trans ?_ (field_all w)
  simp (disch := decide) only [fields_join]
/-- Every word is made of its fields. -/
theorem rSysWord_rSysOf (w : BitVec 96) (h : w.extractLsb' 54 2 = 0#2) : rSysWord (opField w) (rSysOf w) = w := by
  unfold rSysWord headWord opField rSysOf predOf
  simp only [operandAt, operandCode_operandOf, bit1_field]
  rw [← h]
  refine Eq.trans ?_ (field_all w)
  simp (disch := decide) only [fields_join]
/-- Every word is made of its fields. -/
theorem iFormWord_iFormOf (w : BitVec 96) (h : w.extractLsb' 64 6 = 0#6) : iFormWord (opField w) (iFormOf w) = w := by
  unfold iFormWord headWord opField iFormOf predOf
  simp only [operandAt, operandCode_operandOf, bit1_field]
  rw [← h]
  refine Eq.trans ?_ (field_all w)
  simp (disch := decide) only [fields_join]
/-- Every word is made of its fields. -/
theorem mFormWord_mFormOf (w : BitVec 96)  : mFormWord (opField w) (mFormOf w) = w := by
  unfold mFormWord headWord opField mFormOf predOf
  simp only [operandAt, operandCode_operandOf, bit1_field]
  refine Eq.trans ?_ (field_all w)
  simp (disch := decide) only [fields_join]
/-- Every word is made of its fields. -/
theorem bFormWord_bFormOf (w : BitVec 96) (h : w.extractLsb' 48 18 = 0#18) : bFormWord (opField w) (bFormOf w) = w := by
  unfold bFormWord headWord opField bFormOf predOf
  simp only [operandAt, operandCode_operandOf, bit1_field]
  rw [← h]
  refine Eq.trans ?_ (field_all w)
  simp (disch := decide) only [fields_join]
/-- Every word is made of its fields. -/
theorem eFormWord_eFormOf (w : BitVec 96) (h : w.extractLsb' 7 1 = 0#1) : eFormWord (opField w) (eFormOf w) = w := by
  unfold eFormWord headWord opField eFormOf predOf
  simp only [operandAt, operandCode_operandOf, bit1_field]
  rw [← h]
  refine Eq.trans ?_ (field_all w)
  simp (disch := decide) only [fields_join]
/-- Every word is made of its fields. -/
theorem vFormWord_vFormOf (w : BitVec 96)  : vFormWord (opField w) (vFormOf w) = w := by
  unfold vFormWord headWord opField vFormOf predOf
  simp only [operandAt, operandCode_operandOf, bit1_field]
  refine Eq.trans ?_ (field_all w)
  simp (disch := decide) only [fields_join]

/-- A word of the form passes the format checks. -/
theorem formatCheck_rAluWord (op : BitVec 8) (f : RAlu) : formatCheck .r (rAluWord op f) = none := by
  have h : (rAluWord op f).extractLsb' 54 2 = 0#2 := by
    unfold rAluWord headWord
    repeat' first
      | refine (BitVec.extractLsb'_append_eq_of_add_le (by decide)).trans ?_
      | refine (BitVec.extractLsb'_append_eq_of_le (by decide)).trans ?_
    rfl
  simp [formatCheck, h]

/-- A word of the form passes the format checks. -/
theorem formatCheck_rSysWord (op : BitVec 8) (f : RSys) : formatCheck .r (rSysWord op f) = none := by
  have h : (rSysWord op f).extractLsb' 54 2 = 0#2 := by
    unfold rSysWord headWord
    repeat' first
      | refine (BitVec.extractLsb'_append_eq_of_add_le (by decide)).trans ?_
      | refine (BitVec.extractLsb'_append_eq_of_le (by decide)).trans ?_
    rfl
  simp [formatCheck, h]

/-- A word of the form passes the format checks. -/
theorem formatCheck_iFormWord (op : BitVec 8) (f : IForm) : formatCheck .i (iFormWord op f) = none := by
  have h : (iFormWord op f).extractLsb' 64 6 = 0#6 := by
    unfold iFormWord headWord
    repeat' first
      | refine (BitVec.extractLsb'_append_eq_of_add_le (by decide)).trans ?_
      | refine (BitVec.extractLsb'_append_eq_of_le (by decide)).trans ?_
    rfl
  simp [formatCheck, h]

/-- A word of the form passes the format checks. -/
theorem formatCheck_bFormWord (op : BitVec 8) (f : BForm) : formatCheck .b (bFormWord op f) = none := by
  have h : (bFormWord op f).extractLsb' 48 18 = 0#18 := by
    unfold bFormWord headWord
    repeat' first
      | refine (BitVec.extractLsb'_append_eq_of_add_le (by decide)).trans ?_
      | refine (BitVec.extractLsb'_append_eq_of_le (by decide)).trans ?_
    rfl
  simp [formatCheck, h]

theorem formatCheck_vFormWord (op : BitVec 8) (f : VForm) : formatCheck .v (vFormWord op f) = none := rfl

theorem formatCheck_eFormWord (op : BitVec 8) (f : EForm) (hf : f.wf = true) : formatCheck .e (eFormWord op f) = none := by
  have h1 : (eFormWord op f).extractLsb' 7 1 = 0#1 := by
    unfold eFormWord headWord
    repeat' first
      | refine (BitVec.extractLsb'_append_eq_of_add_le (by decide)).trans ?_
      | refine (BitVec.extractLsb'_append_eq_of_le (by decide)).trans ?_
    rfl
  have h2 : (eFormWord op f).extractLsb' 58 2 = f.wmode := congrArg EForm.wmode (eFormOf_eFormWord op f)
  have h3 : (eFormWord op f).getLsbD 7 = false := by rw [getLsbD_eq_field, h1]; rfl
  have h4 : f.wmode ≠ 3#2 := by simpa [EForm.wf] using hf
  simp only [formatCheck, h2, h3, h4, if_false, Bool.false_eq_true]

theorem formatCheck_mFormWord (op : BitVec 8) (f : MForm) (hf : f.wf = true) : formatCheck .m (mFormWord op f) = none := by
  have h1 : (mFormWord op f).extractLsb' 50 3 = f.hint := congrArg MForm.hint (mFormOf_mFormWord op f)
  have h2 : (mFormWord op f).extractLsb' 57 3 = f.size := congrArg MForm.size (mFormOf_mFormWord op f)
  simp only [MForm.wf, Bool.and_eq_true, bne_iff_ne, ne_eq, decide_eq_true_eq] at hf
  have h3 : ¬ 3 ≤ f.hint.toNat := by omega
  simp only [formatCheck, h1, h2, h3, if_false, hf.1.1, hf.1.2, or_self]

/-- A word whose opcode has a form and that passes the form's checks decodes to its opcode's instruction. -/
theorem decode_of_form {k : FormKind} {w : BitVec 96} {op : BitVec 8} (ho : opField w = op) (hf : formOf op = some k)
    (hc : formatCheck k w = none) : decode w = .ok (buildAt op.toNat w) := by
  subst ho
  simp only [decode, hf, hc, buildInstr]

end Sys2Proof
end

