-- ==== Sys2Proof/Laws/Memory.lean ====
section
/-! SUPPORT. Cells in canonical form: reading after writing, and every operation that keeps the form. -/

namespace Sys2Proof.Machine

/-- The canonical form: rising keys and no zero. -/
theorem wf_iff (m : List Host.Cell) : Memory.wf m = true ↔ m.Pairwise (fun a b => a.1 < b.1) ∧ ∀ c ∈ m, c.2 ≠ 0 := by
  induction m with
  | nil => simp [Memory.wf]
  | cons c r ih =>
    cases r with
    | nil => obtain ⟨k, v⟩ := c; simp [Memory.wf]
    | cons d t =>
      obtain ⟨k, v⟩ := c
      obtain ⟨k', v'⟩ := d
      simp only [Memory.wf, Bool.and_eq_true, bne_iff_ne, ne_eq, decide_eq_true_eq, ih]
      constructor
      · rintro ⟨⟨h1, h2⟩, h3, h4⟩
        refine ⟨List.pairwise_cons.2 ⟨?_, h3⟩, ?_⟩
        · intro x hx
          rcases List.mem_cons.1 hx with rfl | hx
          · exact h2
          · exact lt_trans h2 ((List.pairwise_cons.1 h3).1 x hx)
        · intro x hx
          rcases List.mem_cons.1 hx with rfl | hx
          · exact h1
          · exact h4 x hx
      · rintro ⟨h1, h2⟩
        have h3 := List.pairwise_cons.1 h1
        exact ⟨⟨h2 (k, v) (by simp), h3.1 (k', v') (by simp)⟩, h3.2, fun x hx => h2 x (by simp [hx])⟩

theorem wf_nil : Memory.wf [] = true := rfl

/-- A part of a canonical memory is canonical. -/
theorem wf_filter {m : List Host.Cell} (h : Memory.wf m = true) (p : Host.Cell → Bool) : Memory.wf (m.filter p) = true := by
  rw [wf_iff] at h ⊢
  exact ⟨h.1.filter p, fun c hc => h.2 c (List.mem_filter.1 hc).1⟩

/-- Two canonical memories, one below the other, are one. -/
theorem wf_append {a b : List Host.Cell} (ha : Memory.wf a = true) (hb : Memory.wf b = true)
    (h : ∀ x ∈ a, ∀ y ∈ b, x.1 < y.1) : Memory.wf (a ++ b) = true := by
  rw [wf_iff] at ha hb ⊢
  refine ⟨List.pairwise_append.2 ⟨ha.1, hb.1, h⟩, fun c hc => ?_⟩
  rcases List.mem_append.1 hc with hc | hc
  · exact ha.2 c hc
  · exact hb.2 c hc

theorem wf_zeroCells {m : List Host.Cell} (h : Memory.wf m = true) (lo hi : Nat) : Memory.wf (zeroCells m lo hi) = true :=
  wf_filter h _

/-- A key that is written is the one written or was listed. -/
theorem mem_writeCell {m : List Host.Cell} {a : Nat} {v : BitVec 8} {c : Host.Cell} (h : c ∈ writeCell m a v) :
    c = (a, v) ∧ v ≠ 0 ∨ c ∈ m := by
  induction m with
  | nil => unfold writeCell at h; split at h <;> simp_all
  | cons d r ih =>
    obtain ⟨k, w⟩ := d
    unfold writeCell at h
    split at h
    · rcases List.mem_cons.1 h with h | h
      · exact .inr (by simp [h])
      · rcases ih h with h | h
        · exact .inl h
        · exact .inr (by simp [h])
    · split at h
      · split at h
        · exact .inr (by simp [h])
        · rcases List.mem_cons.1 h with h | h
          · exact .inl ⟨h, by assumption⟩
          · exact .inr (by simp [h])
      · split at h
        · exact .inr h
        · rcases List.mem_cons.1 h with h | h
          · exact .inl ⟨h, by assumption⟩
          · exact .inr h

/-- A write keeps the canonical form. -/
theorem wf_writeCell {m : List Host.Cell} (h : Memory.wf m = true) (a : Nat) (v : BitVec 8) : Memory.wf (writeCell m a v) = true := by
  rw [wf_iff] at h ⊢
  refine ⟨?_, fun c hc => ?_⟩
  · induction m with
    | nil => unfold writeCell; split <;> simp
    | cons d r ih =>
      obtain ⟨k, w⟩ := d
      obtain ⟨h1, h2⟩ := h
      have h3 := List.pairwise_cons.1 h1
      unfold writeCell
      split
      · rename_i hk
        refine List.pairwise_cons.2 ⟨fun c hc => ?_, ih ⟨h3.2, fun c hc => h2 c (by simp [hc])⟩⟩
        rcases mem_writeCell hc with ⟨rfl, -⟩ | hc
        · exact hk
        · exact h3.1 c hc
      · split
        · split
          · exact h3.2
          · rename_i h4 _
            subst h4
            exact List.pairwise_cons.2 ⟨h3.1, h3.2⟩
        · split
          · exact h1
          · refine List.pairwise_cons.2 ⟨fun c hc => ?_, h1⟩
            rcases List.mem_cons.1 hc with rfl | hc
            · show a < k; omega
            · have := h3.1 c hc; show a < c.1; simp at this; omega
  · rcases mem_writeCell hc with ⟨rfl, hv⟩ | hc
    · exact hv
    · exact h.2 c hc

theorem wf_writeCells {m : List Host.Cell} (h : Memory.wf m = true) (ws : List (Nat × BitVec 8)) :
    Memory.wf (writeCells m ws) = true := by
  unfold writeCells
  induction ws generalizing m with
  | nil => exact h
  | cons w r ih => exact ih (wf_writeCell h w.1 w.2)

/-- A key below all that are listed reads zero. -/
theorem readCell_below {m : List Host.Cell} {a : Nat} (h : ∀ c ∈ m, c.1 ≠ a) : readCell m a = 0 := by
  induction m with
  | nil => rfl
  | cons d r ih =>
    obtain ⟨k, w⟩ := d
    have : k ≠ a := h (k, w) (by simp)
    simp [readCell, this, ih (fun c hc => h c (by simp [hc]))]

/-- A byte read after a write is the byte written, or the byte that was there. -/
theorem readCell_writeCell {m : List Host.Cell} (h : Memory.wf m = true) (a : Nat) (v : BitVec 8) (b : Nat) :
    readCell (writeCell m a v) b = if b = a then v else readCell m b := by
  induction m with
  | nil =>
    unfold writeCell
    by_cases hb : b = a
    · subst hb; split <;> simp_all [readCell]
    · split
      · simp [readCell, hb]
      · simp [readCell, hb, Ne.symm hb]
  | cons d r ih =>
    obtain ⟨k, w⟩ := d
    have h0 := (wf_iff _).1 h
    have h3 := List.pairwise_cons.1 h0.1
    have hr : Memory.wf r = true := (wf_iff _).2 ⟨h3.2, fun c hc => h0.2 c (by simp [hc])⟩
    have ih := ih hr
    have hrk : readCell r k = 0 := readCell_below fun c hc => (h3.1 c hc).ne'
    unfold writeCell
    split
    · rename_i hk
      by_cases hb : k = b
      · subst hb; simp [readCell, hk.ne]
      · simp [readCell, hb, ih]
    · split
      · rename_i _ hk
        subst hk
        split
        · rename_i hv
          subst hv
          by_cases hb : b = k
          · subst hb; simp [hrk]
          · simp [hb, readCell, Ne.symm hb]
        · by_cases hb : b = k
          · subst hb; simp [readCell]
          · simp [readCell, hb, Ne.symm hb]
      · rename_i h5 h6
        have hlow : readCell ((k, w) :: r) a = 0 := readCell_below fun c hc => by
          rcases List.mem_cons.1 hc with rfl | hc
          · exact h6
          · have := h3.1 c hc; simp at this; omega
        split
        · rename_i hv
          subst hv
          by_cases hb : b = a
          · subst hb; simp [hlow]
          · simp [hb]
        · by_cases hb : b = a
          · subst hb; simp [readCell]
          · simp [hb, readCell, Ne.symm hb]

/-- A byte no write names reads as before. -/
theorem readCell_writeCells_other {m : List Host.Cell} (h : Memory.wf m = true) (ws : List (Nat × BitVec 8)) (b : Nat)
    (hb : ∀ w ∈ ws, w.1 ≠ b) : readCell (writeCells m ws) b = readCell m b := by
  unfold writeCells
  induction ws generalizing m with
  | nil => rfl
  | cons w r ih =>
    have h1 := ih (wf_writeCell h w.1 w.2) (fun x hx => hb x (by simp [hx]))
    have h2 : b ≠ w.1 := (hb w (by simp)).symm
    simp only [List.foldl_cons, h1, readCell_writeCell h, h2, if_false]

theorem mem_atAddr {a : Nat} {bs : List (BitVec 8)} {x : Nat × BitVec 8} (h : x ∈ atAddr a bs) : a ≤ x.1 ∧ x.1 < a + bs.length := by
  induction bs generalizing a with
  | nil => simp [atAddr] at h
  | cons c r ih =>
    rcases List.mem_cons.1 h with rfl | h
    · simp
    · have := ih h; simp only [List.length_cons]; omega

/-- Bytes written from a key on: each reads as written, every other as before. -/
theorem readCell_writeCells_atAddr {m : List Host.Cell} (h : Memory.wf m = true) (a : Nat) (bs : List (BitVec 8)) (b : Nat) :
    readCell (writeCells m (atAddr a bs)) b = if a ≤ b ∧ b < a + bs.length then bs.getD (b - a) 0 else readCell m b := by
  induction bs generalizing m a with
  | nil =>
    have h1 : ¬ (a ≤ b ∧ b < a) := by omega
    simp [atAddr, writeCells, h1]
  | cons c r ih =>
    have h1 := ih (wf_writeCell h a c) (a + 1)
    show readCell (writeCells (writeCell m a c) (atAddr (a + 1) r)) b = _
    rw [h1, readCell_writeCell h]
    simp only [List.length_cons]
    by_cases hb : b = a
    · subst hb
      have h2 : ¬ (b + 1 ≤ b ∧ b < b + 1 + r.length) := by omega
      simp [h2]
    · by_cases h2 : a + 1 ≤ b ∧ b < a + 1 + r.length
      · have h3 : a ≤ b ∧ b < a + (r.length + 1) := by omega
        have h4 : b - a = (b - (a + 1)) + 1 := by omega
        simp only [h2, and_self, if_true, h3, h4, List.getD_cons_succ]
      · have h3 : ¬ (a ≤ b ∧ b < a + (r.length + 1)) := by omega
        rw [if_neg h2, if_neg h3, if_neg hb]

theorem wf_copyCells {m : List Host.Cell} (h : Memory.wf m = true) (src dst n : Nat) : Memory.wf (copyCells m src dst n) = true :=
  wf_writeCells (wf_zeroCells h _ _) _

/-- A leaf's DISC bit changed. -/
theorem wf_setDisc {s : State} (h : Memory.wf s.mem = true) (e : WalkEntry) (v : Bool) : Memory.wf (setDisc e v s).mem = true :=
  wf_writeCell h _ _

/-- A discarded page made resident again. -/
theorem wf_revive {s : State} (h : Memory.wf s.mem = true) (e : WalkEntry) : Memory.wf (revive e s).mem = true :=
  wf_setDisc (wf_zeroCells h _ _) _ _

/-- The bytes of a write event put at their places. -/
theorem wf_putBytes {s : State} (h : Memory.wf s.mem = true) (ws : List (Place × BitVec 8)) : Memory.wf (putBytes ws s).mem = true := by
  unfold putBytes
  dsimp only
  split <;> refine wf_writeCells ?_ _ <;> split
  · split
    · exact wf_revive h _
    · exact h
  · exact h
  · split
    · exact wf_revive h _
    · exact h
  · exact h

/-- Nothing is listed after reset. -/
theorem reset_wf : Memory.wf State.reset.mem = true := rfl

/-- Nothing is listed after reset, in any package. -/
theorem reset_memInv : MemInv State.reset := by
  intro p hp
  have : p = State.reset.toPack := by simpa [State.packs, State.reset] using hp
  subst this
  exact ⟨rfl, fun im h => nomatch h⟩

/-- A change of the front package that keeps its memory and its image. -/
theorem memInv_of_eq {s t : State} (h : MemInv s) (hm : t.mem = s.mem) (hi : t.image = s.image) (hp : t.peers = s.peers) : MemInv t := by
  intro p hp'
  rcases List.mem_cons.1 (show p ∈ t.toPack :: t.peers from hp') with rfl | hq
  · have := h s.toPack (by simp [State.packs])
    exact ⟨hm ▸ this.1, fun im he => this.2 im (hi ▸ he)⟩
  · exact h p (by simp [State.packs, ← hp, hq])

/-- A change of every package that keeps each one's memory. -/
theorem memInv_mapPacks {s : State} {f : Pack → Pack} (hf : ∀ p, p.memOk → (f p).memOk) (h : MemInv s) : MemInv (mapPacks f s) := by
  intro p hp
  obtain ⟨q, hq, rfl⟩ : ∃ q ∈ s.packs, f q = p := by simpa [mapPacks, State.packs, eq_comm] using hp
  exact hf q (h q hq)

/-- Packages that change places stay the same packages. -/
theorem mem_packs_swapPack {s : State} {i : Nat} {p : Pack} (h : p ∈ (swapPack i s).packs) : p ∈ s.packs := by
  unfold swapPack at h
  split at h
  · rename_i q hq
    rcases List.mem_cons.1 (show p ∈ q :: s.peers.set i s.toPack from h) with rfl | hp
    · exact List.mem_cons_of_mem _ (List.mem_of_getElem? hq)
    · rcases List.mem_or_eq_of_mem_set hp with hp | rfl
      · exact List.mem_cons_of_mem _ hp
      · exact List.mem_cons_self
  · exact h

theorem memInv_swapPack {s : State} (i : Nat) (h : MemInv s) : MemInv (swapPack i s) := fun p hp => h p (mem_packs_swapPack hp)

/-- What keeps memory at this package keeps it at whichever package it is done. -/
theorem memInv_atPack {s : State} {c : Pack → Bool} {f : State → State} (hf : ∀ s, MemInv s → MemInv (f s)) (h : MemInv s) :
    MemInv (atPack c f s) := by
  unfold atPack
  split
  · exact hf s h
  · split
    · exact memInv_swapPack _ (hf _ (memInv_swapPack _ h))
    · exact hf s h

/-- A computation that keeps a property of the state whenever it succeeds. -/
def Keeps {α : Type} (P : State → Prop) (m : M α) : Prop := ∀ s a t, P s → m s = .ok (a, t) → P t

theorem keeps_pure {α : Type} {P : State → Prop} (a : α) : Keeps P (pure a : M α) := by
  intro s b t h e
  have : (a, s) = (b, t) := Except.ok.inj e
  cases this
  exact h

theorem keeps_bind {α β : Type} {P : State → Prop} {m : M α} {f : α → M β} (hm : Keeps P m) (hf : ∀ a, Keeps P (f a)) :
    Keeps P (m >>= f) := by
  intro s b t h e
  cases hr : m s with
  | error x => simp [bind, StateT.bind, Except.bind, hr] at e
  | ok p =>
    obtain ⟨a, u⟩ := p
    simp only [bind, StateT.bind, Except.bind, hr] at e
    exact hf a u b t (hm s a u h hr) e

theorem keeps_getS {P : State → Prop} : Keeps P getS := by
  intro s a t h e
  have : (s, s) = (a, t) := Except.ok.inj e
  cases this
  exact h

theorem keeps_modS {P : State → Prop} {f : State → State} (hf : ∀ s, P s → P (f s)) : Keeps P (modS f) := by
  intro s a t h e
  have : ((), f s) = (a, t) := Except.ok.inj e
  cases this
  exact hf s h

theorem keeps_stop {α : Type} {P : State → Prop} (e : Stop) : Keeps P (stop e : M α) := by
  intro s a t _ h
  exact absurd h (by simp [stop])

theorem keeps_ite {α : Type} {P : State → Prop} {c : Prop} [Decidable c] {a b : M α} (ha : Keeps P a) (hb : Keeps P b) :
    Keeps P (if c then a else b) := by
  split
  · exact ha
  · exact hb

theorem keeps_ensure {P : State → Prop} (c : Bool) (code : BitVec 8) (info : BitVec 32) : Keeps P (ensure c code info) :=
  keeps_ite (keeps_pure ()) (keeps_stop _)

theorem keeps_mapM {α β : Type} {P : State → Prop} {f : α → M β} (hf : ∀ a, Keeps P (f a)) (l : List α) : Keeps P (l.mapM f) := by
  induction l with
  | nil => exact keeps_pure []
  | cons a r ih =>
    rw [List.mapM_cons]
    exact keeps_bind (hf a) fun b => keeps_bind ih fun bs => keeps_pure (b :: bs)

/-- A computation that keeps memory keeps it at whichever package it runs. -/
theorem keeps_onPack {α : Type} {c : Pack → Bool} {m : M α} (hm : Keeps MemInv m) : Keeps MemInv (onPack c m) := by
  intro s a t h e
  unfold onPack at e
  split at e
  · exact hm s a t h e
  · split at e
    · split at e
      · rename_i i _ _ b u hu
        cases e
        exact memInv_swapPack _ (hm _ _ _ (memInv_swapPack _ h) hu)
      · cases e
    · exact hm s a t h e

/-- What follows a word keeps a property that a trap, a retirement, a branch, a wait, a held access, a finished stream and a
freeze keep. -/
theorem finishFlow_keeps {P : State → Prop} {op : BitVec 8} {s : State} {r : Except Stop (Flow × State)} {t : State}
    (hs : P s) (hr : ∀ f u, r = .ok (f, u) → P u)
    (hret : ∀ s, P s → P (retire s)) (hw : ∀ w s, P s → P (setWait w s)) (hj : ∀ v s, P s → P (jumpTo v s))
    (ht : ∀ c o i a s, P s → P (takeTrap c o i a s)) (hf : ∀ n c g v s, P s → P (freezeTask n c g v s))
    (hfin : ∀ s, P s → P (finishStream s)) (hm : ∀ g s, P s → P (modStrm g s)) (hh : ∀ d p i b s, P s → P (holdCurrent op d p i b s))
    (ha : ∀ l s, P s → P (askHost l s)) (hd : ∀ p s, P s → P (demandCircuit p s)) (h : finishFlow op s r = .next t) : P t := by
  unfold finishFlow at h
  split at h
  · cases h; exact hret _ (hr _ _ rfl)
  · cases h; exact hw _ _ (hr _ _ rfl)
  · split at h
    · cases h; exact ht _ _ _ _ _ hs
    · cases h; exact hj _ _ (hr _ _ rfl)
  · cases h; exact hf _ _ _ _ _ (hret _ (hr _ _ rfl))
  · cases h; exact hfin _ (hr _ _ rfl)
  · cases h; exact ht _ _ _ _ _ (hr _ _ rfl)
  · cases h; exact ht _ _ _ _ _ hs
  · cases h; exact hw _ _ hs
  · cases h; exact hm _ _ hs
  · cases h; exact hw _ _ (hh _ _ _ _ _ hs)
  · cases h; exact hw _ _ (ha _ _ hs)
  · cases h; exact hw _ _ (hd _ _ hs)
  · cases h
  · cases h

end Sys2Proof.Machine
end

