-- ==== Sys2Proof/Laws/Operands.lean ====
section
/-! SUPPORT. What issuing a word, its stage 6 and its operands do, once and for all words. -/

namespace Sys2Proof.Machine

/-- A word that issues has its own effect. -/
theorem issue_eq {op : BitVec 8} {p : Pred} {check : State → Option (BitVec 32)} {body : M Flow} {s : State}
    (h : Issues op p check s) : issue op p check body s = finishFlow op s (body s) := by
  obtain ⟨h1, h2, h3⟩ := h
  simp [issue, h1, h2, h3]

/-- A word of another stream traps ILLEGAL_OPCODE (R417). -/
theorem issue_foreign {op : BitVec 8} {p : Pred} {check : State → Option (BitVec 32)} {body : M Flow} {s : State}
    (h : issuedBy op s.cur = false) : issue op p check body s = .next (takeTrap fcIllegalOpcode op 1 0 s) := by
  simp [issue, h]

/-- A word that breaks a field rule traps ILLEGAL_OPERAND (R419). -/
theorem issue_broken {op : BitVec 8} {p : Pred} {check : State → Option (BitVec 32)} {body : M Flow} {s : State}
    {i : BitVec 32} (h : issuedBy op s.cur = true) (hc : check s = some i) :
    issue op p check body s = .next (takeTrap fcIllegalOperand op i 0 s) := by
  simp [issue, h, hc]

/-- A word whose PRED test fails retires without effect (R135). -/
theorem issue_skipped {op : BitVec 8} {p : Pred} {check : State → Option (BitVec 32)} {body : M Flow} {s : State}
    (h : issuedBy op s.cur = true) (hc : check s = none) (hp : predHolds p s = false) :
    issue op p check body s = .next (retire s) := by
  simp [issue, h, hc, hp]

theorem gatePops_eq {all l : List Nat} {s : State} (h : ∀ q ∈ l, all.count q ≤ s.task.queueCount q) :
    gatePops all l s = .ok ((), s) := by
  induction l with
  | nil => rfl
  | cons q r ih =>
    have h1 : ¬ s.task.queueCount q < all.count q := Nat.not_lt.mpr (h q (by simp))
    have h2 := ih (fun x hx => h x (by simp [hx]))
    simp [gatePops, getS, bind, StateT.bind, Except.bind, h1, h2]

theorem gatePushes_eq {l : List Nat} {s : State} (h : ∀ q ∈ l, s.task.queueFull q = false) :
    gatePushes l s = .ok ((), s) := by
  induction l with
  | nil => rfl
  | cons q r ih =>
    have h1 := h q (by simp)
    have h2 := ih (fun x hx => h x (by simp [hx]))
    simp [gatePushes, getS, bind, StateT.bind, Except.bind, h1, h2]

/-- Stage 6 passes and changes nothing. -/
theorem gate_eq {srcs dsts : List Operand} {s : State} (h : Ready srcs dsts s) : gate srcs dsts s = .ok ((), s) := by
  simp [gate, bind, StateT.bind, Except.bind, gatePops_eq h.1, gatePushes_eq h.2]

@[simp] theorem readSrc_eq (o : Operand) (s : State) : readSrc o s = .ok (s.peekSrc o, took o s) := by
  cases o <;> rfl

@[simp] theorem writeDst_eq (o : Operand) (v : BitVec 64) (s : State) : writeDst o v s = .ok ((), put o v s) := by
  cases o <;> rfl

@[simp] theorem readB_eq (f : RAlu) (s : State) : readB f (took f.a s) = .ok (valueB f s, tookAB f s) := by
  simp only [readB, valueB, tookAB]
  split <;> simp [pure, StateT.pure, Except.pure]

@[simp] theorem raise_eq (f : FlagSet) (s : State) : raise f s = .ok ((), raiseS f s) := rfl
@[simp] theorem getS_eq (s : State) : getS s = .ok (s, s) := rfl
@[simp] theorem modS_eq (g : State → State) (s : State) : modS g s = .ok ((), g s) := rfl

/-- The effect of one operation after another. -/
@[simp] theorem bind_eq {α β : Type} (m : M α) (k : α → M β) (s : State) :
    (m >>= k) s = match m s with | .ok (a, s') => k a s' | .error e => .error e := by
  simp only [bind, StateT.bind, Except.bind]
  cases m s <;> rfl

@[simp] theorem map_eq {α β : Type} (g : α → β) (m : M α) (s : State) :
    (g <$> m) s = match m s with | .ok (a, s') => .ok (g a, s') | .error e => .error e := by
  simp only [Functor.map, StateT.map, bind, Except.bind]
  cases m s <;> rfl

@[simp] theorem pure_eq {α : Type} (a : α) (s : State) : (pure a : M α) s = .ok (a, s) := rfl

@[simp] theorem advanceSeed_eq (sel : Nat × Nat) (s : State) : advanceSeed sel s = .ok (drawn sel s, advanced sel s) := by
  simp only [advanceSeed, drawn, advanced]
  split <;> rfl

@[simp] theorem readFB_eq (f : RAlu) (s : State) : readFB f (took f.a s) = .ok (valueFB f s, tookAB f s) := by
  simp only [readFB, valueFB, tookAB]
  split <;> simp

/-- What becomes of an effect that goes on to the next word. -/
@[simp] theorem finishFlow_seq (op : BitVec 8) (s t : State) : finishFlow op s (.ok (.seq, t)) = .next (retire t) := rfl
/-- What becomes of an effect that waits. -/
@[simp] theorem finishFlow_hold (op : BitVec 8) (s t : State) (w : Wait) :
    finishFlow op s (.ok (.hold w, t)) = .next (setWait w t) := rfl
/-- What becomes of a branch. -/
@[simp] theorem finishFlow_branch (op : BitVec 8) (s t : State) (va : BitVec 64) :
    finishFlow op s (.ok (.branch va, t)) = goTo op va s t := rfl
/-- What becomes of STOP. -/
@[simp] theorem finishFlow_finish (op : BitVec 8) (s t : State) : finishFlow op s (.ok (.finish, t)) = .next (finishStream t) := rfl
/-- What becomes of an effect that traps: nothing of it stands (R157, R422). -/
@[simp] theorem finishFlow_trap (op : BitVec 8) (s : State) (c : BitVec 8) (i : BitVec 32) (a : BitVec 64) :
    finishFlow op s (.error (.trap c i a)) = .next (takeTrap c op i a s) := rfl
/-- What becomes of an effect that blocks. -/
@[simp] theorem finishFlow_wait (op : BitVec 8) (s : State) (w : Wait) :
    finishFlow op s (.error (.wait w)) = .next (setWait w s) := rfl

/-- Reading a scalar destination from the head of a queue. -/
@[simp] theorem deliver_eq (q : Nat) (d : Operand) (s : State) : deliver q d s = .ok ((), delivered q d s) := by
  cases d <;> simp [deliver, delivered, writeEvent] <;> split <;> rfl

@[simp] theorem semAmount_eq (f : EForm) (n : Nat) (s : State) : semAmount f n s = .ok (semCount f n s, semTook f s) := by
  simp only [semAmount, semCount, semTook]
  split <;> simp

/-- A wait that holds is served, one that does not blocks the stream (R39). -/
theorem gateWait_some (w : SemWait) (s : State) : gateWait (some w) s =
    if s.task.semReady (waitHeld w s) then .ok ((), served (waitHeld w s) s) else .error (.sem (waitHeld w s)) := rfl

theorem gateWait_ready {w : SemWait} {s : State} (h : s.task.semReady (waitHeld w s) = true) :
    gateWait (some w) s = .ok ((), served (waitHeld w s) s) := by
  rw [gateWait_some, if_pos h]

theorem gateWait_wait {w : SemWait} {s : State} (h : s.task.semReady (waitHeld w s) = false) :
    gateWait (some w) s = .error (.sem (waitHeld w s)) := by
  rw [gateWait_some, if_neg (by simp [h])]

theorem ensure_ok {c : Bool} {k : BitVec 8} {i : BitVec 32} {s : State} (h : c = true) : ensure c k i s = .ok ((), s) := by
  simp [ensure, h]

theorem ensureValue_ok {c : Bool} {n : Nat} {s : State} (h : c = true) : ensureValue c n s = .ok ((), s) := by
  simp [ensureValue, h]

/-- A check that does not stop the word. -/
theorem when_false {c : Prop} [Decidable c] (h : ¬ c) (x : M Unit) (s : State) :
    (if c then x else pure ()) s = .ok ((), s) := by
  simp [h]

@[simp] theorem readAddr_eq (f : MForm) (s : State) : readAddr f s = .ok (accessVa f s, accessT f s) := by
  simp [readAddr, accessVa, accessT]

/-- A wait for writes keeps those still open, and is over when none is. -/
@[simp] theorem awaitWrites_eq (b n : List Nat) (s : State) :
    awaitWrites b n s = .ok ((openStill b n s).isEmpty, awaiting (openStill b n s) s) := rfl

theorem mapM_readSrc (os : List Operand) (s : State) :
    (os.mapM (fun o => do
      let v ← readSrc o
      pure ((queueOf o).head?, v)) : M _) s = .ok (readAll os s) := by
  induction os generalizing s with
  | nil => rfl
  | cons o os ih => simp only [List.mapM_cons, bind_eq, readSrc_eq, pure_eq, ih, readAll]

/-- Sources that a word keeps, or that are there to be read. -/
theorem heldSources_eq {os : List Operand} {s : State} (h : s.strm.srcs = none → Ready os [] s) :
    heldSources os s = .ok (keptSources os s) := by
  cases hs : s.strm.srcs with
  | some l => simp only [heldSources, keptSources, bind_eq, getS_eq, hs, pure_eq]
  | none => simp only [heldSources, keptSources, bind_eq, getS_eq, hs, gate_eq (h hs), mapM_readSrc, modS_eq, pure_eq]

/-- A core with fewer than 64 requests under way has a reservation for one more (R363). -/
theorem gateReserve_one {s : State} (h : s.offDie s.task < 64) : gateReserve 1 s = .ok ((), s) := by
  simp [gateReserve]; omega

/-- A request sets out for a package in reach. -/
theorem gateCircuit_eq {ia : Nat} {s : State} (h : InReach (iaPkg ia) s) : gateCircuit ia s = .ok ((), reachedOut (iaPkg ia) s) := by
  simp only [gateCircuit, gateLink, reachedOut, Pack.cutFrom]
  rcases h with h | ⟨h1, h2, h3, h4⟩
  · simp [h]
  · by_cases hp : iaPkg ia = s.pkg <;> simp [hp, h1, h2, h3, h4]

/-- An address below the device span of a package that is there is found, or not yet mapped (R87, R88). -/
theorem locate_below {s : State} {ia : Nat} (h : s.present (iaPkg ia) = true) (hd : iaOff ia < deviceSpan) :
    locate s ia ≠ .absent ∧ ∀ d, locate s ia ≠ .device d := by
  have ha : ¬ hostAperture ≤ iaOff ia := by have : deviceSpan ≤ hostAperture := by decide
                                            omega
  have hb : ¬ deviceSpan ≤ iaOff ia := by omega
  simp only [locate, h, not_true_eq_false, if_false, ha, hb]
  constructor
  · repeat' split
    all_goals simp
  · intro d
    repeat' split
    all_goals simp

/-- The address of an object is found (R183). -/
theorem objectIa_eq {va : BitVec 64} {win size align ia : Nat} {right : Right} {s : State}
    (h : NamesObject win va size align right ia s) : objectIa va win size align right s = .ok (ia, reachedOut (iaPkg ia) s) := by
  obtain ⟨h1, h2, h3, h4, h5⟩ := h
  have ha : ¬ hostAperture ≤ iaOff ia := by have : deviceSpan ≤ hostAperture := by decide
                                            omega
  have hl : windowIa win va.toNat size right .atomic none s = .ok (ia, s) := by
    obtain ⟨l1, l2⟩ := locate_below h3 h4
    simp only [windowIa, bind_eq, getS_eq, h2]
    cases hx : locate s ia <;> simp_all only [ne_eq, not_true_eq_false, not_false_eq_true, reduceCtorEq, Place.device.injEq, forall_eq', true_and, if_false, pure_eq, implies_true]
  simp only [objectIa, bind_eq, ensureValue_ok (show (va.toNat % align == 0) = true by simp [h1]), hl, gateCircuit_eq h5, pure_eq]

/-- A send queue of fewer than 16 messages takes one more, where the core has a reservation for it (R363, R365). -/
theorem sendFromC_ok {i : SendC} {s : State} (h : s.task.sendC.length < 16) (hr : gateReserve 1 s = .ok ((), s)) :
    sendFromC i s = .ok ((), modCur (fun t => { t with sendC := t.sendC ++ [i] }) s) := by
  simp [sendFromC, bind_eq, Nat.not_le.mpr h, hr]

end Sys2Proof.Machine
end

