-- ==== Sys2Proof/Laws/PerInstr.lean ====
section
/-! SUPPORT. Decoding undoes encoding, constructor by constructor: an event has no encoding. -/

namespace Sys2Proof.Laws.RoundTrip

/-- Decoding the encoding of a well-formed word gives the word back. -/
def Statement (i : Instr) : Prop := ∀ w, i.wf = true → encode i = some w → decode w = .ok i

theorem of_word {i : Instr} {v : BitVec 96} (he : encode i = some v) (h : i.wf = true → decode v = .ok i) : Statement i :=
  fun w hi hw => by
    obtain rfl : v = w := Option.some.inj (he.symm.trans hw)
    exact h hi

theorem of_event {i : Instr} (h : i.wf = false) : Statement i := fun _ hi _ => absurd hi (by rw [h]; decide)

theorem nop (f : RSys) : Statement (.nop f) := of_word rfl fun _ =>
  (decode_of_form (opField_rSysWord 0x00 f) rfl (formatCheck_rSysWord _ _)).trans
    (congrArg (fun x => Except.ok (Instr.nop x)) (rSysOf_rSysWord 0x00 f))
theorem li (f : IForm) : Statement (.li f) := of_word rfl fun _ =>
  (decode_of_form (opField_iFormWord 0x01 f) rfl (formatCheck_iFormWord _ _)).trans
    (congrArg (fun x => Except.ok (Instr.li x)) (iFormOf_iFormWord 0x01 f))
theorem mov (f : RAlu) : Statement (.mov f) := of_word rfl fun _ =>
  (decode_of_form (opField_rAluWord 0x02 f) rfl (formatCheck_rAluWord _ _)).trans
    (congrArg (fun x => Except.ok (Instr.mov x)) (rAluOf_rAluWord 0x02 f))
theorem add (f : RAlu) : Statement (.add f) := of_word rfl fun _ =>
  (decode_of_form (opField_rAluWord 0x03 f) rfl (formatCheck_rAluWord _ _)).trans
    (congrArg (fun x => Except.ok (Instr.add x)) (rAluOf_rAluWord 0x03 f))
theorem addi (f : IForm) : Statement (.addi f) := of_word rfl fun _ =>
  (decode_of_form (opField_iFormWord 0x04 f) rfl (formatCheck_iFormWord _ _)).trans
    (congrArg (fun x => Except.ok (Instr.addi x)) (iFormOf_iFormWord 0x04 f))
theorem sub (f : RAlu) : Statement (.sub f) := of_word rfl fun _ =>
  (decode_of_form (opField_rAluWord 0x05 f) rfl (formatCheck_rAluWord _ _)).trans
    (congrArg (fun x => Except.ok (Instr.sub x)) (rAluOf_rAluWord 0x05 f))
theorem mul (f : RAlu) : Statement (.mul f) := of_word rfl fun _ =>
  (decode_of_form (opField_rAluWord 0x06 f) rfl (formatCheck_rAluWord _ _)).trans
    (congrArg (fun x => Except.ok (Instr.mul x)) (rAluOf_rAluWord 0x06 f))
theorem mulh (f : RAlu) : Statement (.mulh f) := of_word rfl fun _ =>
  (decode_of_form (opField_rAluWord 0x07 f) rfl (formatCheck_rAluWord _ _)).trans
    (congrArg (fun x => Except.ok (Instr.mulh x)) (rAluOf_rAluWord 0x07 f))
theorem div (f : RAlu) : Statement (.div f) := of_word rfl fun _ =>
  (decode_of_form (opField_rAluWord 0x08 f) rfl (formatCheck_rAluWord _ _)).trans
    (congrArg (fun x => Except.ok (Instr.div x)) (rAluOf_rAluWord 0x08 f))
theorem rem (f : RAlu) : Statement (.rem f) := of_word rfl fun _ =>
  (decode_of_form (opField_rAluWord 0x09 f) rfl (formatCheck_rAluWord _ _)).trans
    (congrArg (fun x => Except.ok (Instr.rem x)) (rAluOf_rAluWord 0x09 f))
theorem and (f : RAlu) : Statement (.and f) := of_word rfl fun _ =>
  (decode_of_form (opField_rAluWord 0x0A f) rfl (formatCheck_rAluWord _ _)).trans
    (congrArg (fun x => Except.ok (Instr.and x)) (rAluOf_rAluWord 0x0A f))
theorem or (f : RAlu) : Statement (.or f) := of_word rfl fun _ =>
  (decode_of_form (opField_rAluWord 0x0B f) rfl (formatCheck_rAluWord _ _)).trans
    (congrArg (fun x => Except.ok (Instr.or x)) (rAluOf_rAluWord 0x0B f))
theorem xor (f : RAlu) : Statement (.xor f) := of_word rfl fun _ =>
  (decode_of_form (opField_rAluWord 0x0C f) rfl (formatCheck_rAluWord _ _)).trans
    (congrArg (fun x => Except.ok (Instr.xor x)) (rAluOf_rAluWord 0x0C f))
theorem andn (f : RAlu) : Statement (.andn f) := of_word rfl fun _ =>
  (decode_of_form (opField_rAluWord 0x0D f) rfl (formatCheck_rAluWord _ _)).trans
    (congrArg (fun x => Except.ok (Instr.andn x)) (rAluOf_rAluWord 0x0D f))
theorem shl (f : RAlu) : Statement (.shl f) := of_word rfl fun _ =>
  (decode_of_form (opField_rAluWord 0x0E f) rfl (formatCheck_rAluWord _ _)).trans
    (congrArg (fun x => Except.ok (Instr.shl x)) (rAluOf_rAluWord 0x0E f))
theorem shr (f : RAlu) : Statement (.shr f) := of_word rfl fun _ =>
  (decode_of_form (opField_rAluWord 0x0F f) rfl (formatCheck_rAluWord _ _)).trans
    (congrArg (fun x => Except.ok (Instr.shr x)) (rAluOf_rAluWord 0x0F f))
theorem sar (f : RAlu) : Statement (.sar f) := of_word rfl fun _ =>
  (decode_of_form (opField_rAluWord 0x10 f) rfl (formatCheck_rAluWord _ _)).trans
    (congrArg (fun x => Except.ok (Instr.sar x)) (rAluOf_rAluWord 0x10 f))
theorem rot (f : RAlu) : Statement (.rot f) := of_word rfl fun _ =>
  (decode_of_form (opField_rAluWord 0x11 f) rfl (formatCheck_rAluWord _ _)).trans
    (congrArg (fun x => Except.ok (Instr.rot x)) (rAluOf_rAluWord 0x11 f))
theorem clz (f : RAlu) : Statement (.clz f) := of_word rfl fun _ =>
  (decode_of_form (opField_rAluWord 0x12 f) rfl (formatCheck_rAluWord _ _)).trans
    (congrArg (fun x => Except.ok (Instr.clz x)) (rAluOf_rAluWord 0x12 f))
theorem popc (f : RAlu) : Statement (.popc f) := of_word rfl fun _ =>
  (decode_of_form (opField_rAluWord 0x13 f) rfl (formatCheck_rAluWord _ _)).trans
    (congrArg (fun x => Except.ok (Instr.popc x)) (rAluOf_rAluWord 0x13 f))
theorem bext (f : RAlu) : Statement (.bext f) := of_word rfl fun _ =>
  (decode_of_form (opField_rAluWord 0x14 f) rfl (formatCheck_rAluWord _ _)).trans
    (congrArg (fun x => Except.ok (Instr.bext x)) (rAluOf_rAluWord 0x14 f))
theorem bdep (f : RAlu) : Statement (.bdep f) := of_word rfl fun _ =>
  (decode_of_form (opField_rAluWord 0x15 f) rfl (formatCheck_rAluWord _ _)).trans
    (congrArg (fun x => Except.ok (Instr.bdep x)) (rAluOf_rAluWord 0x15 f))
theorem min (f : RAlu) : Statement (.min f) := of_word rfl fun _ =>
  (decode_of_form (opField_rAluWord 0x16 f) rfl (formatCheck_rAluWord _ _)).trans
    (congrArg (fun x => Except.ok (Instr.min x)) (rAluOf_rAluWord 0x16 f))
theorem max (f : RAlu) : Statement (.max f) := of_word rfl fun _ =>
  (decode_of_form (opField_rAluWord 0x17 f) rfl (formatCheck_rAluWord _ _)).trans
    (congrArg (fun x => Except.ok (Instr.max x)) (rAluOf_rAluWord 0x17 f))
theorem madd (f : RAlu) : Statement (.madd f) := of_word rfl fun _ =>
  (decode_of_form (opField_rAluWord 0x1A f) rfl (formatCheck_rAluWord _ _)).trans
    (congrArg (fun x => Except.ok (Instr.madd x)) (rAluOf_rAluWord 0x1A f))
theorem cmp (f : RAlu) : Statement (.cmp f) := of_word rfl fun _ =>
  (decode_of_form (opField_rAluWord 0x18 f) rfl (formatCheck_rAluWord _ _)).trans
    (congrArg (fun x => Except.ok (Instr.cmp x)) (rAluOf_rAluWord 0x18 f))
theorem sel (f : RAlu) : Statement (.sel f) := of_word rfl fun _ =>
  (decode_of_form (opField_rAluWord 0x19 f) rfl (formatCheck_rAluWord _ _)).trans
    (congrArg (fun x => Except.ok (Instr.sel x)) (rAluOf_rAluWord 0x19 f))
theorem fop (f : RAlu) : Statement (.fop f) := of_word rfl fun _ =>
  (decode_of_form (opField_rAluWord 0x1B f) rfl (formatCheck_rAluWord _ _)).trans
    (congrArg (fun x => Except.ok (Instr.fop x)) (rAluOf_rAluWord 0x1B f))
theorem fcvt (f : RAlu) : Statement (.fcvt f) := of_word rfl fun _ =>
  (decode_of_form (opField_rAluWord 0x1C f) rfl (formatCheck_rAluWord _ _)).trans
    (congrArg (fun x => Except.ok (Instr.fcvt x)) (rAluOf_rAluWord 0x1C f))
theorem fcmp (f : RAlu) : Statement (.fcmp f) := of_word rfl fun _ =>
  (decode_of_form (opField_rAluWord 0x1D f) rfl (formatCheck_rAluWord _ _)).trans
    (congrArg (fun x => Except.ok (Instr.fcmp x)) (rAluOf_rAluWord 0x1D f))
theorem plog (f : RAlu) : Statement (.plog f) := of_word rfl fun _ =>
  (decode_of_form (opField_rAluWord 0x1E f) rfl (formatCheck_rAluWord _ _)).trans
    (congrArg (fun x => Except.ok (Instr.plog x)) (rAluOf_rAluWord 0x1E f))
theorem br (f : BForm) : Statement (.br f) := of_word rfl fun _ =>
  (decode_of_form (opField_bFormWord 0x1F f) rfl (formatCheck_bFormWord _ _)).trans
    (congrArg (fun x => Except.ok (Instr.br x)) (bFormOf_bFormWord 0x1F f))
theorem brc (f : BForm) : Statement (.brc f) := of_word rfl fun _ =>
  (decode_of_form (opField_bFormWord 0x20 f) rfl (formatCheck_bFormWord _ _)).trans
    (congrArg (fun x => Except.ok (Instr.brc x)) (bFormOf_bFormWord 0x20 f))
theorem call (f : BForm) : Statement (.call f) := of_word rfl fun _ =>
  (decode_of_form (opField_bFormWord 0x21 f) rfl (formatCheck_bFormWord _ _)).trans
    (congrArg (fun x => Except.ok (Instr.call x)) (bFormOf_bFormWord 0x21 f))
theorem ret (f : RSys) : Statement (.ret f) := of_word rfl fun _ =>
  (decode_of_form (opField_rSysWord 0x22 f) rfl (formatCheck_rSysWord _ _)).trans
    (congrArg (fun x => Except.ok (Instr.ret x)) (rSysOf_rSysWord 0x22 f))
theorem loop (f : BForm) : Statement (.loop f) := of_word rfl fun _ =>
  (decode_of_form (opField_bFormWord 0x23 f) rfl (formatCheck_bFormWord _ _)).trans
    (congrArg (fun x => Except.ok (Instr.loop x)) (bFormOf_bFormWord 0x23 f))
theorem qtry (f : RSys) : Statement (.qtry f) := of_word rfl fun hi => by
  have h : (rSysOf (rSysWord 0x24#8 f)).sub = f.sub := congrArg RSys.sub (rSysOf_rSysWord _ _)
  refine (decode_of_form (opField_rSysWord _ _) rfl (formatCheck_rSysWord _ _)).trans ?_
  simp [Instr.wf] at hi
  show Except.ok (if (rSysOf (rSysWord 0x24#8 f)).sub = 0x01#8 then _ else _) = _
  rw [h, rSysOf_rSysWord]
  simp [hi]
theorem qtryPush (f : RSys) : Statement (.qtryPush f) := of_word rfl fun hi => by
  have h : (rSysOf (rSysWord 0x24#8 f)).sub = f.sub := congrArg RSys.sub (rSysOf_rSysWord _ _)
  refine (decode_of_form (opField_rSysWord _ _) rfl (formatCheck_rSysWord _ _)).trans ?_
  simp [Instr.wf] at hi
  show Except.ok (if (rSysOf (rSysWord 0x24#8 f)).sub = 0x01#8 then _ else _) = _
  rw [h, rSysOf_rSysWord]
  simp [hi]
theorem qcnt (f : RSys) : Statement (.qcnt f) := of_word rfl fun _ =>
  (decode_of_form (opField_rSysWord 0x25 f) rfl (formatCheck_rSysWord _ _)).trans
    (congrArg (fun x => Except.ok (Instr.qcnt x)) (rSysOf_rSysWord 0x25 f))
theorem qpeek (f : RSys) : Statement (.qpeek f) := of_word rfl fun _ =>
  (decode_of_form (opField_rSysWord 0x26 f) rfl (formatCheck_rSysWord _ _)).trans
    (congrArg (fun x => Except.ok (Instr.qpeek x)) (rSysOf_rSysWord 0x26 f))
theorem ssig (f : EForm) : Statement (.ssig f) := of_word rfl fun hi =>
  (decode_of_form (opField_eFormWord 0x27 f) rfl (formatCheck_eFormWord _ _ hi)).trans
    (congrArg (fun x => Except.ok (Instr.ssig x)) (eFormOf_eFormWord 0x27 f))
theorem swait (f : EForm) : Statement (.swait f) := of_word rfl fun hi =>
  (decode_of_form (opField_eFormWord 0x28 f) rfl (formatCheck_eFormWord _ _ hi)).trans
    (congrArg (fun x => Except.ok (Instr.swait x)) (eFormOf_eFormWord 0x28 f))
theorem stry (f : EForm) : Statement (.stry f) := of_word rfl fun hi =>
  (decode_of_form (opField_eFormWord 0x29 f) rfl (formatCheck_eFormWord _ _ hi)).trans
    (congrArg (fun x => Except.ok (Instr.stry x)) (eFormOf_eFormWord 0x29 f))
theorem fence (f : RSys) : Statement (.fence f) := of_word rfl fun _ =>
  (decode_of_form (opField_rSysWord 0x2A f) rfl (formatCheck_rSysWord _ _)).trans
    (congrArg (fun x => Except.ok (Instr.fence x)) (rSysOf_rSysWord 0x2A f))
theorem ctlr (f : RSys) : Statement (.ctlr f) := of_word rfl fun _ =>
  (decode_of_form (opField_rSysWord 0x2B f) rfl (formatCheck_rSysWord _ _)).trans
    (congrArg (fun x => Except.ok (Instr.ctlr x)) (rSysOf_rSysWord 0x2B f))
theorem ctlw (f : RSys) : Statement (.ctlw f) := of_word rfl fun _ =>
  (decode_of_form (opField_rSysWord 0x2C f) rfl (formatCheck_rSysWord _ _)).trans
    (congrArg (fun x => Except.ok (Instr.ctlw x)) (rSysOf_rSysWord 0x2C f))
theorem trap (f : IForm) : Statement (.trap f) := of_word rfl fun _ =>
  (decode_of_form (opField_iFormWord 0x2D f) rfl (formatCheck_iFormWord _ _)).trans
    (congrArg (fun x => Except.ok (Instr.trap x)) (iFormOf_iFormWord 0x2D f))
theorem bkpt (f : IForm) : Statement (.bkpt f) := of_word rfl fun _ =>
  (decode_of_form (opField_iFormWord 0x2E f) rfl (formatCheck_iFormWord _ _)).trans
    (congrArg (fun x => Except.ok (Instr.bkpt x)) (iFormOf_iFormWord 0x2E f))
theorem stop (f : RSys) : Statement (.stop f) := of_word rfl fun _ =>
  (decode_of_form (opField_rSysWord 0x2F f) rfl (formatCheck_rSysWord _ _)).trans
    (congrArg (fun x => Except.ok (Instr.stop x)) (rSysOf_rSysWord 0x2F f))
theorem gstart (f : EForm) : Statement (.gstart f) := of_word rfl fun hi =>
  (decode_of_form (opField_eFormWord 0x40 f) rfl (formatCheck_eFormWord _ _ hi)).trans
    (congrArg (fun x => Except.ok (Instr.gstart x)) (eFormOf_eFormWord 0x40 f))
theorem gpatch (f : RSys) : Statement (.gpatch f) := of_word rfl fun _ =>
  (decode_of_form (opField_rSysWord 0x41 f) rfl (formatCheck_rSysWord _ _)).trans
    (congrArg (fun x => Except.ok (Instr.gpatch x)) (rSysOf_rSysWord 0x41 f))
theorem gquery (f : RSys) : Statement (.gquery f) := of_word rfl fun _ =>
  (decode_of_form (opField_rSysWord 0x42 f) rfl (formatCheck_rSysWord _ _)).trans
    (congrArg (fun x => Except.ok (Instr.gquery x)) (rSysOf_rSysWord 0x42 f))
theorem gjoin (f : RSys) : Statement (.gjoin f) := of_word rfl fun _ =>
  (decode_of_form (opField_rSysWord 0x43 f) rfl (formatCheck_rSysWord _ _)).trans
    (congrArg (fun x => Except.ok (Instr.gjoin x)) (rSysOf_rSysWord 0x43 f))
theorem gleave (f : RSys) : Statement (.gleave f) := of_word rfl fun _ =>
  (decode_of_form (opField_rSysWord 0x44 f) rfl (formatCheck_rSysWord _ _)).trans
    (congrArg (fun x => Except.ok (Instr.gleave x)) (rSysOf_rSysWord 0x44 f))
theorem gmemb (f : RSys) : Statement (.gmemb f) := of_word rfl fun _ =>
  (decode_of_form (opField_rSysWord 0x45 f) rfl (formatCheck_rSysWord _ _)).trans
    (congrArg (fun x => Except.ok (Instr.gmemb x)) (rSysOf_rSysWord 0x45 f))
theorem gbar (f : EForm) : Statement (.gbar f) := of_word rfl fun hi =>
  (decode_of_form (opField_eFormWord 0x46 f) rfl (formatCheck_eFormWord _ _ hi)).trans
    (congrArg (fun x => Except.ok (Instr.gbar x)) (eFormOf_eFormWord 0x46 f))
theorem gred (f : EForm) : Statement (.gred f) := of_word rfl fun hi =>
  (decode_of_form (opField_eFormWord 0x47 f) rfl (formatCheck_eFormWord _ _ hi)).trans
    (congrArg (fun x => Except.ok (Instr.gred x)) (eFormOf_eFormWord 0x47 f))
theorem gbcast (f : EForm) : Statement (.gbcast f) := of_word rfl fun hi =>
  (decode_of_form (opField_eFormWord 0x48 f) rfl (formatCheck_eFormWord _ _ hi)).trans
    (congrArg (fun x => Except.ok (Instr.gbcast x)) (eFormOf_eFormWord 0x48 f))
theorem tspawn (f : RSys) : Statement (.tspawn f) := of_word rfl fun _ =>
  (decode_of_form (opField_rSysWord 0x49 f) rfl (formatCheck_rSysWord _ _)).trans
    (congrArg (fun x => Except.ok (Instr.tspawn x)) (rSysOf_rSysWord 0x49 f))
theorem renq (f : EForm) : Statement (.renq f) := of_word rfl fun hi =>
  (decode_of_form (opField_eFormWord 0x4A f) rfl (formatCheck_eFormWord _ _ hi)).trans
    (congrArg (fun x => Except.ok (Instr.renq x)) (eFormOf_eFormWord 0x4A f))
theorem rsig (f : EForm) : Statement (.rsig f) := of_word rfl fun hi =>
  (decode_of_form (opField_eFormWord 0x4B f) rfl (formatCheck_eFormWord _ _ hi)).trans
    (congrArg (fun x => Except.ok (Instr.rsig x)) (eFormOf_eFormWord 0x4B f))
theorem bind (f : RSys) : Statement (.bind f) := of_word rfl fun _ =>
  (decode_of_form (opField_rSysWord 0x4C f) rfl (formatCheck_rSysWord _ _)).trans
    (congrArg (fun x => Except.ok (Instr.bind x)) (rSysOf_rSysWord 0x4C f))
theorem unbind (f : RSys) : Statement (.unbind f) := of_word rfl fun _ =>
  (decode_of_form (opField_rSysWord 0x4D f) rfl (formatCheck_rSysWord _ _)).trans
    (congrArg (fun x => Except.ok (Instr.unbind x)) (rSysOf_rSysWord 0x4D f))
theorem acq (f : RSys) : Statement (.acq f) := of_word rfl fun _ =>
  (decode_of_form (opField_rSysWord 0x4E f) rfl (formatCheck_rSysWord _ _)).trans
    (congrArg (fun x => Except.ok (Instr.acq x)) (rSysOf_rSysWord 0x4E f))
theorem rel (f : RSys) : Statement (.rel f) := of_word rfl fun _ =>
  (decode_of_form (opField_rSysWord 0x4F f) rfl (formatCheck_rSysWord _ _)).trans
    (congrArg (fun x => Except.ok (Instr.rel x)) (rSysOf_rSysWord 0x4F f))
theorem xpbgo (f : EForm) : Statement (.xpbgo f) := of_word rfl fun hi =>
  (decode_of_form (opField_eFormWord 0x50 f) rfl (formatCheck_eFormWord _ _ hi)).trans
    (congrArg (fun x => Except.ok (Instr.xpbgo x)) (eFormOf_eFormWord 0x50 f))
theorem fmtend (f : RSys) : Statement (.fmtend f) := of_word rfl fun _ =>
  (decode_of_form (opField_rSysWord 0x51 f) rfl (formatCheck_rSysWord _ _)).trans
    (congrArg (fun x => Except.ok (Instr.fmtend x)) (rSysOf_rSysWord 0x51 f))
theorem sleep (f : RSys) : Statement (.sleep f) := of_word rfl fun _ =>
  (decode_of_form (opField_rSysWord 0x52 f) rfl (formatCheck_rSysWord _ _)).trans
    (congrArg (fun x => Except.ok (Instr.sleep x)) (rSysOf_rSysWord 0x52 f))
theorem tickwait (f : RSys) : Statement (.tickwait f) := of_word rfl fun _ =>
  (decode_of_form (opField_rSysWord 0x53 f) rfl (formatCheck_rSysWord _ _)).trans
    (congrArg (fun x => Except.ok (Instr.tickwait x)) (rSysOf_rSysWord 0x53 f))
theorem speedq (f : RSys) : Statement (.speedq f) := of_word rfl fun _ =>
  (decode_of_form (opField_rSysWord 0x54 f) rfl (formatCheck_rSysWord _ _)).trans
    (congrArg (fun x => Except.ok (Instr.speedq x)) (rSysOf_rSysWord 0x54 f))
theorem evmask (f : RSys) : Statement (.evmask f) := of_word rfl fun _ =>
  (decode_of_form (opField_rSysWord 0x55 f) rfl (formatCheck_rSysWord _ _)).trans
    (congrArg (fun x => Except.ok (Instr.evmask x)) (rSysOf_rSysWord 0x55 f))
theorem noderel (f : RSys) : Statement (.noderel f) := of_word rfl fun _ =>
  (decode_of_form (opField_rSysWord 0x56 f) rfl (formatCheck_rSysWord _ _)).trans
    (congrArg (fun x => Except.ok (Instr.noderel x)) (rSysOf_rSysWord 0x56 f))
theorem stragq (f : RSys) : Statement (.stragq f) := of_word rfl fun _ =>
  (decode_of_form (opField_rSysWord 0x57 f) rfl (formatCheck_rSysWord _ _)).trans
    (congrArg (fun x => Except.ok (Instr.stragq x)) (rSysOf_rSysWord 0x57 f))
theorem ld (f : MForm) : Statement (.ld f) := of_word rfl fun hi =>
  (decode_of_form (opField_mFormWord 0x60 f) rfl (formatCheck_mFormWord _ _ hi)).trans
    (congrArg (fun x => Except.ok (Instr.ld x)) (mFormOf_mFormWord 0x60 f))
theorem ldacq (f : MForm) : Statement (.ldacq f) := of_word rfl fun hi =>
  (decode_of_form (opField_mFormWord 0x61 f) rfl (formatCheck_mFormWord _ _ hi)).trans
    (congrArg (fun x => Except.ok (Instr.ldacq x)) (mFormOf_mFormWord 0x61 f))
theorem ldv (f : MForm) : Statement (.ldv f) := of_word rfl fun hi =>
  (decode_of_form (opField_mFormWord 0x62 f) rfl (formatCheck_mFormWord _ _ hi)).trans
    (congrArg (fun x => Except.ok (Instr.ldv x)) (mFormOf_mFormWord 0x62 f))
theorem ldvs (f : MForm) : Statement (.ldvs f) := of_word rfl fun hi =>
  (decode_of_form (opField_mFormWord 0x63 f) rfl (formatCheck_mFormWord _ _ hi)).trans
    (congrArg (fun x => Except.ok (Instr.ldvs x)) (mFormOf_mFormWord 0x63 f))
theorem gath (f : MForm) : Statement (.gath f) := of_word rfl fun hi =>
  (decode_of_form (opField_mFormWord 0x64 f) rfl (formatCheck_mFormWord _ _ hi)).trans
    (congrArg (fun x => Except.ok (Instr.gath x)) (mFormOf_mFormWord 0x64 f))
theorem pref (f : MForm) : Statement (.pref f) := of_word rfl fun hi =>
  (decode_of_form (opField_mFormWord 0x65 f) rfl (formatCheck_mFormWord _ _ hi)).trans
    (congrArg (fun x => Except.ok (Instr.pref x)) (mFormOf_mFormWord 0x65 f))
theorem rld (f : MForm) : Statement (.rld f) := of_word rfl fun hi =>
  (decode_of_form (opField_mFormWord 0x66 f) rfl (formatCheck_mFormWord _ _ hi)).trans
    (congrArg (fun x => Except.ok (Instr.rld x)) (mFormOf_mFormWord 0x66 f))
theorem rldv (f : MForm) : Statement (.rldv f) := of_word rfl fun hi =>
  (decode_of_form (opField_mFormWord 0x67 f) rfl (formatCheck_mFormWord _ _ hi)).trans
    (congrArg (fun x => Except.ok (Instr.rldv x)) (mFormOf_mFormWord 0x67 f))
theorem stash (f : RSys) : Statement (.stash f) := of_word rfl fun _ =>
  (decode_of_form (opField_rSysWord 0x68 f) rfl (formatCheck_rSysWord _ _)).trans
    (congrArg (fun x => Except.ok (Instr.stash x)) (rSysOf_rSysWord 0x68 f))
theorem unstash (f : RSys) : Statement (.unstash f) := of_word rfl fun _ =>
  (decode_of_form (opField_rSysWord 0x69 f) rfl (formatCheck_rSysWord _ _)).trans
    (congrArg (fun x => Except.ok (Instr.unstash x)) (rSysOf_rSysWord 0x69 f))
theorem discard (f : RSys) : Statement (.discard f) := of_word rfl fun _ =>
  (decode_of_form (opField_rSysWord 0x6A f) rfl (formatCheck_rSysWord _ _)).trans
    (congrArg (fun x => Except.ok (Instr.discard x)) (rSysOf_rSysWord 0x6A f))
theorem cpygo (f : EForm) : Statement (.cpygo f) := of_word rfl fun hi =>
  (decode_of_form (opField_eFormWord 0x6B f) rfl (formatCheck_eFormWord _ _ hi)).trans
    (congrArg (fun x => Except.ok (Instr.cpygo x)) (eFormOf_eFormWord 0x6B f))
theorem cpymc (f : EForm) : Statement (.cpymc f) := of_word rfl fun hi =>
  (decode_of_form (opField_eFormWord 0x6C f) rfl (formatCheck_eFormWord _ _ hi)).trans
    (congrArg (fun x => Except.ok (Instr.cpymc x)) (eFormOf_eFormWord 0x6C f))
theorem lgo (f : EForm) : Statement (.lgo f) := of_word rfl fun hi =>
  (decode_of_form (opField_eFormWord 0x6D f) rfl (formatCheck_eFormWord _ _ hi)).trans
    (congrArg (fun x => Except.ok (Instr.lgo x)) (eFormOf_eFormWord 0x6D f))
theorem lhalt (f : RSys) : Statement (.lhalt f) := of_word rfl fun _ =>
  (decode_of_form (opField_rSysWord 0x6E f) rfl (formatCheck_rSysWord _ _)).trans
    (congrArg (fun x => Except.ok (Instr.lhalt x)) (rSysOf_rSysWord 0x6E f))
theorem ringset (f : RSys) : Statement (.ringset f) := of_word rfl fun _ =>
  (decode_of_form (opField_rSysWord 0x6F f) rfl (formatCheck_rSysWord _ _)).trans
    (congrArg (fun x => Except.ok (Instr.ringset x)) (rSysOf_rSysWord 0x6F f))
theorem ringput (f : RSys) : Statement (.ringput f) := of_word rfl fun _ =>
  (decode_of_form (opField_rSysWord 0x70 f) rfl (formatCheck_rSysWord _ _)).trans
    (congrArg (fun x => Except.ok (Instr.ringput x)) (rSysOf_rSysWord 0x70 f))
theorem ringq (f : RSys) : Statement (.ringq f) := of_word rfl fun _ =>
  (decode_of_form (opField_rSysWord 0x71 f) rfl (formatCheck_rSysWord _ _)).trans
    (congrArg (fun x => Except.ok (Instr.ringq x)) (rSysOf_rSysWord 0x71 f))
theorem winq (f : RSys) : Statement (.winq f) := of_word rfl fun _ =>
  (decode_of_form (opField_rSysWord 0x72 f) rfl (formatCheck_rSysWord _ _)).trans
    (congrArg (fun x => Except.ok (Instr.winq x)) (rSysOf_rSysWord 0x72 f))
theorem plhint (f : RSys) : Statement (.plhint f) := of_word rfl fun _ =>
  (decode_of_form (opField_rSysWord 0x73 f) rfl (formatCheck_rSysWord _ _)).trans
    (congrArg (fun x => Except.ok (Instr.plhint x)) (rSysOf_rSysWord 0x73 f))
theorem pgstate (f : RSys) : Statement (.pgstate f) := of_word rfl fun _ =>
  (decode_of_form (opField_rSysWord 0x74 f) rfl (formatCheck_rSysWord _ _)).trans
    (congrArg (fun x => Except.ok (Instr.pgstate x)) (rSysOf_rSysWord 0x74 f))
theorem bchk (f : EForm) : Statement (.bchk f) := of_word rfl fun hi =>
  (decode_of_form (opField_eFormWord 0x75 f) rfl (formatCheck_eFormWord _ _ hi)).trans
    (congrArg (fun x => Except.ok (Instr.bchk x)) (eFormOf_eFormWord 0x75 f))
theorem xlatq (f : RSys) : Statement (.xlatq f) := of_word rfl fun _ =>
  (decode_of_form (opField_rSysWord 0x76 f) rfl (formatCheck_rSysWord _ _)).trans
    (congrArg (fun x => Except.ok (Instr.xlatq x)) (rSysOf_rSysWord 0x76 f))
theorem lstat (f : RSys) : Statement (.lstat f) := of_word rfl fun _ =>
  (decode_of_form (opField_rSysWord 0x77 f) rfl (formatCheck_rSysWord _ _)).trans
    (congrArg (fun x => Except.ok (Instr.lstat x)) (rSysOf_rSysWord 0x77 f))
theorem vadd (f : VForm) : Statement (.vadd f) := of_word rfl fun _ =>
  (decode_of_form (opField_vFormWord 0x80 f) rfl (formatCheck_vFormWord _ _)).trans
    (congrArg (fun x => Except.ok (Instr.vadd x)) (vFormOf_vFormWord 0x80 f))
theorem vsub (f : VForm) : Statement (.vsub f) := of_word rfl fun _ =>
  (decode_of_form (opField_vFormWord 0x81 f) rfl (formatCheck_vFormWord _ _)).trans
    (congrArg (fun x => Except.ok (Instr.vsub x)) (vFormOf_vFormWord 0x81 f))
theorem vmul (f : VForm) : Statement (.vmul f) := of_word rfl fun _ =>
  (decode_of_form (opField_vFormWord 0x82 f) rfl (formatCheck_vFormWord _ _)).trans
    (congrArg (fun x => Except.ok (Instr.vmul x)) (vFormOf_vFormWord 0x82 f))
theorem vfma (f : VForm) : Statement (.vfma f) := of_word rfl fun _ =>
  (decode_of_form (opField_vFormWord 0x83 f) rfl (formatCheck_vFormWord _ _)).trans
    (congrArg (fun x => Except.ok (Instr.vfma x)) (vFormOf_vFormWord 0x83 f))
theorem vfms (f : VForm) : Statement (.vfms f) := of_word rfl fun _ =>
  (decode_of_form (opField_vFormWord 0x84 f) rfl (formatCheck_vFormWord _ _)).trans
    (congrArg (fun x => Except.ok (Instr.vfms x)) (vFormOf_vFormWord 0x84 f))
theorem vneg (f : VForm) : Statement (.vneg f) := of_word rfl fun _ =>
  (decode_of_form (opField_vFormWord 0x85 f) rfl (formatCheck_vFormWord _ _)).trans
    (congrArg (fun x => Except.ok (Instr.vneg x)) (vFormOf_vFormWord 0x85 f))
theorem vabs (f : VForm) : Statement (.vabs f) := of_word rfl fun _ =>
  (decode_of_form (opField_vFormWord 0x86 f) rfl (formatCheck_vFormWord _ _)).trans
    (congrArg (fun x => Except.ok (Instr.vabs x)) (vFormOf_vFormWord 0x86 f))
theorem vmin (f : VForm) : Statement (.vmin f) := of_word rfl fun _ =>
  (decode_of_form (opField_vFormWord 0x87 f) rfl (formatCheck_vFormWord _ _)).trans
    (congrArg (fun x => Except.ok (Instr.vmin x)) (vFormOf_vFormWord 0x87 f))
theorem vmax (f : VForm) : Statement (.vmax f) := of_word rfl fun _ =>
  (decode_of_form (opField_vFormWord 0x88 f) rfl (formatCheck_vFormWord _ _)).trans
    (congrArg (fun x => Except.ok (Instr.vmax x)) (vFormOf_vFormWord 0x88 f))
theorem vdiv (f : VForm) : Statement (.vdiv f) := of_word rfl fun _ =>
  (decode_of_form (opField_vFormWord 0x89 f) rfl (formatCheck_vFormWord _ _)).trans
    (congrArg (fun x => Except.ok (Instr.vdiv x)) (vFormOf_vFormWord 0x89 f))
theorem vsqrt (f : VForm) : Statement (.vsqrt f) := of_word rfl fun _ =>
  (decode_of_form (opField_vFormWord 0x8A f) rfl (formatCheck_vFormWord _ _)).trans
    (congrArg (fun x => Except.ok (Instr.vsqrt x)) (vFormOf_vFormWord 0x8A f))
theorem vrcp (f : VForm) : Statement (.vrcp f) := of_word rfl fun _ =>
  (decode_of_form (opField_vFormWord 0x8B f) rfl (formatCheck_vFormWord _ _)).trans
    (congrArg (fun x => Except.ok (Instr.vrcp x)) (vFormOf_vFormWord 0x8B f))
theorem vrsq (f : VForm) : Statement (.vrsq f) := of_word rfl fun _ =>
  (decode_of_form (opField_vFormWord 0x8C f) rfl (formatCheck_vFormWord _ _)).trans
    (congrArg (fun x => Except.ok (Instr.vrsq x)) (vFormOf_vFormWord 0x8C f))
theorem vcmp (f : VForm) : Statement (.vcmp f) := of_word rfl fun _ =>
  (decode_of_form (opField_vFormWord 0x8D f) rfl (formatCheck_vFormWord _ _)).trans
    (congrArg (fun x => Except.ok (Instr.vcmp x)) (vFormOf_vFormWord 0x8D f))
theorem vsel (f : VForm) : Statement (.vsel f) := of_word rfl fun _ =>
  (decode_of_form (opField_vFormWord 0x8E f) rfl (formatCheck_vFormWord _ _)).trans
    (congrArg (fun x => Except.ok (Instr.vsel x)) (vFormOf_vFormWord 0x8E f))
theorem vand (f : VForm) : Statement (.vand f) := of_word rfl fun _ =>
  (decode_of_form (opField_vFormWord 0x8F f) rfl (formatCheck_vFormWord _ _)).trans
    (congrArg (fun x => Except.ok (Instr.vand x)) (vFormOf_vFormWord 0x8F f))
theorem vor (f : VForm) : Statement (.vor f) := of_word rfl fun _ =>
  (decode_of_form (opField_vFormWord 0x90 f) rfl (formatCheck_vFormWord _ _)).trans
    (congrArg (fun x => Except.ok (Instr.vor x)) (vFormOf_vFormWord 0x90 f))
theorem vxor (f : VForm) : Statement (.vxor f) := of_word rfl fun _ =>
  (decode_of_form (opField_vFormWord 0x91 f) rfl (formatCheck_vFormWord _ _)).trans
    (congrArg (fun x => Except.ok (Instr.vxor x)) (vFormOf_vFormWord 0x91 f))
theorem vandn (f : VForm) : Statement (.vandn f) := of_word rfl fun _ =>
  (decode_of_form (opField_vFormWord 0x92 f) rfl (formatCheck_vFormWord _ _)).trans
    (congrArg (fun x => Except.ok (Instr.vandn x)) (vFormOf_vFormWord 0x92 f))
theorem vshl (f : VForm) : Statement (.vshl f) := of_word rfl fun _ =>
  (decode_of_form (opField_vFormWord 0x93 f) rfl (formatCheck_vFormWord _ _)).trans
    (congrArg (fun x => Except.ok (Instr.vshl x)) (vFormOf_vFormWord 0x93 f))
theorem vshr (f : VForm) : Statement (.vshr f) := of_word rfl fun _ =>
  (decode_of_form (opField_vFormWord 0x94 f) rfl (formatCheck_vFormWord _ _)).trans
    (congrArg (fun x => Except.ok (Instr.vshr x)) (vFormOf_vFormWord 0x94 f))
theorem vsar (f : VForm) : Statement (.vsar f) := of_word rfl fun _ =>
  (decode_of_form (opField_vFormWord 0x95 f) rfl (formatCheck_vFormWord _ _)).trans
    (congrArg (fun x => Except.ok (Instr.vsar x)) (vFormOf_vFormWord 0x95 f))
theorem vfshl (f : VForm) : Statement (.vfshl f) := of_word rfl fun _ =>
  (decode_of_form (opField_vFormWord 0x96 f) rfl (formatCheck_vFormWord _ _)).trans
    (congrArg (fun x => Except.ok (Instr.vfshl x)) (vFormOf_vFormWord 0x96 f))
theorem vfshr (f : VForm) : Statement (.vfshr f) := of_word rfl fun _ =>
  (decode_of_form (opField_vFormWord 0x97 f) rfl (formatCheck_vFormWord _ _)).trans
    (congrArg (fun x => Except.ok (Instr.vfshr x)) (vFormOf_vFormWord 0x97 f))
theorem vclz (f : VForm) : Statement (.vclz f) := of_word rfl fun _ =>
  (decode_of_form (opField_vFormWord 0x98 f) rfl (formatCheck_vFormWord _ _)).trans
    (congrArg (fun x => Except.ok (Instr.vclz x)) (vFormOf_vFormWord 0x98 f))
theorem vpopc (f : VForm) : Statement (.vpopc f) := of_word rfl fun _ =>
  (decode_of_form (opField_vFormWord 0x99 f) rfl (formatCheck_vFormWord _ _)).trans
    (congrArg (fun x => Except.ok (Instr.vpopc x)) (vFormOf_vFormWord 0x99 f))
theorem vcvt (f : VForm) : Statement (.vcvt f) := of_word rfl fun _ =>
  (decode_of_form (opField_vFormWord 0x9A f) rfl (formatCheck_vFormWord _ _)).trans
    (congrArg (fun x => Except.ok (Instr.vcvt x)) (vFormOf_vFormWord 0x9A f))
theorem vsrnd (f : VForm) : Statement (.vsrnd f) := of_word rfl fun _ =>
  (decode_of_form (opField_vFormWord 0x9B f) rfl (formatCheck_vFormWord _ _)).trans
    (congrArg (fun x => Except.ok (Instr.vsrnd x)) (vFormOf_vFormWord 0x9B f))
theorem vperm (f : VForm) : Statement (.vperm f) := of_word rfl fun _ =>
  (decode_of_form (opField_vFormWord 0x9C f) rfl (formatCheck_vFormWord _ _)).trans
    (congrArg (fun x => Except.ok (Instr.vperm x)) (vFormOf_vFormWord 0x9C f))
theorem vshuf (f : VForm) : Statement (.vshuf f) := of_word rfl fun _ =>
  (decode_of_form (opField_vFormWord 0x9D f) rfl (formatCheck_vFormWord _ _)).trans
    (congrArg (fun x => Except.ok (Instr.vshuf x)) (vFormOf_vFormWord 0x9D f))
theorem vbcast (f : VForm) : Statement (.vbcast f) := of_word rfl fun _ =>
  (decode_of_form (opField_vFormWord 0x9E f) rfl (formatCheck_vFormWord _ _)).trans
    (congrArg (fun x => Except.ok (Instr.vbcast x)) (vFormOf_vFormWord 0x9E f))
theorem vextr (f : VForm) : Statement (.vextr f) := of_word rfl fun _ =>
  (decode_of_form (opField_vFormWord 0x9F f) rfl (formatCheck_vFormWord _ _)).trans
    (congrArg (fun x => Except.ok (Instr.vextr x)) (vFormOf_vFormWord 0x9F f))
theorem vins (f : VForm) : Statement (.vins f) := of_word rfl fun _ =>
  (decode_of_form (opField_vFormWord 0xA0 f) rfl (formatCheck_vFormWord _ _)).trans
    (congrArg (fun x => Except.ok (Instr.vins x)) (vFormOf_vFormWord 0xA0 f))
theorem vredadd (f : VForm) : Statement (.vredadd f) := of_word rfl fun _ =>
  (decode_of_form (opField_vFormWord 0xA1 f) rfl (formatCheck_vFormWord _ _)).trans
    (congrArg (fun x => Except.ok (Instr.vredadd x)) (vFormOf_vFormWord 0xA1 f))
theorem vredmax (f : VForm) : Statement (.vredmax f) := of_word rfl fun _ =>
  (decode_of_form (opField_vFormWord 0xA2 f) rfl (formatCheck_vFormWord _ _)).trans
    (congrArg (fun x => Except.ok (Instr.vredmax x)) (vFormOf_vFormWord 0xA2 f))
theorem vredmin (f : VForm) : Statement (.vredmin f) := of_word rfl fun _ =>
  (decode_of_form (opField_vFormWord 0xA3 f) rfl (formatCheck_vFormWord _ _)).trans
    (congrArg (fun x => Except.ok (Instr.vredmin x)) (vFormOf_vFormWord 0xA3 f))
theorem vgmax (f : VForm) : Statement (.vgmax f) := of_word rfl fun _ =>
  (decode_of_form (opField_vFormWord 0xA4 f) rfl (formatCheck_vFormWord _ _)).trans
    (congrArg (fun x => Except.ok (Instr.vgmax x)) (vFormOf_vFormWord 0xA4 f))
theorem vgsum (f : VForm) : Statement (.vgsum f) := of_word rfl fun _ =>
  (decode_of_form (opField_vFormWord 0xA5 f) rfl (formatCheck_vFormWord _ _)).trans
    (congrArg (fun x => Except.ok (Instr.vgsum x)) (vFormOf_vFormWord 0xA5 f))
theorem vscan (f : VForm) : Statement (.vscan f) := of_word rfl fun _ =>
  (decode_of_form (opField_vFormWord 0xA6 f) rfl (formatCheck_vFormWord _ _)).trans
    (congrArg (fun x => Except.ok (Instr.vscan x)) (vFormOf_vFormWord 0xA6 f))
theorem vcomp (f : VForm) : Statement (.vcomp f) := of_word rfl fun _ =>
  (decode_of_form (opField_vFormWord 0xA7 f) rfl (formatCheck_vFormWord _ _)).trans
    (congrArg (fun x => Except.ok (Instr.vcomp x)) (vFormOf_vFormWord 0xA7 f))
theorem vexpd (f : VForm) : Statement (.vexpd f) := of_word rfl fun _ =>
  (decode_of_form (opField_vFormWord 0xA8 f) rfl (formatCheck_vFormWord _ _)).trans
    (congrArg (fun x => Except.ok (Instr.vexpd x)) (vFormOf_vFormWord 0xA8 f))
theorem viota (f : VForm) : Statement (.viota f) := of_word rfl fun _ =>
  (decode_of_form (opField_vFormWord 0xA9 f) rfl (formatCheck_vFormWord _ _)).trans
    (congrArg (fun x => Except.ok (Instr.viota x)) (vFormOf_vFormWord 0xA9 f))
theorem vmov (f : VForm) : Statement (.vmov f) := of_word rfl fun _ =>
  (decode_of_form (opField_vFormWord 0xAA f) rfl (formatCheck_vFormWord _ _)).trans
    (congrArg (fun x => Except.ok (Instr.vmov x)) (vFormOf_vFormWord 0xAA f))
theorem vli (f : VForm) : Statement (.vli f) := of_word rfl fun _ =>
  (decode_of_form (opField_vFormWord 0xAB f) rfl (formatCheck_vFormWord _ _)).trans
    (congrArg (fun x => Except.ok (Instr.vli x)) (vFormOf_vFormWord 0xAB f))
theorem vsfn (f : VForm) : Statement (.vsfn f) := of_word rfl fun _ =>
  (decode_of_form (opField_vFormWord 0xAC f) rfl (formatCheck_vFormWord _ _)).trans
    (congrArg (fun x => Except.ok (Instr.vsfn x)) (vFormOf_vFormWord 0xAC f))
theorem vsfl (f : VForm) : Statement (.vsfl f) := of_word rfl fun _ =>
  (decode_of_form (opField_vFormWord 0xAD f) rfl (formatCheck_vFormWord _ _)).trans
    (congrArg (fun x => Except.ok (Instr.vsfl x)) (vFormOf_vFormWord 0xAD f))
theorem vstat (f : VForm) : Statement (.vstat f) := of_word rfl fun _ =>
  (decode_of_form (opField_vFormWord 0xAE f) rfl (formatCheck_vFormWord _ _)).trans
    (congrArg (fun x => Except.ok (Instr.vstat x)) (vFormOf_vFormWord 0xAE f))
theorem vmulh (f : VForm) : Statement (.vmulh f) := of_word rfl fun _ =>
  (decode_of_form (opField_vFormWord 0xAF f) rfl (formatCheck_vFormWord _ _)).trans
    (congrArg (fun x => Except.ok (Instr.vmulh x)) (vFormOf_vFormWord 0xAF f))
theorem vmadd (f : VForm) : Statement (.vmadd f) := of_word rfl fun _ =>
  (decode_of_form (opField_vFormWord 0xB0 f) rfl (formatCheck_vFormWord _ _)).trans
    (congrArg (fun x => Except.ok (Instr.vmadd x)) (vFormOf_vFormWord 0xB0 f))
theorem vcplx (f : VForm) : Statement (.vcplx f) := of_word rfl fun _ =>
  (decode_of_form (opField_vFormWord 0xB1 f) rfl (formatCheck_vFormWord _ _)).trans
    (congrArg (fun x => Except.ok (Instr.vcplx x)) (vFormOf_vFormWord 0xB1 f))
theorem vpcnt (f : VForm) : Statement (.vpcnt f) := of_word rfl fun _ =>
  (decode_of_form (opField_vFormWord 0xB2 f) rfl (formatCheck_vFormWord _ _)).trans
    (congrArg (fun x => Except.ok (Instr.vpcnt x)) (vFormOf_vFormWord 0xB2 f))
theorem vplog (f : VForm) : Statement (.vplog f) := of_word rfl fun _ =>
  (decode_of_form (opField_vFormWord 0xB3 f) rfl (formatCheck_vFormWord _ _)).trans
    (congrArg (fun x => Except.ok (Instr.vplog x)) (vFormOf_vFormWord 0xB3 f))
theorem vpfirst (f : VForm) : Statement (.vpfirst f) := of_word rfl fun _ =>
  (decode_of_form (opField_vFormWord 0xB4 f) rfl (formatCheck_vFormWord _ _)).trans
    (congrArg (fun x => Except.ok (Instr.vpfirst x)) (vFormOf_vFormWord 0xB4 f))
theorem vslide (f : VForm) : Statement (.vslide f) := of_word rfl fun _ =>
  (decode_of_form (opField_vFormWord 0xB5 f) rfl (formatCheck_vFormWord _ _)).trans
    (congrArg (fun x => Except.ok (Instr.vslide x)) (vFormOf_vFormWord 0xB5 f))
theorem vdot (f : VForm) : Statement (.vdot f) := of_word rfl fun _ =>
  (decode_of_form (opField_vFormWord 0xB6 f) rfl (formatCheck_vFormWord _ _)).trans
    (congrArg (fun x => Except.ok (Instr.vdot x)) (vFormOf_vFormWord 0xB6 f))
theorem vclamp (f : VForm) : Statement (.vclamp f) := of_word rfl fun _ =>
  (decode_of_form (opField_vFormWord 0xB7 f) rfl (formatCheck_vFormWord _ _)).trans
    (congrArg (fun x => Except.ok (Instr.vclamp x)) (vFormOf_vFormWord 0xB7 f))
theorem mma (f : RSys) : Statement (.mma f) := of_word rfl fun _ =>
  (decode_of_form (opField_rSysWord 0xC0 f) rfl (formatCheck_rSysWord _ _)).trans
    (congrArg (fun x => Except.ok (Instr.mma x)) (rSysOf_rSysWord 0xC0 f))
theorem mmat (f : RSys) : Statement (.mmat f) := of_word rfl fun _ =>
  (decode_of_form (opField_rSysWord 0xC1 f) rfl (formatCheck_rSysWord _ _)).trans
    (congrArg (fun x => Except.ok (Instr.mmat x)) (rSysOf_rSysWord 0xC1 f))
theorem aclr (f : RSys) : Statement (.aclr f) := of_word rfl fun _ =>
  (decode_of_form (opField_rSysWord 0xC2 f) rfl (formatCheck_rSysWord _ _)).trans
    (congrArg (fun x => Except.ok (Instr.aclr x)) (rSysOf_rSysWord 0xC2 f))
theorem aget (f : RSys) : Statement (.aget f) := of_word rfl fun _ =>
  (decode_of_form (opField_rSysWord 0xC3 f) rfl (formatCheck_rSysWord _ _)).trans
    (congrArg (fun x => Except.ok (Instr.aget x)) (rSysOf_rSysWord 0xC3 f))
theorem aput (f : RSys) : Statement (.aput f) := of_word rfl fun _ =>
  (decode_of_form (opField_rSysWord 0xC4 f) rfl (formatCheck_rSysWord _ _)).trans
    (congrArg (fun x => Except.ok (Instr.aput x)) (rSysOf_rSysWord 0xC4 f))
theorem ascale (f : RSys) : Statement (.ascale f) := of_word rfl fun _ =>
  (decode_of_form (opField_rSysWord 0xC5 f) rfl (formatCheck_rSysWord _ _)).trans
    (congrArg (fun x => Except.ok (Instr.ascale x)) (rSysOf_rSysWord 0xC5 f))
theorem drain (f : EForm) : Statement (.drain f) := of_word rfl fun hi =>
  (decode_of_form (opField_eFormWord 0xC6 f) rfl (formatCheck_eFormWord _ _ hi)).trans
    (congrArg (fun x => Except.ok (Instr.drain x)) (eFormOf_eFormWord 0xC6 f))
theorem rpop (f : RSys) : Statement (.rpop f) := of_word rfl fun _ =>
  (decode_of_form (opField_rSysWord 0xC7 f) rfl (formatCheck_rSysWord _ _)).trans
    (congrArg (fun x => Except.ok (Instr.rpop x)) (rSysOf_rSysWord 0xC7 f))
theorem sigt (f : RSys) : Statement (.sigt f) := of_word rfl fun _ =>
  (decode_of_form (opField_rSysWord 0xC8 f) rfl (formatCheck_rSysWord _ _)).trans
    (congrArg (fun x => Except.ok (Instr.sigt x)) (rSysOf_rSysWord 0xC8 f))
theorem sigchk (f : RSys) : Statement (.sigchk f) := of_word rfl fun _ =>
  (decode_of_form (opField_rSysWord 0xC9 f) rfl (formatCheck_rSysWord _ _)).trans
    (congrArg (fun x => Except.ok (Instr.sigchk x)) (rSysOf_rSysWord 0xC9 f))
theorem fftset (f : EForm) : Statement (.fftset f) := of_word rfl fun hi =>
  (decode_of_form (opField_eFormWord 0xCA f) rfl (formatCheck_eFormWord _ _ hi)).trans
    (congrArg (fun x => Except.ok (Instr.fftset x)) (eFormOf_eFormWord 0xCA f))
theorem fftrun (f : RSys) : Statement (.fftrun f) := of_word rfl fun _ =>
  (decode_of_form (opField_rSysWord 0xCB f) rfl (formatCheck_rSysWord _ _)).trans
    (congrArg (fun x => Except.ok (Instr.fftrun x)) (rSysOf_rSysWord 0xCB f))
theorem spmul (f : RSys) : Statement (.spmul f) := of_word rfl fun _ =>
  (decode_of_form (opField_rSysWord 0xCC f) rfl (formatCheck_rSysWord _ _)).trans
    (congrArg (fun x => Except.ok (Instr.spmul x)) (rSysOf_rSysWord 0xCC f))
theorem shtl (f : EForm) : Statement (.shtl f) := of_word rfl fun hi =>
  (decode_of_form (opField_eFormWord 0xCD f) rfl (formatCheck_eFormWord _ _ hi)).trans
    (congrArg (fun x => Except.ok (Instr.shtl x)) (eFormOf_eFormWord 0xCD f))
theorem blkt (f : RSys) : Statement (.blkt f) := of_word rfl fun _ =>
  (decode_of_form (opField_rSysWord 0xCE f) rfl (formatCheck_rSysWord _ _)).trans
    (congrArg (fun x => Except.ok (Instr.blkt x)) (rSysOf_rSysWord 0xCE f))
theorem fmtpop (f : RSys) : Statement (.fmtpop f) := of_word rfl fun _ =>
  (decode_of_form (opField_rSysWord 0xCF f) rfl (formatCheck_rSysWord _ _)).trans
    (congrArg (fun x => Except.ok (Instr.fmtpop x)) (rSysOf_rSysWord 0xCF f))
theorem st (f : MForm) : Statement (.st f) := of_word rfl fun hi =>
  (decode_of_form (opField_mFormWord 0xD0 f) rfl (formatCheck_mFormWord _ _ hi)).trans
    (congrArg (fun x => Except.ok (Instr.st x)) (mFormOf_mFormWord 0xD0 f))
theorem strel (f : MForm) : Statement (.strel f) := of_word rfl fun hi =>
  (decode_of_form (opField_mFormWord 0xD1 f) rfl (formatCheck_mFormWord _ _ hi)).trans
    (congrArg (fun x => Except.ok (Instr.strel x)) (mFormOf_mFormWord 0xD1 f))
theorem stv (f : MForm) : Statement (.stv f) := of_word rfl fun hi =>
  (decode_of_form (opField_mFormWord 0xD2 f) rfl (formatCheck_mFormWord _ _ hi)).trans
    (congrArg (fun x => Except.ok (Instr.stv x)) (mFormOf_mFormWord 0xD2 f))
theorem stvs (f : MForm) : Statement (.stvs f) := of_word rfl fun hi =>
  (decode_of_form (opField_mFormWord 0xD3 f) rfl (formatCheck_mFormWord _ _ hi)).trans
    (congrArg (fun x => Except.ok (Instr.stvs x)) (mFormOf_mFormWord 0xD3 f))
theorem scat (f : MForm) : Statement (.scat f) := of_word rfl fun hi =>
  (decode_of_form (opField_mFormWord 0xD4 f) rfl (formatCheck_mFormWord _ _ hi)).trans
    (congrArg (fun x => Except.ok (Instr.scat x)) (mFormOf_mFormWord 0xD4 f))
theorem amo (f : MForm) : Statement (.amo f) := of_word rfl fun hi =>
  (decode_of_form (opField_mFormWord 0xD5 f) rfl (formatCheck_mFormWord _ _ hi)).trans
    (congrArg (fun x => Except.ok (Instr.amo x)) (mFormOf_mFormWord 0xD5 f))
theorem amov (f : MForm) : Statement (.amov f) := of_word rfl fun hi =>
  (decode_of_form (opField_mFormWord 0xD6 f) rfl (formatCheck_mFormWord _ _ hi)).trans
    (congrArg (fun x => Except.ok (Instr.amov x)) (mFormOf_mFormWord 0xD6 f))
theorem red (f : MForm) : Statement (.red f) := of_word rfl fun hi =>
  (decode_of_form (opField_mFormWord 0xD7 f) rfl (formatCheck_mFormWord _ _ hi)).trans
    (congrArg (fun x => Except.ok (Instr.red x)) (mFormOf_mFormWord 0xD7 f))
theorem redv (f : MForm) : Statement (.redv f) := of_word rfl fun hi =>
  (decode_of_form (opField_mFormWord 0xD8 f) rfl (formatCheck_mFormWord _ _ hi)).trans
    (congrArg (fun x => Except.ok (Instr.redv x)) (mFormOf_mFormWord 0xD8 f))
theorem skupd (f : EForm) : Statement (.skupd f) := of_word rfl fun hi =>
  (decode_of_form (opField_eFormWord 0xD9 f) rfl (formatCheck_eFormWord _ _ hi)).trans
    (congrArg (fun x => Except.ok (Instr.skupd x)) (eFormOf_eFormWord 0xD9 f))
theorem skqry (f : EForm) : Statement (.skqry f) := of_word rfl fun hi =>
  (decode_of_form (opField_eFormWord 0xDA f) rfl (formatCheck_eFormWord _ _ hi)).trans
    (congrArg (fun x => Except.ok (Instr.skqry x)) (eFormOf_eFormWord 0xDA f))
theorem skadd (f : EForm) : Statement (.skadd f) := of_word rfl fun hi =>
  (decode_of_form (opField_eFormWord 0xDB f) rfl (formatCheck_eFormWord _ _ hi)).trans
    (congrArg (fun x => Except.ok (Instr.skadd x)) (eFormOf_eFormWord 0xDB f))
theorem skclr (f : EForm) : Statement (.skclr f) := of_word rfl fun hi =>
  (decode_of_form (opField_eFormWord 0xDC f) rfl (formatCheck_eFormWord _ _ hi)).trans
    (congrArg (fun x => Except.ok (Instr.skclr x)) (eFormOf_eFormWord 0xDC f))
theorem uop (f : RAlu) : Statement (.uop f) := of_word rfl fun _ =>
  (decode_of_form (opField_rAluWord 0xDD f) rfl (formatCheck_rAluWord _ _)).trans
    (congrArg (fun x => Except.ok (Instr.uop x)) (rAluOf_rAluWord 0xDD f))
theorem ucvt (f : RAlu) : Statement (.ucvt f) := of_word rfl fun _ =>
  (decode_of_form (opField_rAluWord 0xDE f) rfl (formatCheck_rAluWord _ _)).trans
    (congrArg (fun x => Except.ok (Instr.ucvt x)) (rAluOf_rAluWord 0xDE f))
theorem nfchk (f : EForm) : Statement (.nfchk f) := of_word rfl fun hi =>
  (decode_of_form (opField_eFormWord 0xDF f) rfl (formatCheck_eFormWord _ _ hi)).trans
    (congrArg (fun x => Except.ok (Instr.nfchk x)) (eFormOf_eFormWord 0xDF f))
theorem scommit (f : EForm) : Statement (.scommit f) := of_word rfl fun hi =>
  (decode_of_form (opField_eFormWord 0xE0 f) rfl (formatCheck_eFormWord _ _ hi)).trans
    (congrArg (fun x => Except.ok (Instr.scommit x)) (eFormOf_eFormWord 0xE0 f))
theorem sflush (f : RSys) : Statement (.sflush f) := of_word rfl fun _ =>
  (decode_of_form (opField_rSysWord 0xE1 f) rfl (formatCheck_rSysWord _ _)).trans
    (congrArg (fun x => Except.ok (Instr.sflush x)) (rSysOf_rSysWord 0xE1 f))
theorem rstv (f : MForm) : Statement (.rstv f) := of_word rfl fun hi =>
  (decode_of_form (opField_mFormWord 0xE2 f) rfl (formatCheck_mFormWord _ _ hi)).trans
    (congrArg (fun x => Except.ok (Instr.rstv x)) (mFormOf_mFormWord 0xE2 f))
theorem skstat (f : RSys) : Statement (.skstat f) := of_word rfl fun _ =>
  (decode_of_form (opField_rSysWord 0xE3 f) rfl (formatCheck_rSysWord _ _)).trans
    (congrArg (fun x => Except.ok (Instr.skstat x)) (rSysOf_rSysWord 0xE3 f))
theorem zero (f : MForm) : Statement (.zero f) := of_word rfl fun hi =>
  (decode_of_form (opField_mFormWord 0xE4 f) rfl (formatCheck_mFormWord _ _ hi)).trans
    (congrArg (fun x => Except.ok (Instr.zero x)) (mFormOf_mFormWord 0xE4 f))
theorem stnt (f : MForm) : Statement (.stnt f) := of_word rfl fun hi =>
  (decode_of_form (opField_mFormWord 0xE5 f) rfl (formatCheck_mFormWord _ _ hi)).trans
    (congrArg (fun x => Except.ok (Instr.stnt x)) (mFormOf_mFormWord 0xE5 f))
theorem rrput (f : EForm) : Statement (.rrput f) := of_word rfl fun hi =>
  (decode_of_form (opField_eFormWord 0xE6 f) rfl (formatCheck_eFormWord _ _ hi)).trans
    (congrArg (fun x => Except.ok (Instr.rrput x)) (eFormOf_eFormWord 0xE6 f))
theorem stls (f : MForm) : Statement (.stls f) := of_word rfl fun hi =>
  (decode_of_form (opField_mFormWord 0xE7 f) rfl (formatCheck_mFormWord _ _ hi)).trans
    (congrArg (fun x => Except.ok (Instr.stls x)) (mFormOf_mFormWord 0xE7 f))
theorem unassignedOpcode (op : BitVec 8) (rest : BitVec 88) : Statement (.unassignedOpcode op rest) := of_word rfl fun hi => by
  have h1 : opField (op ++ rest) = op := (BitVec.extractLsb'_append_eq_of_le (by decide)).trans (by simp)
  have h2 : (op ++ rest).extractLsb' 0 88 = rest := (BitVec.extractLsb'_append_eq_of_add_le (by decide)).trans (by simp)
  have h3 : ∀ op : BitVec 8, unassigned op = true → formOf op = none := by decide
  have h4 : formOf op = none := h3 op hi
  simp only [decode, h1, h4, h2]
theorem sectionEntry (st : Stream) : Statement (.sectionEntry st) := of_event rfl
theorem trapEntry (st : Stream) (code op : BitVec 8) (info : BitVec 32) : Statement (.trapEntry st code op info) := of_event rfl
theorem taskStart (core : Nat) : Statement (.taskStart core) := of_event rfl
theorem taskEnd (tid : Nat) : Statement (.taskEnd tid) := of_event rfl
theorem taskFreeze (tid : Nat) (f : FreezeCause) : Statement (.taskFreeze tid f) := of_event rfl
theorem preemption (slot node : Nat) : Statement (.preemption slot node) := of_event rfl
theorem taskResume (core : Nat) : Statement (.taskResume core) := of_event rfl
theorem distributorPick : Statement (.distributorPick) := of_event rfl
theorem semaphoreWaitSatisfied (tid : Nat) (k : BitVec 8) (sigs : List SemSignal) : Statement (.semaphoreWaitSatisfied tid k sigs) := of_event rfl
theorem remoteSignalApply (m : RemoteSignal) : Statement (.remoteSignalApply m) := of_event rfl
theorem eventDeliver (tid : Nat) : Statement (.eventDeliver tid) := of_event rfl
theorem ringSlotClaim (tid : Nat) (ring : Fin 8) : Statement (.ringSlotClaim tid ring) := of_event rfl
theorem quayGroupTick (arrivals : List GroupArrival) (removals : List (Nat × Nat)) (joins : List (Nat × Nat)) : Statement (.quayGroupTick arrivals removals joins) := of_event rfl
theorem groupCollectiveComplete (group : Nat) (kind : CollKind) : Statement (.groupCollectiveComplete group kind) := of_event rfl
theorem renqBlockArrival (m : BlockMsg) : Statement (.renqBlockArrival m) := of_event rfl
theorem jobUnitRecordStart (tid : Nat) : Statement (.jobUnitRecordStart tid) := of_event rfl
theorem commandBlockDone (tid : Nat) : Statement (.commandBlockDone tid) := of_event rfl
theorem copyApertureStart (chan : Fin 32) (data : BitVec 128) (tid : Option Nat) : Statement (.copyApertureStart chan data tid) := of_event rfl
theorem bteJobStart (chan : Fin 32) : Statement (.bteJobStart chan) := of_event rfl
theorem bteChunkComplete (chan : Fin 32) : Statement (.bteChunkComplete chan) := of_event rfl
theorem engineJobComplete (e : Engine) : Statement (.engineJobComplete e) := of_event rfl
theorem completionRingWrite (e : Engine) : Statement (.completionRingWrite e) := of_event rfl
theorem engineJobFail (e : Engine) (code : BitVec 8) : Statement (.engineJobFail e code) := of_event rfl
theorem drainJobWrite (chan : Fin 32) : Statement (.drainJobWrite chan) := of_event rfl
theorem lighterProgramStart (n : Fin 32) : Statement (.lighterProgramStart n) := of_event rfl
theorem lighterEnd (n : Fin 32) : Statement (.lighterEnd n) := of_event rfl
theorem lighterBase (n : Fin 32) (ia : BitVec 58) : Statement (.lighterBase n ia) := of_event rfl
theorem lighterDim (n : Fin 32) (d : BitVec 3) (count : BitVec 25) (stride : BitVec 32) : Statement (.lighterDim n d count stride) := of_event rfl
theorem lighterPush (n : Fin 32) (ring : BitVec 3) (ndim : BitVec 4) (elog : BitVec 3) (ssem : BitVec 8) (sinc : BitVec 12) : Statement (.lighterPush n ring ndim elog ssem sinc) := of_event rfl
theorem lighterGather (n : Fin 32) (ring : BitVec 3) (elog : BitVec 3) (ssem : BitVec 8) (sinc : BitVec 12) (count : BitVec 14) (scale : BitVec 4) : Statement (.lighterGather n ring elog ssem sinc count scale) := of_event rfl
theorem lighterLoop (n : Fin 32) (l : BitVec 2) (count : BitVec 24) (target : BitVec 16) : Statement (.lighterLoop n l count target) := of_event rfl
theorem lighterSig (n : Fin 32) (ssem : BitVec 8) (sinc : BitVec 12) : Statement (.lighterSig n ssem sinc) := of_event rfl
theorem lighterWwait (n : Fin 32) (mode : BitVec 2) (wsem : BitVec 8) (thr : BitVec 16) : Statement (.lighterWwait n mode wsem thr) := of_event rfl
theorem lighterJump (n : Fin 32) (target : BitVec 16) : Statement (.lighterJump n target) := of_event rfl
theorem lighterIdx (n : Fin 32) (ia : BitVec 58) : Statement (.lighterIdx n ia) := of_event rfl
theorem lighterAdv (n : Fin 32) (off : BitVec 56) : Statement (.lighterAdv n off) := of_event rfl
theorem lighterPushFillComplete (n : Fin 32) : Statement (.lighterPushFillComplete n) := of_event rfl
theorem lighterNextPageWalk (n : Fin 32) : Statement (.lighterNextPageWalk n) := of_event rfl
theorem damaskMemberStart (coll : CollKey) (tid : Nat) : Statement (.damaskMemberStart coll tid) := of_event rfl
theorem damaskBlockWrite (coll : CollKey) (b : DamaskBlock) : Statement (.damaskBlockWrite coll b) := of_event rfl
theorem damaskPhaseComplete (coll : CollKey) (tid : Nat) : Statement (.damaskPhaseComplete coll tid) := of_event rfl
theorem damaskSourceReadDone (coll : CollKey) (tid : Nat) : Statement (.damaskSourceReadDone coll tid) := of_event rfl
theorem damaskMembershipComplete (coll : CollKey) (tid : Nat) : Statement (.damaskMembershipComplete coll tid) := of_event rfl
theorem damaskSlotStart (coll : CollKey) (circuitsReady : Bool) : Statement (.damaskSlotStart coll circuitsReady) := of_event rfl
theorem damaskMemberLost (coll : CollKey) (rank : Nat) (code : BitVec 8) : Statement (.damaskMemberLost coll rank code) := of_event rfl
theorem grresLoad (slot : Fin 64) (obj : BitVec 16) : Statement (.grresLoad slot obj) := of_event rfl
theorem grresEvict (slot : Fin 64) : Statement (.grresEvict slot) := of_event rfl
theorem grstart (slot : Fin 64) (n : BitVec 32) : Statement (.grstart slot n) := of_event rfl
theorem stepBegin (slot : Fin 64) : Statement (.stepBegin slot) := of_event rfl
theorem stepEnd (slot : Fin 64) : Statement (.stepEnd slot) := of_event rfl
theorem nodeComplete (slot : Fin 64) (node : Nat) : Statement (.nodeComplete slot node) := of_event rfl
theorem homeSliceWrite (by_ : Requester) (ia : Nat) (data : List (BitVec 8)) : Statement (.homeSliceWrite by_ ia data) := of_event rfl
theorem homeSliceRead (by_ : Requester) (ia len : Nat) : Statement (.homeSliceRead by_ ia len) := of_event rfl
theorem homeSliceAtomic (by_ : Requester) (ia : Nat) (opk : BitVec 4) (size : Nat) (isFloat : Bool) (operand expected : BitVec 64) : Statement (.homeSliceAtomic by_ ia opk size isFloat operand expected) := of_event rfl
theorem acknowledgementArrival (tid : Nat) : Statement (.acknowledgementArrival tid) := of_event rfl
theorem stashFill (tid : Nat) (off : Nat) : Statement (.stashFill tid off) := of_event rfl
theorem stashRecall (ia : Nat) (isWrite : Bool) : Statement (.stashRecall ia isWrite) := of_event rfl
theorem guardGrant (ia : Nat) : Statement (.guardGrant ia) := of_event rfl
theorem gateReport (by_ : Requester) (ia : Nat) (nonfinite : Bool) : Statement (.gateReport by_ ia nonfinite) := of_event rfl
theorem sketchUpdateApply (obj : BitVec 16) (row bucket : Nat) (inc : Int) : Statement (.sketchUpdateApply obj row bucket inc) := of_event rfl
theorem rstvWriteApply (m : RstvMsg) : Statement (.rstvWriteApply m) := of_event rfl
theorem rrputFillApply (m : RrputMsg) : Statement (.rrputFillApply m) := of_event rfl
theorem migration (region : Nat) (newDie : Fin 8) (frame : Nat) : Statement (.migration region newDie frame) := of_event rfl
theorem translationFault (by_ : Requester) (ia : Nat) (kind : AccessKind) : Statement (.translationFault by_ ia kind) := of_event rfl
theorem sidelogWaitEnter (tid : Nat) : Statement (.sidelogWaitEnter tid) := of_event rfl
theorem sidelogEntryApply (tid : Nat) (seq : BitVec 16) : Statement (.sidelogEntryApply tid seq) := of_event rfl
theorem faultresRetry (die : Fin 8) (page : Nat) : Statement (.faultresRetry die page) := of_event rfl
theorem faultresAbort (die : Fin 8) (page : Nat) : Statement (.faultresAbort die page) := of_event rfl
theorem walkerInvalidate (die : Fin 8) (ia : Nat) : Statement (.walkerInvalidate die ia) := of_event rfl
theorem objectTableInvalidate (index : BitVec 16) : Statement (.objectTableInvalidate index) := of_event rfl
theorem pkgnumWrite (v : BitVec 64) : Statement (.pkgnumWrite v) := of_event rfl
theorem pkgmapWrite (word : Fin 32) (v : BitVec 64) : Statement (.pkgmapWrite word v) := of_event rfl
theorem frozenResume (n : Fin 16) : Statement (.frozenResume n) := of_event rfl
theorem frozenRelease (n : Fin 16) : Statement (.frozenRelease n) := of_event rfl
theorem frozenJobSlotFree (die : Fin 8) (j : Fin 4) : Statement (.frozenJobSlotFree die j) := of_event rfl
theorem registerWrite (offset : Nat) (v : BitVec 64) : Statement (.registerWrite offset v) := of_event rfl
theorem errorRecordWrite : Statement (.errorRecordWrite) := of_event rfl
theorem correctedErrorThreshold (unit : ErrUnit) (count : Nat) : Statement (.correctedErrorThreshold unit count) := of_event rfl
theorem eccUncorrected (where_ : EccWhere) : Statement (.eccUncorrected where_) := of_event rfl
theorem patrolScrub (die : Fin 8) (addr : Nat) (finding : ScrubFinding) : Statement (.patrolScrub die addr finding) := of_event rfl
theorem deadlockTimeout (tid : Nat) : Statement (.deadlockTimeout tid) := of_event rfl
theorem stallTimeout (tid : Nat) : Statement (.stallTimeout tid) := of_event rfl
theorem packageReset (b : BootInputs) : Statement (.packageReset b) := of_event rfl
theorem ageingMarginLow (core : Nat) (voltageCanRestore : Bool) : Statement (.ageingMarginLow core voltageCanRestore) := of_event rfl
theorem speedTableUpdate : Statement (.speedTableUpdate) := of_event rfl
theorem checkpoint : Statement (.checkpoint) := of_event rfl
theorem checkpointResume : Statement .checkpointResume := of_event rfl
theorem flitDataReceive (circ : Nat) (f : FlitIn) : Statement (.flitDataReceive circ f) := of_event rfl
theorem keyMarkerReceive (circ : Nat) (f : FlitIn) : Statement (.keyMarkerReceive circ f) := of_event rfl
theorem flitAckReceive (far : BitVec 11) (circ : Nat) (f : FlitIn) : Statement (.flitAckReceive far circ f) := of_event rfl
theorem timeSyncReceive (circ : Nat) (f : FlitIn) (rtt : BitVec 20) : Statement (.timeSyncReceive circ f rtt) := of_event rfl
theorem keySlotLoad (circ : Nat) (outbound : Bool) (slot : Bool) (key : BitVec 256) (salt : BitVec 48) : Statement (.keySlotLoad circ outbound slot key salt) := of_event rfl
theorem circuitRekey (circ : Nat) (outbound : Bool) (key0 key1 : BitVec 256) (salt0 salt1 : BitVec 48) : Statement (.circuitRekey circ outbound key0 key1 salt0 salt1) := of_event rfl
theorem ctrExhaust (circ : Nat) : Statement (.ctrExhaust circ) := of_event rfl
theorem circuitSetup (req : SetupReq) : Statement (.circuitSetup req) := of_event rfl
theorem circuitSetupAck (circ : Nat) (rtt : BitVec 20) : Statement (.circuitSetupAck circ rtt) := of_event rfl
theorem circuitSetupNack (circ : Nat) : Statement (.circuitSetupNack circ) := of_event rfl
theorem circuitSetupRetry (circ : Nat) : Statement (.circuitSetupRetry circ) := of_event rfl
theorem circuitTear (circ : Nat) : Statement (.circuitTear circ) := of_event rfl
theorem circuitIdleTimeout (circ : Nat) : Statement (.circuitIdleTimeout circ) := of_event rfl
theorem circuitFail (circ : Nat) : Statement (.circuitFail circ) := of_event rfl
theorem laneLockLoss (engine : Fin 8) (lane : Fin 16) : Statement (.laneLockLoss engine lane) := of_event rfl
theorem mcuWatchdog (engine : Fin 8) : Statement (.mcuWatchdog engine) := of_event rfl
theorem drift (circ : Nat) (c : DriftCause) : Statement (.drift circ c) := of_event rfl
theorem dieLink (link : Fin 16) : Statement (.dieLink link) := of_event rfl
theorem hdmHostAccess (a : HostAccess) : Statement (.hdmHostAccess a) := of_event rfl
theorem hostApertureAccess (by_ : Requester) (off : Nat) (write : Option (List (BitVec 8))) (len : Nat) : Statement (.hostApertureAccess by_ off write len) := of_event rfl
theorem hostError (e : HostErr) : Statement (.hostError e) := of_event rfl
theorem hostLinkDown : Statement (.hostLinkDown) := of_event rfl
theorem backInvalidateTimeout (ia : Nat) : Statement (.backInvalidateTimeout ia) := of_event rfl
theorem tickTimeout (tid : Nat) : Statement (.tickTimeout tid) := of_event rfl
theorem loadReplyArrival (tid : Nat) : Statement (.loadReplyArrival tid) := of_event rfl
theorem backInvalidateResponse (ia : Nat) : Statement (.backInvalidateResponse ia) := of_event rfl
theorem hostLinkReturn : Statement (.hostLinkReturn) := of_event rfl
theorem powerStateChange (target : PowerState) : Statement (.powerStateChange target) := of_event rfl
theorem powerBudgetLimit (limited : Bool) : Statement (.powerBudgetLimit limited) := of_event rfl
theorem haltNotice : Statement (.haltNotice) := of_event rfl
theorem hardwareFailureFence (u : FenceUnit) : Statement (.hardwareFailureFence u) := of_event rfl
theorem timeSyncSend (circ : Nat) : Statement (.timeSyncSend circ) := of_event rfl

end Sys2Proof.Laws.RoundTrip
end

