-- ==== Sys2Proof/Laws/State.lean ====
section
/-! SUPPORT. What the named updates of the state leave in each field. -/

namespace Sys2Proof.Machine

theorem setStrm_strm (t : Task) (st : Stream) (r : Strm) : (t.setStrm st r).strm st = r := by cases st <;> rfl
@[simp] theorem modStrm_strm (f : Strm → Strm) (s : State) : (modStrm f s).strm = f s.strm := setStrm_strm _ _ _
theorem setStrm_other (t : Task) {st u : Stream} (r : Strm) (h : u ≠ st) : (t.setStrm st r).strm u = t.strm u := by
  cases st <;> cases u <;> first | rfl | exact absurd rfl h
theorem modStrm_strm_other (f : Strm → Strm) (s : State) {st : Stream} (h : st ≠ s.cur) : (modStrm f s).task.strm st = s.task.strm st :=
  setStrm_other _ _ h

@[simp] theorem modStrm_cur (f : Strm → Strm) (s : State) : (modStrm f s).cur = s.cur := rfl
@[simp] theorem modStrm_bg (f : Strm → Strm) (s : State) : (modStrm f s).bg = s.bg := rfl
@[simp] theorem modStrm_agenda (f : Strm → Strm) (s : State) : (modStrm f s).agenda = s.agenda := rfl
@[simp] theorem modStrm_others (f : Strm → Strm) (s : State) : (modStrm f s).others = s.others := rfl
@[simp] theorem modStrm_lastSaved (f : Strm → Strm) (s : State) : (modStrm f s).lastSaved = s.lastSaved := rfl
@[simp] theorem modStrm_tick (f : Strm → Strm) (s : State) : (modStrm f s).tick = s.tick := rfl
@[simp] theorem modStrm_taskSeq (f : Strm → Strm) (s : State) : (modStrm f s).taskSeq = s.taskSeq := rfl
@[simp] theorem modStrm_l1 (f : Strm → Strm) (s : State) : (modStrm f s).l1 = s.l1 := rfl
@[simp] theorem modStrm_cores (f : Strm → Strm) (s : State) : (modStrm f s).cores = s.cores := rfl
@[simp] theorem modStrm_mem (f : Strm → Strm) (s : State) : (modStrm f s).mem = s.mem := rfl
@[simp] theorem modStrm_poison (f : Strm → Strm) (s : State) : (modStrm f s).poison = s.poison := rfl
@[simp] theorem modStrm_homeMap (f : Strm → Strm) (s : State) : (modStrm f s).homeMap = s.homeMap := rfl
@[simp] theorem modStrm_roots (f : Strm → Strm) (s : State) : (modStrm f s).roots = s.roots := rfl
@[simp] theorem modStrm_walks (f : Strm → Strm) (s : State) : (modStrm f s).walks = s.walks := rfl
@[simp] theorem modStrm_noWalks (f : Strm → Strm) (s : State) : (modStrm f s).noWalks = s.noWalks := rfl
@[simp] theorem modStrm_sliceSeq (f : Strm → Strm) (s : State) : (modStrm f s).sliceSeq = s.sliceSeq := rfl
@[simp] theorem modStrm_sliceFenced (f : Strm → Strm) (s : State) : (modStrm f s).sliceFenced = s.sliceFenced := rfl
@[simp] theorem modStrm_frameFenced (f : Strm → Strm) (s : State) : (modStrm f s).frameFenced = s.frameFenced := rfl
@[simp] theorem modStrm_counters (f : Strm → Strm) (s : State) : (modStrm f s).counters = s.counters := rfl
@[simp] theorem modStrm_migCount (f : Strm → Strm) (s : State) : (modStrm f s).migCount = s.migCount := rfl
@[simp] theorem modStrm_held (f : Strm → Strm) (s : State) : (modStrm f s).held = s.held := rfl
@[simp] theorem modStrm_migrating (f : Strm → Strm) (s : State) : (modStrm f s).migrating = s.migrating := rfl
@[simp] theorem modStrm_guardQ (f : Strm → Strm) (s : State) : (modStrm f s).guardQ = s.guardQ := rfl
@[simp] theorem modStrm_commits (f : Strm → Strm) (s : State) : (modStrm f s).commits = s.commits := rfl
@[simp] theorem modStrm_objs (f : Strm → Strm) (s : State) : (modStrm f s).objs = s.objs := rfl
@[simp] theorem modStrm_bodyBase (f : Strm → Strm) (s : State) : (modStrm f s).bodyBase = s.bodyBase := rfl
@[simp] theorem modStrm_tagBase (f : Strm → Strm) (s : State) : (modStrm f s).tagBase = s.tagBase := rfl
@[simp] theorem modStrm_chans (f : Strm → Strm) (s : State) : (modStrm f s).chans = s.chans := rfl
@[simp] theorem modStrm_lighters (f : Strm → Strm) (s : State) : (modStrm f s).lighters = s.lighters := rfl
@[simp] theorem modStrm_aperture (f : Strm → Strm) (s : State) : (modStrm f s).aperture = s.aperture := rfl
@[simp] theorem modStrm_lgos (f : Strm → Strm) (s : State) : (modStrm f s).lgos = s.lgos := rfl
@[simp] theorem modStrm_groups (f : Strm → Strm) (s : State) : (modStrm f s).groups = s.groups := rfl
@[simp] theorem modStrm_damask (f : Strm → Strm) (s : State) : (modStrm f s).damask = s.damask := rfl
@[simp] theorem modStrm_gslots (f : Strm → Strm) (s : State) : (modStrm f s).gslots = s.gslots := rfl
@[simp] theorem modStrm_preemptFail (f : Strm → Strm) (s : State) : (modStrm f s).preemptFail = s.preemptFail := rfl
@[simp] theorem modStrm_victims (f : Strm → Strm) (s : State) : (modStrm f s).victims = s.victims := rfl
@[simp] theorem modStrm_errBase (f : Strm → Strm) (s : State) : (modStrm f s).errBase = s.errBase := rfl
@[simp] theorem modStrm_errCfg (f : Strm → Strm) (s : State) : (modStrm f s).errCfg = s.errCfg := rfl
@[simp] theorem modStrm_errLost (f : Strm → Strm) (s : State) : (modStrm f s).errLost = s.errLost := rfl
@[simp] theorem modStrm_errSeq (f : Strm → Strm) (s : State) : (modStrm f s).errSeq = s.errSeq := rfl
@[simp] theorem modStrm_errHeld (f : Strm → Strm) (s : State) : (modStrm f s).errHeld = s.errHeld := rfl
@[simp] theorem modStrm_frozen (f : Strm → Strm) (s : State) : (modStrm f s).frozen = s.frozen := rfl
@[simp] theorem modStrm_frozenJobs (f : Strm → Strm) (s : State) : (modStrm f s).frozenJobs = s.frozenJobs := rfl
@[simp] theorem modStrm_ceCount (f : Strm → Strm) (s : State) : (modStrm f s).ceCount = s.ceCount := rfl
@[simp] theorem modStrm_syncCfg (f : Strm → Strm) (s : State) : (modStrm f s).syncCfg = s.syncCfg := rfl
@[simp] theorem modStrm_linkCfg (f : Strm → Strm) (s : State) : (modStrm f s).linkCfg = s.linkCfg := rfl
@[simp] theorem modStrm_stopped (f : Strm → Strm) (s : State) : (modStrm f s).stopped = s.stopped := rfl
@[simp] theorem modStrm_pkgnum (f : Strm → Strm) (s : State) : (modStrm f s).pkgnum = s.pkgnum := rfl
@[simp] theorem modStrm_pkgmap (f : Strm → Strm) (s : State) : (modStrm f s).pkgmap = s.pkgmap := rfl
@[simp] theorem modStrm_hwbase (f : Strm → Strm) (s : State) : (modStrm f s).hwbase = s.hwbase := rfl
@[simp] theorem modStrm_idleTime (f : Strm → Strm) (s : State) : (modStrm f s).idleTime = s.idleTime := rfl
@[simp] theorem modStrm_circuits (f : Strm → Strm) (s : State) : (modStrm f s).circuits = s.circuits := rfl
@[simp] theorem modStrm_ports (f : Strm → Strm) (s : State) : (modStrm f s).ports = s.ports := rfl
@[simp] theorem modStrm_engines (f : Strm → Strm) (s : State) : (modStrm f s).engines = s.engines := rfl
@[simp] theorem modStrm_dieLinks (f : Strm → Strm) (s : State) : (modStrm f s).dieLinks = s.dieLinks := rfl
@[simp] theorem modStrm_syncAge (f : Strm → Strm) (s : State) : (modStrm f s).syncAge = s.syncAge := rfl
@[simp] theorem modStrm_synced (f : Strm → Strm) (s : State) : (modStrm f s).synced = s.synced := rfl
@[simp] theorem modStrm_slew (f : Strm → Strm) (s : State) : (modStrm f s).slew = s.slew := rfl
@[simp] theorem modStrm_bootst (f : Strm → Strm) (s : State) : (modStrm f s).bootst = s.bootst := rfl
@[simp] theorem modStrm_fuses (f : Strm → Strm) (s : State) : (modStrm f s).fuses = s.fuses := rfl
@[simp] theorem modStrm_power (f : Strm → Strm) (s : State) : (modStrm f s).power = s.power := rfl
@[simp] theorem modStrm_limited (f : Strm → Strm) (s : State) : (modStrm f s).limited = s.limited := rfl
@[simp] theorem modStrm_halted (f : Strm → Strm) (s : State) : (modStrm f s).halted = s.halted := rfl
@[simp] theorem modStrm_regPend (f : Strm → Strm) (s : State) : (modStrm f s).regPend = s.regPend := rfl
@[simp] theorem modStrm_hdmBase (f : Strm → Strm) (s : State) : (modStrm f s).hdmBase = s.hdmBase := rfl
@[simp] theorem modStrm_hostPend (f : Strm → Strm) (s : State) : (modStrm f s).hostPend = s.hostPend := rfl
@[simp] theorem modStrm_demand (f : Strm → Strm) (s : State) : (modStrm f s).demand = s.demand := rfl
@[simp] theorem modStrm_ctxBase (f : Strm → Strm) (s : State) : (modStrm f s).ctxBase = s.ctxBase := rfl
@[simp] theorem modStrm_ctxAreas (f : Strm → Strm) (s : State) : (modStrm f s).ctxAreas = s.ctxAreas := rfl
@[simp] theorem modStrm_hostUp (f : Strm → Strm) (s : State) : (modStrm f s).hostUp = s.hostUp := rfl
@[simp] theorem modStrm_hostWidth (f : Strm → Strm) (s : State) : (modStrm f s).hostWidth = s.hostWidth := rfl
@[simp] theorem modStrm_hostLines (f : Strm → Strm) (s : State) : (modStrm f s).hostLines = s.hostLines := rfl
@[simp] theorem modStrm_backInval (f : Strm → Strm) (s : State) : (modStrm f s).backInval = s.backInval := rfl
@[simp] theorem modStrm_hostDropped (f : Strm → Strm) (s : State) : (modStrm f s).hostDropped = s.hostDropped := rfl
@[simp] theorem modStrm_hostIrqs (f : Strm → Strm) (s : State) : (modStrm f s).hostIrqs = s.hostIrqs := rfl
@[simp] theorem modStrm_hostSees (f : Strm → Strm) (s : State) : (modStrm f s).hostSees = s.hostSees := rfl
@[simp] theorem modStrm_poisonReturned (f : Strm → Strm) (s : State) : (modStrm f s).poisonReturned = s.poisonReturned := rfl
@[simp] theorem modStrm_aer (f : Strm → Strm) (s : State) : (modStrm f s).aer = s.aer := rfl
@[simp] theorem modStrm_ckpt (f : Strm → Strm) (s : State) : (modStrm f s).ckpt = s.ckpt := rfl
@[simp] theorem modStrm_image (f : Strm → Strm) (s : State) : (modStrm f s).image = s.image := rfl
@[simp] theorem modStrm_free (f : Strm → Strm) (s : State) : (modStrm f s).free = s.free := rfl
@[simp] theorem modStrm_nextTask (f : Strm → Strm) (s : State) : (modStrm f s).nextTask = s.nextTask := rfl
@[simp] theorem modStrm_peers (f : Strm → Strm) (s : State) : (modStrm f s).peers = s.peers := rfl
@[simp] theorem modCur_task (f : Task → Task) (s : State) : (modCur f s).task = f s.task := rfl
@[simp] theorem modCur_cur (f : Task → Task) (s : State) : (modCur f s).cur = s.cur := rfl
@[simp] theorem modCur_bg (f : Task → Task) (s : State) : (modCur f s).bg = s.bg := rfl
@[simp] theorem modCur_agenda (f : Task → Task) (s : State) : (modCur f s).agenda = s.agenda := rfl
@[simp] theorem modCur_others (f : Task → Task) (s : State) : (modCur f s).others = s.others := rfl
@[simp] theorem modCur_lastSaved (f : Task → Task) (s : State) : (modCur f s).lastSaved = s.lastSaved := rfl
@[simp] theorem modCur_tick (f : Task → Task) (s : State) : (modCur f s).tick = s.tick := rfl
@[simp] theorem modCur_taskSeq (f : Task → Task) (s : State) : (modCur f s).taskSeq = s.taskSeq := rfl
@[simp] theorem modCur_l1 (f : Task → Task) (s : State) : (modCur f s).l1 = s.l1 := rfl
@[simp] theorem modCur_cores (f : Task → Task) (s : State) : (modCur f s).cores = s.cores := rfl
@[simp] theorem modCur_mem (f : Task → Task) (s : State) : (modCur f s).mem = s.mem := rfl
@[simp] theorem modCur_poison (f : Task → Task) (s : State) : (modCur f s).poison = s.poison := rfl
@[simp] theorem modCur_homeMap (f : Task → Task) (s : State) : (modCur f s).homeMap = s.homeMap := rfl
@[simp] theorem modCur_roots (f : Task → Task) (s : State) : (modCur f s).roots = s.roots := rfl
@[simp] theorem modCur_walks (f : Task → Task) (s : State) : (modCur f s).walks = s.walks := rfl
@[simp] theorem modCur_noWalks (f : Task → Task) (s : State) : (modCur f s).noWalks = s.noWalks := rfl
@[simp] theorem modCur_sliceSeq (f : Task → Task) (s : State) : (modCur f s).sliceSeq = s.sliceSeq := rfl
@[simp] theorem modCur_sliceFenced (f : Task → Task) (s : State) : (modCur f s).sliceFenced = s.sliceFenced := rfl
@[simp] theorem modCur_frameFenced (f : Task → Task) (s : State) : (modCur f s).frameFenced = s.frameFenced := rfl
@[simp] theorem modCur_counters (f : Task → Task) (s : State) : (modCur f s).counters = s.counters := rfl
@[simp] theorem modCur_migCount (f : Task → Task) (s : State) : (modCur f s).migCount = s.migCount := rfl
@[simp] theorem modCur_held (f : Task → Task) (s : State) : (modCur f s).held = s.held := rfl
@[simp] theorem modCur_migrating (f : Task → Task) (s : State) : (modCur f s).migrating = s.migrating := rfl
@[simp] theorem modCur_guardQ (f : Task → Task) (s : State) : (modCur f s).guardQ = s.guardQ := rfl
@[simp] theorem modCur_commits (f : Task → Task) (s : State) : (modCur f s).commits = s.commits := rfl
@[simp] theorem modCur_objs (f : Task → Task) (s : State) : (modCur f s).objs = s.objs := rfl
@[simp] theorem modCur_bodyBase (f : Task → Task) (s : State) : (modCur f s).bodyBase = s.bodyBase := rfl
@[simp] theorem modCur_tagBase (f : Task → Task) (s : State) : (modCur f s).tagBase = s.tagBase := rfl
@[simp] theorem modCur_chans (f : Task → Task) (s : State) : (modCur f s).chans = s.chans := rfl
@[simp] theorem modCur_lighters (f : Task → Task) (s : State) : (modCur f s).lighters = s.lighters := rfl
@[simp] theorem modCur_aperture (f : Task → Task) (s : State) : (modCur f s).aperture = s.aperture := rfl
@[simp] theorem modCur_lgos (f : Task → Task) (s : State) : (modCur f s).lgos = s.lgos := rfl
@[simp] theorem modCur_groups (f : Task → Task) (s : State) : (modCur f s).groups = s.groups := rfl
@[simp] theorem modCur_damask (f : Task → Task) (s : State) : (modCur f s).damask = s.damask := rfl
@[simp] theorem modCur_gslots (f : Task → Task) (s : State) : (modCur f s).gslots = s.gslots := rfl
@[simp] theorem modCur_preemptFail (f : Task → Task) (s : State) : (modCur f s).preemptFail = s.preemptFail := rfl
@[simp] theorem modCur_victims (f : Task → Task) (s : State) : (modCur f s).victims = s.victims := rfl
@[simp] theorem modCur_errBase (f : Task → Task) (s : State) : (modCur f s).errBase = s.errBase := rfl
@[simp] theorem modCur_errCfg (f : Task → Task) (s : State) : (modCur f s).errCfg = s.errCfg := rfl
@[simp] theorem modCur_errLost (f : Task → Task) (s : State) : (modCur f s).errLost = s.errLost := rfl
@[simp] theorem modCur_errSeq (f : Task → Task) (s : State) : (modCur f s).errSeq = s.errSeq := rfl
@[simp] theorem modCur_errHeld (f : Task → Task) (s : State) : (modCur f s).errHeld = s.errHeld := rfl
@[simp] theorem modCur_frozen (f : Task → Task) (s : State) : (modCur f s).frozen = s.frozen := rfl
@[simp] theorem modCur_frozenJobs (f : Task → Task) (s : State) : (modCur f s).frozenJobs = s.frozenJobs := rfl
@[simp] theorem modCur_ceCount (f : Task → Task) (s : State) : (modCur f s).ceCount = s.ceCount := rfl
@[simp] theorem modCur_syncCfg (f : Task → Task) (s : State) : (modCur f s).syncCfg = s.syncCfg := rfl
@[simp] theorem modCur_linkCfg (f : Task → Task) (s : State) : (modCur f s).linkCfg = s.linkCfg := rfl
@[simp] theorem modCur_stopped (f : Task → Task) (s : State) : (modCur f s).stopped = s.stopped := rfl
@[simp] theorem modCur_pkgnum (f : Task → Task) (s : State) : (modCur f s).pkgnum = s.pkgnum := rfl
@[simp] theorem modCur_pkgmap (f : Task → Task) (s : State) : (modCur f s).pkgmap = s.pkgmap := rfl
@[simp] theorem modCur_hwbase (f : Task → Task) (s : State) : (modCur f s).hwbase = s.hwbase := rfl
@[simp] theorem modCur_idleTime (f : Task → Task) (s : State) : (modCur f s).idleTime = s.idleTime := rfl
@[simp] theorem modCur_circuits (f : Task → Task) (s : State) : (modCur f s).circuits = s.circuits := rfl
@[simp] theorem modCur_ports (f : Task → Task) (s : State) : (modCur f s).ports = s.ports := rfl
@[simp] theorem modCur_engines (f : Task → Task) (s : State) : (modCur f s).engines = s.engines := rfl
@[simp] theorem modCur_dieLinks (f : Task → Task) (s : State) : (modCur f s).dieLinks = s.dieLinks := rfl
@[simp] theorem modCur_syncAge (f : Task → Task) (s : State) : (modCur f s).syncAge = s.syncAge := rfl
@[simp] theorem modCur_synced (f : Task → Task) (s : State) : (modCur f s).synced = s.synced := rfl
@[simp] theorem modCur_slew (f : Task → Task) (s : State) : (modCur f s).slew = s.slew := rfl
@[simp] theorem modCur_bootst (f : Task → Task) (s : State) : (modCur f s).bootst = s.bootst := rfl
@[simp] theorem modCur_fuses (f : Task → Task) (s : State) : (modCur f s).fuses = s.fuses := rfl
@[simp] theorem modCur_power (f : Task → Task) (s : State) : (modCur f s).power = s.power := rfl
@[simp] theorem modCur_limited (f : Task → Task) (s : State) : (modCur f s).limited = s.limited := rfl
@[simp] theorem modCur_halted (f : Task → Task) (s : State) : (modCur f s).halted = s.halted := rfl
@[simp] theorem modCur_regPend (f : Task → Task) (s : State) : (modCur f s).regPend = s.regPend := rfl
@[simp] theorem modCur_hdmBase (f : Task → Task) (s : State) : (modCur f s).hdmBase = s.hdmBase := rfl
@[simp] theorem modCur_hostPend (f : Task → Task) (s : State) : (modCur f s).hostPend = s.hostPend := rfl
@[simp] theorem modCur_demand (f : Task → Task) (s : State) : (modCur f s).demand = s.demand := rfl
@[simp] theorem modCur_ctxBase (f : Task → Task) (s : State) : (modCur f s).ctxBase = s.ctxBase := rfl
@[simp] theorem modCur_ctxAreas (f : Task → Task) (s : State) : (modCur f s).ctxAreas = s.ctxAreas := rfl
@[simp] theorem modCur_hostUp (f : Task → Task) (s : State) : (modCur f s).hostUp = s.hostUp := rfl
@[simp] theorem modCur_hostWidth (f : Task → Task) (s : State) : (modCur f s).hostWidth = s.hostWidth := rfl
@[simp] theorem modCur_hostLines (f : Task → Task) (s : State) : (modCur f s).hostLines = s.hostLines := rfl
@[simp] theorem modCur_backInval (f : Task → Task) (s : State) : (modCur f s).backInval = s.backInval := rfl
@[simp] theorem modCur_hostDropped (f : Task → Task) (s : State) : (modCur f s).hostDropped = s.hostDropped := rfl
@[simp] theorem modCur_hostIrqs (f : Task → Task) (s : State) : (modCur f s).hostIrqs = s.hostIrqs := rfl
@[simp] theorem modCur_hostSees (f : Task → Task) (s : State) : (modCur f s).hostSees = s.hostSees := rfl
@[simp] theorem modCur_poisonReturned (f : Task → Task) (s : State) : (modCur f s).poisonReturned = s.poisonReturned := rfl
@[simp] theorem modCur_aer (f : Task → Task) (s : State) : (modCur f s).aer = s.aer := rfl
@[simp] theorem modCur_ckpt (f : Task → Task) (s : State) : (modCur f s).ckpt = s.ckpt := rfl
@[simp] theorem modCur_image (f : Task → Task) (s : State) : (modCur f s).image = s.image := rfl
@[simp] theorem modCur_free (f : Task → Task) (s : State) : (modCur f s).free = s.free := rfl
@[simp] theorem modCur_nextTask (f : Task → Task) (s : State) : (modCur f s).nextTask = s.nextTask := rfl
@[simp] theorem modCur_peers (f : Task → Task) (s : State) : (modCur f s).peers = s.peers := rfl
@[simp] theorem modStrm_task_status (f : Strm → Strm) (s : State) : (modStrm f s).task.status = s.task.status := by cases h : s.cur <;> simp [modStrm, Task.setStrm, h]
@[simp] theorem modStrm_task_tid (f : Strm → Strm) (s : State) : (modStrm f s).task.tid = s.task.tid := by cases h : s.cur <;> simp [modStrm, Task.setStrm, h]
@[simp] theorem modStrm_task_core (f : Strm → Strm) (s : State) : (modStrm f s).task.core = s.task.core := by cases h : s.cur <;> simp [modStrm, Task.setStrm, h]
@[simp] theorem modStrm_task_slot (f : Strm → Strm) (s : State) : (modStrm f s).task.slot = s.task.slot := by cases h : s.cur <;> simp [modStrm, Task.setStrm, h]
@[simp] theorem modStrm_task_node (f : Strm → Strm) (s : State) : (modStrm f s).task.node = s.task.node := by cases h : s.cur <;> simp [modStrm, Task.setStrm, h]
@[simp] theorem modStrm_task_tile (f : Strm → Strm) (s : State) : (modStrm f s).task.tile = s.task.tile := by cases h : s.cur <;> simp [modStrm, Task.setStrm, h]
@[simp] theorem modStrm_task_step (f : Strm → Strm) (s : State) : (modStrm f s).task.step = s.task.step := by cases h : s.cur <;> simp [modStrm, Task.setStrm, h]
@[simp] theorem modStrm_task_patch (f : Strm → Strm) (s : State) : (modStrm f s).task.patch = s.task.patch := by cases h : s.cur <;> simp [modStrm, Task.setStrm, h]
@[simp] theorem modStrm_task_taskid (f : Strm → Strm) (s : State) : (modStrm f s).task.taskid = s.task.taskid := by cases h : s.cur <;> simp [modStrm, Task.setStrm, h]
@[simp] theorem modStrm_task_speed (f : Strm → Strm) (s : State) : (modStrm f s).task.speed = s.task.speed := by cases h : s.cur <;> simp [modStrm, Task.setStrm, h]
@[simp] theorem modStrm_task_prio (f : Strm → Strm) (s : State) : (modStrm f s).task.prio = s.task.prio := by cases h : s.cur <;> simp [modStrm, Task.setStrm, h]
@[simp] theorem modStrm_task_started (f : Strm → Strm) (s : State) : (modStrm f s).task.started = s.task.started := by cases h : s.cur <;> simp [modStrm, Task.setStrm, h]
@[simp] theorem modStrm_task_v (f : Strm → Strm) (s : State) : (modStrm f s).task.v = s.task.v := by cases h : s.cur <;> simp [modStrm, Task.setStrm, h]
@[simp] theorem modStrm_task_t (f : Strm → Strm) (s : State) : (modStrm f s).task.t = s.task.t := by cases h : s.cur <;> simp [modStrm, Task.setStrm, h]
@[simp] theorem modStrm_task_seedm (f : Strm → Strm) (s : State) : (modStrm f s).task.seedm = s.task.seedm := by cases h : s.cur <;> simp [modStrm, Task.setStrm, h]
@[simp] theorem modStrm_task_lscfg (f : Strm → Strm) (s : State) : (modStrm f s).task.lscfg = s.task.lscfg := by cases h : s.cur <;> simp [modStrm, Task.setStrm, h]
@[simp] theorem modStrm_task_cycles (f : Strm → Strm) (s : State) : (modStrm f s).task.cycles = s.task.cycles := by cases h : s.cur <;> simp [modStrm, Task.setStrm, h]
@[simp] theorem modStrm_task_qs (f : Strm → Strm) (s : State) : (modStrm f s).task.qs = s.task.qs := by cases h : s.cur <;> simp [modStrm, Task.setStrm, h]
@[simp] theorem modStrm_task_q12 (f : Strm → Strm) (s : State) : (modStrm f s).task.q12 = s.task.q12 := by cases h : s.cur <;> simp [modStrm, Task.setStrm, h]
@[simp] theorem modStrm_task_q13 (f : Strm → Strm) (s : State) : (modStrm f s).task.q13 = s.task.q13 := by cases h : s.cur <;> simp [modStrm, Task.setStrm, h]
@[simp] theorem modStrm_task_q14 (f : Strm → Strm) (s : State) : (modStrm f s).task.q14 = s.task.q14 := by cases h : s.cur <;> simp [modStrm, Task.setStrm, h]
@[simp] theorem modStrm_task_q14uses (f : Strm → Strm) (s : State) : (modStrm f s).task.q14uses = s.task.q14uses := by cases h : s.cur <;> simp [modStrm, Task.setStrm, h]
@[simp] theorem modStrm_task_q15 (f : Strm → Strm) (s : State) : (modStrm f s).task.q15 = s.task.q15 := by cases h : s.cur <;> simp [modStrm, Task.setStrm, h]
@[simp] theorem modStrm_task_heldEvents (f : Strm → Strm) (s : State) : (modStrm f s).task.heldEvents = s.task.heldEvents := by cases h : s.cur <;> simp [modStrm, Task.setStrm, h]
@[simp] theorem modStrm_task_k (f : Strm → Strm) (s : State) : (modStrm f s).task.k = s.task.k := by cases h : s.cur <;> simp [modStrm, Task.setStrm, h]
@[simp] theorem modStrm_task_win (f : Strm → Strm) (s : State) : (modStrm f s).task.win = s.task.win := by cases h : s.cur <;> simp [modStrm, Task.setStrm, h]
@[simp] theorem modStrm_task_rings (f : Strm → Strm) (s : State) : (modStrm f s).task.rings = s.task.rings := by cases h : s.cur <;> simp [modStrm, Task.setStrm, h]
@[simp] theorem modStrm_task_ls (f : Strm → Strm) (s : State) : (modStrm f s).task.ls = s.task.ls := by cases h : s.cur <;> simp [modStrm, Task.setStrm, h]
@[simp] theorem modStrm_task_lsPoison (f : Strm → Strm) (s : State) : (modStrm f s).task.lsPoison = s.task.lsPoison := by cases h : s.cur <;> simp [modStrm, Task.setStrm, h]
@[simp] theorem modStrm_task_stash (f : Strm → Strm) (s : State) : (modStrm f s).task.stash = s.task.stash := by cases h : s.cur <;> simp [modStrm, Task.setStrm, h]
@[simp] theorem modStrm_task_bindings (f : Strm → Strm) (s : State) : (modStrm f s).task.bindings = s.task.bindings := by cases h : s.cur <;> simp [modStrm, Task.setStrm, h]
@[simp] theorem modStrm_task_guards (f : Strm → Strm) (s : State) : (modStrm f s).task.guards = s.task.guards := by cases h : s.cur <;> simp [modStrm, Task.setStrm, h]
@[simp] theorem modStrm_task_evmask (f : Strm → Strm) (s : State) : (modStrm f s).task.evmask = s.task.evmask := by cases h : s.cur <;> simp [modStrm, Task.setStrm, h]
@[simp] theorem modStrm_task_fmtDone (f : Strm → Strm) (s : State) : (modStrm f s).task.fmtDone = s.task.fmtDone := by cases h : s.cur <;> simp [modStrm, Task.setStrm, h]
@[simp] theorem modStrm_task_nodeRel (f : Strm → Strm) (s : State) : (modStrm f s).task.nodeRel = s.task.nodeRel := by cases h : s.cur <;> simp [modStrm, Task.setStrm, h]
@[simp] theorem modStrm_task_objs (f : Strm → Strm) (s : State) : (modStrm f s).task.objs = s.task.objs := by cases h : s.cur <;> simp [modStrm, Task.setStrm, h]
@[simp] theorem modStrm_task_jobs (f : Strm → Strm) (s : State) : (modStrm f s).task.jobs = s.task.jobs := by cases h : s.cur <;> simp [modStrm, Task.setStrm, h]
@[simp] theorem modStrm_task_sfn (f : Strm → Strm) (s : State) : (modStrm f s).task.sfn = s.task.sfn := by cases h : s.cur <;> simp [modStrm, Task.setStrm, h]
@[simp] theorem modStrm_task_plans (f : Strm → Strm) (s : State) : (modStrm f s).task.plans = s.task.plans := by cases h : s.cur <;> simp [modStrm, Task.setStrm, h]
@[simp] theorem modStrm_task_rlds (f : Strm → Strm) (s : State) : (modStrm f s).task.rlds = s.task.rlds := by cases h : s.cur <;> simp [modStrm, Task.setStrm, h]
@[simp] theorem modStrm_task_wnext (f : Strm → Strm) (s : State) : (modStrm f s).task.wnext = s.task.wnext := by cases h : s.cur <;> simp [modStrm, Task.setStrm, h]
@[simp] theorem modStrm_task_acks (f : Strm → Strm) (s : State) : (modStrm f s).task.acks = s.task.acks := by cases h : s.cur <;> simp [modStrm, Task.setStrm, h]
@[simp] theorem modStrm_task_sendC (f : Strm → Strm) (s : State) : (modStrm f s).task.sendC = s.task.sendC := by cases h : s.cur <;> simp [modStrm, Task.setStrm, h]
@[simp] theorem modStrm_task_sendS (f : Strm → Strm) (s : State) : (modStrm f s).task.sendS = s.task.sendS := by cases h : s.cur <;> simp [modStrm, Task.setStrm, h]
@[simp] theorem modStrm_task_inbound (f : Strm → Strm) (s : State) : (modStrm f s).task.inbound = s.task.inbound := by cases h : s.cur <;> simp [modStrm, Task.setStrm, h]
@[simp] theorem modStrm_task_block (f : Strm → Strm) (s : State) : (modStrm f s).task.block = s.task.block := by cases h : s.cur <;> simp [modStrm, Task.setStrm, h]
@[simp] theorem modStrm_task_sidelog (f : Strm → Strm) (s : State) : (modStrm f s).task.sidelog = s.task.sidelog := by cases h : s.cur <;> simp [modStrm, Task.setStrm, h]
@[simp] theorem modStrm_task_logWait (f : Strm → Strm) (s : State) : (modStrm f s).task.logWait = s.task.logWait := by cases h : s.cur <;> simp [modStrm, Task.setStrm, h]
@[simp] theorem modStrm_task_logSeq (f : Strm → Strm) (s : State) : (modStrm f s).task.logSeq = s.task.logSeq := by cases h : s.cur <;> simp [modStrm, Task.setStrm, h]
@[simp] theorem modStrm_task_logFull (f : Strm → Strm) (s : State) : (modStrm f s).task.logFull = s.task.logFull := by cases h : s.cur <;> simp [modStrm, Task.setStrm, h]
@[simp] theorem modStrm_task_lstat (f : Strm → Strm) (s : State) : (modStrm f s).task.lstat = s.task.lstat := by cases h : s.cur <;> simp [modStrm, Task.setStrm, h]
@[simp] theorem modStrm_task_watch (f : Strm → Strm) (s : State) : (modStrm f s).task.watch = s.task.watch := by cases h : s.cur <;> simp [modStrm, Task.setStrm, h]
@[simp] theorem modStrm_task_deadline (f : Strm → Strm) (s : State) : (modStrm f s).task.deadline = s.task.deadline := by cases h : s.cur <;> simp [modStrm, Task.setStrm, h]
@[simp] theorem modStrm_task_dlCycles (f : Strm → Strm) (s : State) : (modStrm f s).task.dlCycles = s.task.dlCycles := by cases h : s.cur <;> simp [modStrm, Task.setStrm, h]
@[simp] theorem modStrm_task_stallTicks (f : Strm → Strm) (s : State) : (modStrm f s).task.stallTicks = s.task.stallTicks := by cases h : s.cur <;> simp [modStrm, Task.setStrm, h]
@[simp] theorem modStrm_task_stallDone (f : Strm → Strm) (s : State) : (modStrm f s).task.stallDone = s.task.stallDone := by cases h : s.cur <;> simp [modStrm, Task.setStrm, h]
@[simp] theorem modStrm_task_savedJobs (f : Strm → Strm) (s : State) : (modStrm f s).task.savedJobs = s.task.savedJobs := by cases h : s.cur <;> simp [modStrm, Task.setStrm, h]
@[simp] theorem modStrm_task_savedQueue (f : Strm → Strm) (s : State) : (modStrm f s).task.savedQueue = s.task.savedQueue := by cases h : s.cur <;> simp [modStrm, Task.setStrm, h]
@[simp] theorem modStrm_task_savedProgs (f : Strm → Strm) (s : State) : (modStrm f s).task.savedProgs = s.task.savedProgs := by cases h : s.cur <;> simp [modStrm, Task.setStrm, h]
@[simp] theorem modStrm_task_savedProgQueue (f : Strm → Strm) (s : State) : (modStrm f s).task.savedProgQueue = s.task.savedProgQueue := by cases h : s.cur <;> simp [modStrm, Task.setStrm, h]
@[simp] theorem modStrm_task_bkpt (f : Strm → Strm) (s : State) : (modStrm f s).task.bkpt = s.task.bkpt := by cases h : s.cur <;> simp [modStrm, Task.setStrm, h]
@[simp] theorem modStrm_task_poisoned (f : Strm → Strm) (s : State) : (modStrm f s).task.poisoned = s.task.poisoned := by cases h : s.cur <;> simp [modStrm, Task.setStrm, h]
@[simp] theorem modStrm_task_area (f : Strm → Strm) (s : State) : (modStrm f s).task.area = s.task.area := by cases h : s.cur <;> simp [modStrm, Task.setStrm, h]

@[simp] theorem writeG_cur (n : Fin 32) (v : BitVec 64) (s : State) : (writeG n v s).cur = s.cur := by unfold writeG; split <;> rfl
@[simp] theorem writeG_mem (n : Fin 32) (v : BitVec 64) (s : State) : (writeG n v s).mem = s.mem := by unfold writeG; split <;> rfl
@[simp] theorem writeG_others (n : Fin 32) (v : BitVec 64) (s : State) : (writeG n v s).others = s.others := by unfold writeG; split <;> rfl
@[simp] theorem writeG_image (n : Fin 32) (v : BitVec 64) (s : State) : (writeG n v s).image = s.image := by unfold writeG; split <;> rfl
@[simp] theorem writeG_objs (n : Fin 32) (v : BitVec 64) (s : State) : (writeG n v s).objs = s.objs := by unfold writeG; split <;> rfl
@[simp] theorem writeG_held (n : Fin 32) (v : BitVec 64) (s : State) : (writeG n v s).held = s.held := by unfold writeG; split <;> rfl
@[simp] theorem writeG_groups (n : Fin 32) (v : BitVec 64) (s : State) : (writeG n v s).groups = s.groups := by unfold writeG; split <;> rfl
@[simp] theorem writeG_gslots (n : Fin 32) (v : BitVec 64) (s : State) : (writeG n v s).gslots = s.gslots := by unfold writeG; split <;> rfl
@[simp] theorem writeP_cur (n : Fin 8) (v : BitVec 64) (s : State) : (writeP n v s).cur = s.cur := by unfold writeP; split <;> rfl
@[simp] theorem writeP_mem (n : Fin 8) (v : BitVec 64) (s : State) : (writeP n v s).mem = s.mem := by unfold writeP; split <;> rfl
@[simp] theorem writeP_others (n : Fin 8) (v : BitVec 64) (s : State) : (writeP n v s).others = s.others := by unfold writeP; split <;> rfl
@[simp] theorem writeP_image (n : Fin 8) (v : BitVec 64) (s : State) : (writeP n v s).image = s.image := by unfold writeP; split <;> rfl
@[simp] theorem writeP_objs (n : Fin 8) (v : BitVec 64) (s : State) : (writeP n v s).objs = s.objs := by unfold writeP; split <;> rfl
@[simp] theorem writeP_held (n : Fin 8) (v : BitVec 64) (s : State) : (writeP n v s).held = s.held := by unfold writeP; split <;> rfl
@[simp] theorem writeP_groups (n : Fin 8) (v : BitVec 64) (s : State) : (writeP n v s).groups = s.groups := by unfold writeP; split <;> rfl
@[simp] theorem writeP_gslots (n : Fin 8) (v : BitVec 64) (s : State) : (writeP n v s).gslots = s.gslots := by unfold writeP; split <;> rfl
@[simp] theorem raiseS_cur (r : FlagSet) (s : State) : (raiseS r s).cur = s.cur := rfl
@[simp] theorem raiseS_mem (r : FlagSet) (s : State) : (raiseS r s).mem = s.mem := rfl
@[simp] theorem raiseS_others (r : FlagSet) (s : State) : (raiseS r s).others = s.others := rfl
@[simp] theorem raiseS_image (r : FlagSet) (s : State) : (raiseS r s).image = s.image := rfl
@[simp] theorem raiseS_objs (r : FlagSet) (s : State) : (raiseS r s).objs = s.objs := rfl
@[simp] theorem raiseS_held (r : FlagSet) (s : State) : (raiseS r s).held = s.held := rfl
@[simp] theorem raiseS_groups (r : FlagSet) (s : State) : (raiseS r s).groups = s.groups := rfl
@[simp] theorem raiseS_gslots (r : FlagSet) (s : State) : (raiseS r s).gslots = s.gslots := rfl
@[simp] theorem setWait_cur (w : Wait) (s : State) : (setWait w s).cur = s.cur := rfl
@[simp] theorem setWait_mem (w : Wait) (s : State) : (setWait w s).mem = s.mem := rfl
@[simp] theorem setWait_others (w : Wait) (s : State) : (setWait w s).others = s.others := rfl
@[simp] theorem setWait_image (w : Wait) (s : State) : (setWait w s).image = s.image := rfl
@[simp] theorem setWait_objs (w : Wait) (s : State) : (setWait w s).objs = s.objs := rfl
@[simp] theorem setWait_held (w : Wait) (s : State) : (setWait w s).held = s.held := rfl
@[simp] theorem setWait_groups (w : Wait) (s : State) : (setWait w s).groups = s.groups := rfl
@[simp] theorem setWait_gslots (w : Wait) (s : State) : (setWait w s).gslots = s.gslots := rfl

theorem readG_writeG (n m : Fin 32) (v : BitVec 64) (s : State) (hn : n ≠ 0) :
    (writeG n v s).readG m = if m = n then v else s.readG m := by
  by_cases h : m = n
  · subst h; simp [State.readG, writeG, hn]
  · by_cases hm : m = 0
    · simp [State.readG, hm, Ne.symm hn]
    · have : n.val ≠ m.val := fun e => h (Fin.ext e.symm)
      simp [State.readG, writeG, hn, hm, h, this]

theorem readP_writeP (n m : Fin 8) (v : BitVec 64) (s : State) (hn : n ≠ 0) :
    (writeP n v s).readP m = if m = n then v else s.readP m := by
  by_cases h : m = n
  · subst h; simp [State.readP, writeP, hn]
  · by_cases hm : m = 0
    · simp [State.readP, hm, Ne.symm hn]
    · have : n.val ≠ m.val := fun e => h (Fin.ext e.symm)
      simp [State.readP, writeP, hn, hm, h, this]

/-- A write to g0 or to p0 is discarded (R50, R51). -/
@[simp] theorem writeG_zero (v : BitVec 64) (s : State) : writeG 0 v s = s := rfl
@[simp] theorem writeP_zero (v : BitVec 64) (s : State) : writeP 0 v s = s := rfl
@[simp] theorem readG_zero (s : State) : s.readG 0 = 0 := rfl
@[simp] theorem readP_zero (s : State) : s.readP 0 = BitVec.allOnes 64 := rfl

/-- A vector register read after a write. -/
theorem readV_writeV (n m : Fin 32) (v : BitVec 2048) (s : State) :
    (writeV n v s).readV m = if m = n then v else s.readV m := by
  by_cases h : m = n
  · subst h; simp [State.readV, writeV]
  · have : n.val ≠ m.val := fun e => h (Fin.ext e.symm)
    simp [State.readV, writeV, h, this]

end Sys2Proof.Machine
end

