-- ==== Sys2Proof/Laws/Shared.lean ====
section
/-! SUPPORT. The matrix words' draw and rings, an instruction's own signal, residence slots, and the current task. -/

namespace Sys2Proof.Machine

@[simp] theorem advanceSeedM_eq (sel : Nat × Nat) (s : State) : advanceSeedM sel s = .ok (drawnM sel s, advancedM sel s) := by
  simp only [advanceSeedM, drawnM, advancedM]; split <;> rfl
theorem finishFlow_ownSignal (op k : BitVec 8) (n : Nat) (s0 s : State) : finishFlow op s0 (ownSignal k n s) = signalled op k n s := by
  simp only [ownSignal, signalled]; split <;> simp_all [finishFlow]
/-- Rings are popped once the task's writes are performed (R123, R438, R439). -/
theorem popRings_eq (rs) {s : State} (h : MayPop rs s) : popRings rs s = .ok ((), popped rs s) := by
  unfold popRings
  split
  · next hp =>
    obtain ⟨h1, h2⟩ := h hp
    simp [gateLog, popped, h1, h2]
  · simp [popped]

theorem sketchSignal_eq (f : EForm) (s : State) : sketchSignal f s = .ok ((), agentSignal { mkind := 6, unit := 0, stream := 3 } s.task.tid s.task.tid f.ssem f.sinc.toNat s) := rfl

theorem ok_bind {α β : Type} {x : M α} {f : α → M β} {s : State} {r : β × State}
    (h : (x >>= f) s = .ok r) : ∃ a t, x s = .ok (a, t) ∧ f a t = .ok r := by
  cases hx : x s with
  | error e => simp [bind, StateT.bind, hx, Except.bind] at h
  | ok p => exact ⟨p.1, p.2, rfl, by simpa [bind, StateT.bind, hx, Except.bind] using h⟩
theorem getSlot_modSlot (s : State) (n : Fin 64) (f : GSlot → GSlot) : getSlot (modSlot n.val f s) n.val = f (getSlot s n.val) := by
  simp [getSlot, modSlot]
theorem getSlot_modSlot_ne (s : State) (n k : Fin 64) (f : GSlot → GSlot) (h : k ≠ n) : getSlot (modSlot n.val f s) k.val = getSlot s k.val := by
  simp [getSlot, modSlot]
  rw [Vector.getElem_set_ne]
  intro h'; exact h (Fin.ext h'.symm)
theorem modSlot_modSlot (s : State) (n : Fin 64) (f g : GSlot → GSlot) : modSlot n.val g (modSlot n.val f s) = modSlot n.val (fun x => g (f x)) s := by
  simp [modSlot]
theorem modTask_cur (s : State) (f : Task → Task) (h : s.task.status ≠ .vacant) : modTask s.task.tid f s = modCur f s := by
  simp [modTask, modCur, h]

theorem took_ls (o : Operand) (s : State) : (took o s).task.ls = s.task.ls := by
  cases o <;> simp only [took, modCur]
  unfold Task.dropQ Task.setScalarQ
  repeat' split
  all_goals rfl
theorem took_lscfg (o : Operand) (s : State) : (took o s).task.lscfg = s.task.lscfg := by
  cases o <;> simp only [took, modCur]
  unfold Task.dropQ Task.setScalarQ
  repeat' split
  all_goals rfl
theorem took_rings (o : Operand) (s : State) : (took o s).task.rings = s.task.rings := by
  cases o <;> simp only [took, modCur]
  unfold Task.dropQ Task.setScalarQ
  repeat' split
  all_goals rfl
theorem took_stash (o : Operand) (s : State) : (took o s).task.stash = s.task.stash := by
  cases o <;> simp only [took, modCur]
  unfold Task.dropQ Task.setScalarQ
  repeat' split
  all_goals rfl
theorem took_k (o : Operand) (s : State) : (took o s).task.k = s.task.k := by
  cases o <;> simp only [took, modCur]
  unfold Task.dropQ Task.setScalarQ
  repeat' split
  all_goals rfl
theorem took_win (o : Operand) (s : State) : (took o s).task.win = s.task.win := by
  cases o <;> simp only [took, modCur]
  unfold Task.dropQ Task.setScalarQ
  repeat' split
  all_goals rfl
theorem took_status (o : Operand) (s : State) : (took o s).task.status = s.task.status := by
  cases o <;> simp only [took, modCur]
  unfold Task.dropQ Task.setScalarQ
  repeat' split
  all_goals rfl
theorem took_tid (o : Operand) (s : State) : (took o s).task.tid = s.task.tid := by
  cases o <;> simp only [took, modCur]
  unfold Task.dropQ Task.setScalarQ
  repeat' split
  all_goals rfl
theorem took_logWait (o : Operand) (s : State) : (took o s).task.logWait = s.task.logWait := by
  cases o <;> simp only [took, modCur]
  unfold Task.dropQ Task.setScalarQ
  repeat' split
  all_goals rfl
theorem took_mem (o : Operand) (s : State) : (took o s).mem = s.mem := by cases o <;> rfl
theorem took_others (o : Operand) (s : State) : (took o s).others = s.others := by cases o <;> rfl
theorem took_cur (o : Operand) (s : State) : (took o s).cur = s.cur := by cases o <;> rfl
theorem took_held (o : Operand) (s : State) : (took o s).held = s.held := by cases o <;> rfl
theorem took_hostLines (o : Operand) (s : State) : (took o s).hostLines = s.hostLines := by cases o <;> rfl
theorem took_tick (o : Operand) (s : State) : (took o s).tick = s.tick := by cases o <;> rfl
theorem took_image (o : Operand) (s : State) : (took o s).image = s.image := by cases o <;> rfl
theorem took_l1 (o : Operand) (s : State) : (took o s).l1 = s.l1 := by cases o <;> rfl

/-- What a held word gives back leaves the streams and the name of the task. -/
theorem Task.unpop_strm (l : List (Option Nat × BitVec 64)) (t : Task) (st : Stream) : (t.unpop l).strm st = t.strm st := by
  induction l with
  | nil => rfl
  | cons x l ih =>
    rw [show Task.unpop (x :: l) t = (match x.1 with
      | some q => (t.unpop l).setScalarQ q (x.2 :: (t.unpop l).scalarQ q)
      | none => t.unpop l) from rfl]
    split
    · rw [← ih]; simp only [Task.setScalarQ]; split
      · rfl
      · split <;> rfl
    · exact ih
theorem Task.unpop_tid (l : List (Option Nat × BitVec 64)) (t : Task) : (t.unpop l).tid = t.tid := by
  induction l with
  | nil => rfl
  | cons x l ih =>
    rw [show Task.unpop (x :: l) t = (match x.1 with
      | some q => (t.unpop l).setScalarQ q (x.2 :: (t.unpop l).scalarQ q)
      | none => t.unpop l) from rfl]
    split
    · rw [← ih]; simp only [Task.setScalarQ]; split
      · rfl
      · split <;> rfl
    · exact ih

/-- A trap's refund leaves the turn, the task's name and the stream's trap section (R157, R422). -/
theorem refundWait_keeps (s : State) :
    (refundWait s).cur = s.cur ∧ (refundWait s).task.tid = s.task.tid ∧ (refundWait s).strm.trapsec = s.strm.trapsec := by
  have h1 : ∀ (l : List (Option Nat × BitVec 64)), (modStrm (fun r => { r with srcs := none }) (modCur (fun t => t.unpop l) s)).cur = s.cur
      ∧ (modStrm (fun r => { r with srcs := none }) (modCur (fun t => t.unpop l) s)).task.tid = s.task.tid
      ∧ (modStrm (fun r => { r with srcs := none }) (modCur (fun t => t.unpop l) s)).strm.trapsec = s.strm.trapsec := by
    intro l
    have h := Task.unpop_strm l s.task s.cur
    have h2 := Task.unpop_tid l s.task
    cases hc : s.cur <;> simp_all [modStrm, modCur, State.strm, Task.strm, Task.setStrm]
  have h2 : ∀ (u : State) (w : SemWait), (modStrm (fun r => { r with semw := none })
      (modCur (fun t => { t with k := t.k.set w.k.toNat (BitVec.ofNat 32 (t.sem w.k + w.thr)) (w.k.isLt) }) u)).cur = u.cur
      ∧ (modStrm (fun r => { r with semw := none })
      (modCur (fun t => { t with k := t.k.set w.k.toNat (BitVec.ofNat 32 (t.sem w.k + w.thr)) (w.k.isLt) }) u)).task.tid = u.task.tid
      ∧ (modStrm (fun r => { r with semw := none })
      (modCur (fun t => { t with k := t.k.set w.k.toNat (BitVec.ofNat 32 (t.sem w.k + w.thr)) (w.k.isLt) }) u)).strm.trapsec = u.strm.trapsec := by
    intro u w
    cases hc : u.cur <;> simp_all [modStrm, modCur, State.strm, Task.strm, Task.setStrm]
  have h3 : ∀ u : State, (u.cur = s.cur ∧ u.task.tid = s.task.tid ∧ u.strm.trapsec = s.strm.trapsec) →
      let v := match u.strm.semw with
        | some w => if w.granted ∧ w.consume then modStrm (fun r => { r with semw := none })
            (modCur (fun t => { t with k := t.k.set w.k.toNat (BitVec.ofNat 32 (t.sem w.k + w.thr)) (w.k.isLt) }) u) else u
        | none => u
      v.cur = s.cur ∧ v.task.tid = s.task.tid ∧ v.strm.trapsec = s.strm.trapsec := by
    intro u hu
    dsimp only
    split
    · split
      · simpa only [h2] using hu
      · exact hu
    · exact hu
  unfold refundWait
  apply h3
  split
  · exact h1 _
  · exact ⟨rfl, rfl, rfl⟩

end Sys2Proof.Machine
end

