-- ==== Sys2Proof/Laws/Vector.lean ====
section
/-! SUPPORT. What reading and writing the operands of a vector word does, and the words that compute lane by lane. -/

namespace Sys2Proof.Machine

@[simp] theorem readVSrc_eq (o : Operand) (s : State) :
    readVSrc o s = .ok (match o with | .v n => s.readV n | .q n => s.task.headQ n.val | _ => 0, took o s) := by
  cases o <;> rfl

@[simp] theorem writeVDst_eq (o : Operand) (v : BitVec 2048) (s : State) : writeVDst o v s = .ok ((), putV o v s) := by
  cases o <;> rfl

@[simp] theorem readElems_eq (w : Nat) (o : Operand) (s : State) : readElems w o s = .ok (elemsOf w o s, took o s) := by
  cases o <;> simp [readElems, elemsOf, took]
  split <;> simp_all [took]

@[simp] theorem readElemsB_eq (w : Nat) (f : VForm) (s : State) : readElemsB w f s = .ok (elemsB w f s, tookVB f s) := by
  simp only [readElemsB, elemsB, tookVB]
  split <;> simp

@[simp] theorem readAbc_eq (f : VForm) (w : Nat) (ub uc : Bool) (s : State) :
    readAbc f w ub uc s = .ok (elemsAbc f w ub uc s, tookAbc f ub uc s) := by
  cases ub <;> cases uc <;> simp [readAbc, elemsAbc, tookAbc]

@[simp] theorem readIndex_eq (f : VForm) (s : State) :
    readIndex f s = .ok (if f.immb then f.imm.toNat else (s.peekSrc f.b).toNat, tookVB f s) := by
  simp only [readIndex, tookVB]
  split <;> simp

@[simp] theorem putElems_eq (f : VForm) (w : Nat) (xs : List (Option Nat)) (s : State) :
    putElems f w xs s = .ok ((), putV f.d (vecOf w (merged f w xs s)) s) := by
  simp [putElems, merged]

@[simp] theorem putLanes_eq (f : VForm) (w : Nat) (act : List Bool) (rs : List (Nat × FlagSet)) (s : State) :
    putLanes f w act rs s = .ok ((), lanesDone f w act rs s) := by
  simp only [putLanes, bind_eq, raise_eq, putElems_eq, lanesDone, laneFlags, List.map_map]
  congr 6
  funext x
  cases h : x.1 <;> simp [h]

@[simp] theorem putMoved_eq (f : VForm) (w : Nat) (xs : List Nat) (s : State) :
    putMoved f w xs s = .ok ((), lanesDone f w (activeOf (s.maskOf f) w) (quiet xs) s) := by
  simp [putMoved]

@[simp] theorem laneCtx_eq (f : VForm) (w : Nat) (s : State) : laneCtx f w s = .ok (ctxOf f w s, ctxState f s) := by
  simp [laneCtx, ctxOf, ctxState]

theorem vGate_eq {f : VForm} {s : State} (h : Ready [f.a, f.b, f.c] [f.d] s) : vGate f s = .ok ((), s) := gate_eq h

/-- A lane-wise arithmetic word. -/
theorem laneBody_eq {f : VForm} {s : State} {op : BitVec 8} (h : Ready [f.a, f.b, f.c] [f.d] s) (ub uc : Bool) (g : LaneOp) :
    finishFlow op s (laneBody f ub uc g s) = laneWord f ub uc (fun c => laneElem f c g) s := by
  simp only [laneBody, bind_eq, vGate_eq h, readAbc_eq, laneCtx_eq, laneWord]
  cases (immSignals f && (ctxOf f (vWidth f.ty.toNat) (tookAbc f ub uc s)).act.any id) <;> simp

end Sys2Proof.Machine
end

