-- ==== Sys2Proof/Tests/Slice0.lean ====
section
/-! SUPPORT. Tests: words of the spec and their decoding, ill-formed terms, single steps, and for every statement with
hypotheses a state and operands that meet them, clause by clause. -/

namespace Sys2Proof.Tests
set_option maxRecDepth 100000
set_option Elab.async false
set_option exponentiation.threshold 2048
open Sys2Proof Sys2Proof.Machine

/-- PRED (p0). -/
def always : Pred := ⟨false, 0⟩
/-- PRED (!p0). -/
def never : Pred := ⟨true, 0⟩
/-- Words of each form with every other field zero. -/
def alu (ty : BitVec 5) (d a b : Operand) : RAlu := ⟨always, d, a, b, .g 0, 0, false, false, 0, 0, ty, 0⟩
def sysw (d a b c : Operand) : RSys := ⟨always, d, a, b, c, 0, 0, 0, false, 0, 0, 0⟩
def ifm (d a : Operand) (imm : BitVec 64) : IForm := ⟨always, d, a, imm⟩
def memw (d base index : Operand) (size : BitVec 3) : MForm :=
  ⟨always, d, base, index, 0, size, 0, false, 0, 0, 0, 0, false, false, 0⟩
def ew (a b : Operand) : EForm := ⟨always, 0, 0, 0, 0, 0, 0, a, b, false, 0, 0⟩
def vw (ty : BitVec 5) (d a b : Operand) : VForm := ⟨always, d, a, b, .g 0, 0, ty, 0, false, false, false, 0, 0, 0⟩

/-- A resident task 0 on core 0, in a stream, with every register zero. -/
def at_ (st : Stream) : State := { State.reset with cur := st, task := { Task.init with status := .resident } }

/-- Whether a computation succeeds. -/
def okE {ε α : Type} (x : Except ε α) : Bool := match x with
  | .ok _ => true
  | .error _ => false

theorem okE_ok {ε α : Type} {x : Except ε α} (h : okE x = true) : ∃ a, x = .ok a := by
  cases x with
  | ok a => exact ⟨a, rfl⟩
  | error e => exact absurd h (by simp [okE])

theorem ok1 {α : Type} {x : M α} {s : State} (h : okE (x s) = true) : ∃ a t, x s = .ok (a, t) :=
  match okE_ok h with
  | ⟨(a, t), e⟩ => ⟨a, t, e⟩

theorem ok2 {α β : Type} {x : M α} {f : α → M β} {s : State} (h : okE ((x >>= f) s) = true) :
    ∃ a t b u, x s = .ok (a, t) ∧ f a t = .ok (b, u) := by
  obtain ⟨⟨b, u⟩, e⟩ := okE_ok h
  obtain ⟨a, t, h1, h2⟩ := ok_bind e
  exact ⟨a, t, b, u, h1, h2⟩

/-- The state a computation ends in. -/
def after {α : Type} (x : M α) (s : State) : State := match x s with
  | .ok (_, t) => t
  | .error _ => s

theorem okv {α : Type} {x : M α} {s : State} {w : α} (h : (x s).toOption.map Prod.fst = some w) : x s = .ok (w, after x s) := by
  unfold after
  cases e : x s with
  | ok p => rw [e] at h; cases p; cases h; rfl
  | error e' => rw [e] at h; cases h

/-- Page 0 of the package mapped on die 0, and window w0 over it with every right. -/
def mapped (st : Stream) : State :=
  let s := at_ st
  { s with
    task := { s.task with win := s.task.win.set 0 { Window.init with limit := 15, v := true, x := true, a := true, w := true, r := true } }
    homeMap := [(0, 0#4)], walks := [⟨0, 0, 0, 0x10000, false, false⟩] }

/-- An object named by a VA of window w0 in this package (its parts, which a kernel evaluates). -/
theorem names_of {s : State} {win size align ia : Nat} {va : BitVec 64} {right : Right}
    (h : (decide (va.toNat % align = 0) && (translate (s.window win) va.toNat size right == .ok ia) && s.present (iaPkg ia)
      && decide (iaOff ia < deviceSpan) && decide (iaPkg ia = s.pkg)) = true) : NamesObject win va size align right ia s := by
  simp only [Bool.and_eq_true, decide_eq_true_eq, beq_iff_eq] at h
  exact ⟨h.1.1.1.1, h.1.1.1.2, h.1.1.2, h.1.2, .inl h.2⟩

/-- With no poisoned word the local store reads clean. -/
theorem clean_rows {s : State} (h : s.task.lsPoison = []) (a b c d : Nat) : lsCleanRows a b c d s = .ok ((), s) := by
  simp [lsCleanRows, Task.lsBadRow, h]

/-- General register n of the current stream set. -/
def setG (n : Nat) (v : BitVec 64) (s : State) : State := writeG (Fin.ofNat 32 n) v s

/-- An object that the task lists and the table holds. -/
def withObj (idx : BitVec 16) (kind : BitVec 8) (body : Nat) (s : State) : State :=
  modCur (fun t => { t with objs := (idx, kind) :: t.objs }) { s with objs := ⟨idx, kind, BitVec.ofNat 512 body⟩ :: s.objs }

/-! Words that the spec prints, and what each is printed for. -/

/-- 07, 08 and 21: a comparison, an addition and a branch. -/
theorem test_decode_common :
    decode 0x1806_2E00_0000_5007_0000_0000#96 = .ok (.cmp { alu 7 (.p 1) (.sp .tile) (.g 0) with sub := 1, immb := true })
    ∧ decode 0x0387_00C2_0000_0003_0000_0000#96 = .ok (.add { alu 3 (.sp .tile) (.g 3) (.g 4) with pred := never })
    ∧ decode 0x2000_610C_0000_FFFF_FFFF_FFFB#96 = .ok (.brc ⟨always, .g 3, .g 4, 3#4, -5#48⟩) := by decide +kernel

/-- 08 and 21: the words for semaphores. -/
theorem test_decode_semaphores :
    decode 0x2800_5000_2800_0000_0000_0000#96 = .ok (.swait { ew (.g 0) (.g 0) with wsem := 5, wthr := 2, wmode := 2 })
    ∧ decode 0x2700_0000_0024_00C0_0000_0000#96 = .ok (.ssig { ew (.g 0) (.g 0) with ssem := 9, sinc := 3 })
    ∧ decode 0x2700_0000_0024_00C0_0000_0080#96 = .error .reservedEForm := by decide +kernel

/-- 13, 14, 17, 18: the words for graphs, groups and Damask. -/
theorem test_decode_control :
    decode 0x4000_0000_0018_0040_8002_0500#96 = .ok (.gstart { ew (.g 4) (.g 5) with ssem := 6, sinc := 1, obj := 0x200 })
    ∧ decode 0x4700_3000_1410_0040_1401_0401#96 =
      .ok (.gred { ew (.g 2) (.g 4) with obj := 0x50, wsem := 3, wthr := 1, wmode := 1, ssem := 4, sinc := 1, sub := 1 })
    ∧ decode 0x5000_2000_1428_0040_0800_0000#96 =
      .ok (.xpbgo { ew (.g 0) (.g 0) with wsem := 2, wthr := 1, wmode := 1, ssem := 10, sinc := 1, obj := 0x20 })
    ∧ decode 0x5000_2000_1400_0000_0C00_0000#96 = .ok (.xpbgo { ew (.g 0) (.g 0) with wsem := 2, wthr := 1, wmode := 1, obj := 0x30 }) := by
  decide +kernel

/-- 08 and 21: the words for loads. -/
theorem test_decode_loads :
    decode 0x6000_E102_A480_4000_0000_0010#96 =
      .ok (.ld { memw (.g 7) (.g 4) (.g 5) 2 with win := 2, scale := 2, opk := 1, disp := 16 })
    ∧ decode 0x6020_C000_3600_0000_0000_0010#96 = .ok (.ld { memw (.g 6) (.g 0) (.g 0) 3 with pred := ⟨false, 2⟩, win := 3, disp := 16 }) := by
  decide +kernel

/-- 09, 19 and 21: the words for vectors. -/
theorem test_decode_vectors :
    decode 0x8108_5002_8009_0000_0000_0000#96 = .ok (.vsub (vw 9 (.v 2) (.v 0) (.g 5)))
    ∧ decode 0xAC08_5080_0009_0000_0000_0000#96 = .ok (.vsfn (vw 9 (.v 2) (.v 2) (.g 0)))
    ∧ decode 0x8208_90A1_8069_0100_0000_0000#96 = .ok (.vmul { vw 9 (.v 4) (.v 2) (.v 3) with mask := 3, zm := true })
    ∧ decode 0x9A08_B000_0009_2C1C_0000_0001#96 = .ok (.vcvt { vw 9 (.v 5) (.v 0) (.g 0) with sub := 0xB, rm := 4, rbm1 := 3, imm := 1 })
    ∧ decode 0x9708_F1A2_9006_0000_0000_0000#96 = .ok (.vfshr { vw 6 (.v 7) (.v 6) (.v 5) with c := .g 16 })
    ∧ decode 0x9608_F163_1206_0000_0000_0000#96 = .ok (.vfshl { vw 6 (.v 7) (.v 5) (.v 6) with c := .g 18 })
    ∧ decode 0x8008_30A1_8009_0000_0000_0000#96 = .ok (.vadd (vw 9 (.v 1) (.v 2) (.v 3))) := by decide +kernel

/-- 10 and 17: the words of the matrix and the transform unit. -/
theorem test_decode_matrix :
    decode 0xC00C_0000_0026_0001_0000_0000#96 = .ok (.mma { sysw (.t 0) (.g 0) (.g 0) (.g 0) with ring1 := 8, ring2 := 9, sub := 1 })
    ∧ decode 0xC600_0000_001C_0040_04B0_8601#96 = .ok (.drain { ew (.t 1) (.g 6) with ssem := 7, sinc := 1, obj := 0x12, sub := 1 })
    ∧ decode 0xCB00_0102_8002_0000_0000_0000#96 = .ok (.fftrun { sysw (.g 0) (.g 4) (.g 5) (.g 0) with ring1 := 8 }) := by decide +kernel

/-- 07, 11, 18, 19 and 25: the words of the S stream. -/
theorem test_decode_stores :
    decode 0xD010_C100_1600_0200_0000_0008#96 =
      .ok (.st { memw (.g 6) (.g 4) (.g 0) 3 with pred := ⟨false, 1⟩, win := 1, tag := true, disp := 8 })
    ∧ decode 0xD501_2104_1602_0200_0000_0000#96 = .ok (.amo { memw (.g 9) (.g 4) (.g 8) 3 with win := 1, opk := 8, tag := true })
    ∧ decode 0xD500_6183_A602_4000_0000_0020#96 = .ok (.amo { memw (.g 3) (.g 6) (.g 7) 3 with win := 2, opk := 9, disp := 0x20 })
    ∧ decode 0xD205_A103_9E00_0000_0000_0000#96 = .ok (.stv { memw (.q 13) (.g 4) (.g 7) 7 with win := 1 })
    ∧ decode 0xD900_0000_0030_0040_0C42_0500#96 = .ok (.skupd { ew (.g 4) (.g 5) with ssem := 12, sinc := 1, obj := 0x31 })
    ∧ decode 0xDA00_0000_0000_0000_1405_8A00#96 = .ok (.skqry { ew (.g 11) (.g 10) with obj := 0x50 })
    ∧ decode 0xDD02_23C8_0C10_C009_0000_0004#96 = .ok (.uop { alu 9 (.g 17) (.g 15) (.g 16) with c := .g 12, sub := 0x43, imm := 4 })
    ∧ decode 0xDF00_8000_1400_0000_000D_1B01#96 = .ok (.nfchk { ew (.g 26) (.g 27) with wsem := 8, wthr := 1, wmode := 1, sub := 1 })
    ∧ decode 0xE205_A083_9E00_0200_0000_0000#96 = .ok (.rstv { memw (.q 13) (.g 2) (.g 7) 7 with win := 1, tag := true })
    ∧ decode 0xB880_0000_0000_0000_0000_0000#96 = .ok (.unassignedOpcode 0xB8#8 0x80_0000_0000_0000_0000_0000#88) := by decide +kernel

/-- Table 21.2, R174: a term for each check that the check refuses, beside one it takes. -/
theorem test_ill_formed :
    (Instr.ld (memw (.g 1) (.g 2) (.g 0) 3)).wf = true
    ∧ (Instr.ld (memw (.g 1) (.g 2) (.g 0) 5)).wf = false ∧ (Instr.ld (memw (.g 1) (.g 2) (.g 0) 6)).wf = false
    ∧ (Instr.ld { memw (.g 1) (.g 2) (.g 0) 3 with hint := 3 }).wf = false
    ∧ (Instr.swait { ew (.g 0) (.g 0) with wmode := 2 }).wf = true ∧ (Instr.swait { ew (.g 0) (.g 0) with wmode := 3 }).wf = false
    ∧ (Instr.qtry { sysw (.g 0) (.q 0) (.p 1) (.g 0) with sub := 1 }).wf = false ∧ (Instr.qtryPush (sysw (.q 0) (.g 0) (.p 1) (.g 0))).wf = false
    ∧ (Instr.unassignedOpcode 0x03 0).wf = false ∧ (Instr.unassignedOpcode 0xE8 0).wf = true ∧ Instr.haltNotice.wf = false := by
  decide +kernel

/-- What a word does to a general register. -/
def regAfter (i : Instr) (n : Fin 32) (s : State) : Option (BitVec 64) := match exec i s with
  | .next t => some (t.readG n)
  | _ => none

/-- R158: 0x7FFFFFFF + 1 of .i32 wraps to the most negative number, and with SAT stays. -/
theorem test_add_wraps :
    let s := setG 2 0x7FFFFFFF (setG 3 1 (at_ .c))
    regAfter (.add (alu 2 (.g 1) (.g 2) (.g 3))) 1 s = some 0xFFFFFFFF80000000
    ∧ regAfter (.add { alu 2 (.g 1) (.g 2) (.g 3) with sat := true }) 1 s = some 0x7FFFFFFF := by decide +kernel

/-- R161: DIV by zero of .i32 gives all ones; -7 / 2 = -3 and its remainder is -1. -/
theorem test_div_rem :
    let s := setG 2 0xFFFFFFF9 (setG 3 2 (at_ .c))
    regAfter (.div (alu 2 (.g 1) (.g 2) (.g 4))) 1 s = some 0xFFFFFFFFFFFFFFFF
    ∧ regAfter (.div (alu 2 (.g 1) (.g 2) (.g 3))) 1 s = some 0xFFFFFFFFFFFFFFFD
    ∧ regAfter (.rem (alu 2 (.g 1) (.g 2) (.g 3))) 1 s = some 0xFFFFFFFFFFFFFFFF := by decide +kernel

/-- 11, the example of R299: a compare and swap of 8 bytes at +0x20, where it finds 5 and where it finds 6. -/
theorem test_amo_cas :
    ∀ hit : Bool, let s0 := setG 3 5 (setG 7 9 (setG 6 0x100 (mapped .s)))
    let s := { s0 with mem := writeCells [] (atAddr 0x120 (natBytes 8 (if hit then 5 else 6))) }
    (match exec (.amo { memw (.g 3) (.g 6) (.g 7) 3 with opk := 9, disp := 0x20 }) s with
     | .next t => t.readG 3 == (if hit then 5 else 6) && bytesNat (readCells t.mem 0x120 8) == (if hit then 9 else 6)
     | _ => false) = true := by decide +kernel

/-- R204, R290: a store of 32 bits, little-endian, and its load back, sign-extended. -/
theorem test_store_load :
    let s := setG 6 0x89ABCDEF (setG 4 0x200 (mapped .s))
    (match exec (.st { memw (.g 6) (.g 4) (.g 0) 2 with disp := 4 }) s with
     | .next t => (readCells t.mem 0x204 4 == [0xEF, 0xCD, 0xAB, 0x89])
        && (regAfter (.ld { memw (.g 7) (.g 4) (.g 0) 2 with opk := 1, disp := 4 }) 7
          (setG 4 0x200 { (mapped .a) with mem := t.mem }) == some 0xFFFFFFFF89ABCDEF)
     | _ => false) = true := by decide +kernel

/-- 08, BRC: a branch taken goes 5 words of 12 bytes back from the next word. -/
theorem test_branch :
    let s := setG 3 1 (setG 4 2 (modStrm (fun r => { r with pc := 0x1000 }) (at_ .c)))
    (match exec (.brc ⟨always, .g 3, .g 4, 3#4, -5#48⟩) s with
     | .next t => t.strm.pc == 0x1000 + 12 - 60
     | _ => false) = true := by decide +kernel

/-- R50, R57: an empty queue holds the word; a full element is popped once. -/
theorem test_queue_operand :
    regAfter (.mov (alu 3 (.g 2) (.q 6) (.g 0))) 2 (modCur (fun t => t.pushQ 6 77) (at_ .c)) = some 77
    ∧ (match exec (.mov (alu 3 (.g 2) (.q 6) (.g 0))) (modCur (fun t => t.pushQ 6 77) (at_ .c)) with
       | .next t => t.task.queueCount 6
       | _ => 9) = 0 := by decide +kernel

/-- The state with a queue of one element. -/
def withQ (q : Nat) (s : State) : State := modCur (fun t => if q = 15 then { t with q15 := [0] } else t.pushQ q 0) s

theorem witness_integer_words :
    let f := alu 3 (.g 1) (.g 2) (.g 3)
    let s := at_ .c
    Ready (srcsAB f) [f.d] s ∧ (∀ op ∈ [0x03#8, 0x05, 0x06, 0x08], Issues op f.pred (aluCheck (intRule2 true) f) s)
    ∧ (∀ op ∈ [0x09#8, 0x0E, 0x0F, 0x10, 0x07, 0x16, 0x17, 0x0A, 0x0B, 0x0C, 0x0D, 0x14, 0x15, 0x11],
        Issues op f.pred (aluCheck (intRule2 false) f) s) ∧ f.sat = false := by
  unfold Ready Issues; decide

theorem witness_move_words :
    (let f := alu 3 (.g 1) (.g 2) (.g 0)
     let s := at_ .c
     Ready [f.a] [f.d] s ∧ Issues 0x12 f.pred (aluCheck intRule1 f) s ∧ Issues 0x13 f.pred (aluCheck intRule1 f) s)
    ∧ (let f := { alu 3 (.g 1) (.g 2) (.g 3) with c := .g 4 }
       let s := at_ .a
       Ready (srcsAB f ++ [f.c]) [f.d] s ∧ Issues 0x1A f.pred (aluCheck { intRule2 true with c := .src } f) s)
    ∧ (let f := ifm (.g 1) (.g 0) 5
       let s := at_ .s
       Ready [] [f.d] s ∧ Issues 0x01 f.pred (fun s => firstBroken [(Use.ok .dstP s f.d, 1), (specOk s f.a, 2), (f.a == .g 0, 2)]) s)
    ∧ (let f := ifm (.p 1) (.g 2) 5
       let s := at_ .x
       Ready [f.a] [f.d] s ∧ Issues 0x04 f.pred (fun s => firstBroken [(Use.ok .dstP s f.d, 1), (Use.ok .src s f.a, 2)]) s) := by
  unfold Ready Issues; decide

theorem witness_mov_forms :
    (let f := { alu 0 (.v 1) (.v 2) (.g 0) with sub := 1 }
     let s := at_ .x
     Issues 0x02 f.pred (movCheck f) s ∧ Ready [f.a] [f.d] s ∧ f.sub = 1#8 ∧ s.cur = .x)
    ∧ (let f := alu 3 (.g 2) (.q 15) (.g 0)
       let s := withQ 15 (at_ .c)
       Issues 0x02 f.pred (movCheck f) s ∧ Ready [f.a] [f.d] s ∧ ¬ (f.sub = 1#8 ∧ s.cur = .x))
    ∧ (let f := alu 3 (.p 2) (.g 1) (.g 0)
       let s := at_ .c
       Issues 0x02 f.pred (movCheck f) s ∧ Ready [f.a] [f.d] s ∧ ¬ (f.sub = 1#8 ∧ s.cur = .x) ∧ f.a ≠ .q 15)
    ∧ (let f := alu 3 (.g 2) (.g 1) (.g 0)
       let s := at_ .c
       Issues 0x02 f.pred (movCheck f) s ∧ Ready [f.a] [f.d] s ∧ ¬ (f.sub = 1#8 ∧ s.cur = .x) ∧ f.a ≠ .q 15 ∧ ∀ d, f.d ≠ .p d) := by
  unfold Ready Issues; decide

theorem witness_compare_words :
    (let f := { alu 3 (.p 1) (.g 1) (.g 2) with sub := 1 }
     let s := at_ .c
     zeroTest f.sub = false ∧ Ready (srcsAB f) [f.d] s
     ∧ Issues 0x18 f.pred (aluCheck { d := .dstP, a := .src, b := .src, c := .unused, ty := intTy, sub := cmpCodes
                                      rm := false, sat := false, immb := true } f) s)
    ∧ (let f := { alu 3 (.p 1) (.g 1) (.g 0) with sub := 0xA }
       let s := at_ .c
       zeroTest f.sub = true ∧ Ready [f.a] [f.d] s
       ∧ Issues 0x18 f.pred (aluCheck { d := .dstP, a := .src, b := .unused, c := .unused, ty := intTy, sub := cmpCodes
                                        rm := false, sat := false, immb := false } f) s)
    ∧ (let f := { alu 0 (.p 1) (.p 2) (.p 3) with sub := 8 }
       Issues 0x1E f.pred (aluCheck { d := .pred, a := .pred, b := .pred, c := .unused, ty := fun t => t == 0#5
                                      sub := fun x => decide (x.toNat < 16), rm := false, sat := false, immb := false } f) (at_ .c)) := by
  unfold Ready Issues; decide

theorem witness_float_words :
    (let f := { alu 9 (.g 1) (.g 2) (.g 3) with sub := 1, rm := 4, rbm1 := 3 }
     let s := at_ .c
     fopUsesB f.sub = true ∧ fopUsesC f.sub = false
     ∧ Issues 0x1B f.pred (aluCheck { d := .dst, a := .src, b := .src, c := .unused, ty := scalarFloatTy
                                      sub := fun x => decide (1 ≤ x.toNat ∧ x.toNat ≤ 0xC), rm := true, sat := false, immb := true } f) s
     ∧ Ready (srcsAB f) [f.d] s)
    ∧ (let f := { alu 9 (.g 1) (.g 2) (.g 0) with sub := 0 }
       let s := at_ .c
       Issues 0x1C f.pred (aluCheck { d := .dst, a := .src, b := .unused, c := .unused, ty := fun t => decide (t.toNat < 0xE)
                                      sub := fun x => decide (x.toNat < 0xE), rm := true, sat := true, immb := false } f) s
       ∧ Ready [f.a] [f.d] s)
    ∧ (let f := { alu 9 (.p 1) (.g 2) (.g 3) with sub := 7 }
       let s := at_ .c
       Issues 0x1D f.pred (aluCheck { d := .dstP, a := .src, b := .src, c := .unused, ty := scalarFloatTy
                                      sub := fun x => decide (1 ≤ x.toNat ∧ x.toNat ≤ 7), rm := false, sat := false, immb := true } f) s
       ∧ Ready (srcsAB f) [f.d] s)
    ∧ (let f := { alu 9 (.g 1) (.g 2) (.g 0) with c := .p 1, immb := true, imm := 1 }
       let s := at_ .c
       Issues 0x19 f.pred (aluCheck { d := .dst, a := .src, b := .src, c := .pred, ty := fun t => decide (t.toNat < 0xC)
                                      sub := fun x => x == 0#8, rm := false, sat := false, immb := true } f) s
       ∧ Ready (srcsAB f) [f.d] s) := by
  unfold Ready Issues; decide

theorem witness_branch_words :
    (let f : BForm := ⟨always, .g 0, .g 0, 0, 5⟩
     Issues 0x1F f.pred (bCheck .unused .unused (f.cc == 0#4) f) (at_ .c))
    ∧ (let f : BForm := ⟨always, .p 1, .g 0, 8, 5⟩
       let s := at_ .c
       true = (f.cc == 8#4 || f.cc == 9#4) ∧ true = (true || f.cc == 0xA#4 || f.cc == 0xB#4)
       ∧ Issues 0x20 f.pred (bCheck .pred .unused
          (decide (1 ≤ f.cc.toNat ∧ f.cc.toNat ≤ 6) || decide (8 ≤ f.cc.toNat ∧ f.cc.toNat ≤ 0xD)) f) s ∧ Ready [f.a] [] s)
    ∧ (let f : BForm := ⟨always, .g 1, .g 2, 6, 5⟩
       let s := at_ .c
       false = (f.cc == 8#4 || f.cc == 9#4) ∧ false = (false || f.cc == 0xA#4 || f.cc == 0xB#4)
       ∧ Issues 0x20 f.pred (bCheck .src .src
          (decide (1 ≤ f.cc.toNat ∧ f.cc.toNat ≤ 6) || decide (8 ≤ f.cc.toNat ∧ f.cc.toNat ≤ 0xD)) f) s ∧ Ready [f.a, f.b] [] s)
    ∧ (let f : BForm := ⟨always, .g 31, .g 0, 0, 5⟩
       Issues 0x21 f.pred (bCheck .greg .unused (f.cc == 0#4) f) (at_ .c)
       ∧ Issues 0x23 f.pred (fun s => firstBroken [
        (Use.ok .greg s f.a && f.a != .g 0, 2), (specOk s f.b, 3), (f.cc == 0#4, 9), (f.b == .g 0, 3)]) (at_ .c))
    ∧ (let f := sysw (.g 0) (.g 31) (.g 0) (.g 0)
       Issues 0x22 f.pred (sysCheck { nopRule with a := .src } f) (at_ .c) ∧ Ready [f.a] [] (at_ .c)) := by
  unfold Ready Issues; decide

theorem witness_queue_words :
    (let f := sysw (.g 2) (.q 15) (.p 1) (.g 0)
     let s := withQ 15 (at_ .c)
     Issues 0x24 f.pred (qpopCheck f) s ∧ Issues 0x26 f.pred (qpopCheck f) s
     ∧ 0 < s.task.queueCount 15 ∧ (∀ d ∈ queueOf f.d, s.task.queueFull d = false) ∧ ¬ 0 < (at_ .c).task.queueCount 15
     ∧ Issues 0x24 f.pred (qpopCheck f) (at_ .c) ∧ Issues 0x26 f.pred (qpopCheck f) (at_ .c))
    ∧ (let f := { sysw (.q 0) (.g 1) (.p 1) (.g 0) with sub := 1 }
       let s := at_ .c
       Issues 0x24 f.pred (qpushCheck f) s ∧ (∀ d ∈ queueOf f.d, s.task.queueFull d = false) ∧ (∀ p ∈ queueOf f.a, 0 < s.task.queueCount p))
    ∧ (let f := { sysw (.q 0) (.q 6) (.p 1) (.g 0) with sub := 1 }
       Issues 0x24 f.pred (qpushCheck f) (at_ .c) ∧ ¬ ∀ p ∈ queueOf f.a, 0 < (at_ .c).task.queueCount p)
    ∧ (let f := sysw (.g 2) (.q 0) (.g 0) (.g 0)
       let s := at_ .c
       Ready [] [f.d] s ∧ Issues 0x25 f.pred (fun s => firstBroken [
        (Use.ok .dst s f.d, 1), (match f.a with | .q n => queueEnd s n.val | _ => false, 2), (specOk s f.b, 3),
        (specOk s f.c, 4), (f.sub == 0#8, 9), (f.rm == 0#3, 0xA), (!f.tag && f.scope == 0#2, 0xB), (f.imm == 0#32, 0xC),
        (f.ring1 == 0#4 && f.ring2 == 0#4, 0xD), (f.b == .g 0, 3), (f.c == .g 0, 4)]) s) := by
  unfold Ready Issues; decide

theorem witness_semaphore_words :
    (let f := { ew (.g 0) (.g 0) with ssem := 9, sinc := 3 }
     let s := at_ .c
     let u := modCur (fun t => { t with k := t.k.set 9 0xFFFFFFFF }) s
     let ok (s : State) := Issues 0x27 f.pred (semCheck .unused (f.wmode == 0#2 && f.wsem == 0#8 && f.wthr == 0#16 && (!regForm f || f.sinc == 0#12)) f) s
     Ready (if regForm f then [f.a] else []) [] s ∧ ok s ∧ ok u
     ∧ (signalTask (semTook f s).task.tid f.ssem (semCount f f.sinc.toNat s) (semTook f s)).isSome = true
     ∧ (signalTask (semTook f u).task.tid f.ssem (semCount f f.sinc.toNat u) (semTook f u)).isNone = true)
    ∧ (let f := { ew (.g 0) (.g 0) with wsem := 5, wthr := 2, wmode := 2 }
       let g := { f with sinc := 1 }
       let s := at_ .x
       let u := modCur (fun t => { t with k := t.k.set 5 2 }) s
       let v := modStrm (fun r => { r with swaitSig := true }) s
       let ok (f : EForm) (s : State) := Issues 0x28 f.pred (semCheck .unused ((f.wmode == 1#2 || f.wmode == 2#2) && (!regForm f || f.wthr == 0#16)) f) s
       let w (s : State) := waitHeld ⟨f.wsem, semCount f f.wthr.toNat s, f.wmode == 2#2, false⟩ (semTook f s)
       ok f s ∧ s.strm.swaitSig = false ∧ s.task.semReady (w s) = false
       ∧ ok f u ∧ u.strm.swaitSig = false ∧ u.task.semReady (w u) = true ∧ f.sinc = 0
       ∧ ok g u ∧ g.sinc ≠ 0
       ∧ ok g v ∧ v.strm.swaitSig = true
       ∧ (signalTask v.task.tid g.ssem g.sinc.toNat (modStrm (fun r => { r with swaitSig := false }) v)).isSome = true)
    ∧ (let f := { ew (.g 0) (.p 1) with wsem := 5, wthr := 2, wmode := 1 }
       Issues 0x29 f.pred (semCheck .pred
        ((f.wmode == 1#2 || f.wmode == 2#2) && (!regForm f || f.wthr == 0#16) && f.ssem == 0#8 && f.sinc == 0#12) f) (at_ .s)) := by
  unfold Ready Issues; decide

theorem witness_control_words :
    (let f := { sysw (.g 0) (.g 0) (.g 0) (.g 0) with scope := 3 }
     let s := at_ .a
     Issues 0x2A f.pred (sysCheck { nopRule with sub := fun x => decide (x.toNat ≤ 2), scope := true } f) s
     ∧ openStill (s.task.openWrites f.scope) (s.task.openWrites f.scope) s = [] ∧ (f.sub = 1#8 ∨ s.cur ≠ .a ∨ ∀ r ∈ s.task.rlds, r.ready = true))
    ∧ (let f := { sysw (.g 0) (.g 0) (.g 0) (.g 0) with scope := 3 }
       let s := modCur (fun t => { t with acks := [⟨0, false, 7, [], false⟩] }) (at_ .a)
       Issues 0x2A f.pred (sysCheck { nopRule with sub := fun x => decide (x.toNat ≤ 2), scope := true } f) s
       ∧ f.sub ≠ 2#8 ∧ openStill (s.task.openWrites f.scope) (s.task.openWrites f.scope) s ≠ [])
    ∧ (let f := { sysw (.g 1) (.g 0) (.g 0) (.g 0) with sub := 0xA }
       Issues 0x2B f.pred (fun s => (sysCheck { nopRule with d := .dst, sub := fun _ => true } f s).or
        (firstBroken [(ctlExists s.cur f.sub, 0x14)])) (at_ .c) ∧ Ready [] [f.d] (at_ .c))
    ∧ (let f := { sysw (.g 1) (.g 2) (.g 0) (.g 0) with sub := 0 }
       let u := modStrm (fun r => { r with g := r.g.set 2 7 }) (at_ .c)
       let ok (s : State) := Issues 0x2C f.pred (fun s => (sysCheck { nopRule with d := .dst, a := .src, sub := fun _ => true } f s).or
        (firstBroken [(ctlExists s.cur f.sub, 0x14)])) s ∧ Ready [f.a] [f.d] s
       ok (at_ .c) ∧ (writeCtl f.sub ((at_ .c).peekSrc f.a) (took f.a (at_ .c))).isSome = true
       ∧ ok u ∧ (writeCtl f.sub (u.peekSrc f.a) (took f.a u)).isNone = true) := by
  unfold Ready Issues; decide

theorem witness_stops_and_traps :
    (let f := ifm (.g 0) (.g 0) 5
     Issues 0x2D f.pred (codeCheck f) (at_ .c) ∧ Issues 0x2E f.pred (codeCheck f) (at_ .c))
    ∧ (let f := sysw (.g 0) (.g 0) (.g 0) (.g 0)
       Issues 0x00 f.pred (sysCheck nopRule f) (at_ .c) ∧ Issues 0x2F f.pred (sysCheck nopRule f) (at_ .c)) := by
  unfold Issues; decide

/-- A resident graph with patches: object 0x200 in slot 0, one node, 4 patches of 64 bytes. -/
def graphed (st : Stream) : State :=
  let h := 2 ^ 64 + 2 ^ 85 + 2 ^ 128 * 0x2000 + 2 ^ 192 * 64 + 2 ^ 208 * 4
  let s := withObj 0x200 8 h (mapped st)
  modSlot 0 (fun g => { g with v := true, obj := 0x200, oreg := 0x200, header := BitVec.ofNat 512 h }) s

theorem witness_gstart :
    let f := { ew (.g 4) (.g 5) with obj := 0x200 }
    let s := graphed .c
    ∃ t u slot, Issues 0x40 f.pred (eCheck { a := .src, b := .dst, sub := fun x => x == 0#4, wait := true, sig := true, obj := true } f) s
    ∧ Ready [f.a] [f.b] s ∧ gateWait (waitOf f.wmode f.wsem f.wthr) s = .ok ((), t) ∧ useGraph f.obj t = .ok (slot, u)
    ∧ (u.peekSrc f.a).toNat < 2 ^ 32 := by
  refine ⟨graphed .c, graphed .c, 0, ?_, ?_, rfl, rfl, ?_⟩ <;> first | decide | (unfold Ready; decide) | (unfold Issues; decide)

theorem witness_gquery :
    let f := { sysw (.g 1) (.g 0) (.g 0) (.g 0) with imm := 0x200 }
    let s := graphed .c
    ∃ t slot, Issues 0x42 f.pred (sysCheck { d := .dst, a := .unused, b := .unused, c := .unused, sub := fun x => x == 0#8, imm := objImm } f) s
    ∧ Ready [] [f.d] s ∧ useGraph (f.imm.setWidth 16) s = .ok (slot, t) := by
  refine ⟨graphed .c, 0, ?_, ?_, rfl⟩ <;> first | (unfold Ready; decide) | (unfold Issues; decide)

/-- GPATCH on a slot with no queued start (q false) or one (q true). -/
def patchState (q : Bool) : State :=
  let s := setG 2 0x100 (setG 3 16 (setG 4 3 (graphed .c)))
  if q then modSlot 0 (fun g => { g with queued := some ⟨1, 0, false, none, 0, []⟩ }) s else s

theorem witness_gpatch (q : Bool) :
    let f := { sysw (.g 1) (.g 2) (.g 3) (.g 4) with imm := 0x200 }
    let s := patchState q
    ∃ slot, Issues 0x41 f.pred (sysCheck { d := .dst, a := .src, b := .src, c := .src, sub := fun x => x == 0#8, imm := objImm } f) s
    ∧ Ready [f.a, f.b, f.c] [f.d] s ∧ useGraph (f.imm.setWidth 16) s = .ok (slot, s)
    ∧ (let g := getSlot s slot
       16 ≤ g.patchSize ∧ 3 < g.patchCap ∧ 0x100 + 16 ≤ 0x180000 ∧ lsCheck .any 0x100 16 s = .ok ((), s) ∧ g.queued.isSome = q)
    ∧ ((getSlot s slot).queued = none → ∃ bs w tags x, lsLoad 0x100 16 s = .ok (bs, w)
        ∧ writeIa .quay ((getSlot s slot).patchIa (getSlot s slot).nextBank 3) bs w = .ok (tags, x)) := by
  refine ⟨0, ?_, ?_, ?_, ?_, ?_⟩
  · revert q; unfold Issues; decide
  · revert q; unfold Ready; decide
  · cases q <;> rfl
  · refine ⟨?_, ?_, ?_, ?_, ?_⟩
    · revert q; decide
    · revert q; decide
    · decide
    · cases q <;> rfl
    · revert q; decide
  · intro _
    exact ok2 (by revert q; decide)

theorem witness_tspawn :
    (let f := sysw (.g 1) (.g 2) (.g 3) (.g 0)
     ∀ v : Bool, let s := if v then graphed .c else at_ .c
     Issues 0x49 f.pred (sysCheck { d := .dst, a := .src, b := .src, c := .unused, sub := fun x => x == 0#8 } f) s
     ∧ Ready [f.a, f.b] [f.d] s ∧ (s.peekSrc f.a).toNat < 2 ^ 18
     ∧ (getSlot s (bits (s.peekSrc f.a).toNat 12 6)).v = v
     ∧ ((getSlot s (bits (s.peekSrc f.a).toNat 12 6)).v = true → bits (s.peekSrc f.a).toNat 0 12 < (getSlot s 0).nnodes))
    ∧ (let f := sysw (.g 0) (.g 0) (.g 0) (.g 0)
       Issues 0x56 f.pred (sysCheck nopRule f) (at_ .c) ∧ writesPerformed (at_ .c).task 2#2 = true ∧ (at_ .c).task.nodeRel = false) := by
  unfold Issues Ready; decide

/-- SLEEP without a watch and with one, with an event at hand and without. -/
theorem witness_sleep :
    (let f := sysw (.g 1) (.g 0) (.g 0) (.g 0)
     let ok (s : State) := Issues 0x52 f.pred (sysCheck { d := .dst, a := .src, b := .src, c := .unused, sub := fun x => decide (x.toNat < 8) } f) s
       ∧ Ready [f.a, f.b] [f.d] s
     ok (at_ .c) ∧ sleepCause (at_ .c) none 0 = none ∧ ok (withQ 15 (at_ .c)) ∧ sleepCause (withQ 15 (at_ .c)) none 0 = some 1)
    ∧ (let f := sysw (.g 1) (.g 2) (.g 3) (.g 0)
       let s := setG 2 0x100 (setG 3 9 (mapped .c))
       Issues 0x52 f.pred (sysCheck { d := .dst, a := .src, b := .src, c := .unused, sub := fun x => decide (x.toNat < 8) } f) s
       ∧ Ready [f.a, f.b] [f.d] s ∧ f.a ≠ .g 0
       ∧ windowIa f.sub.toNat (s.peekSrc f.a).toNat 1 .r .plain none (took f.b (took f.a s)) = .ok (0x100, s)
       ∧ sleepCause s (some (s.task.watch.getD ⟨lineOf 0x100, false⟩)) ((took f.a s).peekSrc f.b) = none) := by
  refine ⟨?_, ?_, ?_, ?_, rfl, ?_⟩ <;> first | decide | (unfold Issues Ready; decide) | (unfold Issues; decide) | (unfold Ready; decide)

theorem witness_time_words :
    (let f := sysw (.g 0) (.g 0) (.g 0) (.g 0)
     Issues 0x51 f.pred (sysCheck nopRule f) (at_ .c))
    ∧ (let f := sysw (.g 1) (.g 2) (.g 0) (.g 0)
       let s := at_ .c
       let u := setG 2 1 (at_ .c)
       let ok (s : State) := Issues 0x53 f.pred (sysCheck { nopRule with d := .dst, a := .src } f) s
         ∧ (s.strm.srcs = none → Ready [f.a] [] s) ∧ Ready [] [f.d] (keptSources [f.a] s).2
       ok s ∧ (keptSources [f.a] s).1 = [0] ∧ 0 ≤ (keptSources [f.a] s).2.tick ∧ ok u ∧ (keptSources [f.a] u).1 = [1]
       ∧ (keptSources [f.a] u).2.tick < 1
       ∧ Issues 0x54 f.pred (sysCheck { nopRule with d := .dst, a := .src, sub := fun x => decide (x.toNat < 3) } f) s
       ∧ Issues 0x55 f.pred (sysCheck { nopRule with d := .dst, a := .src } f) (setG 2 7 s) ∧ Ready [f.a] [f.d] (setG 2 7 s)
       ∧ ((setG 2 7 s).peekSrc f.a).toNat < 8) := by
  unfold Issues Ready; decide

theorem witness_bind :
    let f := sysw (.g 0) (.g 2) (.g 3) (.g 4)
    let s := setG 2 0x80 (setG 3 0x100 (setG 4 0x80 (mapped .c)))
    let v := took f.c (took f.b (took f.a s))
    ∃ guard t region u, Issues 0x4C f.pred (sysCheck { d := .unused, a := .src, b := .src, c := .src, sub := fun x => decide (x.toNat < 64) } f) s
    ∧ Ready [f.a, f.b, f.c] [] s ∧ objectIa (s.peekSrc f.a) (bits f.sub.toNat 0 3) 8 8 .a v = .ok (guard, t)
    ∧ regionIa (bits f.sub.toNat 3 3) 0x100 0x80 t = .ok (region, u)
    ∧ u.task.bindings.length < 8 ∧ (∀ b ∈ u.task.bindings, ¬ (region < b.ia + b.len ∧ b.ia < region + 0x80)) := by
  refine ⟨_, _, _, _, ?_, ?_, rfl, rfl, ?_, ?_⟩ <;> first | decide | (unfold Ready; decide) | (unfold Issues; decide)

/-- A task that has bound 0x100 to the guard at IA 0x80, and holds it or not. -/
def guarded (held : Bool) : State :=
  modCur (fun t => { t with bindings := [⟨0x80, 0x100, 0x100, 0x80⟩], guards := if held then [(0x80, false)] else [] })
    (setG 2 0x80 (setG 3 0x100 (mapped .c)))

/-- A word that waits for its guard, or does not yet, with the guard held or not. -/
def acquiring (waits held : Bool) : State := if waits then modStrm (fun r => { r with wait := some .guarded }) (guarded held) else guarded held

theorem witness_unbind :
    let f := sysw (.g 0) (.g 0) (.g 3) (.g 0)
    let s := guarded false
    Issues 0x4D f.pred (sysCheck { d := .unused, a := .unused, b := .src, c := .unused
                                   sub := fun x => decide (x.toNat < 64) && x.toNat % 8 == 0 } f) s ∧ Ready [f.b] [] s
    ∧ (took f.b s).task.bindings.find? (fun x => x.va == s.peekSrc f.b
        && windowAt (took f.b s) (bits f.sub.toNat 3 3) (s.peekSrc f.b).toNat == some x.ia) = some ⟨0x80, 0x100, 0x100, 0x80⟩
    ∧ (took f.b s).task.holdsGuard 0x80 = false := by
  unfold Issues Ready; decide

theorem witness_acq (waits held : Bool) :
    let f := sysw (.g 0) (.g 2) (.g 0) (.g 0)
    let s := acquiring waits held
    let v := (keptSources [f.a] s).2
    (s.strm.srcs = none → Ready [f.a] [] s) ∧ (keptSources [f.a] s).1 = [0x80] ∧ NamesObject (bits f.sub.toNat 0 3) 0x80 8 8 .a 0x80 v
    ∧ Issues 0x4E f.pred (sysCheck { d := .unused, a := .src, b := .unused, c := .unused, sub := fun x => decide (x.toNat < 16) } f) s
    ∧ (v.strm.wait = some .guarded ↔ waits = true) ∧ v.task.holdsGuard 0x80 = held ∧ ∃ b ∈ v.task.bindings, b.guard = 0x80 := by
  refine ⟨?_, ?_, names_of ?_, ?_⟩ <;> revert waits held <;> first | decide | (unfold Issues; decide) | (unfold Ready; decide)

theorem witness_rel :
    let f := sysw (.g 0) (.g 2) (.g 0) (.g 0)
    let s := guarded true
    let v := (keptSources [f.a] s).2
    ((s.strm.srcs = none → Ready [f.a] [] s) ∧ (keptSources [f.a] s).1 = [0x80] ∧ NamesObject f.sub.toNat 0x80 8 8 .a 0x80 v
    ∧ Issues 0x4F f.pred (sysCheck { d := .unused, a := .src, b := .unused, c := .unused, sub := fun x => decide (x.toNat < 8) } f) s
    ∧ v.task.holdsGuard 0x80 = true ∧ openStill (v.task.openWrites 3#2) (v.task.openWrites 3#2) v = [])
    ∧ ∃ ids u, writeBackLines v.task.tid (fun line => v.task.boundTo 0x80 line) (awaiting [] v) = .ok (ids, u)
      ∧ openStill [] ((awaiting ids u).task.openWrites 3#2) (awaiting ids u) = []
      ∧ ∃ a x, applyRelease u.task.tid 0x80 (awaiting [] (awaiting ids u)) = .ok (a, x) := by
  refine ⟨⟨?_, ?_, names_of ?_, ?_, ?_, ?_⟩, [], _, rfl, ?_, ok1 ?_⟩ <;>
    first | decide | (unfold Ready; decide) | (unfold Issues; decide)

/-- R118: a REL whose task has an open write waits for it; so does one that has written a line back. -/
theorem witness_rel_waits :
    let s := modCur (fun t => { t with acks := [⟨0, false, 7, [], false⟩] }) (guarded true)
    let v := (keptSources [.g 2] s).2
    openStill (v.task.openWrites 3#2) (v.task.openWrites 3#2) v = [7] ∧ openStill [] (v.task.openWrites 3#2) (awaiting [7] v) = [7] := by decide

/-- Task 0 at rank 0 of the group whose object lies at IA 0x40, addressed by g2. -/
def grouped : State := (joinGroup 0x40 0 (setG 2 0x40 (mapped .c))).1

/-- Bytes put into the local store of the current task. -/
def withLs (off : Nat) (bs : List (BitVec 8)) (s : State) : State := modCur (fun t => t.lsWrite off bs) s

theorem witness_membership_words :
    let f := sysw (.g 1) (.g 2) (.g 0) (.g 0)
    let s := grouped
    let u := setG 2 0x40 (mapped .c)
    (NamesObject f.sub.toNat (s.peekSrc f.a) 64 64 .a 0x40 (took f.a s) ∧ NamesObject f.sub.toNat (u.peekSrc f.a) 64 64 .a 0x40 (took f.a u))
    ∧ (Issues 0x43 f.pred (sysCheck memberRule f) s ∧ Ready [f.a] [f.d] s ∧ s.task.sendC = [] ∧ s.offDie s.task < 64)
    ∧ (Issues 0x44 f.pred (sysCheck memberRule f) s ∧ arrivedOpen s 0x40 s.task.tid = false ∧ openDamask s 0x40 s.task.tid = false
      ∧ ((getGroup s 0x40).rankOf s.task.tid).isSome = true)
    ∧ (Issues 0x44 f.pred (sysCheck memberRule f) u ∧ Ready [f.a] [f.d] u ∧ u.task.sendC = [] ∧ u.offDie u.task < 64
      ∧ arrivedOpen u 0x40 u.task.tid = false ∧ openDamask u 0x40 u.task.tid = false ∧ (getGroup u 0x40).rankOf u.task.tid = none)
    ∧ Issues 0x45 f.pred (sysCheck memberRule f) s
    ∧ Issues 0x57 f.pred (sysCheck { memberRule with b := .src } f) s ∧ Ready [f.a, f.b] [f.d] s := by
  refine ⟨⟨names_of (by decide), names_of (by decide)⟩, ?_⟩
  unfold Issues Ready; decide

/-- The same with a record at LS offset 0, and a sketch 0x31 for the sketch sum. -/
def collState (r : Nat) : State := withLs 0 (natBytes 16 r) (withObj 0x31 5 (0x4000 + 2 ^ 64 * 3 + 2 ^ 68 * 8 + 2 ^ 80 * 3) grouped)

/-- One .i32 from 0x80 to 0x100, OP 0; and the sketch sum, OP 3. -/
def sumRec : Nat := 2 ^ 96 * 2 + 2 ^ 64 + 2 ^ 32 * 0x100 + 0x80
def sketchRec : Nat := 2 ^ 104 * 3

theorem witness_collective_words :
    let f := ew (.g 2) (.g 3)
    let g := ew (.g 2) (.g 0)
    let s := collState sumRec
    let t := took f.b (took f.a s)
    (Ready [f.a, f.b] [] s ∧ Ready [g.a, g.b] [] s ∧ t.task.sendC.length < 16 ∧ t.offDie t.task < 64)
    ∧ Issues 0x46 g.pred (eCheck { collRule with b := .unused, obj := false } g) s ∧ Issues 0x47 f.pred (eCheck collRule f) s
    ∧ Issues 0x48 f.pred (eCheck { collRule with obj := false } f) s
    ∧ ∀ kind : CollKind, ∀ ia, translate (t.window f.sub.toNat) (s.peekSrc f.a).toNat 64 .a = .ok ia → collBusy t ia kind t.task.tid = false := by
  refine ⟨?_, ?_, ?_, ?_, fun kind ia h => ?_⟩ <;> first | (unfold Ready; decide) | (unfold Issues; decide) | skip
  have e : ia = 0x40 := by
    have : translate ((took (.g 3) (took (.g 2) (collState sumRec))).window 0) ((collState sumRec).peekSrc (.g 2)).toNat 64 .a = .ok 0x40 := by decide
    injection this.symm.trans h with e'; exact e'.symm
  subst e; revert kind; intro kind; cases kind <;> decide

/-- The arrival of a collective word at the head of the send queue, with no wait. -/
def pendingOf (kind : CollKind) : PendingArrival := ⟨kind, some 0x40, 0x40, 0, 0, 0, 4, 1, 0, none⟩

theorem witness_arrival_of (kind : CollKind) :
    let p := pendingOf kind
    let s := collState sumRec
    let c := collRec (BitVec.ofNat 128 sumRec)
    NamesObject p.win p.va 64 64 .a 0x40 s ∧ ((getGroup s 0x40).rankOf s.task.tid).isSome = true ∧ p.off.toNat % 16 = 0
    ∧ lsJudge .any s.task p.off.toNat 16 = none ∧ lsNumber p.off.toNat 16 s = .ok (sumRec, s) ∧ c.op ≠ 3 ∧ p.obj = 0
    ∧ collRecOk p.kind (BitVec.ofNat 128 sumRec) = true
    ∧ lsChecks [(.any, p.off.toNat, 16), (.noStash, c.src, c.size), (.noStash, c.dst, c.size)] s = .ok ((), s)
    ∧ lsClean c.src c.size s = .ok ((), s) := by
  refine ⟨names_of ?_, ?_, ?_, ?_, ?_, ?_, ?_, ?_, ?_, ?_⟩ <;> cases kind <;> first | rfl | decide

theorem witness_sketch_arrival :
    let p := { pendingOf .red with obj := 0x31 }
    let s := collState sketchRec
    let c := collRec (BitVec.ofNat 128 sketchRec)
    NamesObject p.win p.va 64 64 .a 0x40 s ∧ c.op = 3 ∧ p.kind = .red ∧ (∃ x, useObj p.obj 5 sketchOk (fun x => bitN x 81) s = .ok (x, s))
    ∧ lsNumber p.off.toNat 16 s = .ok (sketchRec, s) ∧ collRecOk p.kind (BitVec.ofNat 128 sketchRec) = true
    ∧ lsChecks [(.any, p.off.toNat, 16), (.noStash, c.src, c.size), (.noStash, c.dst, c.size)] s = .ok ((), s)
    ∧ lsClean c.src c.size s = .ok ((), s) := by
  refine ⟨names_of ?_, ?_, rfl, ⟨_, rfl⟩, ?_, ?_, ?_, ?_⟩ <;> first | rfl | decide

theorem witness_finish_arrival :
    let p := pendingOf .bar
    let s := grouped
    (∀ w, p.wait = some w → s.task.semReady w = true) ∧ writesPerformed s.task ((p.group.map s.groupScope).getD 2#2) = true
    ∧ ∃ a u, arrivalOf p (waitServed p.wait s) = .ok (a, u) ∧ arrivalFits s a = true := by
  refine ⟨fun w h => (nomatch h), by decide, _, _, rfl, by decide⟩

theorem witness_rsig :
    let f := { ew (.g 2) (.g 3) with ssem := 4, sinc := 1 }
    let s := grouped
    (gateWait (waitOf f.wmode f.wsem f.wthr) s = .ok ((), s) ∧ NamesObject f.sub.toNat (s.peekSrc f.a) 64 64 .a 0x40 (took f.a s))
    ∧ Ready [f.a, f.b] [] s ∧ Issues 0x4B f.pred (eCheck { collRule with obj := false } f) s
    ∧ writesPerformed s.task (scopeTo s (rankTask s 0x40 0)) = true ∧ s.task.sendC.length < 16 ∧ s.offDie s.task < 64 := by
  refine ⟨⟨rfl, names_of (by decide)⟩, ?_⟩
  unfold Issues Ready; decide

theorem witness_renq :
    let f := ew (.g 2) (.g 3)
    let s := setG 3 (BitVec.ofNat 64 (2 ^ 32 * 0x200)) (withLs 0x200 (natBytes 16 1) grouped)
    (gateWait (waitOf f.wmode f.wsem f.wthr) s = .ok ((), s) ∧ NamesObject f.sub.toNat (s.peekSrc f.a) 64 64 .a 0x40 s
      ∧ lsJudge .plain s.task 0x200 16 = none ∧ lsNumber 0x200 16 s = .ok (1, s) ∧ lsCheck .plain 0x200 (16 + 16 * bits 1 0 5) s = .ok ((), s)
      ∧ lsClean 0x200 (16 + 16 * bits 1 0 5) s = .ok ((), s)
      ∧ rankTask s 0x40 0 = some s.task)
    ∧ Ready [f.a, f.b] [] s ∧ Issues 0x4A f.pred (eCheck { collRule with obj := false, sig := false } f) s
    ∧ s.task.jobs < 16 ∧ writesPerformed s.task 2#2 = true
    ∧ bits (s.peekSrc f.b).toNat 53 11 = 0 ∧ bits (s.peekSrc f.b).toNat 16 16 = 0
    ∧ bits (s.peekSrc f.b).toNat 32 21 = 0x200 ∧ (0x200 : Nat) % 16 = 0
    ∧ headerOk 1 = true ∧ s.task.inbound.length < 8 ∧ s.task.sendC.length < 16 ∧ s.offDie s.task < 64 := by
  refine ⟨⟨rfl, names_of (by decide), rfl, rfl, rfl, rfl, rfl⟩, ?_⟩
  unfold Issues Ready; decide

/-- The exchange block of chapter 13's example, for a group at IA 0x0010_0000_0040 less its package: here 0x40. -/
def exampleXpb : Nat :=
  0x40 + 2 ^ 64 * 0x0000010000800008 + 2 ^ 128 * 0x0000000100040002 + 2 ^ 192 * 0x0001090010802094 + 2 ^ 256 * 0x0000400000002000
    + 2 ^ 320 * 0x0000000004000020 + 2 ^ 384 * 2

theorem witness_xpbgo :
    let f := { ew (.g 0) (.g 0) with wsem := 2, wthr := 1, wmode := 1, ssem := 10, sinc := 1, obj := 0x20 }
    let s := withObj 0x20 3 exampleXpb (withObj 0x21 4 0x17 grouped)
    let x := BitVec.ofNat 1024 (exampleXpb + 2 ^ 512 * 0x17)
    let p := xpbOf x.toNat
    (useXpb f.obj s = .ok (x, s) ∧ lsCheck .plain p.srcOff (rowSpan p.pitchIn p.z (p.len p.axIn) (p.rows p.axIn 0)) s = .ok ((), s)
      ∧ lsCheck .plain p.dstOff (rowSpan p.pitchOut p.z (p.len p.axOut) (p.rows p.axOut 0)) s = .ok ((), s))
    ∧ Issues 0x50 f.pred (eCheck { a := .unused, b := .unused, sub := fun x => x == 0#4, wait := true, sig := true, obj := true } f) s
    ∧ s.task.logWait = [] ∧ s.task.jobs < 16 ∧ writesPerformed s.task 2#2 = true ∧ pairOpen s p.group f.obj s.task.tid = false ∧ s.task.sendC.length < 16 ∧ s.offDie s.task < 64
    ∧ (getGroup s p.group).rankOf s.task.tid = some 0 ∧ p.rank0 ≤ 0 ∧ 0 < p.size ∧ p.dstRing = false
    ∧ p.srcOff + rowSpan p.pitchIn p.z (p.len p.axIn) (p.rows p.axIn 0) ≤ p.dstOff := by
  refine ⟨⟨rfl, rfl, rfl⟩, ?_⟩
  unfold Issues; decide

/-- The exchange that waits at the head of the send queue joins its collective. -/
theorem witness_exchange_joins :
    let m : DMember := { tid := 0, pkg := 0, rank := 0, xpb := 0, wait := none, ssem := 0, sinc := 0, since := 0, started := false, tick := 0
                         phases := 0, srcDone := false, flits := 0, slips := 0, slots := [], done := false }
    let s := modCur (fun t => { t with sendC := [.start 0x40 0x20 m] }) grouped
    s.task.status ≠ .vacant ∧ s.task.sendC.head? = some (.start 0x40 0x20 m) ∧ InReach (bits 0x40 47 11) s :=
  ⟨by decide, by decide, .inl (by decide)⟩

/-- A load's fields: A stream, base g2, index g3. -/
def loadF (d : Operand) (size : BitVec 3) : MForm := memw d (.g 2) (.g 3) size

theorem witness_load_words :
    (∀ ls : Bool,
      (let f := { loadF (.g 1) 3 with lsel := ls, opk := 1 }
       let s := mapped .a
       Issues 0x60 f.pred (mCheck { dOk := fun _ o => isG o, size := scalarSize, opk := loadOpk, lsel := true, cf := true } f) s
       ∧ Ready [f.base, f.index] [] s ∧ ∃ bs u, loadElems f false (f.hint != 1#3) [accessVa f s] (accessT f s) = .ok (bs, u))
      ∧ (let f := { loadF (.q 12) 7 with lsel := ls }
         let s := mapped .a
         Issues 0x62 f.pred (mCheck { dOk := fun _ o => isQueue 12 o, size := fun x => x == 7#3, lsel := true, cf := true } f) s
         ∧ Ready [f.base, f.index] [f.d] s ∧ f.d = .q 12 ∧ ∃ bs u, loadElems f false false [accessVa f s] (accessT f s) = .ok (bs, u))
      ∧ (let f := { loadF (.q 12) 3 with lsel := ls }
         let s := mapped .a
         Issues 0x63 f.pred (mCheck { dOk := fun _ o => isQueue 12 o, indexOk := fun _ o => isG o, size := scalarSize, opk := loadOpk
                                      scale := false, lsel := true, cf := true } f) s ∧ Ready [f.base] [f.d] s ∧ f.d = .q 12
         ∧ ∃ bs u, loadElems f true false (stridedAddrs f (s.peekSrc f.base) ((took f.base s).peekSrc f.index)) (accessT f s) = .ok (bs, u)))
    ∧ (let f := loadF (.g 1) 2
       let s := mapped .a
       Issues 0x61 f.pred (mCheck { dOk := fun _ o => isG o, size := scalarSize, opk := loadOpk, scope := true } f) s
       ∧ Ready [f.base, f.index] [] s ∧ ∃ bs u, loadElems f false false [accessVa f s] (accessT f s) = .ok (bs, u))
    ∧ (let f := loadF (.q 3) 3
       let s := mapped .a
       Issues 0x66 f.pred (mCheck { dOk := fun _ o => isQueue 3 o || isQueue 4 o || isQueue 5 o, size := scalarSize, opk := loadOpk } f) s
       ∧ Ready [f.base, f.index] [f.d] s ∧ (∃ bs u, loadElems f false false [accessVa f s] (accessT f s) = .ok (bs, u)) ∧ f.d = .q 3)
    ∧ (let f := loadF (.q 12) 7
       let s := mapped .a
       Issues 0x67 f.pred (mCheck { dOk := fun _ o => isQueue 12 o, size := fun x => x == 7#3 } f) s
       ∧ Ready [f.base, f.index] [f.d] s ∧ ∃ bs u, loadElems f false false [accessVa f s] (accessT f s) = .ok (bs, u)) := by
  refine ⟨?_, ?_, ?_, ?_⟩
  · intro ls
    cases ls <;> refine ⟨⟨?_, ?_, ok1 ?_⟩, ⟨?_, ?_, rfl, ok1 ?_⟩, ⟨?_, ?_, rfl, ok1 ?_⟩⟩
    all_goals first | (unfold Issues; decide +kernel) | (unfold Ready; decide +kernel) | decide +kernel
  all_goals refine ⟨?_, ?_, ?_⟩ <;> first | (unfold Issues; decide) | (unfold Ready; decide) | exact ok1 (by decide) | exact ⟨ok1 (by decide), rfl⟩

theorem witness_gath :
    ∀ ls : Bool,
    let f := { loadF (.q 12) 3 with lsel := ls }
    let s := mapped .a
    let n := 256 / sizeBytes f.size
    let at_ := ((took f.base s).peekSrc f.index).toNat
    Issues 0x64 f.pred (mCheck { dOk := fun _ o => isQueue 12 o, indexOk := fun _ o => isG o, size := scalarSize, opk := loadOpk
                                 lsel := true, cf := true } f) s ∧ Ready [f.base] [f.d] s ∧ f.d = .q 12
    ∧ lsCheck .plain at_ (4 * n) (accessT f s) = .ok ((), accessT f s)
    ∧ ∃ ix v bs u, lsLoad at_ (4 * n) (accessT f s) = .ok (ix, v)
      ∧ (if f.lsel then loadLs f.cf (sizeBytes f.size) (indexedAddrs f (s.peekSrc f.base) (bytesElems 4 n ix)) v
        else loadMem f.win.toNat (sizeBytes f.size) true false (indexedAddrs f (s.peekSrc f.base) (bytesElems 4 n ix)) v) = .ok (bs, u) := by
  intro ls
  cases ls <;> refine ⟨?_, ?_, rfl, rfl, ok2 ?_⟩
  all_goals first | (unfold Issues; decide +kernel) | (unfold Ready; decide +kernel) | decide +kernel

theorem witness_ld_local_and_pref :
    (let f := { loadF (.g 1) 3 with lsel := true }
     let s := setG 2 0x17FFF8 (at_ .a)
     Issues 0x60 f.pred (mCheck { dOk := fun _ o => isG o, size := scalarSize, opk := loadOpk, lsel := true, cf := true } f) s
     ∧ Ready [f.base, f.index] [] s ∧ f.cf = false ∧ s.task.stash = []
     ∧ (accessVa f s).toNat + sizeBytes f.size = 0x180000 ∧ lsBadByte .any (accessT f s).task (accessVa f s).toNat (sizeBytes f.size) = none
     ∧ s.task.lsPoison = [])
    ∧ (∀ h : Bool, let f := { loadF (.g 0) 0 with hint := if h then 1 else 0 }
       let s := if h then mapped .a else at_ .a
       Issues 0x65 f.pred (mCheck { dOk := fun _ o => o == .g 0, size := fun x => x == 0#3 } f) s
       ∧ Ready [f.base, f.index] [] s ∧ (if h then f.hint ≠ 0#3 else prefetchIa (accessT f s) f.win.toNat (accessVa f s).toNat = none)) := by
  unfold Issues Ready; decide

/-- A stash area of 4 KiB at LS 0x1000. -/
def withArea (s : State) : State := modCur (fun t => { t with lscfg := 2 ^ 32 * 0x1000 + 0x1000 }) s

theorem witness_stash :
    let f := sysw (.g 1) (.g 2) (.g 3) (.g 4)
    let s := setG 2 0x1F80 (setG 3 0x8000 (setG 4 0x80 (withArea (mapped .a))))
    let t := took f.c (took f.b (took f.a s))
    let a := s.peekSrc f.a
    let b := (took f.a s).peekSrc f.b
    let c := (took f.b (took f.a s)).peekSrc f.c
    let w := t.window f.sub.toNat
    Issues 0x68 f.pred (sysCheck { d := .dst, a := .src, b := .src, c := .src, sub := fun x => decide (x.toNat < 8) } f) s
    ∧ Ready [f.a, f.b, f.c] [f.d] s ∧ a.toNat % 128 = 0 ∧ b.toNat % 128 = 0 ∧ c.toNat % 128 = 0 ∧ c ≠ 0
    ∧ (∃ ia u, windowIa f.sub.toNat b.toNat c.toNat (if w.r then .r else .w) .atomic none t = .ok (ia, u) ∧ iaOff ia + c.toNat ≤ deviceSpan)
    ∧ t.task.inStashArea a.toNat = true ∧ a.toNat + c.toNat = lscfgBase t.task.lscfg + lscfgSize t.task.lscfg
    ∧ a.toNat + c.toNat ≤ 0x180000 ∧ findBelow (fun n => t.task.stash.all (fun m => m.num != n)) 8 = some 0 := by
  refine ⟨?_, ?_, ?_, ?_, ?_, ?_, ⟨_, _, rfl, ?_⟩, ?_, ?_, ?_, ?_⟩
  all_goals first | (unfold Issues; decide) | (unfold Ready; decide) | decide

theorem witness_unstash (late : Bool) :
    let f := sysw (.g 0) (.g 0) (.g 0) (.g 0)
    let s0 := modCur (fun t => { t with stash := [⟨0, 0x1000, 0x8000, 0x8000, 0x80, true, true, []⟩] }) (withArea (mapped .a))
    let s := if late then modStrm (fun r => { r with await := some [7], srcs := some [(none, 0)] })
      (modCur (fun t => { t with acks := [⟨0, false, 7, [], false⟩] }) s0) else s0
    let v := (keptSources [f.a] s).2
    let w := awaiting (v.strm.await.getD []) v
    Issues 0x69 f.pred (sysCheck { nopRule with a := .src } f) s ∧ (s.strm.srcs = none → Ready [f.a] [] s) ∧ (keptSources [f.a] s).1 = [0]
    ∧ v.task.stash.any (fun m => m.num == 0) = true ∧ (v.task.dirtyLines (fun _ => true)).filter (fun x => x.1.num == 0) = []
    ∧ (openStill [] w.task.unacked w = [] ↔ late = false) := by
  unfold Issues Ready; revert late; decide

theorem witness_discard :
    let f := sysw (.g 1) (.g 2) (.g 3) (.g 0)
    let s := setG 3 0x10000 (mapped .a)
    let t := took f.b (took f.a s)
    let a := (s.peekSrc f.a).toNat
    let b := ((took f.a s).peekSrc f.b).toNat
    Issues 0x6A f.pred (sysCheck { d := .dst, a := .src, b := .src, c := .unused, sub := fun x => decide (x.toNat < 8) } f) s
    ∧ Ready [f.a, f.b] [f.d] s ∧ a % 65536 = 0 ∧ b % 65536 = 0
    ∧ ∃ ia u, windowIa f.sub.toNat a b .w .atomic none t = .ok (ia, u) ∧ u.hostLineIn ia b = none := by
  refine ⟨?_, ?_, ?_, ?_, _, _, rfl, ?_⟩
  all_goals first | (unfold Issues; decide) | (unfold Ready; decide) | decide

/-- Ring 1 enabled: 2 slots of 256 bytes at LS 0x2000. -/
def ringCfg : BitVec 64 := 2 ^ 48 + 2 ^ 32 + 0x2000
def withRing (s : State) : State := modCur (fun t => t.modRing 1 (fun _ => { Ring.init with cfg := ringCfg, en := true })) s

theorem witness_ring_words :
    (∀ z : Bool, let f := { sysw (.g 0) (.g 2) (.g 0) (.g 0) with ring1 := 9 }
     let s := setG 2 (if z then 0 else ringCfg) (at_ .a)
     let n := ringField f.ring1
     let t := took f.a s
     Issues 0x6F f.pred (sysCheck { nopRule with a := .src, ring1 := ringValid } f) s ∧ Ready [f.a] [] s
     ∧ (t.ringOf n).lock &&& ~~~(t.ringOf n).void = 0#16 ∧ (t.ringOf n).fillers = []
     ∧ (if z then s.peekSrc f.a = 0 else t.task.ringCfgOk n.val (s.peekSrc f.a) = true))
    ∧ (let f := { sysw (.g 0) (.g 2) (.g 3) (.g 0) with ring1 := 9 }
       let s := setG 3 256 (withRing (at_ .a))
       let r := s.ringOf (ringField f.ring1)
       let t := took f.b (took f.a s)
       let a := s.peekSrc f.a
       let b := (took f.a s).peekSrc f.b
       Issues 0x70 f.pred (sysCheck { nopRule with a := .src, b := .src, ring1 := ringValid } f) s ∧ Ready [f.a, f.b] [] s
       ∧ r.en = true ∧ r.claimable = true ∧ b ≠ 0 ∧ lsCheck .plain a.toNat b.toNat t = .ok ((), t) ∧ b.toNat = ringSlotBytes r.cfg
       ∧ lsClean a.toNat b.toNat t = .ok ((), t))
    ∧ (let f := { sysw (.g 1) (.g 0) (.g 0) (.g 0) with ring1 := 9, sub := 1 }
       let s := withRing (at_ .a)
       Issues 0x71 f.pred (sysCheck { nopRule with d := .dst, sub := fun x => decide (x.toNat < 2), ring1 := ringValid } f) s ∧ Ready [] [f.d] s) := by
  refine ⟨?_, ⟨?_, ?_, ?_, ?_, ?_, rfl, ?_, rfl⟩, ?_⟩
  all_goals first | (unfold Issues Ready; decide) | (unfold Issues; decide) | (unfold Ready; decide) | decide

theorem witness_window_words :
    (let f := { sysw (.g 1) (.g 0) (.g 0) (.g 0) with imm := 7, sub := 3 }
     Issues 0x72 f.pred (sysCheck { nopRule with d := .dst, sub := fun x => decide (x.toNat < 4), imm := fun i => decide (i.toNat < 8) } f) (at_ .a)
     ∧ Ready [] [f.d] (at_ .a))
    ∧ (let f := sysw (.g 0) (.g 1) (.g 2) (.g 3)
       Issues 0x73 f.pred (sysCheck { d := .unused, a := .src, b := .src, c := .src, sub := fun x => decide (x.toNat < 8) } f) (at_ .a)
       ∧ Ready [f.a, f.b, f.c] [] (at_ .a))
    ∧ (let f := sysw (.g 1) (.g 2) (.g 0) (.g 0)
       let s := mapped .a
       Issues 0x74 f.pred (sysCheck { d := .dst, a := .src, b := .unused, c := .unused, sub := fun x => decide (x.toNat < 8) } f) s
       ∧ Ready [f.a] [f.d] s ∧ ∃ ia u, windowIa f.sub.toNat (s.peekSrc f.a).toNat 1 .r .plain none (took f.a s) = .ok (ia, u))
    ∧ (let f := sysw (.g 1) (.g 2) (.g 0) (.g 0)
       ∀ m : Bool, let s := if m then mapped .a else at_ .a
       Issues 0x76 f.pred (sysCheck { nopRule with d := .dst, a := .src, sub := fun x => decide (x.toNat < 32) } f) s
       ∧ Ready [f.a] [f.d] s
       ∧ okE (translate ((took f.a s).window (bits f.sub.toNat 2 3)) (s.peekSrc f.a).toNat 1 (rightOf (bits f.sub.toNat 0 2))) = m) := by
  refine ⟨?_, ?_, ⟨?_, ?_, ok1 ?_⟩, ?_⟩
  all_goals first | (unfold Issues Ready; decide) | (unfold Issues; decide) | (unfold Ready; decide) | decide

/-- The task with a copy template (mode m) at 0x20 and a Lighter program at 0x21. -/
def launchState (m : Nat) : State :=
  withObj 0x20 2 (2 ^ 32 * m + 2 ^ 40 * 8) (withObj 0x21 7 (2 ^ 64 * 8 + 0x400) (setG 3 7 (mapped .a)))

theorem witness_launch_words (multi : Bool) :
    let f := { ew (.g 2) (.g 3) with obj := 0x20 }
    let s := setG 2 (if multi then 2 ^ 32 else 0) (launchState (if multi then 2 else 0))
    let t := (keptSources [f.a, f.b] s).2
    let a := (s.peekSrc f.a).toNat
    let n : Fin 32 := Fin.ofNat 32 (a % 32)
    let d := startData f ((7 : BitVec 64).setWidth 32) (BitVec.ofNat 16 (bits a 32 32))
    let x := 2 ^ 32 * (if multi then 2 else 0) + 2 ^ 40 * 8
    let u := reachChan n d (some t.task.tid) t
    (s.strm.wait ≠ some .unit ∧ (s.strm.srcs = none → Ready [f.a, f.b] [] s) ∧ (keptSources [f.a, f.b] s).1 = [s.peekSrc f.a, 7]
    ∧ t.task.logWait = [] ∧ t.task.jobs < 16 ∧ writesPerformed t.task 2#2 = true ∧ a % 32 / 4 = t.dieOf t.task.core
    ∧ bits a 5 27 = 0 ∧ s.chans[n].fenced = false ∧ startWaits { u with task := { u.task with jobs := u.task.jobs + 1 } } = false
    ∧ (if multi then Issues 0x6C f.pred (eCheck jobRule f) s ∧ templateMode x = 2 ∧ bits a 32 32 < 2 ^ (bits x 112 4 + 1)
       else Issues 0x6B f.pred (eCheck jobRule f) s ∧ templateMode x ≠ 2 ∧ bits a 32 32 = 0))
    ∧ useObj f.obj 2 templateOk (fun _ => true) t = .ok (x, t) := by
  refine ⟨?_, ?_⟩
  · unfold Issues Ready; revert multi; decide
  · cases multi <;> rfl

theorem witness_lighter_start :
    let f := { ew (.g 0) (.g 3) with obj := 0x21 }
    let s := launchState 0
    let t := (keptSources [f.a, f.b] s).2
    let n : Fin 32 := Fin.ofNat 32 ((s.peekSrc f.a).toNat % 32)
    let p : LProg := { tid := s.task.tid, obj := f.obj, tag := (7 : BitVec 64).setWidth 32, wait := waitOf f.wmode f.wsem f.wthr
                       ssem := f.ssem, sinc := f.sinc, block := false, halt := false }
    let u := reachLighter n p t
    (s.strm.wait ≠ some .unit ∧ (s.strm.srcs = none → Ready [f.a, f.b] [] s) ∧ (keptSources [f.a, f.b] s).1 = [s.peekSrc f.a, 7]
    ∧ t.task.logWait = [] ∧ t.task.jobs < 16 ∧ writesPerformed t.task 2#2 = true ∧ Issues 0x6D f.pred (eCheck jobRule f) s
    ∧ s.lighters[n].fenced = false ∧ lgoWaits { u with task := { u.task with jobs := u.task.jobs + 1 } } = false)
    ∧ useObj f.obj 7 lprogOk (fun _ => true) t = .ok (2 ^ 64 * 8 + 0x400, t) := by
  refine ⟨?_, rfl⟩
  unfold Issues Ready; decide

theorem witness_lighter_words :
    (let f := sysw (.g 0) (.g 2) (.g 0) (.g 0)
     let s := setG 2 31 (at_ .a)
     Issues 0x6E f.pred (sysCheck { nopRule with a := .src } f) s ∧ Ready [f.a] [] s)
    ∧ (let f := sysw (.g 1) (.g 2) (.g 0) (.g 0)
       let s := setG 2 31 (at_ .a)
       Issues 0x77 f.pred (sysCheck { nopRule with d := .dst, a := .src } f) s ∧ Ready [f.a] [f.d] s) := by
  unfold Issues Ready; decide

/-- LHALT of a program on its Lighter, in its queue, and of one that a pre-emption has saved. -/
theorem witness_lhalt :
    let p : LProg := { tid := 0, obj := 0, tag := 0, wait := none, ssem := 0, sinc := 0, block := false, halt := false }
    let s := at_ .a
    let on := modLighter 31 (fun c => { c with run := some (LRun.start p 0) }) s
    let inQueue := modLighter 31 (fun c => { c with queue := [p] }) s
    let saved := modCur (fun t => { t with savedProgs := [(31, LRun.start p 0)] }) s
    let runs (s : State) : Bool := (s.lighters[31].run.map (fun r => r.prog.tid == s.task.tid)).getD false
    runs on = true ∧ (inQueue.task.savedProgs.any (fun x => x.1 == 31) = false ∧ inQueue.lighters[31].queue.any (fun p => p.tid == 0) = true)
    ∧ runs saved = false ∧ saved.task.savedProgs.any (fun x => x.1 == 31) = true := by decide

/-- A shape of .i32, one axis of 4 elements. -/
def lineShape : Nat := 0x100 + 2 ^ 61 * 7 + 2 ^ 64 * 2 + 2 ^ 72 * 4

theorem witness_bchk :
    let f := { ew (.g 2) (.p 1) with obj := 0x30 }
    let s := withObj 0x30 1 (lineShape) (mapped .a)
    let h := shapeOf (lineShape)
    let a := (s.peekSrc f.a).toNat
    Issues 0x75 f.pred (eCheck { a := .src, b := .pred, sub := fun x => x == 0#4, wait := false, sig := false, obj := true } f) s
    ∧ Ready [f.a] [] s ∧ useObj f.obj 1 shapeOk (fun _ => true) s = .ok (lineShape, s)
    ∧ h.inBounds = true ∧ lsCheck .any a (4 * h.rank) (took f.a s) = .ok ((), took f.a s)
    ∧ ∃ bs u, lsLoad a (4 * h.rank) (took f.a s) = .ok (bs, u) := by
  refine ⟨?_, ?_, rfl, ?_, rfl, ok1 ?_⟩
  all_goals first | decide | (unfold Issues; decide) | (unfold Ready; decide)

theorem witness_vector_arithmetic :
    let f (ty : BitVec 5) := vw ty (.v 1) (.v 2) (.v 3)
    let g (ty : BitVec 5) := { vw ty (.v 1) (.v 2) (.v 3) with c := .v 4 }
    let h (ty : BitVec 5) := vw ty (.q 13) (.v 2) (.g 0)
    let s := at_ .x
    let ok := fun (f : VForm) (op : BitVec 8) (r : VRule) => Issues op f.pred (vCheck r f) s
    (∀ w ∈ [f 9, f 2, f 0x11], Ready [w.a, w.b, w.c] [w.d] s ∧ ok w 0x80 (rule2 true true true) ∧ ok w 0x81 (rule2 true true true)
      ∧ (w.ty = 0x11 ∨ ok w 0x82 (rule2 false true true)))
    ∧ Ready [(g 9).a, (g 9).b, (g 9).c] [(g 9).d] s ∧ ok (g 9) 0x83 (rule3 tyF false true) ∧ ok (g 9) 0x84 (rule3 tyF false true)
    ∧ ok (f 5) 0x87 (rule2 false false false) ∧ ok (f 5) 0x88 (rule2 false false false)
    ∧ ok (f 8) 0x89 { rule2 false false true with ty := tyF } ∧ ok (f 3) 0xAF { rule2 false false false with ty := tyI }
    ∧ ok (g 1) 0xB0 (rule3 tyI true false) ∧ ok (g 4) 0xB7 (rule3 (fun t => tyF t || tyI t) false false)
    ∧ Ready [(h 9).a, (h 9).b, (h 9).c] [(h 9).d] s ∧ (h 9).immb = false
    ∧ ok (h 0x10) 0x85 (rule1 (fun t => tyF t || tyI t || tyC t) true false) ∧ ok (h 0) 0x86 (rule1 (fun t => tyF t || tyI t) true false)
    ∧ ok (h 9) 0x8A (rule1 tyF false true) ∧ ok (h 9) 0x8B (rule1 tyF false true) ∧ ok (h 9) 0x8C (rule1 tyF false true)
    ∧ (let k := { g 0x10 with sub := 2 }
      ok k 0xB1 { a := .v, b := .v, c := .v, ty := tyC, sub := fun x => decide (x < 6), rm := fun _ => true, immb := true }) := by
  unfold Issues Ready
  decide +kernel

theorem witness_masked_elements :
    let f := vw 9 (.v 1) (.v 2) (.v 3)
    ∀ i ∈ [0, 63], f.d = .v 1 ∧ 0 < 32 ∧ (32 : Nat) ∣ 2048 ∧ (List.replicate 64 true).length = 2048 / 32
    ∧ (List.replicate 64 ((5, FlagSet.none) : Nat × FlagSet)).length = 2048 / 32 ∧ i < 2048 / 32 := by decide

theorem witness_vector_bits :
    let f := { vw 2 (.v 1) (.v 2) (.v 3) with c := .v 4 }
    let g := vw 2 (.v 1) (.v 2) (.v 3)
    let h := vw 6 (.v 1) (.v 2) (.g 0)
    let s := at_ .x
    Ready [f.a, f.b, f.c] [f.d] s ∧ Ready [g.a, g.b, g.c] [g.d] s ∧ Ready [h.a, h.b, h.c] [h.d] s
    ∧ (∀ op ∈ [0x8F#8, 0x90, 0x91, 0x92, 0x93, 0x94, 0x95], Issues op g.pred (vCheck bitRule2 g) s)
    ∧ (∀ op ∈ [0x96#8, 0x97], Issues op f.pred (vCheck { bitRule2 with c := .v } f) s)
    ∧ ∀ op ∈ [0x98#8, 0x99], Issues op h.pred (vCheck (rule1 tyI false false) h) s := by
  unfold Issues Ready; decide +kernel

theorem witness_vector_comparisons :
    let s := at_ .x
    (∀ b ∈ [1#6, 0xA], ∀ d ∈ [Operand.p 1, .v 1],
      let one := b == 0xA#6 || b == 0xB#6
      let f := { vw 9 d (.v 2) (if one then .g 0 else .v 3) with sub := b }
      Ready [f.a, f.b, f.c] [f.d] s
      ∧ Issues 0x8D f.pred (vCheck { d := .or .pd .vd, a := .v, b := if one then .none else .v, ty := cmpTypes f
                                     sub := vcmpSub f, immb := !one } f) s)
    ∧ (∀ c ∈ [Operand.p 1, .v 4],
      let f := { vw 9 (.v 1) (.v 2) (.v 3) with c := c }
      Ready [f.a, f.b, f.c] [f.d] s ∧ Issues 0x8E f.pred (vCheck { a := .v, b := .v, c := .or .p .vo, ty := tyAny, immb := true } f) s)
    ∧ (let f := { vw 9 (.v 1) (.v 2) (.g 0) with imm := 0xFFFF }
       Ready [f.a, f.b, f.c] [f.d] s ∧ Issues 0x9B f.pred (vCheck { rule1 tyF false true with imm := fun x => decide (x < 65536) } f) s) := by
  unfold Issues Ready; decide +kernel

theorem witness_vector_conversion :
    let s := at_ .x
    let ok (f : VForm) := Ready [f.a, f.b, f.c] [f.d] s ∧ Issues 0x9A f.pred (vCheck (vcvtRule f) f) s
    let f (ty : BitVec 5) (sub : BitVec 6) (imm : BitVec 32) := { vw ty (.v 1) (.v 2) (.g 0) with sub := sub, imm := imm }
    ok (f 9 0xA 1) ∧ ok (f 2 9 0) ∧ ok (f 0xA 9 1) ∧ ok (f 9 2 0) ∧ ok (f 0 0x20 0) ∧ ok { f 0 0x24 1 with b := .v 3 } := by
  unfold Issues Ready; decide

theorem witness_vcvt_to_mx :
    let s := at_ .x
    let f := { vw 9 (.v 1) (.v 2) (.g 0) with sub := 0xE, c := .v 4 }
    let c := ctxOf f 32 (took f.a s)
    Ready [f.a, f.b, f.c] [f.d] s ∧ Issues 0x9A f.pred (vCheck (vcvtRule f) f) s
    ∧ okE (vcvtToMx f (elemsOf 32 f.a s) c (ctxState f (took f.a s))) = true := by
  unfold Issues Ready; decide +kernel

theorem witness_vector_moves :
    let s := at_ .x
    let f (a b c : Operand) := { vw 9 (.v 1) a b with c := c }
    let rdy (f : VForm) := Ready [f.a, f.b, f.c] [f.d] s
    let ok := fun (f : VForm) (op : BitVec 8) (r : VRule) => rdy f ∧ Issues op f.pred (vCheck r f) s
    ok (f (.v 2) (.g 0) (.g 0)) 0xAA (rule1 tyAny false false)
    ∧ ok { f (.g 0) (.g 0) (.g 0) with imm := 7 } 0xAB { a := .none, ty := tyNoMx, imm := fun _ => true }
    ∧ ok (f (.v 2) (.v 3) (.g 0)) 0x9C { a := .vo, b := .v, ty := fun t => tyNoMx t && t != 0x11, immb := true }
    ∧ ok (f (.v 2) (.v 3) (.g 0)) 0x9D { a := .vo, b := .vo, ty := tyNoMx, sub := fun x => decide (x < 6) }
    ∧ ok { f (.v 2) (.g 0) (.g 0) with sub := 5 } 0x9D { a := .vo, b := .none, ty := tyNoMx, sub := fun x => decide (x < 6) }
    ∧ (∀ v : Bool, let f := f (if v then .v 2 else .g 2) (if v then .g 3 else .g 0) (.g 0)
       isVec f.a = v ∧ rdy f ∧ Issues 0x9E f.pred (fun s => (vCheck { a := .or .vo .s, b := if v then .s else .none, ty := tyNoMx, immb := v } f s).or
        (firstBroken [(v || f.ty != 0x11#5, 2)])) s)
    ∧ ok { f (.v 2) (.g 3) (.g 0) with d := .g 1 } 0x9F { d := .sd, a := .vo, b := .s, ty := fun t => tyNoMx t && t != 0x11, immb := true
                                                          mask := false, zm := false }
    ∧ ok (f (.g 2) (.g 3) (.g 0)) 0xA0 { d := .vreg, a := .s, b := .s, ty := fun t => tyNoMx t && t != 0x11, immb := true
                                         mask := false, zm := false }
    ∧ ok { f (.v 2) (.v 3) (.g 4) with imm := 1, sub := 1 } 0xB5 { a := .vo, b := .v, c := .s, ty := tyNoMx, sub := fun x => decide (x < 2), imm := fun _ => true }
    ∧ ok (f (.v 2) (.g 0) (.g 0)) 0xA7 { a := .vo, ty := tyNoMx } ∧ ok (f (.v 2) (.g 0) (.g 0)) 0xA8 { a := .vo, ty := tyNoMx }
    ∧ ok { f (.g 2) (.g 3) (.g 0) with ty := 2 } 0xA9 { a := .s, b := .s, ty := tyI, immb := true } := by
  refine ⟨?_, ?_, ?_, ?_, ?_, ?_, ?_, ?_, ?_, ?_, ?_, ?_⟩ <;> (unfold Issues Ready; decide +kernel)

theorem witness_vector_reductions :
    let s := at_ .x
    (∀ d ∈ [Operand.g 1, .v 1], ∀ ty ∈ [2#5, 9, 0x10],
      let f := vw ty d (.v 2) (.g 0)
      Ready [f.a, f.b, f.c] [f.d] s
      ∧ Issues 0xA1 f.pred (fun s => (vCheck (redRule f true true) f s).or (firstBroken [(f.ty != 0x11#5 || VUse.ok s f.d .vd, 1)])) s
      ∧ (ty = 0x10 ∨ (Issues 0xA2 f.pred (vCheck (redRule f false false) f) s ∧ Issues 0xA3 f.pred (vCheck (redRule f false false) f) s)))
    ∧ (∀ ty ∈ [2#5, 9], let f := { vw ty (.v 1) (.v 2) (.g 0) with imm := 6 }
      Ready [f.a, f.b, f.c] [f.d] s ∧ Issues 0xA4 f.pred (vCheck (segRule f false false) f) s ∧ Issues 0xA5 f.pred (vCheck (segRule f true true) f) s
      ∧ Issues 0xA6 f.pred (vCheck { segRule f true true with sub := fun x => decide (x < 8) && x % 4 != 3 } f) s)
    ∧ (let f := { vw 9 (.v 1) (.v 2) (.g 0) with imm := 2 }
      Ready [f.a, f.b, f.c] [f.d] s
      ∧ Issues 0xAE f.pred (vCheck { a := .vo, ty := fun t => t == 8 || t == 9, rm := fun _ => true
                                     imm := fun x => segOk f.ty.toNat x && x != 1, zm := false } f) s) := by
  refine ⟨?_, ?_, ?_⟩ <;> (unfold Issues Ready; decide +kernel)

/-- A function image in task slot 0, as VSFL took it from LS offset 0: both forms, actions zero, one segment. -/
def withSfn : State := modCur (fun t => { t with sfn := t.sfn.set 0 (some ⟨0, [0x3000000000000000]⟩) }) (at_ .x)

theorem witness_vector_predicates :
    let s := at_ .x
    (∀ x ∈ [(0xF#6, Operand.p 1, Operand.p 2, Operand.p 3), (16, .v 1, .p 2, .g 0), (32, .p 1, .v 2, .g 0)],
      let f := { vw 9 x.2.1 x.2.2.1 x.2.2.2 with sub := x.1 }
      Ready [f.a, f.b, f.c] [f.d] s ∧ Issues 0xB3 f.pred (vCheck (vplogRule f) f) s)
    ∧ (let f := vw 9 (.g 1) (.p 0) (.g 0)
       let g := vw 9 (.g 1) (.p 1) (.g 0)
       Ready [f.a, f.b, f.c] [f.d] s ∧ Issues 0xB2 f.pred (vCheck countRule f) s ∧ Issues 0xB4 f.pred (vCheck countRule f) s
       ∧ (countedBits f (s.peekSrc f.a) (took f.a s)).head? = some 0
       ∧ Ready [g.a, g.b, g.c] [g.d] s ∧ Issues 0xB4 g.pred (vCheck countRule g) s ∧ (countedBits g (s.peekSrc g.a) (took g.a s)).head? = none)
    ∧ (let f := { vw 0 (.v 1) (.v 2) (.v 3) with c := .v 4, sub := 1, sat := true }
       Ready [f.a, f.b, f.c] [f.d] s
       ∧ Issues 0xB6 f.pred (vCheck { rule3 (fun t => t == 0 || t == 1 || t == 4 || t == 5) true false with sub := fun x => decide (x < 2) } f) s) := by
  unfold Issues Ready; decide +kernel

theorem witness_special_functions :
    (let f := vw 9 (.v 1) (.v 2) (.g 0)
     let s := at_ .x
     Ready [f.a, f.b, f.c] [f.d] s ∧ Issues 0xAC f.pred (vCheck (vsfnRule f) f) s ∧ f.sub.toNat < 16)
    ∧ (let f := { vw 9 (.v 1) (.v 2) (.g 0) with sub := 16 }
       ∀ same : Bool, let s := if same then modCur (fun t => t.lsWrite 0 (natBytes 8 0x3000000000000000)) (withSfn) else withSfn
       Ready [f.a, f.b, f.c] [f.d] s ∧ Issues 0xAC f.pred (vCheck (vsfnRule f) f) s
       ∧ (s.task.sfn[f.sub.toNat - 16]?).getD none = some ⟨0, [0x3000000000000000]⟩
       ∧ formsCover 0x3000000000000000 f.ty.toNat = true
       ∧ (imageAt s.task 0 1 = [0x3000000000000000] ↔ same = true))
    ∧ ∀ same : Bool, let s := if same then modCur (fun t => t.lsWrite 0 (natBytes 8 0x3000000000000000)) (withSfn) else withSfn
       lsCheck .plain 0 8 s = .ok ((), s) ∧ lsClean 0 8 s = .ok ((), s) := by
  refine ⟨?_, ?_, fun same => ?_⟩
  · unfold Issues Ready; decide +kernel
  · intro f same; revert same; unfold Issues Ready; decide +kernel
  · cases same <;> exact ⟨rfl, clean_rows (by decide) _ _ _ _⟩

theorem witness_vsfl :
    let f := { vw 0 (.g 0) (.g 2) (.g 0) with imm := 16 }
    ∀ good : Bool, let s := if good then modCur (fun t => t.lsWrite 0 (natBytes 8 0x30000001314E4653)) (at_ .x) else at_ .x
    let off := (s.peekSrc f.a).toNat
    Ready [f.a, f.b, f.c] [f.d] s
    ∧ Issues 0xAD f.pred (vCheck { d := .none, a := .s, ty := fun t => t == 0, mask := false, zm := false
                                   imm := fun x => decide (16 ≤ x) && decide (x < 24) } f) s
    ∧ off % 8 = 0 ∧ (imageFault (took f.a s).task off (imageAt (took f.a s).task off (imgLen ((imageAt (took f.a s).task off 1).headD 0).toNat)) = none
        ↔ good = true) ∧ (took f.a s).task.lsPoison = [] := by
  intro f good; revert good; unfold Issues Ready; decide +kernel

/-- The X stream with a .bf16 format word for K of 1 on q14: B in rows of pitch 32·p. -/
def formatWord (p : Nat) : BitVec 64 := BitVec.ofNat 64 (0xA + 2 ^ 5 * 0xA + 2 ^ 12 * p + 2 ^ 23 + 2 ^ 34)
def withFmt (p : Nat) : State := modCur (fun t => { t with q14 := [formatWord p] }) (at_ .x)

theorem witness_tile_products :
    (let f := { sysw (.t 1) (.g 2) (.g 3) (.g 0) with sub := 1 }
     let s := withFmt 4
     let t := took f.b (took f.a s)
     ∃ h, Issues 0xC0 f.pred (sysCheck mmaRule f) s ∧ s.task.q14.head? = some (formatWord 4)
     ∧ gateRings [ringNamed f.ring1, ringNamed f.ring2] s = .ok ((), s) ∧ f.sub.getLsbD 0 = true ∧ mmaShape false (formatWord 4) = some h
     ∧ checkArgs [lsArg t (ringNamed f.ring1) (s.peekSrc f.a) (h.apitch * 63 + rowBytes h.aty h.k),
         lsArg t (ringNamed f.ring2) ((took f.a s).peekSrc f.b) (h.bpitch * (h.bRows false - 1) + rowBytes h.bty (h.bElems false))] t = .ok ((), t)
     ∧ lsCleanRows 0 h.apitch 64 (rowBytes h.aty h.k) t = .ok ((), t)
     ∧ lsCleanRows 0 h.bpitch (h.bRows false) (rowBytes h.bty (h.bElems false)) t = .ok ((), t)
     ∧ MayPop [(ringNamed f.ring1, f.sub.getLsbD 1), (ringNamed f.ring2, f.sub.getLsbD 2)] s)
    ∧ (let f := sysw (.t 1) (.g 2) (.g 3) (.g 0)
     let s := withFmt 1
     let t := took f.b (took f.a s)
     ∃ h, Issues 0xC1 f.pred (sysCheck mmaRule f) s ∧ s.task.q14.head? = some (formatWord 1)
     ∧ gateRings [ringNamed f.ring1, ringNamed f.ring2] s = .ok ((), s) ∧ (t.tile (tileNum f.d)).mode = h.mode ∧ mmaShape true (formatWord 1) = some h
     ∧ checkArgs [lsArg t (ringNamed f.ring1) (s.peekSrc f.a) (h.apitch * 63 + rowBytes h.aty h.k),
         lsArg t (ringNamed f.ring2) ((took f.a s).peekSrc f.b) (h.bpitch * (h.bRows true - 1) + rowBytes h.bty (h.bElems true))] t = .ok ((), t)
     ∧ checkBeats 0 h.apitch 64 (rowBytes h.aty h.k) 0 t = .ok ((), t)
     ∧ checkBeats 0 h.bpitch (h.bRows true) (rowBytes h.bty (h.bElems true)) 1 t = .ok ((), t)
     ∧ lsCleanRows 0 h.apitch 64 (rowBytes h.aty h.k) t = .ok ((), t)
     ∧ lsCleanRows 0 h.bpitch (h.bRows true) (rowBytes h.bty (h.bElems true)) t = .ok ((), t)
     ∧ MayPop [(ringNamed f.ring1, f.sub.getLsbD 1), (ringNamed f.ring2, f.sub.getLsbD 2)] s) := by
  refine ⟨⟨_, ?_, rfl, rfl, ?_, rfl, rfl, clean_rows (by decide) _ _ _ _, clean_rows (by decide) _ _ _ _, ?_⟩,
    ⟨_, ?_, rfl, rfl, ?_, rfl, rfl, rfl, rfl, clean_rows (by decide) _ _ _ _, clean_rows (by decide) _ _ _ _, ?_⟩⟩
  all_goals first | (unfold Issues; decide) | (unfold MayPop Released; decide) | decide

theorem witness_tile_words :
    let s := at_ .x
    (let f := { sysw (.t 1) (.g 0) (.g 0) (.g 0) with sub := 2 }
     Issues 0xC2 f.pred (sysCheck { matRule with d := .tile, sub := fun x => decide (x.toNat < 3) } f) s)
    ∧ (let f := { sysw (.v 1) (.t 2) (.g 3) (.g 0) with sub := 9 }
       let t := (took f.b s).tile (tileNum f.a)
       Issues 0xC3 f.pred (sysCheck { matRule with d := .vdst, a := .tile, b := .src, rm := true, sub := fun x => decide (x.toNat < 64) } f) s
       ∧ Ready [f.b] [f.d] s ∧ getTyOk t.mode 9 = true ∧ (lineCells t.mode (f.sub.getLsbD 5) (s.peekSrc f.b) (halfLine t.mode (f.sub.getLsbD 5) 9)).isSome = true)
    ∧ (let f := { sysw (.t 1) (.v 2) (.g 3) (.g 0) with sub := 9 }
       let t := (took f.b (took f.a s)).tile (tileNum f.d)
       Issues 0xC4 f.pred (sysCheck { matRule with d := .tile, a := .vsrc, b := .src, sub := fun x => decide (x.toNat < 64) } f) s
       ∧ Ready [f.a, f.b] [] s ∧ putTyOk t.mode 9 = true
       ∧ (lineCells t.mode (f.sub.getLsbD 5) ((took f.a s).peekSrc f.b) (t.mode == 2 && f.sub.getLsbD 5)).isSome = true)
    ∧ (∀ k : Bool, let f := { sysw (.t 1) (.g 2) (.g 0) (.g 0) with sub := if k then 1 else 0 }
       Issues 0xC5 f.pred (sysCheck { matRule with d := .tile, a := .src, rm := true, sub := fun x => decide (x.toNat < 2) } f) s
       ∧ Ready [f.a] [] s ∧ (s.tile (tileNum f.d)).mode ≠ 1 ∧ (s.peekSrc f.a).toNat < 2 ^ 16)
    ∧ (let f := { sysw (.g 0) (.g 0) (.g 0) (.g 0) with ring1 := 9 }
       let s := modCur (fun t => t.modRing 1 (fun r => r.claim.setFull r.tail)) (withRing (at_ .x))
       Issues 0xC7 f.pred (sysCheck { matRule with ring1 := fun r => r.getLsbD 3 } f) s
       ∧ (s.ringOf (ringField f.ring1)).en = true ∧ (s.ringOf (ringField f.ring1)).headFull = true ∧ Released s)
    ∧ (let f := sysw (.g 1) (.t 2) (.g 3) (.g 0)
       Issues 0xC8 f.pred (sysCheck { matRule with d := .dst, a := .tile, b := .src } f) s ∧ Ready [f.b] [f.d] s)
    ∧ (∀ eq : Bool, ∀ tr : Bool, let f := { sysw (.p 1) (.g 2) (.g 3) (.g 0) with sub := if tr then 1 else 0, imm := 5 }
       let s := setG 2 (if eq then 0 else 1) s
       Issues 0xC9 f.pred (sysCheck { matRule with d := .pred, a := .src, b := .src, sub := fun x => decide (x.toNat < 2), imm := fun _ => true } f) s
       ∧ Ready [f.a, f.b] [] s ∧ (s.peekSrc f.a = (took f.a s).peekSrc f.b ↔ eq = true) ∧ f.sub.getLsbD 0 = tr)
    ∧ (let f := sysw (.g 1) (.g 0) (.g 0) (.g 0)
       Issues 0xCF f.pred (sysCheck { matRule with d := .greg } f) (withFmt 4) ∧ (withFmt 4).task.q14 = [formatWord 4]) := by
  refine ⟨?_, ?_, ?_, ?_, ?_, ?_, ?_, ?_⟩ <;> (try unfold Ready) <;> (try unfold Released) <;> (unfold Issues; decide +kernel)

/-- A plane of 2 by 4 .f32 elements at IA 0x100, a destination for DRAIN. -/
def planeShape : Nat := 0x100 + 2 ^ 58 + 2 ^ 61 * 7 + 2 ^ 64 * 9 + 2 ^ 72 * 4 + 2 ^ 92 * 2 + 2 ^ 208 * 4

theorem witness_drain :
    let f := { ew (.t 1) (.g 3) with obj := 0x30 }
    let s := withObj 0x30 1 planeShape (mapped .x)
    let h := shapeOf planeShape
    let rec_ := bytesNat (s.task.lsRead 0 48)
    (useObj f.obj 1 drainRank (drainRight (f.sub.getLsbD 0)) s = .ok (planeShape, s) ∧ lsCheck .plain 0 48 s = .ok ((), s) ∧ lsClean 0 48 s = .ok ((), s))
    ∧ Issues 0xC6 f.pred (eCheck { a := .tile, b := .greg, sub := fun x => decide (x.toNat < 2), wait := true, sig := true, obj := true } f) s
    ∧ s.task.logWait = [] ∧ s.task.jobs < 16 ∧ writesPerformed s.task 2#2 = true ∧ stagedDrains s < 2 ∧ (s.peekSrc f.b).toNat = 0
    ∧ drainRecOk h.rank rec_ = true ∧ drainTyOk (s.tile (tileNum f.a)).mode (f.sub.getLsbD 0) h.fmt = true
    ∧ s.chans[(Fin.ofNat 32 (bits rec_ 288 5) : Fin 32)].queue.length < 16 ∧ s.aperture = [] := by
  refine ⟨⟨rfl, rfl, clean_rows (by decide) _ _ _ _⟩, ?_⟩
  unfold Issues; decide +kernel

/-- The plan of a transform of 2 points in .c32, and a Legendre plan of one row, one term, through ring 1. -/
def fftPlan : Nat := 2 + 2 ^ 32 + 2 ^ 64 + 2 ^ 128 * 16 + 2 ^ 149 * 16
def legendrePlan : Nat := 1 + 2 ^ 8 + 2 ^ 15 + 2 ^ 60 + 2 ^ 64 * 4 + 2 ^ 85 * 256

theorem witness_fftset :
    (∀ good : Bool, let f := { ew (.g 0) (.g 0) with obj := 0x30 }
     let x := if good then fftPlan else 2 ^ 60 * 2
     let s := withObj 0x30 6 x (mapped .x)
     Issues 0xCA f.pred (eCheck { a := .unused, b := .unused, sub := fun x => decide (x.toNat < 4), wait := true, sig := true, obj := true } f) s
     ∧ (planBad x = none ↔ good = true))
    ∧ ∀ good : Bool, let x := if good then fftPlan else 2 ^ 60 * 2
     let s := withObj 0x30 6 x (mapped .x)
     gateWait (waitOf 0 0 0) s = .ok ((), s) ∧ useObj 0x30 6 (fun _ => true) (fun _ => true) s = .ok (x, s) := by
  refine ⟨?_, ?_⟩
  · unfold Issues; decide +kernel
  · intro good; cases good <;> exact ⟨rfl, rfl⟩

theorem witness_shtl :
    let f := { ew (.t 1) (.g 3) with obj := 0x30, sub := 2 }
    let s := withObj 0x30 6 legendrePlan (modCur (fun t => t.modRing 1 (fun r => r.claim.setFull r.tail)) (withRing (mapped .x)))
    let l := legendreOf legendrePlan
    let v := took f.b s
    let p := lsArg v (some l.ring) 0 (l.rows * l.tpitch)
    let fo := lsArg v none (s.peekSrc f.b) ((l.k - 1) * l.fpitch + modeCols l.mode * l.z)
    (gateWait (waitOf f.wmode f.wsem f.wthr) s = .ok ((), s) ∧ useObj f.obj 6 legendreOk (fun _ => true) s = .ok (legendrePlan, s)
     ∧ gateRings [some l.ring] s = .ok ((), s) ∧ checkArgs [fo, p] v = .ok ((), v)
     ∧ lsCleanRows p.off l.tpitch l.rows (l.k * l.z) v = .ok ((), v) ∧ lsCleanRows fo.off l.fpitch l.k (modeCols l.mode * l.z) v = .ok ((), v)
     ∧ MayPop [(some l.ring, f.sub.getLsbD 0)] v)
    ∧ f.sub.getLsbD 1 = true
    ∧ Issues 0xCD f.pred (eCheck { a := .tile, b := .greg, sub := fun x => decide (x.toNat < 4), wait := true, sig := true, obj := true } f) s := by
  refine ⟨⟨rfl, rfl, rfl, rfl, clean_rows (by decide) _ _ _ _, clean_rows (by decide) _ _ _ _, by unfold MayPop Released; decide⟩, ?_⟩
  unfold Issues; decide +kernel

theorem witness_fftrun_spmul :
    (let f := sysw (.g 0) (.g 2) (.g 3) (.g 0)
     let s := setG 3 0x100 (modCur (fun t => { t with plans := t.plans.set 0 (some (BitVec.ofNat 512 fftPlan)) }) (at_ .x))
     let t := took f.b (took f.a s)
     let p := planOf fftPlan
     (gateRings [ringNamed f.ring1] s = .ok ((), s) ∧ t.task.plans[f.sub.toNat % 4]? = some (some (BitVec.ofNat 512 fftPlan))
      ∧ checkArgs [lsArg t (ringNamed f.ring1) (s.peekSrc f.a) ((p.batch - 1) * p.ibatch + p.n * p.es),
          lsArg t none ((took f.a s).peekSrc f.b) ((p.batch - 1) * p.obatch + p.n * p.es)] t = .ok ((), t)
      ∧ lsCleanRows 0 p.ibatch p.batch (p.n * p.es) t = .ok ((), t) ∧ MayPop [(ringNamed f.ring1, f.sub.getLsbD 2)] t)
     ∧ Issues 0xCB f.pred (sysCheck { matRule with a := .greg, b := .greg, sub := fun x => decide (x.toNat < 8), ring1 := ringOpt } f) s)
    ∧ (let f := { sysw (.g 0) (.g 2) (.g 3) (.g 4) with imm := 4 + 2 ^ 13 * 2 }
       let s := at_ .x
       (gateRings [ringNamed f.ring1, ringNamed f.ring2] s = .ok ((), s)
        ∧ checkArgs [lsArg s none 0 32, lsArg s none 0 24, lsArg s none 0 32] s = .ok ((), s)
        ∧ lsClean 0 32 s = .ok ((), s) ∧ lsClean 0 24 s = .ok ((), s)
        ∧ MayPop [(ringNamed f.ring1, f.sub.getLsbD 2), (ringNamed f.ring2, f.sub.getLsbD 3)] s)
       ∧ Issues 0xCC f.pred (sysCheck { matRule with a := .greg, b := .greg, c := .greg, sub := fun x => decide (x.toNat < 16)
                                                     ring1 := ringOpt, ring2 := ringOpt, imm := spmulOk (f.sub.getLsbD 0) } f) s) := by
  refine ⟨⟨⟨rfl, rfl, rfl, clean_rows (by decide) _ _ _ _, by unfold MayPop Released; decide⟩, ?_⟩,
    ⟨⟨rfl, rfl, clean_rows (by decide) _ _ _ _, clean_rows (by decide) _ _ _ _, by unfold MayPop Released; decide⟩, ?_⟩⟩ <;>
    (unfold Issues; decide +kernel)

theorem witness_blkt (d : Bool) :
    let f := sysw (.g 0) (.g 2) (.g 3) (.g 4)
    let b : BitVec 64 := if d then 0x20 else 0
    let s := setG 3 b (setG 4 1 (at_ .x))
    Issues 0xCE f.pred (sysCheck { matRule with a := .greg, b := .greg, c := .src, sub := fun x => decide (x.toNat < 2) } f) s
    ∧ Ready [f.c] [] s ∧ (s.peekSrc f.a).toNat % 32 = 0 ∧ ((took f.a s).peekSrc f.b) = b ∧ b.toNat % 32 = 0
    ∧ ((took f.b (took f.a s)).peekSrc f.c).toNat = 1
    ∧ checkArgs [lsArg s none (s.peekSrc f.a) 256, lsArg s none b 256] s = .ok ((), s) ∧ lsClean (s.peekSrc f.a).toNat 256 s = .ok ((), s)
    ∧ (s.peekSrc f.a ≠ b ∧ overlaps 0 256 b.toNat 256 = true ↔ d = true) := by
  cases d <;> refine ⟨?_, ?_, ?_, ?_, ?_, ?_, rfl, clean_rows (by decide) _ _ _ _, ?_⟩
  all_goals first | decide | (unfold Issues; decide) | (unfold Ready; decide)

theorem witness_scalar_stores :
    ∀ ls : Bool,
    let f := { memw (.g 4) (.g 2) (.g 3) 3 with lsel := ls }
    let s := mapped .s
    let va := (accessVa f s).toNat
    let t := took f.d (accessT f s)
    let bs := natBytes (sizeBytes f.size) ((accessT f s).peekSrc f.d).toNat
    s.task.logWait = [] ∧ Ready [f.base, f.index, f.d] [] s ∧ writesPerformed s.task f.scope = true
    ∧ Issues 0xD0 f.pred (mCheck { storeRule with lsel := true, hint := true } f) s
    ∧ (ls = true ∨ Issues 0xD1 f.pred (mCheck { storeRule with scope := true } f) s)
    ∧ (f.lsel = true → lsCheck .noStash va bs.length t = .ok ((), t) ∧ ∃ x u, lsStore va bs t = .ok (x, u))
    ∧ (f.lsel = false → (∃ ia u x v, windowIa f.win.toNat va bs.length .w .plain none t = .ok (ia, u)
        ∧ storeMem 0xD0 f false (f.hint == 1#3) [(va, ia, bs)] u = .ok (x, v))
      ∧ ∃ ia u x v, windowIa f.win.toNat va bs.length .w .plain none t = .ok (ia, u)
        ∧ storeMem 0xD1 f false (f.hint == 1#3) [(va, ia, bs)] u = .ok (x, v)) := by
  intro ls
  cases ls <;> refine ⟨?_, ?_, ?_, ?_, ?_, ?_, ?_⟩
  all_goals first
    | decide +kernel | (unfold Ready; decide +kernel) | (unfold Issues; decide +kernel)
    | exact fun _ => ⟨rfl, ok1 (by decide +kernel)⟩ | exact fun h => absurd h (by decide)
    | exact fun _ => ⟨ok2 (by decide +kernel), ok2 (by decide +kernel)⟩

theorem witness_vector_stores :
    ∀ ls : Bool,
    let f := { memw (.q 13) (.g 2) (.g 3) 7 with lsel := ls }
    let s := modCur (fun t => t.pushQ 13 7) (setG 3 (2 ^ 16 * 128 + 128) (mapped .s))
    let t := took f.d (took f.index (took f.base s))
    let v := (took f.index (took f.base s)).task.headQ 13
    let bs := ((bytesOfVec v).drop 128).take 128
    s.task.logWait = [] ∧ Ready [f.base, f.d] [] s ∧ byteRange ((took f.base s).peekSrc f.index) = some (128, 128)
    ∧ (mBase f (s.peekSrc f.base)).toNat + 128 = 128
    ∧ Issues 0xD2 f.pred (mCheck { vstoreRule with hint := true, lsel := ls } f) s
    ∧ (ls = false → Issues 0xD2 f.pred (mCheck { vstoreRule with hint := true } f) s ∧ Issues 0xE5 f.pred (mCheck vstoreRule f) s
      ∧ (∃ ia u x w, windowIa f.win.toNat (128 % 2 ^ 64) 128 .w .plain none t = .ok (ia, u)
        ∧ storeMem 0xD2 f false (f.hint == 1#3) [(128 % 2 ^ 64, ia, bs)] u = .ok (x, w))
      ∧ ∃ ia u x w, windowIa f.win.toNat (128 % 2 ^ 64) 128 .w .plain none t = .ok (ia, u)
        ∧ storeMem 0xE5 f false true [(128 % 2 ^ 64, ia, bs)] u = .ok (x, w))
    ∧ (ls = true → Issues 0xE7 f.pred (mCheck { vstoreRule with lsel := true, onlyLs := true, tag := false } f) s
      ∧ lsCheck .noStash 128 128 t = .ok ((), t) ∧ ∃ x u, lsStore 128 bs t = .ok (x, u)) := by
  intro ls
  cases ls <;> refine ⟨?_, ?_, ?_, ?_, ?_, ?_, ?_⟩
  all_goals first
    | decide +kernel | (unfold Ready; decide +kernel) | (unfold Issues; decide +kernel)
    | exact fun h => absurd h (by decide)
    | exact fun _ => ⟨by unfold Issues; decide +kernel, by unfold Issues; decide +kernel, ok2 (by decide +kernel), ok2 (by decide +kernel)⟩
    | exact fun _ => ⟨by unfold Issues; decide +kernel, rfl, ok1 (by decide +kernel)⟩

theorem witness_zero :
    let f := memw (.g 0) (.g 2) (.g 3) 0
    let s := setG 3 128 (mapped .s)
    let t := took f.index (took f.base s)
    s.task.logWait = [] ∧ Ready [f.base] [] s ∧ (mBase f (s.peekSrc f.base)).toNat = 0 ∧ ((took f.base s).peekSrc f.index).toNat = 128
    ∧ Issues 0xE4 f.pred (mCheck { storeRule with dOk := fun _ o => o == .g 0, indexOk := fun _ o => isG o
                                                  size := fun x => x == 0#3, scale := false, tag := false } f) s
    ∧ ∃ ia u x v, windowIa f.win.toNat 0 128 .w .plain none t = .ok (ia, u)
      ∧ storeMem 0xE4 f false false [(0, ia, List.replicate 128 0)] u = .ok (x, v) := by
  refine ⟨?_, ?_, ?_, ?_, ?_, ok2 (by decide +kernel)⟩
  all_goals first | decide +kernel | (unfold Ready; decide +kernel) | (unfold Issues; decide +kernel)

theorem witness_element_stores :
    let f := memw (.q 13) (.g 2) (.g 3) 3
    let s := modCur (fun t => t.pushQ 13 7) (setG 3 8 (mapped .s))
    let u := modCur (fun t => t.pushQ 13 7) (mapped .s)
    let st (s : State) := took f.d (took f.index (took f.base s))
    let vec (s : State) := (took f.index (took f.base s)).task.headQ 13
    (s.task.logWait = [] ∧ Ready [f.base, f.d] [] s ∧ Issues 0xD3 f.pred (mCheck elemRule f) s
    ∧ ∃ x w, storeElems 0xD3 f (vec s) ((stridedAddrs f (s.peekSrc f.base) ((took f.base s).peekSrc f.index)).map (fun a => some a.toNat)) (st s) = .ok (x, w))
    ∧ u.task.logWait = [] ∧ Ready [f.base, f.d] [] u ∧ Issues 0xD4 f.pred (mCheck { elemRule with scale := true } f) u
    ∧ lsCheck .plain 0 128 (st u) = .ok ((), st u) ∧ lsClean 0 128 (st u) = .ok ((), st u) ∧ ((took f.base u).peekSrc f.index).toNat = 0
    ∧ ∃ x w, storeElems 0xD4 f (vec u) (indexedAddrs f (u.peekSrc f.base) (bytesElems 4 32 ((st u).task.lsRead 0 128))) (st u) = .ok (x, w) := by
  refine ⟨⟨?_, ?_, ?_, ok1 (by decide +kernel)⟩, ?_, ?_, ?_, rfl, clean_rows (by decide) _ _ _ _, ?_, ok1 (by decide +kernel)⟩
  all_goals first | decide +kernel | (unfold Ready; decide +kernel) | (unfold Issues; decide +kernel)

theorem witness_atomics :
    let s := mapped .s
    (let f := { memw (.g 1) (.g 2) (.g 3) 3 with opk := 9, ord := 3, scope := 3 }
     let va := (mBase f (s.peekSrc f.base)).toNat
     let t := took f.index (took f.base s)
     s.task.logWait = [] ∧ writesPerformed s.task f.scope = true ∧ Ready [f.base, f.index] [f.d] s
     ∧ Issues 0xD5 f.pred (mCheck { atomicRule with dOk := fun s o => if f.opk = 9#4 then isG o else dstOk s o
                                                    opk := fun x => decide (x.toNat ≤ 0xC), ord := fun _ => true } f) s
     ∧ ∃ ia u x w, atomicIa f va none t = .ok (ia, u) ∧ atomicReply f ia ((took f.base s).peekSrc f.index).toNat (s.readG 1).toNat u = .ok (x, w))
    ∧ (let f := { memw (.g 0) (.g 2) (.g 3) 3 with ord := 2, scope := 3 }
       let va := (mBase f (s.peekSrc f.base)).toNat
       let t := took f.index (took f.base s)
       Ready [f.base, f.index] [] s ∧ Issues 0xD7 f.pred (mCheck atomicRule f) s
       ∧ ∃ ia u x w, atomicIa f va none t = .ok (ia, u) ∧ reduceMem 0xD7 f [(va, ia, ((took f.base s).peekSrc f.index).toNat)] u = .ok (x, w)) := by
  refine ⟨⟨?_, ?_, ?_, ?_, ok2 (by decide +kernel)⟩, ?_, ?_, ok2 (by decide +kernel)⟩
  all_goals first | decide +kernel | (unfold Ready; decide +kernel) | (unfold Issues; decide +kernel)

theorem witness_vector_atomics :
    let s := modCur (fun t => t.pushQ 13 7) (mapped .s)
    (let f := memw (.g 0) (.g 2) (.q 13) 3
     let va := (mBase f (s.peekSrc f.base)).toNat
     let t := took f.index (took f.base s)
     let v := (took f.base s).task.headQ 13
     Ready [f.base, f.index] [] s ∧ Issues 0xD8 f.pred (mCheck { atomicRule with indexOk := dataQ } f) s
     ∧ ∃ ias u x w, atomicIas f va t = .ok (ias, u)
        ∧ reduceMem 0xD8 f (((List.range ias.length).zip ias).map (fun (x : Nat × Nat) => ((va + x.1 * 8) % 2 ^ 64, x.2, elemN v 64 x.1))) u = .ok (x, w))
    ∧ (let f := memw (.g 4) (.g 2) (.q 13) 3
       let va := (mBase f (s.peekSrc f.base)).toNat
       let t := took f.index (took f.base s)
       let v := (took f.base s).task.headQ 13
       Ready [f.base, f.index] [] s
       ∧ Issues 0xD6 f.pred (mCheck { atomicRule with dOk := fun _ o => isG o, indexOk := dataQ, ord := fun _ => true } f) s
       ∧ (t.peekSrc f.d).toNat % 32 = 0 ∧ lsCheck .plain (t.peekSrc f.d).toNat 256 (took f.d t) = .ok ((), took f.d t)
       ∧ ∃ ias u, atomicIas f va (took f.d t) = .ok (ias, u)
         ∧ ∃ olds w x y, ((List.range ias.length).zip ias).mapM (fun (x : Nat × Nat) => atomicReply f x.2 (elemN v 64 x.1) 0) u = .ok (olds, w)
           ∧ lsStore (t.peekSrc f.d).toNat (elemsBytes 8 olds) w = .ok (x, y)) := by
  refine ⟨⟨?_, ?_, ok2 (by decide +kernel)⟩, ?_, ?_, ?_, rfl, ?_⟩
  case refine_6 =>
    obtain ⟨ias, u, _, _, h, k⟩ := ok2 (x := atomicIas (memw (.g 4) (.g 2) (.q 13) 3) 0) (f := fun ias => do
      let olds ← ((List.range ias.length).zip ias).mapM (fun (x : Nat × Nat) => atomicReply (memw (.g 4) (.g 2) (.q 13) 3) x.2 (elemN ((took (.g 2) (modCur (fun t => t.pushQ 13 7) (mapped .s))).task.headQ 13) 64 x.1) 0)
      lsStore 0 (elemsBytes 8 olds)) (s := took (.g 4) (took (.q 13) (took (.g 2) (modCur (fun t => t.pushQ 13 7) (mapped .s))))) (by decide +kernel)
    exact ⟨ias, u, h, ok2 (congrArg okE k)⟩
  all_goals first | decide +kernel | (unfold Ready; decide +kernel) | (unfold Issues; decide +kernel)

theorem witness_atomic_width : ((4 : Nat) = 4 ∨ (4 : Nat) = 8) ∧ ((8 : Nat) = 4 ∨ (8 : Nat) = 8) := by decide

theorem witness_rstv :
    let f := { memw (.q 13) (.g 2) (.g 3) 7 with ord := 2, scope := 3 }
    let s := modCur (fun t => t.pushQ 13 7) (mapped .s)
    let x := (took f.base s).peekSrc f.index
    let t := took f.d (took f.index (took f.base s))
    Issues 0xE2 f.pred (mCheck { vstoreRule with ord := fun x => x == 0#2 || x == 2#2, scope := true, disp := false } f) s
    ∧ Ready [f.base, f.d] [] s ∧ s.task.logWait = [] ∧ writesPerformed s.task f.scope = true ∧ s.task.sendS.length < 16 ∧ s.offDie s.task < 64
    ∧ (s.peekSrc f.base).toNat % 64 = 0 ∧ bits x.toNat 53 11 = 0 ∧ bits x.toNat 16 16 = 0 ∧ bits x.toNat 32 21 % 32 = 0
    ∧ ∃ ia u, windowIa f.win.toNat (s.peekSrc f.base).toNat 64 .a .atomic none t = .ok (ia, u) := by
  refine ⟨?_, ?_, ?_, ?_, ?_, ?_, ?_, ?_, ?_, ?_, ok1 (by decide +kernel)⟩
  all_goals first | decide +kernel | (unfold Ready; decide +kernel) | (unfold Issues; decide +kernel)

theorem witness_rrput :
    let f := ew (.g 2) (.g 3)
    let b : BitVec 64 := 2 ^ 19 + 2 ^ 16
    let s := setG 3 b (setG 2 0x40 (modCur (fun t => t.modRing 1 (fun _ => { Ring.init with cfg := ringCfg, en := true })) { grouped with cur := .s }))
    let v := (keptSources [f.a, f.b] s).2
    let w := modStrm (fun r => { r with wait := some .reply }) s
    let m : RrputMsg := ⟨0, 0, 0, 0, [], 0, 0, 0, 0⟩
    let x := modCur (fun t => { t with sendS := [.rrput m] }) w
    let ok (s : State) := Issues 0xE6 f.pred (eCheck { a := .src, b := .src, sub := fun x => decide (x.toNat < 8), wait := true, sig := true, obj := false } f) s
    (gateWait (waitOf f.wmode f.wsem f.wthr) v = .ok ((), v) ∧ NamesObject f.sub.toNat 0x40 64 64 .a 0x40 v
      ∧ lsCheck .plain 0 256 v = .ok ((), v) ∧ lsClean 0 256 v = .ok ((), v) ∧ (keptSources [f.a, f.b] s).1 = [0x40, b])
    ∧ (ok w ∧ w.strm.wait = some .reply ∧ w.task.sendS = [] ∧ ok x ∧ x.strm.wait = some .reply ∧ x.task.sendS ≠ [])
    ∧ ok s ∧ s.strm.wait ≠ some .reply ∧ (s.strm.srcs = none → Ready [f.a, f.b] [] s) ∧ v.task.logWait = [] ∧ s.task.sendS.length < 16
    ∧ v.offDie v.task < 64 ∧ bits b.toNat 31 1 = 0 ∧ bits b.toNat 53 11 = 0
    ∧ bits b.toNat 19 12 = 1 ∧ bits b.toNat 32 21 = 0 ∧ bits b.toNat 0 16 = 0 ∧ bits b.toNat 16 3 = 1
    ∧ (rankTask s 0x40 0).isSome = true ∧ ∀ t, rankTask s 0x40 0 = some t → t.rings[1].en = true ∧ 256 ≤ ringSlotBytes t.rings[1].cfg
    ∧ writesPerformed s.task (scopeTo s (some t)) = true := by
  refine ⟨⟨rfl, names_of (by decide +kernel), rfl, clean_rows (by decide) _ _ _ _, by decide +kernel⟩, ?_, ?_, ?_, ?_, ?_, ?_, ?_, ?_, ?_, ?_, ?_, ?_, ?_, ?_, ?_⟩
  all_goals first | decide +kernel | (unfold Issues; decide +kernel) | (unfold Ready; decide +kernel)

/-- SFLUSH of a whole mapping, of one line of it, of a dirty line, and of one that waits for the line it has written back. -/
theorem witness_sflush :
    let f := sysw (.g 0) (.g 0) (.g 0) (.g 4)
    let m (d : Bool) : Stash := ⟨0, 0x1000, 0x8000, 0x8000, 0x80, true, true, if d then [⟨0, true⟩] else []⟩
    (∀ whole d : Bool, let c : BitVec 64 := if whole then 0 else 0x80
      let s := setG 4 c (modCur (fun t => { t with stash := [m d] }) (withArea (mapped .s)))
      Issues 0xE1 f.pred (sysCheck { d := .unused, a := .src, b := .src, c := .src, sub := fun x => x == 0#8 } f) s
      ∧ s.strm.await.isSome = false ∧ (s.strm.srcs = none → Ready [f.a, f.b, f.c] [] s) ∧ (keptSources [f.a, f.b, f.c] s).1 = [0, 0, c]
      ∧ s.task.stash.find? (fun m => m.num == 0) = some (m d) ∧ (c = 0 ↔ whole = true) ∧ c.toNat ≤ 0x80
      ∧ (((s.task.dirtyLines (fun _ => true)).filter (fun x => x.1.num == 0)).length = 1 ↔ d = true))
    ∧ (let s := modCur (fun t => { t with stash := [m true] }) (withArea (mapped .s))
       ∃ ids u, ((s.task.dirtyLines (fun _ => true)).filter (fun x => x.1.num == 0 && decide (x.2 < 0x80) && decide (0 < x.2 + 128))).mapM
         (fun x => writeBackLine s.task.tid x.1 x.2) (keptSources [f.a, f.b, f.c] s).2 = .ok (ids, u))
    ∧ (modStrm (fun r => { r with await := some [7] }) (mapped .s)).strm.await.isSome = true := by
  refine ⟨?_, ok1 (by decide +kernel), by decide⟩
  unfold Issues Ready; decide +kernel

/-- A sketch of 3 rows of 256 counters at IA 0x4000, and a second at 0x5000, on the S stream. -/
def sketchAt (base : Nat) : Nat := base + 2 ^ 64 * 3 + 2 ^ 68 * 8 + 2 ^ 80 * 3
def sketched : State := withObj 0x31 5 (sketchAt 0x4000) (withObj 0x32 5 (sketchAt 0x5000) (mapped .s))

theorem witness_skupd_skqry :
    let f := { ew (.g 2) (.g 3) with obj := 0x31 }
    let s := setG 3 1 sketched
    gateWait (waitOf f.wmode f.wsem f.wthr) s = .ok ((), s)
    ∧ Issues 0xD9 f.pred (eCheck sketchRule f) s ∧ Issues 0xDA f.pred (eCheck sketchRule f) s ∧ Ready [f.a, f.b] [] s
    ∧ useObj f.obj 5 sketchOk skUpd s = .ok (sketchAt 0x4000, s) ∧ useObj f.obj 5 sketchOk skRd s = .ok (sketchAt 0x4000, s)
    ∧ sketchElems f s = .ok ((0, [0]), s) ∧ lsClean 0 4 s = .ok ((), s) ∧ bytesElems 4 1 (s.task.lsRead 0 4) = [0]
    ∧ (∃ x v, ([((0 : BitVec 64), fdecode fmtF32 0)]).forM (fun p => sketchElem f.obj (sketchAt 0x4000) p.1 p.2) s = .ok (x, v))
    ∧ ∃ es w, ([(0 : BitVec 64)]).mapM (sketchEst (sketchAt 0x4000)) s = .ok (es, w) := by
  refine ⟨rfl, ?_, ?_, ?_, rfl, rfl, rfl, clean_rows (by decide) _ _ _ _, rfl, ok1 (by decide +kernel), ok1 (by decide +kernel)⟩
  · unfold Issues; decide +kernel
  · unfold Issues; decide +kernel
  · unfold Ready; decide +kernel

theorem skadd_runs : ∃ cs u x v, readSketch (setG 2 0x32 sketched).self (sketchAt 0x5000) (setG 2 0x32 sketched) = .ok (cs, u)
    ∧ ((sketchPlaces (sketchAt 0x4000)).zip cs).forM (fun p => sketchApply (setG 2 0x32 sketched).self 0x31 (sketchAt 0x4000) p.1.1 p.1.2 p.2) u
        = .ok (x, v) :=
  ok2 (x := readSketch (setG 2 0x32 sketched).self (sketchAt 0x5000))
    (f := fun cs => ((sketchPlaces (sketchAt 0x4000)).zip cs).forM
      (fun p => sketchApply (setG 2 0x32 sketched).self 0x31 (sketchAt 0x4000) p.1.1 p.1.2 p.2)) (by decide +kernel)

theorem witness_skadd :
    let f := { ew (.g 2) (.g 0) with obj := 0x31 }
    let s := setG 2 0x32 sketched
    (gateWait (waitOf f.wmode f.wsem f.wthr) s = .ok ((), s) ∧ useObj f.obj 5 sketchOk skUpd s = .ok (sketchAt 0x4000, s)
      ∧ useObj 0x32 5 sketchOk skRd s = .ok (sketchAt 0x5000, s))
    ∧ (s.peekSrc f.a) = 0x32 ∧ sketchGeom (sketchAt 0x5000) = sketchGeom (sketchAt 0x4000)
    ∧ Issues 0xDB f.pred (eCheck { sketchRule with b := .unused, sub := fun x => x == 0#4 } f) s ∧ Ready [f.a] [] s
    ∧ ∃ cs u x v, readSketch s.self (sketchAt 0x5000) s = .ok (cs, u)
      ∧ ((sketchPlaces (sketchAt 0x4000)).zip cs).forM (fun p => sketchApply s.self f.obj (sketchAt 0x4000) p.1.1 p.1.2 p.2) u = .ok (x, v) := by
  refine ⟨⟨rfl, rfl, rfl⟩, ?_, ?_, ?_, ?_, skadd_runs⟩
  all_goals first | decide +kernel | (unfold Issues; decide +kernel) | (unfold Ready; decide +kernel)

theorem witness_skclr_skstat :
    (let f := { ew (.g 0) (.g 0) with obj := 0x31 }
     let s := sketched
     (gateWait (waitOf f.wmode f.wsem f.wthr) s = .ok ((), s) ∧ useObj f.obj 5 sketchOk skUpd s = .ok (sketchAt 0x4000, s))
     ∧ Issues 0xDC f.pred (eCheck { sketchRule with a := .unused, b := .unused, sub := fun x => x == 0#4 } f) s
     ∧ ∃ tags u, writeIa s.self (skBase (sketchAt 0x4000)) (List.replicate (4 * sketchCount (sketchAt 0x4000)) 0) s = .ok (tags, u))
    ∧ (let f := { sysw (.g 1) (.g 0) (.g 0) (.g 0) with imm := 0x31, sub := 1 }
       useObj (f.imm.setWidth 16) 5 sketchOk skRd sketched = .ok (sketchAt 0x4000, sketched)
       ∧ Issues 0xE3 f.pred (sysCheck { nopRule with d := .dst, sub := fun x => decide (x.toNat < 2), imm := objImm } f) sketched
       ∧ Ready [] [f.d] sketched) := by
  refine ⟨⟨⟨rfl, rfl⟩, ?_, ok1 (by decide +kernel)⟩, rfl, ?_, ?_⟩
  all_goals first | (unfold Issues; decide +kernel) | (unfold Ready; decide +kernel)

theorem witness_sketch_counter : ∀ b ∈ [(-1 : Int), 0, 1], -(2 ^ 31 : Int) ≤ 2 ^ 31 - 1 + min b 0 ∧ (2 : Int) ^ 31 - 1 + min b 0 < 2 ^ 31 := by decide

theorem witness_uop_ucvt :
    let s := setG 1 0x40 (setG 3 0x80 (mapped .s))
    (let f := { alu 9 (.g 1) (.g 2) (.g 3) with sub := 1, imm := 2 }
     let rs : List (Nat × FlagSet) := ((List.range 2).zip ((List.replicate 2 (fdecode fmtF32 0)).zip ((List.replicate 2 (fdecode fmtF32 0)).zip (List.replicate 2 (FVal.nan false))))).map (fun x =>
        let mode := updMode (roundSel s f.rm f.rbm1) (drawn (roundSel s f.rm f.rbm1) s) 32 x.1
        let e := uopE 1 (mode == .rdn) x.2.1 x.2.2.1 x.2.2.2
        let r := fround fmtF32 mode e.1
        (r.1, e.2.or r.2))
     Issues 0xDD f.pred (updCheck .greg .greg (uopUse true false) (uopUse false false) (scalarFloatTy f.ty) true f) s
     ∧ Ready [f.b] [] s ∧ (uopUses 1).getD (false, false) = (true, false)
     ∧ (s.peekSrc f.d).toNat = 0x40 ∧ (s.peekSrc f.a).toNat = 0 ∧ (s.peekSrc f.b).toNat = 0x80
     ∧ okE (lsChecks ([0, 0x80, 0x40].map (fun x => (.any, x, 8))) s) = true
     ∧ uopOperand true false 0 f.ty 2 s = .ok (List.replicate 2 (fdecode fmtF32 0), s)
     ∧ uopOperand true false 0x80 f.ty 2 s = .ok (List.replicate 2 (fdecode fmtF32 0), s)
     ∧ uopOperand false false 0 f.ty 2 s = .ok (List.replicate 2 (FVal.nan false), s)
     ∧ ∃ x y, updWrite false 0x40 4 rs s = .ok (x, y))
    ∧ (let f := ({ alu 2 (.g 1) (.g 2) (.g 0) with sub := 9, imm := 2 } : RAlu)
       Issues 0xDE f.pred (updCheck .greg .greg .unused .unused (decide (f.ty.toNat ≤ 0x11)) (decide (f.sub.toNat < 32) && ucvtPair f.sub.toNat f.ty.toNat) f) s
       ∧ (s.peekSrc f.d).toNat = 0x40 ∧ (s.peekSrc f.a).toNat = 0 ∧ okE (lsChecks [(.any, 0, 8), (.any, 0x40, 8)] s) = true
       ∧ lsLoad 0 8 s = .ok (List.replicate 8 0, s)
       ∧ ∃ x y, updWrite false 0x40 4 (((List.range 2).zip (bytesElems 4 2 (List.replicate 8 0))).map
          (fun x => ucvtElem f.ty 9 (updMode (roundSel s f.rm f.rbm1) (drawn (roundSel s f.rm f.rbm1) s) 32 x.1) x.2)) s = .ok (x, y)) := by
  refine ⟨⟨?_, ?_, ?_, ?_, ?_, ?_, ?_, rfl, rfl, rfl, ok1 (by decide +kernel)⟩, ?_, ?_, ?_, ?_, rfl, ok1 (by decide +kernel)⟩
  all_goals first | decide +kernel | (unfold Issues; decide +kernel) | (unfold Ready; decide +kernel)

theorem witness_update_results : (at_ .s).task.stash = [] := by decide

/-- A gate at IA 0x40 with two shards, at the address that g2 holds. -/
def gated (gen : Nat) : State :=
  setG 2 0x40 { mapped .s with mem := writeCells [] (atAddr 0x40 (natBytes 48 (2 ^ 32 * 2 + 2 ^ 64 * gen))) }

theorem witness_nfchk :
    let f := ew (.g 2) (.g 3)
    let s := setG 3 (2 ^ 32 + 2 ^ 56 * 9) (gated 5)
    let b := ((took f.a s).peekSrc f.b).toNat
    (gateWait (waitOf f.wmode f.wsem f.wthr) s = .ok ((), s) ∧ NamesObject f.sub.toNat (s.peekSrc f.a) 64 64 .a 0x40 s
      ∧ lsCheck .any 0 4 s = .ok ((), s) ∧ lsLoad 0 4 s = .ok (List.replicate 4 0, s))
    ∧ Issues 0xDF f.pred (eCheck { sketchRule with sub := fun x => decide (x.toNat < 8), obj := false } f) s
    ∧ Ready [f.a, f.b] [] s ∧ s.task.logWait = [] ∧ writesPerformed s.task 3#2 = true ∧ (s.peekSrc f.a).toNat % 64 = 0
    ∧ bits b 0 21 = 0 ∧ bits b 32 20 = 1 ∧ bits b 56 5 = 9 ∧ bits b 21 11 = 0 ∧ bits b 52 4 = 0 ∧ bits b 61 3 = 0
    ∧ scalarFloatTy (BitVec.ofNat 5 9) = true
    ∧ okE (gateReport s.self 0x40 ((bytesElems 4 1 (List.replicate 4 0)).any (isNonfinite fmtF32)) s) = true := by
  refine ⟨⟨rfl, names_of (by decide +kernel), rfl, rfl⟩, ?_⟩
  unfold Issues Ready; decide +kernel

/-- SCOMMIT of step g3 at the gate. -/
def committing (step gen : Nat) : State := setG 3 (BitVec.ofNat 64 step) (gated gen)
def scommitF : EForm := ew (.g 2) (.g 3)

theorem witness_scommit (step : Nat) (h : step = 4 ∨ step = 5 ∨ step = 9) :
    let s := committing step 5
    let v := (keptSources [scommitF.a, scommitF.b] s).2
    (Issues 0xE0 scommitF.pred (eCheck { sketchRule with b := .greg, sub := fun x => decide (x.toNat < 8), obj := false } scommitF) s
    ∧ (s.strm.srcs = none → Ready [scommitF.a, scommitF.b] [] s) ∧ (keptSources [scommitF.a, scommitF.b] s).1 = [0x40, BitVec.ofNat 64 step]
    ∧ commitOf v v.task.tid = none)
    ∧ gateWait (waitOf 0 0 0) v = .ok ((), v) ∧ NamesObject 0 0x40 64 64 .a 0x40 v := by
  refine ⟨?_, rfl, names_of ?_⟩ <;> rcases h with rfl | rfl | rfl <;> first | decide +kernel | (unfold Issues Ready; decide +kernel)

/-- R313: a request of a past or a future step is answered at once, one of the gate's own step is held. -/
theorem witness_scommit_answers :
    (∀ step ∈ [4, 5, 9], let s := committing step 5
      let v := (keptSources [scommitF.a, scommitF.b] s).2
      (match atHome v.self 0x40 (fun b => gateRequest b v.task.tid 0x40 step) v with
       | .ok (some _, _) => step != 5
       | .ok (none, x) => step == 5 && (commitOf x v.task.tid).isSome && x.task.tid == v.task.tid
       | .error _ => false) = true)
    ∧ (∀ answered : Bool, let c : HeldCommit := { tid := 0, gate := 0x40, reply := if answered then some 1 else none }
      let v := (keptSources [scommitF.a, scommitF.b] { committing 5 5 with commits := [c] }).2
      commitOf v v.task.tid = some c) := by decide +kernel

theorem witness_gate_request :
    let s := committing 4 5
    (recallLine (lineOf 0x40) true none s = .ok ((), s)
      ∧ let r (n : Nat) (s : State) := after (gateWord (committing 4 5).self 0x40 n) s
        gateWord s.self 0x40 0 s = .ok (2 ^ 32 * 2, r 0 s) ∧ gateWord s.self 0x40 1 (r 0 s) = .ok (5, r 1 (r 0 s))
        ∧ gateWord s.self 0x40 2 (r 1 (r 0 s)) = .ok (0, r 2 (r 1 (r 0 s)))
        ∧ gateWord s.self 0x40 3 (r 2 (r 1 (r 0 s))) = .ok (0, r 3 (r 2 (r 1 (r 0 s))))
        ∧ gateWord s.self 0x40 4 (r 3 (r 2 (r 1 (r 0 s)))) = .ok (0, r 4 (r 3 (r 2 (r 1 (r 0 s))))))
    ∧ bits (2 ^ 32 * 2) 32 16 ≠ 0 ∧ (4 + 1) % 2 ^ 32 = bits 5 0 32 ∧ (9 : Nat) ≠ bits 5 0 32 ∧ (9 + 1) % 2 ^ 32 ≠ bits 5 0 32 := by
  refine ⟨⟨rfl, okv (by decide +kernel), okv (by decide +kernel), okv (by decide +kernel), okv (by decide +kernel), okv (by decide +kernel)⟩, ?_⟩
  decide

theorem witness_section_entry :
    let s0 := modStrm (fun r => { r with arrive := .atLead, pc := 0x1000 }) (mapped .c)
    let img (h : Nat) := { s0 with mem := writeCells [] (atAddr 0x1004 (natBytes 8 h)) }
    ∀ k : Fin 3,
    let h : Nat := if k = 0 then 0 else if k = 1 then 2 ^ 16 + 2 ^ 32 * 0x11 else 2 ^ 16 + 2 ^ 32 * (2 ^ 30 - 1)
    let s := img h
    let u := { s with cur := .c }
    u.strm.fin = false ∧ u.strm.arrive ≠ .inSection ∧ u.strm.arrive = .atLead ∧ fetchUnits u 0x1000 1 = .bytes [0, 0, 0, 0] ∧ fetchUnits u 0x1004 2 = .bytes (natBytes 8 h)
    ∧ (headerFault (bytesNat (natBytes 8 h)) = none ↔ k ≠ 0) ∧ (k = 0 ∨ ((unmetDep u (bytesNat (natBytes 8 h))).isSome = true ↔ k = 1)) := by
  decide +kernel

theorem witness_trap_entry :
    ∀ armed : Bool, let s := modStrm (fun r => { r with trapsec := if armed then 0x1001 else 0 }) (at_ .c)
    let u := refundWait { s with cur := .c }
    u.strm.trapsec.getLsbD 0 = armed ∧ fcIllegalOpcode ≠ fcCircuitFail := by decide +kernel

theorem witness_freeze_keeps :
    let s := at_ .c
    let f : FreezeCause := ⟨fcBreakpoint, 0, none, 0, 0, 0⟩
    ownTask? s s.task.tid = some s.task ∧ s.task.status = .resident ∧ f.code = fcBreakpoint
    ∧ findBelow (fun n => match s.frozen[n]? with | some e => !e.v | none => false) 16 = some 0 := by
  refine ⟨rfl, ?_⟩
  decide +kernel

/-- A node with one tile, its image at IA 0x8000, its streams at 0x1000, to be placed on cores 0 and 1. -/
def node1 : NodeSt :=
  { record := BitVec.ofNat 1024 (0x1000 * (1 + 2 ^ 64 + 2 ^ 128 + 2 ^ 192) + 2 ^ 256 * 0x8000 + 2 ^ 320 * 2 ^ 32), succ := [], preds := 0, ready := true
    order := 0, total := 1, reported := 0, tiles := [], nextTile := 0, spawnq := [], spawned := 0, nextSpawn := [], resume := []
    placement := [0, 1], cur := [0, 0], complete := false, firstTick := 0, lastTick := 0, reruns := [], counted := false }

/-- A graph of that node in slot 0, priority p, in its step; nothing runs. -/
def running (p : Nat) (n : NodeSt) : State :=
  modSlot 0 (fun g => { g with v := true, obj := 0x200, oreg := 0x200, header := BitVec.ofNat 512 (2 ^ 64 + 2 ^ 77 * p)
                               running := some ⟨1, 0, false, none, 0, [1, 1]⟩, inStep := true, nodes := [n] })
    { mapped .c with task := Task.init }

/-- An item at the head of core 0's queue. -/
def coreQueue (q : List QItem) (s : State) : State := { s with cores := s.cores.set 0 { s.cores[0] with queue := q } }

theorem witness_launch :
    let s := coreQueue [.tile 0 0 5] (running 0 node1)
    (∃ t u, launchTask 0 0 0 5 node1 (getSlot s 0).stepPatch.1 (getSlot s 0).stepPatch.2 s = .ok (t, u))
    ∧ (s.cores[0]?).bind (fun c => c.queue.head?) = some (.tile 0 0 5) ∧ (getSlot s 0).nodes[0]? = some node1 ∧ coreIdle s 0 = true := by
  refine ⟨ok1 ?_, ?_⟩ <;> decide +kernel

/-- The current task with its four streams finished. -/
def finished (s : State) : State :=
  modCur (fun t => { t with c := { t.c with fin := true }, a := { t.a with fin := true }, x := { t.x with fin := true }, s := { t.s with fin := true } }) s

theorem witness_task_end :
    (getTask? (at_ .c) 0 = some (at_ .c).task ∧ getTask? (finished (at_ .c)) 0 = some (finished (at_ .c)).task
      ∧ writeBackLines 0 (fun _ => true) (finished (at_ .c)) = .ok ([], finished (at_ .c))
      ∧ ∃ v, releaseGuards 0 (finished (at_ .c)).task.guards (finished (at_ .c)) = .ok ((), v))
    ∧ mayEnd (at_ .c).task = false ∧ mayEnd (finished (at_ .c)).task = true := by
  refine ⟨⟨rfl, rfl, rfl, _, rfl⟩, ?_⟩
  decide +kernel

/-- R22, R120: a task that ends with a guard held releases it; one whose dirty copy meets an unmapped page has a side log. -/
theorem witness_task_end_guard :
    (let s := finished (guarded true)
     (getTask? s 0).isSome = true ∧ mayEnd s.task = true ∧ okE (releaseGuards 0 s.task.guards s) = true)
    ∧ (let s := finished (modCur (fun t => { t with stash := [⟨0, 0x1000, 0x8000, 0x8000, 0x80, true, true, [⟨0, true⟩]⟩] }) (at_ .c))
       mayEnd s.task = true ∧ (match writeBackLines 0 (fun _ => true) s with
         | .ok (_, u) => (getTask? u 0).isSome && !mayEnd u.task
         | .error _ => false) = true) := by
  decide +kernel

/-- Task 7 of priority 0 on core 0 and task 8 on core 1, both cores' queues full, and a node of priority 5 that waits. -/
def crowded (saved : Nat) : State :=
  let s := running 5 node1
  let t := { Task.init with status := .resident, tid := 7, core := 0, slot := 1, prio := 0 }
  let q := List.replicate 4 (QItem.tile 0 0 9)
  { s with task := t
           others := { t with tid := 8, core := 1 } :: (List.range saved).map (fun i => { t with tid := 9 + i, status := .saved, area := some i })
           cores := (s.cores.set 0 { s.cores[0] with queue := q }).set 1 { s.cores[1] with queue := q } }

/-- The same with a started membership of the victim in a Damask collective. -/
def crowdedDamask : State :=
  let s := crowded 0
  let m (tid : Nat) : DMember :=
    { tid := tid, pkg := 0, rank := 0, xpb := 0, wait := none, ssem := 0, sinc := 0, since := 0, started := true, tick := 0
      phases := 0, srcDone := false, flits := 0, slips := 0, slots := [], done := false }
  { s with damask := [⟨⟨0x40, 0x20, 0⟩, [m 7, m 8], [], none, 0, 0, 0, false⟩] }

/-- Whether the node of slot 0 pre-empts a task that Damask holds (held) with an area free (free). -/
def preempting (s : State) (held free : Bool) : Bool := match preemptDue s 0 0 with
  | some t =>
    let u := if (pendingVictim s 0 0).isSome then s else clearQueue t.core (getSlot s 0).prio { s with victims := [(0, 0, t.tid)] }
    damaskHolds u t.tid == held && areaFree u == free
  | none => false

theorem witness_preemption :
    preempting (crowded 0) false true = true ∧ preempting crowdedDamask true true = true ∧ preempting (crowded 192) false false = true := by
  decide +kernel

theorem witness_distribution :
    (let s := running 0 node1
     (nextPick s).map (fun x => (x.1, x.2.1)) = some (0, 0) ∧ (node1.take 0 0).isSome = true
     ∧ pickCore s node1 (((getSlot s 0).running.map (·.weights)).getD []) = some (0, [-1, 1]))
    ∧ (let s0 := coreQueue [.resume 0 0 7] (running 0 node1)
       let s := { s0 with task := { Task.init with status := .saved, tid := 7 } }
       (s.cores[0]?).bind (fun c => c.queue.head?) = some (.resume 0 0 7) ∧ coreIdle s 0 = true ∧ s.task.tid = 7
       ∧ s.task.status = .saved ∧ s.task.poisoned = false) := by
  decide +kernel

theorem witness_semaphores :
    (agentOrder (.stream .c) < agentOrder (.bte 0))
    ∧ (let s := at_ .c
       s.task.status = .resident ∧ s.task.sem 5 + 3 < 2 ^ 32 ∧ s.task.status ≠ .vacant)
    ∧ (∀ full : Bool, let s := modCur (fun t => { t with heldEvents := [(.core, 1)], q15 := List.replicate (if full then 64 else 63) 0 }) (at_ .c)
       s.task.status ≠ .vacant ∧ s.task.heldEvents = [(.core, 1)] ∧ (s.task.q15.length < 64 ↔ full = false)) := by
  decide +kernel

theorem witness_stalls :
    (let s := modCur (fun t => { t with
        c := { t.c with wait := some (.dep .a) }, a := { t.a with wait := some (.dep .c) }, x := { t.x with fin := true }, s := { t.s with fin := true }
        dlCycles := 4096 }) (at_ .c)
     getTask? s 0 = some s.task ∧ s.task.status = .resident ∧ s.task.deadlocked = true ∧ 4096 ≤ s.task.dlCycles)
    ∧ (getTask? (at_ .c) 0 = some (at_ .c).task ∧ (at_ .c).task.dlCycles < 4096)
    ∧ (∀ frz : Bool, let w (r : Strm) := { r with wait := some Wait.jobs }
       let s0 := modCur (fun t => { t with c := w t.c, a := w t.a, x := w t.x, s := w t.s, stallTicks := 2 ^ 16 }) (at_ .c)
       let s := { s0 with syncCfg := if frz then 2 ^ 32 + 1 else 1 }
       stallDue s s.task = true ∧ s.stallFreeze = frz)
    ∧ ∀ frz : Bool, let w (r : Strm) := { r with wait := some Wait.jobs }
       let s0 := modCur (fun t => { t with c := w t.c, a := w t.a, x := w t.x, s := w t.s, stallTicks := 2 ^ 16 }) (at_ .c)
       let s := { s0 with syncCfg := if frz then 2 ^ 32 + 1 else 1 }
       getTask? s 0 = some s.task := by
  refine ⟨⟨rfl, ?_⟩, ⟨rfl, ?_⟩, ?_, fun frz => rfl⟩ <;> decide +kernel

theorem witness_frozen_contexts :
    (∀ b : Bool, let s0 := running 0 node1
     let s := { s0 with task := { Task.init with status := .frozen, tid := 7, bkpt := b }, frozen := s0.frozen.set 3 ⟨7, b, true, 0⟩ }
     s.frozen[(3 : Fin 16).val]? = some ⟨7, b, true, 0⟩ ∧ (getSlot s s.task.slot).failed = false ∧ (getSlot s s.task.slot).running ≠ none)
    ∧ ∀ b : Bool, let s0 := running 0 node1
     let s := { s0 with task := { Task.init with status := .frozen, tid := 7, bkpt := b }, frozen := s0.frozen.set 3 ⟨7, b, true, 0⟩ }
     getTask? s s.task.tid = some s.task := by
  refine ⟨by decide +kernel, fun b => rfl⟩

/-- A graph object 0x200 of one node at IA 0x2000, in no slot; its node record out of range when bad. -/
def loadable (bad : Bool) : State :=
  let s := mapped .c
  { s with objs := [⟨0x200, 8, BitVec.ofNat 512 (0x2000 + 2 ^ 64 + 2 ^ 85)⟩], mem := if bad then writeCells [] [(0x2078, 1)] else [] }

theorem witness_graph_residence :
    (let s := running 0 node1
     (getSlot s (0 : Fin 64).val).running ≠ none ∧ (getSlot s (1 : Fin 64).val).running = none)
    ∧ (let t := modSlot (0 : Fin 64).val (fun g => { g with oreg := 0x201 }) (loadable false)
       (getSlot (loadable false) 0).running = none
       ∧ (match objCheck t none 0x201 8 graphOk (fun _ => true) with | .error _ => true | .ok _ => false) = true)
    ∧ (∀ bad : Bool, let t := modSlot (0 : Fin 64).val (fun g => { g with oreg := 0x200 }) (loadable bad)
       (getSlot (loadable bad) 0).running = none
       ∧ (match readNodes 0x2000 1 1 t with | .ok (x, _) => x.isSome == !bad | .error _ => false) = true)
    ∧ (∀ bad : Bool, let t := modSlot (0 : Fin 64).val (fun g => { g with oreg := 0x200 }) (loadable bad)
       ∃ h, objCheck t none 0x200 8 graphOk (fun _ => true) = .ok h ∧ bits h 0 58 = 0x2000 ∧ bits h 64 13 = 1) := by
  refine ⟨?_, ?_, ?_, ?_⟩
  · decide +kernel
  · decide +kernel
  · decide +kernel
  · intro bad
    cases bad <;> exact ⟨0x2000 + 2 ^ 64 + 2 ^ 85, rfl, rfl, rfl⟩

theorem witness_graph_starts :
    (getSlot (at_ .c) 0).v = false ∧ (getSlot (graphed .c) 0).v = true ∧ (getSlot (graphed .c) 0).running = none
    ∧ (getSlot (running 0 node1) 0).v = true ∧ (getSlot (running 0 node1) 0).running ≠ none ∧ (getSlot (running 0 node1) 0).queued = none
    ∧ (let s := modSlot 0 (fun g => { g with queued := some ⟨1, 0, false, none, 0, []⟩ }) (running 0 node1)
       (getSlot s 0).v = true ∧ (getSlot s 0).running ≠ none ∧ (getSlot s 0).queued ≠ none) := by
  decide +kernel

theorem witness_step_begins :
    let s := modSlot 0 (fun g => { g with inStep := false }) (running 0 node1)
    (getSlot s (0 : Fin 64).val).running = some ⟨1, 0, false, none, 0, [1, 1]⟩ ∧ (getSlot s (0 : Fin 64).val).inStep = false
    ∧ (getSlot s (0 : Fin 64).val).failed = false ∧ s.halted = false := by
  decide +kernel

theorem witness_node_completes :
    (∀ done : Bool, let n := { node1 with nextTile := 1, reported := if done then 1 else 0, succ := [1] }
     let s := modSlot 0 (fun g => { g with nodes := [n, { node1 with preds := 1, ready := false }] }) (running 0 node1)
     (getSlot s (0 : Fin 64).val).nodes[0]? = some n ∧ nodeDone (getSlot s (0 : Fin 64).val) n = done ∧ n.succ = [1]) := by
  decide +kernel

theorem witness_step_ends :
    (∀ k : Fin 4, let r : Start := ⟨if k = 1 then 2 else 1, 0, false, if k = 2 then some (7, 5, 1) else none, 0, []⟩
     let n := { node1 with complete := if k = 3 then false else true }
     let s := modSlot 0 (fun g => { g with nodes := [n], running := some r }) (running 0 node1)
     (getSlot s (0 : Fin 64).val).running = some r ∧ (stepDone s (0 : Fin 64).val = true ↔ k ≠ 3) ∧ (r.step + 1 < r.steps ↔ k = 1)
     ∧ (r.sig = none ↔ k ≠ 2))
    ∧ ∀ k : Fin 4, let r : Start := ⟨if k = 1 then 2 else 1, 0, false, if k = 2 then some (7, 5, 1) else none, 0, []⟩
     let n := { node1 with complete := if k = 3 then false else true }
     let s := modSlot 0 (fun g => { g with nodes := [n], running := some r }) (running 0 node1)
     writeStep (getSlot s (0 : Fin 64).val) r s = .ok ((), s) := by
  refine ⟨by decide +kernel, ?_⟩
  intro k; fin_cases k <;> rfl

/-- A barrier and a reduction of the one-member group, arrived (whole) or not. -/
def collOpen (kind : CollKind) (whole : Bool) (r : Nat) : State :=
  putGroup { getGroup grouped 0x40 with colls := [{ kind := kind, expect := [(0, 0)]
                                                    arrivals := if whole then [⟨0x40, kind, 0, BitVec.ofNat 128 r, 0x31, natBytes 4 5, 0, 0, 0⟩] else []
                                                    lost := [], first := 0, last := 0, lastRank := 0 }] }
    (withObj 0x31 5 (0x4000 + 2 ^ 64 * 3 + 2 ^ 68 * 8 + 2 ^ 80 * 3) grouped)

theorem witness_collectives :
    (∀ b : Bool, ∀ whole : Bool, let kind : CollKind := if b then .bar else .red
     (((getGroup (collOpen kind whole sumRec) 0x40).colls.find? (fun c => c.kind == kind)).map Coll.full) = some whole)
    ∧ (let s := collOpen .red true sketchRec
       let a : GroupArrival := ⟨0x40, .red, 0, BitVec.ofNat 128 sketchRec, 0x31, natBytes 4 5, 0, 0, 0⟩
       (((getGroup s 0x40).colls.find? (fun c => c.kind == .red)).map Coll.full) = some true
       ∧ collMismatch s [a] = false ∧ (collRec a.record).op = 3 ∧ ∃ u v, sketchSum [(a.pkg, a.obj)] s = .ok (u, v)) := by
  refine ⟨by decide +kernel, by decide +kernel, by decide +kernel, by decide +kernel, ok1 (by decide +kernel)⟩

theorem witness_group_tick :
    (getGroup grouped 0x40).rankOf 0 = some 0 ∧ (getGroup grouped 0x40).colls = [] ∧ (∀ c ∈ grouped.collectives, c.key.group ≠ 0x40) := by
  decide +kernel

/-- A circuit of package 0 to package 1, of lane 0 of engine 0, with a key in slot 0. -/
def circTo1 (st : CircState) : Circuit :=
  { id := 0, far := 1, engine := 0, lanes := 1, state := st, nacks := 0, attempts := 0, retryAt := 0, idle := 0, stale := false
    cfg := 0x0008044008030010, rtt := 0, fdrift := 0, fdv := true, syncAt := 0, slotTag := none, tx := { SendDir.init with key0 := some 1 }
    rx := { RecvDir.init with key0 := some 1 } }

/-- Task 0 on package 0 at rank 0 and task 9 on package 1 at rank 1 of one group; the circuit between them up or ended. -/
def twoPacks (up : Bool) : State :=
  let s := { grouped with pkgnum := 0x800, pkgmap := 3, circuits := [circTo1 (if up then .up else .ended)] }
  let p : Pack := { State.reset.toPack with pkgnum := 0x801, pkgmap := 3, task := { Task.init with status := .resident, tid := 9 } }
  (joinGroup 0x40 9 { s with peers := [p] }).1

theorem witness_remote_arrivals :
    (rankTask grouped 0x40 0 = some grouped.task ∧ rankTask grouped 0x40 1 = none ∧ InReach (grouped.pkgOf 0) grouped
      ∧ grouped.task.inbound.length < 8)
    ∧ (let s := modCur (fun t => { t with inbound := List.replicate 8 ⟨0, 0x40, 0, []⟩ }) grouped
       rankTask s 0x40 0 = some s.task ∧ 8 ≤ s.task.inbound.length)
    ∧ InReach ((twoPacks true).pkgOf 9) (twoPacks true) := by
  refine ⟨⟨rfl, rfl, .inl (by decide), by decide⟩, ⟨rfl, by decide⟩, .inr ?_⟩
  decide +kernel

/-- R364, R467: a rank on another package, reached over the circuit while it is up and cut off when it has ended. -/
theorem witness_other_package :
    (∀ up : Bool, (rankTask (twoPacks up) 0x40 1).map (fun t => (t.tid, t.inbound.length)) = some (9, 0) ∧ (twoPacks up).pkgOf 9 = 1
      ∧ (twoPacks up).cutFrom 1 = !up) := by decide +kernel

theorem witness_arrivals_at_a_task :
    (let s := modCur (fun t => { t with rlds := [⟨3, 7, false, false⟩, ⟨4, 8, true, false⟩] }) (at_ .c)
     s.task.status ≠ .vacant ∧ s.task.rlds = [⟨3, 7, false, false⟩, ⟨4, 8, true, false⟩])
    ∧ (∀ tag : Bool, ∀ full : Bool, let a : Ack := ⟨1, tag, 7, [], false⟩
       let s := modCur (fun t => { t with acks := [a], qs := t.qs.set 8 (if full then List.replicate 64 0 else []) }) (at_ .c)
       s.task.status ≠ .vacant ∧ s.task.acks = [a] ∧ s.task.queueFull 8 = full ∧ s.task.ackReady a = (!tag || !full))
    ∧ (∀ locked : Bool, let s := modCur (fun t => t.modRing 1 (fun r => { r with lock := if locked then 1 else 0 })) (withRing (at_ .c))
       s.task.status ≠ .vacant ∧ s.task.rings[(1 : Fin 8)].en = true ∧ s.task.rings[(1 : Fin 8)].lock.getLsbD s.task.rings[(1 : Fin 8)].tail = locked)
    ∧ (∀ due : Bool, let s := modCur (fun t => { t with deadline := some (if due then 0 else 1), c := { t.c with wait := some .time } }) (at_ .c)
       s.task.status ≠ .vacant ∧ s.task.deadline = some (if due then 0 else 1) ∧ s.task.c.wait = some .time ∧ ((if due then 0 else 1) ≤ s.tick ↔ due = true)) := by
  decide +kernel

/-- A command block of one record at the task: a signal with its wait, or a bad record. -/
def blocked (records : List Nat) (wait : Bool) (jobs : Nat) : State :=
  modCur (fun t => { t with jobs := jobs, block := some ⟨0, 0x40, 0, 9, records.map (fun r => BitVec.ofNat 128 (r + if wait then 2 ^ 40 + 2 ^ 56 else 0)), 0, 0, none⟩ })
    (withObj 0x20 2 (2 ^ 40 * 8) grouped)

/-- Block state number k: a bad record, an unmet wait, no room, an event held, a record that starts. -/
def blockCase (k : Fin 5) : State :=
  let s0 := blocked [if k = 0 then 5 else 1 + 2 ^ 16 * 0x20] (k = 1) (if k = 2 then 16 else 0)
  modCur (fun t => { t with heldEvents := if k = 3 then [(.jobUnit, 0)] else [] }) s0

theorem witness_command_blocks_owner (k : Fin 5) : ownTask? (blockCase k) 0 = some (blockCase k).task := by
  fin_cases k <;> rfl

theorem witness_command_blocks :
    (∀ k : Fin 5, let s := blockCase k
     s.task.tid = 0 ∧ s.task.status = .resident ∧ (eventWaits s .jobUnit (some 0) = true ↔ k = 3)
     ∧ (s.task.block.map (fun b => let x := b.records.headD 0
         let u := modTask 0 (fun _ => s.task) s
         (b.semw, b.records.length, (blockRec x).ok, k == 0 || jobReady u (some 0) (blockRec x).wait, blockRoom u s.task (blockRec x))))
       = some (none, 1, k != 0, k != 1, k != 2))
    ∧ (∀ open_ : Bool, let s := modCur (fun t => { t with block := t.block.map (fun b => { b with open_ := if open_ then 1 else 0 }) }) (blocked [] false 0)
      ownTask? s 0 = some s.task ∧ s.task.status = .resident
      ∧ (s.task.block.map (fun b => (b.records, decide (b.open_ = 0)))) = some ([], !open_)) := by
  refine ⟨?_, ?_⟩
  · intro k
    fin_cases k <;> decide +kernel
  · intro o
    cases o <;> exact ⟨rfl, rfl, by decide +kernel⟩

/-- A block that waits in the inbound queue is taken by an idle job unit. -/
theorem witness_block_taken :
    let s := modCur (fun t => { t with inbound := [⟨0, 0x40, 0, natBytes 16 1 ++ natBytes 16 1⟩] }) grouped
    ownTask? s 0 = some s.task ∧ s.task.block = none ∧ (takeBlock s.task).block.isSome = true := by
  refine ⟨rfl, ?_⟩
  decide +kernel

/-- Lines of 4 .i32 elements at an IA. -/
def lineAt (base : Nat) : Nat := base + 2 ^ 61 * 7 + 2 ^ 64 * 2 + 2 ^ 72 * 4

/-- A job of the task by template 0x20, with the channel, its entries and a copy from 0x100 (shape 0x22) to base (shape 0x23). -/
def copyJob : BteJob := ⟨some 0, 0x20, 9, 0, none, 5, 1, none, false, 0, none⟩
def copyTmpl (ring : Bool) : Nat := if ring then 0x22 + 2 ^ 34 + 2 ^ 35 + 2 ^ 40 * 8 else 0x22 + 2 ^ 16 * 0x23 + 2 ^ 40 * 8
def copyRun (base : Nat) : BteRun :=
  { emptyRun copyJob with body := BitVec.ofNat 512 (copyTmpl false), src := BitVec.ofNat 512 (lineAt 0x100), dsts := [BitVec.ofNat 512 (lineAt base)], nChunks := 1 }
def withCopy (ring : Bool) : State :=
  modChan 1 (fun c => { c with queue := [copyJob] })
    (withObj 0x20 2 (copyTmpl ring) (withObj 0x22 1 (lineAt 0x100) (withObj 0x23 1 (lineAt 0x200) (mapped .c))))
def copying (r : BteRun) : State := modChan 1 (fun c => { c with run := some r }) (mapped .c)

theorem witness_copy_aperture :
    let d : BitVec 128 := 7
    let full (s : State) := modChan 1 (fun c => { c with queue := List.replicate 16 copyJob }) s
    (at_ .c).aperture.find? (fun x => x.1 == (1 : Fin 32).val) = none ∧ (at_ .c).chans[(1 : Fin 32)].queue.length < 16
    ∧ (full (at_ .c)).aperture.find? (fun x => x.1 == (1 : Fin 32).val) = none ∧ 16 ≤ (full (at_ .c)).chans[(1 : Fin 32)].queue.length
    ∧ (let s := { full (at_ .c) with aperture := [(1, d, some 0)] }
       s.aperture.find? (fun x => x.1 == (1 : Fin 32).val) ≠ none ∧ ¬ s.chans[(1 : Fin 32)].queue.length < 16)
    ∧ (let s := { at_ .c with aperture := [(1, d, some 0)] }
       s.aperture.find? (fun x => x.1 == (1 : Fin 32).val) = some ((1 : Fin 32).val, d, some 0) ∧ s.chans[(1 : Fin 32)].queue.length < 16
       ∧ (1, d, some 0) ≠ ((1 : Fin 32).val, d + 1, some 0)) := by
  decide +kernel

theorem witness_job_start :
    bteDue (at_ .c) 1 = false
    ∧ (∀ fenced : Bool,
       (let s := modChan 1 (fun c => { c with fenced := fenced }) (modCur (fun t => { t with savedJobs := [(1, copyRun 0x200)] }) (at_ .c))
        bteDue s 1 = true ∧ (savedRun s 1).isSome = true ∧ s.chans[(1 : Fin 32)].fenced = fenced)
       ∧ (let s := modChan 1 (fun c => { c with fenced := fenced, queue := [copyJob] }) (at_ .c)
          bteDue s 1 = true ∧ savedRun s 1 = none ∧ s.chans[(1 : Fin 32)].queue = [copyJob] ∧ s.chans[(1 : Fin 32)].fenced = fenced))
    ∧ (∀ ring : Bool, let s := withCopy ring
       bteDue s 1 = true ∧ savedRun s 1 = none ∧ s.chans[(1 : Fin 32)].queue = [copyJob] ∧ s.chans[(1 : Fin 32)].fenced = false
       ∧ (let u := serveJob copyJob.tid copyJob.wait (modChan 1 (fun c => { c with queue := c.queue.tail, run := some (emptyRun copyJob) }) s)
          match templateStart u (some u.task) copyJob with
          | .ok x => (templateFields x.body.toNat).dring.isSome = ring
          | .error _ => False))
    ∧ (let s := modChan 1 (fun c => { c with queue := [copyJob] }) (at_ .c)
       bteDue s 1 = true ∧ savedRun s 1 = none
       ∧ (let u := serveJob copyJob.tid copyJob.wait (modChan 1 (fun c => { c with queue := c.queue.tail, run := some (emptyRun copyJob) }) s)
          okE (templateStart u (some u.task) copyJob) = false)) := by
  refine ⟨by decide +kernel, by decide +kernel, ?_, by decide +kernel⟩
  intro ring
  cases ring <;> refine ⟨by decide +kernel, by decide +kernel, by decide +kernel, by decide +kernel, ?_⟩ <;> rfl

theorem witness_chunks :
    (∀ base ∈ [0x200, 0x20000, 2 ^ 47], let s := copying (copyRun base)
     s.chans[(1 : Fin 32)].run = some (copyRun base) ∧ (copyRun base).job.drain = none ∧ (copyRun base).chunk < (copyRun base).nChunks
     ∧ s.chans[(1 : Fin 32)].held = none ∧ poolFree s 0 = true
     ∧ poolFree { s with held := List.replicate 128 (⟨0, 0, .bte 0, 0⟩ : Held) } 0 = false)
    ∧ (match bteChunk 1 (copyRun (2 ^ 47)) (copying (copyRun (2 ^ 47))) with | .error (.trap _ _ _) => True | _ => False)
    ∧ (match bteChunk 1 (copyRun 0x20000) (copying (copyRun 0x20000)) with | .error (.page _ _ _ _) => True | _ => False)
    ∧ (let r := copyRun 0x200
       let p := templateFields r.body.toNat
       let src := shapeOf r.src.toNat
       let dst := shapeOf ((r.dsts.headD 0).toNat)
       let cs := chunkCoords (spaceOf p r.src.toNat (r.dsts.map (·.toNat))) (spaceZ p r.src.toNat (r.dsts.map (·.toNat))) p.chunk r.chunk
       p.mode ≠ 2 ∧ p.dring = none ∧ r.tags.contains r.chunk = false
       ∧ ∃ m u, applyActs (.bte 1) (p.mode == 1) dst.fmt dst.z (fillBytes dst.z p.fill) (cs.map (elemAct p src dst)) (copying r) = .ok (m, u)) := by
  refine ⟨by decide +kernel, ?_, ?_, by decide +kernel, by decide +kernel, by decide +kernel, ok1 (by decide +kernel)⟩ <;> trivial

/-- A drain of one element to the plane. -/
def drainRun (k : Nat) : BteRun :=
  { emptyRun { copyJob with drain := some ⟨0x30, [0, 0], 64, false, [5]⟩ } with dsts := [BitVec.ofNat 512 planeShape], nChunks := 1, chunk := k }

theorem witness_drain_write :
    (let s := copying (drainRun 0)
     s.chans[(1 : Fin 32)].run = some (drainRun 0) ∧ (drainRun 0).job.drain = some ⟨0x30, [0, 0], 64, false, [5]⟩ ∧ (drainRun 0).chunk = 0
     ∧ s.chans[(1 : Fin 32)].held = none)
    ∧ (∃ x u, drainChunk 1 (drainRun 0) ⟨0x30, [0, 0], 64, false, [5]⟩ (copying (drainRun 0)) = .ok (x, u))
    ∧ (drainRun 1).chunk ≠ 0 ∧ (copying (drainRun 1)).chans[(1 : Fin 32)].run = some (drainRun 1)
    ∧ (copyRun 0x200).job.drain = none := by
  refine ⟨by decide +kernel, ok1 (by decide +kernel), ?_⟩
  decide +kernel

theorem witness_job_end :
    (∀ multi : Bool, ∀ done : Bool, let r := { copyRun 0x200 with
         chunk := if done then 1 else 0, dsts := if multi then [0, 0] else [0], body := BitVec.ofNat 512 (if multi then 2 ^ 33 else 0) }
     (copying r).chans[(1 : Fin 32)].run = some r ∧ (copying r).chans[(1 : Fin 32)].held = none ∧ (r.chunk < r.nChunks ↔ done = false) ∧ r.multi = multi)
    ∧ (∀ k : Fin 3, let s := modChan 1 (fun c => { c with base := 0x3000, log2 := if k = 0 then 0 else 1, held := some 5 }) { copying (copyRun 0x200) with mem := if k = 2 then writeCells [] [(0x3000, 2)] else [] };
       unitHeld s (.bte 1) = some 5 ∧ ((ringRegs s (.bte 1)).2 = 0 ↔ k = 0)
       ∧ (ringPut (engineBy (.bte 1)) (ringRegs s (.bte 1)).1 (ringRegs s (.bte 1)).2 16 5 s).toOption.map Prod.fst = some (k != 2)) := by
  decide +kernel

theorem witness_unit_released :
    ∀ st ∈ [0, 2], let s := modChan 1 (fun c => { c with held := some (BitVec.ofNat 128 st) }) (copying (drainRun 1))
    s.chans[(1 : Fin 32)].run = some (drainRun 1) ∧ (drainRun 1).job.block = false ∧ s.chans[(1 : Fin 32)].held = some (BitVec.ofNat 128 st)
    ∧ s.chans[(1 : Fin 32)].log2 = 0 ∧ (drainRun 1).job.drain.isSome ∧ (drainRun 1).job.tid = some s.task.tid ∧ s.task.status ≠ .vacant := by
  decide +kernel

/-- A Lighter program of 4 commands at 0x400 (with R; LOOKAHEAD 1) that stands at command w, and its state. -/
def lightBody (canRead : Bool) : BitVec 512 := BitVec.ofNat 512 (0x400 + 2 ^ 64 * 4 + 2 ^ 81 + if canRead then 2 ^ 89 else 0)
def lightRun (canRead : Bool) : LRun := LRun.start ⟨0, 0x21, 9, none, 0, 0, false, false⟩ (lightBody canRead)
def atCommand (r : LRun) (w : Nat) : State :=
  modLighter 1 (fun c => { c with run := some r }) { withRing (mapped .c) with mem := writeCells [] (atAddr 0x400 (natBytes 8 w)) }

theorem witness_lighter_commands :
    let r := lightRun true
    let ok (w : Nat) (c : LCmd) := lighterRuns (atCommand r w) 1 = some r ∧ ∃ t, fetchCmd 1 r (atCommand r w) = .ok (c, t)
    ok (2 ^ 60 + 0x5000) (.base 0x5000) ∧ ok (2 ^ 60 * 9 + 0x5000) (.idx 0x5000) ∧ ok (2 ^ 60 * 10 + 8) (.adv 8)
    ∧ ok (2 ^ 60 * 2 + 2 ^ 57 * 7 + 2 ^ 32 * 3 + 4) (.dim 7 3 4) ∧ ok (2 ^ 60 * 8 + 3) (.jump 3)
    ∧ ok (2 ^ 60 * 5 + 2 ^ 58 * 3 + 2 ^ 34 * 2 + 2 ^ 16 * 3) (.loop 3 2 3) ∧ ok (2 ^ 60 * 6 + 2 ^ 50 * 5 + 2 ^ 38) (.sig 5 1)
    ∧ ok (2 ^ 60 * 7 + 2 ^ 58 * 2 + 2 ^ 50 * 5 + 2 ^ 34 * 4) (.wwait 2 5 4) ∧ ok 0 .stop_ := by
  refine ⟨?_, ?_, ?_, ?_, ?_, ?_, ?_, ?_, ?_⟩ <;> exact ⟨rfl, _, okv (by decide +kernel)⟩

/-- The outcome of a claim: nothing claimed, or the slot. -/
def claims (r : LRun) (bytes w : Nat) : Option Bool := (claimPush 1 r 1 bytes (after (fetchCmd 1 r) (atCommand r w))).toOption.map (fun x => x.1.isSome)

theorem witness_lighter_push :
    let w := 2 ^ 60 * 3 + 2 ^ 57 + 2 ^ 53 + 2 ^ 50 * 2
    let r := { lightRun true with slot := some (1, 0) }
    let b := { lightRun true with flight := List.replicate 2 ⟨1, 0, 0, 0⟩ }
    let t := after (fetchCmd 1 r) (atCommand r w)
    (fetchCmd 1 r (atCommand r w) = .ok (.push 1 1 2 0 0, t)) ∧ lighterRuns (atCommand r w) 1 = some r ∧ poolFree (atCommand r w) 0 = true
    ∧ (fetchCmd 1 b (atCommand b w)).toOption.map Prod.fst = some (.push 1 1 2 0 0) ∧ claims b 4 w = some false
    ∧ (lightRun false).canRead = false ∧ (fetchCmd 1 (lightRun false) (atCommand (lightRun false) w)).toOption.map Prod.fst = some (.push 1 1 2 0 0)
    ∧ ∃ x u, claimPush 1 r 1 4 t = .ok (some x, u) ∧ ∃ bs v, lighterRead 1 (span 0 4) u = .ok (bs, v) := by
  refine ⟨okv (by decide +kernel), rfl, by decide +kernel, by decide +kernel, by decide +kernel, by decide +kernel, by decide +kernel, ?_⟩
  exact ⟨0, _, okv (by decide +kernel), ok1 (by decide +kernel)⟩

/-- A claim that is made, and one that waits for its slot or for an earlier push. -/
theorem witness_lighter_claims :
    ∀ k : Fin 3, let r := { lightRun true with flight := if k = 2 then List.replicate 2 ⟨1, 0, 0, 0⟩ else [] }
    let s := modCur (fun t => t.modRing 1 (fun g => { g with lock := if k = 1 then 1 else 0 })) (atCommand r 0)
    r.slot = none ∧ r.canRead = true ∧ getTask? s r.prog.tid = some s.task ∧ s.task.rings[(1 : Fin 8)].en = true
    ∧ 4 ≤ ringSlotBytes s.task.rings[(1 : Fin 8)].cfg ∧ (s.task.rings[(1 : Fin 8)].claimable = true ↔ k ≠ 1) ∧ (r.flight.length < 2 ↔ k ≠ 2)
    ∧ claimsFirst s s.task.tid 1 34 = false := by
  intro k
  fin_cases k <;> refine ⟨rfl, by decide +kernel, rfl, by decide +kernel, by decide +kernel, by decide +kernel, by decide +kernel, by decide +kernel⟩

theorem witness_lighter_gather :
    let w := 2 ^ 60 * 4 + 2 ^ 57 + 2 ^ 50 * 2 + 2 ^ 16
    let r := { lightRun true with slot := some (1, 0) }
    let b := { lightRun true with flight := List.replicate 2 ⟨1, 0, 0, 0⟩ }
    let t := after (fetchCmd 1 r) (atCommand r w)
    (fetchCmd 1 r (atCommand r w) = .ok (.gather 1 2 0 0 1 0, t)) ∧ lighterRuns (atCommand r w) 1 = some r
    ∧ (fetchCmd 1 b (atCommand b w)).toOption.map Prod.fst = some (.gather 1 2 0 0 1 0) ∧ claims b 4 w = some false
    ∧ ∃ x u, claimPush 1 r 1 4 t = .ok (some x, u) ∧ ∃ ib v, lighterRead 1 (span 0 4) u = .ok (ib, v)
      ∧ ∃ parts y, (bytesElems 4 1 ib).mapM (fun (i : Nat) =>
          if i = 0x80000000 then pure (List.replicate 4 0)
          else lighterRead 1 (span (((r.cur.toNat : Int) + sxInt 32 i * 2 ^ 0) % ((2 ^ 58 : Nat) : Int)).toNat 4)) v = .ok (parts, y) := by
  refine ⟨okv (by decide +kernel), rfl, by decide +kernel, by decide +kernel, ?_⟩
  exact ⟨0, _, okv (by decide +kernel), List.replicate 4 0, _, okv (by decide +kernel), ok1 (by decide +kernel)⟩

theorem witness_lighter_runs :
    let p : LProg := ⟨0, 0x21, 9, none, 0, 0, false, false⟩
    let s (good fenced : Bool) := modLighter 1 (fun c => { c with queue := [p], fenced := fenced })
      (if good then withObj 0x21 7 (2 ^ 64 * 8 + 0x400) (mapped .c) else mapped .c)
    (∀ good fenced : Bool, lighterDue (s good fenced) 1 = true ∧ savedProg (s good fenced) 1 = none ∧ (s good fenced).lighters[(1 : Fin 32)].queue = [p]
      ∧ (s good fenced).lighters[(1 : Fin 32)].fenced = fenced
      ∧ okE (objCheck (s good fenced) (some (s good fenced).task) 0x21 7 lprogOk (fun _ => true)) = good)
    ∧ (let r := { lightRun true with flight := [⟨1, 0, 5, 1⟩], curPage := some 0, addr := some 0xFFFF }
       (atCommand r 0).lighters[(1 : Fin 32)].run = some r ∧ lighterRuns (atCommand r 0) 1 = some r ∧ r.wantsPage = some 1)
    ∧ (let r := { lightRun true with halted := true }
       (atCommand r 0).lighters[(1 : Fin 32)].run = some r ∧ r.flight = [] ∧ r.slot = none ∧ (atCommand r 0).lighters[(1 : Fin 32)].held = none) := by
  refine ⟨by decide +kernel, by decide +kernel, by decide +kernel⟩

theorem witness_lighter_page :
    let r := { lightRun true with curPage := some 0, addr := some 0xFFFF }
    let s := atCommand r 0
    (match locate (s.homeView 65536) 65536 with | .stack _ _ => False | _ => True)
    ∧ (let s := { s with homeMap := [(0, 0#4)], walks := ⟨1, 0, 0, 0x10000, false, false⟩ :: s.walks }
       match locate (s.homeView 65536) 65536 with | .stack _ _ => True | _ => False) := by
  refine ⟨?_, ?_⟩ <;> trivial

/-- A program brought back by its task. -/
theorem witness_lighter_return :
    let s := modCur (fun t => { t with savedProgs := [(1, lightRun true)] }) (mapped .c)
    lighterDue s 1 = true ∧ savedProg s 1 = some (0, 1, lightRun true) := by
  decide +kernel

/-- An exchange of two members on 8 x 8 x 2 .i32 in two phases; `k` is its spare signal count, `ring` its ring destination. -/
def smallXpb (k : Nat) (ring pstep : Bool) : Nat :=
  0x40 + 2 ^ 64 * (8 + 2 ^ 20 * 8 + 2 ^ 40 * 2) + 2 ^ 128 * (1 + 2 ^ 16 * 2 + 2 ^ 32)
    + 2 ^ 192 * (2 ^ 2 + 2 ^ 4 * 9 + 2 ^ 9 * b2n ring + 2 ^ 10 + 2 ^ 13 + 2 ^ 19 * b2n pstep + 2 ^ 20 * 8 + 2 ^ 28 + 2 ^ 40 * 20 + 2 ^ 48 * k)
    + 2 ^ 256 * (if ring then 0 else 2 ^ 32 * 0x8000) + 2 ^ 320 * (32 + 2 ^ 21 * 32)
def collKey : CollKey := ⟨0x40, 0x20, 0⟩
def member (tid pkg : Nat) (x : Nat) (started : Bool) : DMember :=
  { tid := tid, rank := tid, pkg := pkg, xpb := BitVec.ofNat 1024 x, wait := none, since := 0, ssem := 9, sinc := 1, started := started, tick := 0
    phases := 0, srcDone := false, flits := 0, slips := 0, slots := [], done := false }
def coll (ms : List DMember) : DColl :=
  { key := collKey, members := ms, moved := [], ended := none, slotMove := 0, slotPhase := 0, slipMax := 0, unslotted := false }
def exchanging (c : DColl) : State :=
  { withRing (at_ .c) with damask := [c], tick := 4096, others := [{ (withRing (at_ .c)).task with tid := 1, core := 1 }] }

theorem witness_damask_members :
    (∀ k : Bool, ∀ started : Bool, let m := member 0 0 (smallXpb 0 false false) started
     let c := coll [m, member 1 0 (smallXpb (b2n k) false false) true]
     getColl? (exchanging c) collKey = some c ∧ c.member? m.tid = some m ∧ memberReady (exchanging c) collKey.group m = !started ∧ xpbNow (exchanging c) collKey.xpb m = m.xpb ∧ c.ended = none
     ∧ c.members.any (fun x => x.started && x.xpb != m.xpb) = k
     ∧ c.atRank? 0 = some m)
    ∧ (let m := member 0 0 (smallXpb 0 false false) false
       let c := coll [m, member 1 0 (smallXpb 1 false false) true]
       let s := exchanging c
       m.wait = none ∧ (getColl? (modMember collKey m.tid (fun m => { m with started := true, tick := s.tick, wait := none }) s) collKey).isSome = true)
    ∧ ∀ done : Bool, let m := { member 0 0 (smallXpb 0 false false) true with srcDone := done, phases := 2 }
      getColl? (exchanging (coll [m])) collKey = some (coll [m]) ∧ (coll [m]).member? m.tid = some m ∧ memberDone (coll [m]) m = done := by
  decide +kernel

/-- The block of phase 0 from member 0 to member 1. -/
def block01 : DamaskBlock := ⟨0, 1, 0, 0, 0, 4, 4, 0, 4⟩
theorem witness_damask_blocks :
    (∀ started : Bool, ∀ ring : Bool,
     let x := member 0 0 (smallXpb 0 ring false) started
     let y := member 1 0 (smallXpb 0 ring false) true
     let s := exchanging (coll [x, y])
     getColl? s collKey = some (coll [x, y]) ∧ (coll [x, y]).atRank? block01.src = some x ∧ (coll [x, y]).atRank? block01.dst = some y
     ∧ blockDue s (coll [x, y]) block01 = started ∧ (xpbOf x.xpb.toNat).dstRing = ring)
    ∧ (∀ ring : Bool, let x := member 0 0 (smallXpb 0 ring false) true
       let s := exchanging (coll [x, member 1 0 (smallXpb 0 ring false) true])
       (getTask? s 0).isSome = true ∧ (getTask? s 1).isSome = true)
    ∧ ∀ first : Bool, let x := member 0 0 (smallXpb 0 true false) true
      let y := member 1 0 (smallXpb 0 true false) true
      let s := exchanging (coll [x, y])
      let s := modTask 1 (fun t => { t with a := { t.a with wait := if first then some (.ring (xpbOf x.xpb.toNat).ring.val) else none } }) s
      (blockSlots s (xpbOf x.xpb.toNat) y block01.phase).isSome = !first ∧ y.slots.all (fun z => z.2 != block01.phase) = true
      ∧ claimsFirst (s.homeView (y.pkg * 2 ^ 47)) y.tid (xpbOf x.xpb.toNat).ring 65 = first := by
  decide +kernel

theorem witness_damask_phases :
    (∀ k : Fin 3, let m := { member 0 0 (smallXpb 0 true true) true with slots := if k = 1 then [(2, 0)] else [] }
     let c := { coll [m, member 1 0 (smallXpb 0 true true) true] with moved := if k = 0 then [] else (xpbOf (smallXpb 0 true true)).inbound 0 }
     getColl? (exchanging c) collKey = some c ∧ c.member? m.tid = some m
     ∧ (phaseDue c m = true ↔ k ≠ 0) ∧ m.slots.find? (fun x => x.2 == m.phases) = if k = 1 then some (2, m.phases) else none)
    ∧ ∀ k : Fin 3, let x := smallXpb (if k = 2 then 1 else 0) false false
      let m := member 0 0 x true
      let c := { coll [m, member 1 0 x true] with moved := if k = 0 then [] else (xpbOf x).outbound 0 }
      getColl? (exchanging c) collKey = some c ∧ c.member? m.tid = some m ∧ (sourceDue c m = true ↔ k ≠ 0) ∧ (c.xpbAll.rinc = 0 ↔ k ≠ 2) := by
  decide +kernel

theorem witness_damask_slots :
    ∀ pkg : Fin 2, let x := smallXpb 0 false false
    let c := coll [member 0 0 x true, member 1 pkg.val x true]
    getColl? (exchanging c) collKey = some c ∧ slotDue (exchanging c) c = if pkg = 0 then none else some 0 := by
  decide +kernel

/-- Whether a computation meets a translation fault. -/
def pageE {α : Type} (x : Except Stop α) : Bool := match x with
  | .error (.page _ _ _ _) => true
  | _ => false

theorem witness_home_slices :
    let by_ : Requester := .stream 0 .s
    let s := mapped .s
    (okE (writeIa by_ 0x40 [1, 2] s) = true ∧ pageE (writeIa by_ 0x20000 [1, 2] s) = true ∧ okE (readIa by_ 0x40 8 s) = true
      ∧ pageE (readIa by_ 0x20000 8 s) = true)
    ∧ (∀ flt : Bool, let opk : BitVec 4 := if flt then 10 else 0
       (flt = true → 0xA ≤ opk.toNat ∧ opk.toNat ≤ 0xC ∨ opk = 8) ∧ (flt = false → opk.toNat < 0xA)
       ∧ okE (updateLine by_ (span 0x40 4) (fun old => (natBytes 4 (atomicNew opk 4 (bytesNat old) 1 0), bytesNat old)) s) = true
       ∧ iaPkg 0x40 = s.pkg ∧ okE ((do
          recallLine (lineOf 0x40) true none
          let bs ← readEvent false by_ (span 0x40 4)
          applyLine by_ ((span 0x40 4).zip (natBytes 4 (atomicNew opk 4 (bytesNat bs) 1 0)))) s) = true) := by
  decide +kernel

/-- A request of task 0 for the guard at IA 0x40, whose lock word is w. -/
def guardedLine (shared : Bool) (w : Nat) : State :=
  { mapped .c with guardQ := [⟨0x40, 0, shared⟩], mem := writeCells [] (atAddr 0x40 (natBytes 8 w)) }

theorem witness_guard_grant :
    ∀ shared : Bool, ∀ free : Bool, let w := if free then guardWord false 0 0 else guardWord true 0 0
    let s := guardedLine shared w
    s.guardQ.find? (fun q => q.ia == 0x40) = some ⟨0x40, 0, shared⟩
    ∧ (readIa (.stream 0 .c) 0x40 8 s).toOption.map (fun x => bytesNat x.1) = some w
    ∧ grantable shared w = free ∧ okE ((do
        let _ ← readIa (.stream 0 .c) 0x40 8
        pokeIa (.stream 0 .c) 0x40 (natBytes 8 (if shared then guardWord false (guardShr w + 1) (guardGen w) else guardWord true 0 (guardGen w)))) s) = true := by
  decide +kernel

theorem witness_remote_applies :
    (let m (rank off : Nat) : RstvMsg := ⟨0, 0x40, BitVec.ofNat 16 rank, BitVec.ofNat 21 off, 0, false, 0, 0⟩
     (rankTask grouped 0x40 1).isNone = true
     ∧ (∀ bad : Bool, let x := m 0 (if bad then 0x17FFFF else 0)
        (match rankTask grouped 0x40 0 with
         | some t => (lsJudge .noStash t x.off.toNat 256).isSome
         | none => !bad) = bad))
    ∧ (∀ k : Fin 3, let m : RrputMsg := ⟨0, 0x40, if k = 0 then 1 else 0, 1, List.replicate 256 0, 5, 1, 0, 0⟩
       let s := if k = 2 then withRing grouped else grouped
       (match rankTask s m.group m.rank.toNat with
       | none => k == 0
       | some t => k != 0 && putFits t m == decide (k = 2)) = true) := by
  decide +kernel

theorem witness_sketch_and_gate_events :
    ((objEntry sketched 0x31).1 = 5 ∧ sketchOk (objEntry sketched 0x31).2.toNat = true ∧ 2 < skRows (objEntry sketched 0x31).2.toNat
      ∧ 255 < 2 ^ skLogw (objEntry sketched 0x31).2.toNat
      ∧ (let ia := skBase (objEntry sketched 0x31).2.toNat + 4 * (2 * 2 ^ skLogw (objEntry sketched 0x31).2.toNat + 255)
         okE (updateLine .quay (span ia 4) (fun old =>
           let r := satCounter (sxInt 32 (bytesNat old)) 1
           (natBytes 4 (wrapN 32 r.1), r.2)) sketched) = true)
      ∧ skRows (objEntry sketched 0x31).2.toNat ≤ 3)
    ∧ okE ((do
        let _ ← updateLine .quay (span 0x40 8) (fun old =>
          let w0 := bytesNat old
          (natBytes 8 ((bits w0 0 32 + 1) % 2 ^ 32 + 2 ^ 32 * bits w0 32 16 + 2 ^ 48 * b2n (true || bitN w0 48) + 2 ^ 49 * bits w0 49 15), ()))
        atHome .quay 0x40 (fun b => gateDecide b 0x40)) (gated 5)) = true := by
  decide +kernel

/-- A stash mapping of LS 0x4000 to IA 0x1000, with or without its first line. -/
def stashed (filled : Bool) : State :=
  modCur (fun t => { t with stash := [⟨0, 0x4000, 0x1000, 0x1000, 256, true, true, if filled then [⟨0, true⟩] else []⟩] }) (mapped .c)

theorem witness_stash_events :
    ∀ filled : Bool, let s := stashed filled
    let m : Stash := ⟨0, 0x4000, 0x1000, 0x1000, 256, true, true, if filled then [⟨0, true⟩] else []⟩
    (getTask? s 0).bind (fun t => t.stashAt 0x4010) = some m ∧ (0x4010 - m.lsOff) / 128 * 128 = 0
    ∧ m.lines.any (fun l => l.off == 0) = filled ∧ okE (fillStash 0 m 0 s) = true ∧ okE (recallLine (lineOf 0x1000) true none s) = true
    ∧ (stashHolders s (lineOf 0x1000) = [] ↔ filled = false) := by
  decide +kernel

theorem witness_translation_faults :
    let s := mapped .c
    (∀ d, locate s 0x40 ≠ .fault d) ∧ locate s 0x20000 = .fault (some 0)
    ∧ (let e : LogEntry := ⟨3, 0, [⟨0xD0, 0, 0, 0, 3, false, 0, 0x40, 0x40, atAddr 0x40 [1], false, 0, [], []⟩], false⟩
       let u := modCur (fun t => { t with sidelog := [e] }) s
       (getTask? u 0).bind (fun t => t.replayable 3) = some e ∧ okE (replayEntry 0 e u) = true ∧ (getTask? u 0).bind (fun t => t.replayable 4) = none)
    ∧ heldAt s 0 2 = [] ∧ heldAt { s with held := [⟨0, 2, .bte 1, 0x20000⟩] } 0 2 ≠ [] := by
  have h : locate (mapped .c) 0x40 = .stack ⟨0, 0, 0, 0x10000, false, false⟩ 0x40 := by decide +kernel
  refine ⟨fun d e => ?_, by decide +kernel, by decide +kernel, by decide +kernel, by decide +kernel⟩
  rw [h] at e
  exact absurd e (by simp)

/-- Region 0 on die 0, with tables on dies 0 and 1; `big` makes it one 2 MiB page. -/
def tables (big : Bool) : State :=
  let pte (die addr e : Nat) := atAddr (stackKey die addr) (natBytes 8 e)
  { at_ .c with
    homeMap := [(0, 0#4)], roots := Vector.replicate 8 0x100000#64
    mem := writeCells [] (pte 0 0x100000 (0x110000 + 1) ++ pte 1 0x100000 (0x110000 + 1) ++ pte 0 0x110000 (if big then 0x200000 + 3 else 0x120000 + 1)
      ++ pte 1 0x110000 (0x130000 + 1) ++ pte 0 0x120008 (0x300000 + 3)) }

theorem witness_invalidation_and_migration :
    (∀ big : Bool, let s := tables big
     let e := readPte s 0 0x110000
     s.migrating = [] ∧ mayMove s 0 0x110000 1 0x110000 = true ∧ mayMove { s with mem := writeCells s.mem [(stackKey 0 0x110000, 9)] } 0 0x110000 1 0x110000 = false
     ∧ s.homeOf 0 = 0 ∧ regionBusy s 0 = false ∧ level1At s 0 0 = some 0x110000 ∧ level1At s 1 0 = some 0x110000 ∧ pteValid e = true
     ∧ bitN e 3 = false ∧ bitN e 1 = big ∧ pteValid (readPte s 1 0x110000) = true ∧ bitN (readPte s 1 0x110000) 1 = false
     ∧ ∀ i < 32, pteValid (readPte s 0 (pteAddr e + 8 * i)) = true → bitN (readPte s 0 (pteAddr e + 8 * i)) 3 = false)
    ∧ (∀ big : Bool, let s := { tables big with migrating := [⟨0, 1, 0⟩] }
       s.migrating.find? (fun x => x.region == 0) = some ⟨0, 1, 0⟩
       ∧ level1At { s with migrating := [] } 0 0 = some 0x110000 ∧ level1At { s with migrating := [] } 1 0 = some 0x110000
       ∧ bitN (readPte ((regionEntries s 0 0x110000).foldl (setMig false 0) s) 0 0x110000) 1 = big)
    ∧ regionBusy { tables true with held := [⟨0, 2, .bte 1, 0x20000⟩] } 0 = true := by
  decide +kernel

/-- The side-log entry that Table 25.2 prints (R436, R476). -/
def p6Entry : LogEntry :=
  ⟨0, 0x2001, [{ op := 0xD2, opk := 0, ord := 0, scope := 0, size := 7, tag := false, pc := 0x40000434, va := 0x20010000
                 ia := 0x20010000, red := false, id := 0, after := [], bad := []
                 bytes := atAddr 0x20010000 [0x92, 0x06, 0x33, 0x21, 0x8A, 0x92, 0x06, 0x33, 0x21, 0x8A, 0x92, 0x06, 0x33, 0x21, 0x8A,
                   0x92, 0x06, 0x33] }], false⟩

theorem test_side_log_entry : p6Entry.cells =
    atAddr 0 (natBytes 8 0xD200000000070000 ++ natBytes 8 0x20010000 ++ natBytes 8 0x20010000 ++ natBytes 8 0x40000434)
      ++ (atAddr 32 (natBytes 32 0x3FFFF) ++ atAddr 64 [0x92, 0x06, 0x33, 0x21, 0x8A, 0x92, 0x06, 0x33, 0x21, 0x8A, 0x92, 0x06, 0x33,
        0x21, 0x8A, 0x92, 0x06, 0x33]) := by decide

/-- An established circuit to package 3 on engine 2. -/
def circUp : Circuit :=
  { newCircuit State.reset ⟨9, 0, 3, 2, 4, 1, []⟩ with state := .up, rx := { RecvDir.init with key0 := some 7 } }
def withCircs (cs : List Circuit) : State := { at_ .c with circuits := cs }

theorem witness_register_writes :
    (at_ .c).anyResident = false ∧ (running 0 node1).anyResident = true ∧ (∃ c ∈ (withCircs [circUp]).circuits, c.state = .up)
    ∧ (∀ c ∈ (at_ .c).circuits, c.state ≠ .up) ∧ (at_ .c).bootFail = 0 ∧ ({ at_ .c with bootst := 0x303 }).bootFail ≠ 0 ∧ bits 1 0 2 = 1 ∧ bits 2 0 2 = 2 := by
  decide +kernel

theorem witness_error_events :
    (let s := { mapped .c with errHeld := [5, 6], errCfg := 1, errBase := 0x100 }
     s.errHeld = 5 :: [6] ∧ s.errLog2 ≠ 0 ∧ (ringPut .quay s.errRing s.errLog2 64 (5 : BitVec 512).toNat s).toOption.map Prod.fst = some true)
    ∧ (at_ .c).errHeld = []
    ∧ ((at_ .c).task.lsPoison.contains 0 = false ∧ (0 : Nat) ≤ (at_ .c).ceThreshold ∧ (at_ .c).ceThreshold < 2 ^ 20)
    ∧ (at_ .c).ceCount.find? (fun c => c.unit == ErrUnit.stack 1) = none ∧ (∀ d f, ErrUnit.stack 1 ≠ ErrUnit.frame d f)
    ∧ (0x100 : Nat) < 2 ^ 39 ∧ (at_ .c).task.status = .resident ∧ (0x100 : Nat) < Config.stackBytes := by
  refine ⟨by decide +kernel, by decide +kernel, by decide +kernel, by decide +kernel, by simp, by decide +kernel⟩

theorem witness_error_task : getTask? (at_ .c) 0 = some (at_ .c).task := rfl

/-- The inputs of a start that fails at the fuses, or at the version. -/
def boot (fuses : Bool) : BootInputs := ⟨fuses, 0, [], [], [], true, List.replicate 192 3000, []⟩

theorem witness_package_reset :
    (boot true).version < { Fuses.init with rollback := 1 }.rollback
    ∧ (calibrateAll Fuses.init (boot true).passes).isSome = true := by
  decide +kernel

theorem test_reset_fails_at_fuses : bootStages (boot false) Fuses.init = 0x101 := by decide +kernel

theorem witness_management_events :
    (let s := modCore 0 (fun c => { c with pendingSpeed := some 2300 }) (at_ .c)
     1910 ≤ s.cores[(0 : Fin 192)].pendingSpeed.getD s.cores[(0 : Fin 192)].speed ∧ s.guaranteed + 10 ≤ s.pendingSum)
    ∧ (let s := modCore 0 (fun c => { c with pendingSpeed := some 1905 }) (at_ .c)
       s.cores[(0 : Fin 192)].pendingSpeed.getD s.cores[(0 : Fin 192)].speed < 1910)
    ∧ (at_ .c).pendingSum < (at_ .c).guaranteed + 10
    ∧ (at_ .c).anyRunning = false ∧ (running 0 node1).anyRunning = true
    ∧ (quiesce State.reset).quiet = true ∧ (at_ .c).quiet = false ∧ (quiesce (at_ .c)).quiet = true ∧ (quiesce (at_ .c)).migrating = [] ∧ (at_ .c).image = none
    ∧ ({ at_ .c with image := some (imageOf State.reset) }).image = some (imageOf State.reset)
    ∧ (at_ .c).power ≠ .p3 ∧ State.reset.power ≠ .p3 ∧ State.reset.quiet = true ∧ State.reset.anyRunning = false := by
  decide +kernel

theorem witness_hardware_fences :
    (at_ .c).sliceFenced.contains 5 = false ∧ (at_ .c).frameFenced.contains (2, 3) = false ∧ (3 * 65536 : Nat) < Config.stackBytes
    ∧ Config.stackBytes ≤ 2 ^ 36 := by
  decide +kernel

/-- A flit of a kind as the receiver of `circUp` expects it, or with one thing wrong. -/
def flit (kind : Nat) : FlitIn := sealFlit 7 0 5 0 false kind 9
def badCodeword : FlitIn := { flit 0 with codewordOk := false }
def badCrc : FlitIn := { flit 0 with crc := ~~~(crc32 (flitBytes (flit 0).header (flit 0).payload (flit 0).tag)) }
def badOrder : FlitIn := sealFlit 7 0 5 3 false 0 9
def badKey : FlitIn := sealFlit 7 0 5 0 true 0 9

theorem flit_fields (kind : Nat) (slot : Bool) (h : kind = 0 ∨ kind = 1 ∨ kind = 2 ∨ kind = 3 ∨ kind = 4) :
    flitKind (sealFlit 7 0 5 0 slot kind 9) = kind ∧ flitSeq (sealFlit 7 0 5 0 slot kind 9) = 0 ∧ flitSlot (sealFlit 7 0 5 0 slot kind 9) = slot
    ∧ flitCtr (sealFlit 7 0 5 0 slot kind 9) = 5 := by
  unfold sealFlit flitKind flitSeq flitSlot flitCtr
  rcases h with rfl | rfl | rfl | rfl | rfl <;> cases slot <;> decide +kernel

theorem flit_passes (kind : Nat) (h : kind = 0 ∨ kind = 1 ∨ kind = 2 ∨ kind = 3 ∨ kind = 4) : judge circUp.rx (flit kind) = .passes := by
  have f := flit_fields kind false h
  unfold judge
  rw [show flitSeq (flit kind) = 0 from f.2.1, show flitSlot (flit kind) = false from f.2.2.1, show flitCtr (flit kind) = 5 from f.2.2.2]
  simp [flit, sealFlit, circUp, RecvDir.key, RecvDir.salt, RecvDir.last, RecvDir.init]

theorem not_ne {w : Nat} (x : BitVec (w + 1)) : x ≠ ~~~x := by
  intro h
  have := congrArg (fun y : BitVec (w + 1) => y.getLsbD 0) h
  simp at this

theorem witness_flit_checks :
    judge circUp.rx (flit 0) = .passes ∧ judge circUp.rx (flit 1) = .passes
    ∧ badCodeword.codewordOk = false
    ∧ (badCrc.codewordOk = true ∧ crc32 (flitBytes badCrc.header badCrc.payload badCrc.tag) ≠ badCrc.crc)
    ∧ (badOrder.codewordOk = true ∧ crc32 (flitBytes badOrder.header badOrder.payload badOrder.tag) = badOrder.crc ∧ flitSeq badOrder ≠ circUp.rx.seq)
    ∧ (badKey.codewordOk = true ∧ crc32 (flitBytes badKey.header badKey.payload badKey.tag) = badKey.crc ∧ flitSeq badKey = circUp.rx.seq
      ∧ circUp.rx.key (flitSlot badKey) = none)
    ∧ (let d := { circUp.rx with last0 := some 5 }
       d.key (flitSlot (flit 0)) = some 7 ∧ d.last (flitSlot (flit 0)) = some 5 ∧ flitCtr (flit 0) ≤ 5)
    ∧ (let d := { circUp.rx with last0 := some 4 }
       d.key (flitSlot (flit 0)) = some 7 ∧ d.last (flitSlot (flit 0)) = some 4 ∧ 4 < flitCtr (flit 0)
       ∧ gcmTag 7 (flitIv (d.salt (flitSlot (flit 0))) (flitCtr (flit 0))) (flit 0).header (flit 0).payload = (flit 0).tag) := by
  have f := flit_fields 0 false (.inl rfl)
  have g := flit_fields 0 true (.inl rfl)
  have e : flitSeq badOrder = 3 := by unfold badOrder sealFlit flitSeq; decide +kernel
  refine ⟨flit_passes 0 (.inl rfl), flit_passes 1 (.inr (.inl rfl)), rfl, ⟨rfl, not_ne _⟩, ⟨rfl, rfl, ?_⟩, ⟨rfl, rfl, g.2.1, ?_⟩, ⟨?_, ?_, ?_⟩, ⟨?_, ?_, ?_, ?_⟩⟩
  · rw [e]; decide
  · rw [show flitSlot badKey = true from g.2.2.1]; rfl
  · rw [show flitSlot (flit 0) = false from f.2.2.1]; rfl
  · rw [show flitSlot (flit 0) = false from f.2.2.1]; rfl
  · rw [show flitCtr (flit 0) = 5 from f.2.2.2]
  · rw [show flitSlot (flit 0) = false from f.2.2.1]; rfl
  · rw [show flitSlot (flit 0) = false from f.2.2.1]; rfl
  · rw [show flitCtr (flit 0) = 5 from f.2.2.2]; decide
  · rw [show flitSlot (flit 0) = false from f.2.2.1, show flitCtr (flit 0) = 5 from f.2.2.2]; rfl

theorem judge_codeword (d : RecvDir) (f : FlitIn) (h : f.codewordOk = false) : judge d f = .codeword := by simp [judge, h]

theorem witness_flit_reception :
    getCirc? (withCircs [circUp]) 9 = some circUp ∧ circUp.state = .up
    ∧ getCirc? (withCircs [{ circUp with state := .setup }]) 9 = some { circUp with state := .setup }
    ∧ flitKind (flit 0) ≠ 1 ∧ flitKind (flit 1) = 1 ∧ flitKind (flit 2) = 2 ∧ flitKind (flit 3) = 3 ∧ flitKind (flit 4) = 4
    ∧ judge circUp.rx (flit 2) = .passes ∧ judge circUp.rx (flit 4) = .passes ∧ (flit 4).corrected = false ∧ judge circUp.rx (flit 0) = .passes
    ∧ judge circUp.rx badKey = .auth ∧ judge circUp.rx badCodeword = .codeword ∧ judge circUp.rx badCrc = .crc ∧ judge circUp.rx badOrder = .order := by
  have w := witness_flit_checks
  refine ⟨by decide +kernel, by decide +kernel, by decide +kernel, ?_, (flit_fields 1 false (by decide)).1, (flit_fields 2 false (by decide)).1,
    (flit_fields 3 false (by decide)).1, (flit_fields 4 false (by decide)).1, flit_passes 2 (by decide), flit_passes 4 (by decide), rfl, w.1, ?_, judge_codeword _ _ rfl, ?_, ?_⟩
  · rw [show flitKind (flit 0) = 0 from (flit_fields 0 false (.inl rfl)).1]; decide
  · have b := w.2.2.2.2.2.1
    simp [judge, b.1, b.2.1, b.2.2.1, b.2.2.2]
  · have b := w.2.2.2.1
    simp [judge, b.1, b.2]
  · have b := w.2.2.2.2.1
    simp [judge, b.1, b.2.1, b.2.2]

theorem witness_sender_events :
    (let c := { circUp with tx := { circUp.tx with unacked := [(badOrder, 0), (flit 0, 0)] } }
     (withCircs [c]).circuits = [c] ∧ c.id = 9 ∧ c.tx.unacked = [(badOrder, 0)] ++ (flit 0, 0) :: [] ∧ flitSeq (flit 0) = (0 : BitVec 12).toNat
     ∧ ∀ x ∈ [(badOrder, (0 : BitVec 2048))], flitSeq x.1 ≠ (0 : BitVec 12).toNat)
    ∧ (let c := { circUp with rx := { circUp.rx with authFails := 4 } }
       getCirc? (withCircs [c]) 9 = some c ∧ lcAuthMax ({ circUp with cfg := State.reset.linkCfg }).cfg ≤ c.rx.authFails)
    ∧ circUp.cfg = State.reset.linkCfg
    ∧ circUp.tx.ctr < 2 ^ 48 - 2 ^ 16
    ∧ (∀ marker : Bool, let d := { SendDir.init with key0 := some 7, key1 := some 8, ctr := if marker then ctrMarker else 0 }
       d.stopped = false ∧ d.unacked.length < 2047 ∧ (ctrMarker ≤ d.ctr ↔ marker = true) ∧ d.ctr < ctrStop ∧ d.key d.slot = some 7
       ∧ d.key (!d.slot) = some 8 ∧ d.seq < 4096)
    ∧ 2048 ≤ ({ SendDir.init with unacked := List.replicate 2048 (flit 0, 0) }).unacked.length
    ∧ (let c := { circUp with tx := { circUp.tx with ctr := 2 ^ 48 } }
       getCirc? (withCircs [c]) 9 = some c ∧ 2 ^ 48 - 2 ^ 16 ≤ c.tx.ctr ∧ c.tx.stopped = false) := by
  refine ⟨⟨rfl, rfl, rfl, (flit_fields 0 false (.inl rfl)).2.1, fun x h => ?_⟩, by decide +kernel, by decide +kernel, by decide +kernel,
    by decide +kernel, by simp, by decide +kernel⟩
  have e : flitSeq badOrder = 3 := by unfold badOrder sealFlit flitSeq; decide +kernel
  rw [List.mem_singleton.1 h, e]; decide

/-- A set-up of this package, numbered 0. -/
def setupReq : SetupReq := ⟨9, 0, 3, 2, 4, 1, []⟩
def numbered (driftOff : Bool) : State :=
  let s := { at_ .c with pkgnum := 0x800#64 }
  { s with engines := s.engines.set 2 { s.engines[2] with driftOff := driftOff } }

theorem witness_circuit_events :
    (∀ off : Bool, (numbered off).engines[setupReq.engine].driftOff = off ∧ setupReq.from_.toNat = (numbered off).pkg)
    ∧ maySetup (numbered false) setupReq = true ∧ getCirc? (numbered false) setupReq.circ = none ∧ setupReq.rivals = [] ∧ (numbered false).ports = []
    ∧ (∀ waits : Bool, let c := { circUp with state := if waits then .waiting else .setup }
       getCirc? (withCircs [c]) 9 = some c ∧ c.nacks + 1 < 16)
    ∧ (∀ b : Bool, let c := { circUp with idle := if b then 2 ^ 40 else 0 }
       let s := { withCircs [c] with idleTime := 5#64 }
       getCirc? s 9 = some c ∧ s.engines[c.engine].driftOff = false ∧ c.state = .up ∧ (s.idleTime.toNat ≤ c.idle ↔ b = true)
       ∧ slotReserved s c.far.toNat = false ∧ engineFor s c.engine 9 = some 2)
    ∧ (let s0 := withCircs [circUp]
       let s := { s0 with engines := s0.engines.map (fun e => { e with usable := false }) }
       getCirc? s 9 = some circUp ∧ engineFor s circUp.engine 9 = none) := by
  decide +kernel

theorem witness_fabric_events :
    (let s := at_ .c
     s.engines[(2 : Fin 8)].lanes.getLsbD 3 = true ∧ laneUsers s 2 3 = [] ∧ s.engines[(2 : Fin 8)].fenced = false ∧ s.engines[(2 : Fin 8)].lastReset = none
     ∧ s.circuits = [] ∧ s.dieLinks[(5 : Fin 16)].up = true)
    ∧ (let s0 := at_ .c
       let s := { s0 with engines := s0.engines.set 2 { s0.engines[2] with lastReset := some 0, lanes := 0 }, dieLinks := s0.dieLinks.set 5 ⟨false, 0⟩ }
       s.engines[(2 : Fin 8)].lanes.getLsbD 3 = false ∧ s.engines[(2 : Fin 8)].lastReset = some 0 ∧ s.tick ≤ 0 + 2 ^ 30 ∧ s.dieLinks[(5 : Fin 16)].up = false)
    ∧ (let s0 := at_ .c
       let s := { s0 with engines := s0.engines.set 2 { s0.engines[2] with fenced := true } }
       s.engines[(2 : Fin 8)].fenced = true)
    ∧ (∀ n : Bool, let s := { withCircs [circUp] with pkgnum := if n then 0x805#64 else 0x800#64, synced := true, syncAge := 2 ^ 24 }
       getCirc? s 9 = some circUp ∧ circUp.state = .up ∧ ((refreshEntry 9 0 s).pkg = 0 ↔ n = false) ∧ (getCirc? (refreshEntry 9 0 s) 9).isSome = true ∧ (s.pkg ≠ 0 ↔ n = true) ∧ s.synced = true ∧ 2 ^ 24 ≤ s.syncAge) := by
  decide +kernel

theorem witness_host_events :
    (let s := { mapped .c with bootst := 0xE, hdmBase := 0x10000 }
     s.hostUp = true ∧ s.bootst.getLsbD 3 = true ∧ s.stopped = false ∧ s.hostPend = [] ∧ (mapped .c).bootst.getLsbD 3 = false
      ∧ s.hdmBase.toNat ≤ 0x10100 ∧ 0x10100 + 8 ≤ s.hdmBase.toNat + deviceSpan ∧ (0x100 : Nat) < s.hdmBase.toNat
      ∧ okE (readIa .host (s.pkg * 2 ^ 47 + (0x10100 - s.hdmBase.toNat)) 8 s) = true
      ∧ okE (writeIa .host (s.pkg * 2 ^ 47 + (0x10100 - s.hdmBase.toNat)) [1] s) = true
      ∧ okE (writeIa .host (s.pkg * 2 ^ 47 + deviceSpan + 2 ^ 39) [1] s) = true
      ∧ { s with hostPend := [.bar0Read 0 8] }.hostPend ≠ [] ∧ ofBar0 (.bar0Read 0 8) = true ∧ ofBar0 (.read 0 8 false) = false
      ∧ okE (writeIa .quay ((mapped .c).pkg * 2 ^ 47 + hostAperture + 5 % 2 ^ 39) [1] (mapped .c)) = true
      ∧ okE (readIa .quay ((mapped .c).pkg * 2 ^ 47 + hostAperture + 5 % 2 ^ 39) 4 (mapped .c)) = true)
    ∧ ({ mapped .c with hostUp := false }).hostUp = false
    ∧ ∀ late : Bool, let s := { mapped .c with backInval := [(0x80, 0)], tick := if late then 2 ^ 24 else 1 }
      s.backInval.any (fun x => x.1 == lineOf 0x85) = true ∧ invalidationLate s (lineOf 0x85) = late := by
  decide +kernel

/-- Bytes of memory at IA 0x1000, where the current stream stands. -/
def codeAt (bs : List (BitVec 8)) : State :=
  modStrm (fun r => { r with pc := 0x1000, arrive := .inSection }) { mapped .c with bootst := 0xE, mem := writeCells [] (atAddr 0x1000 bs) }

theorem witness_step_runs_word :
    (let s := { mapped .c with bootst := 0xE, agenda := [.haltNotice] }
     s.agenda = .haltNotice :: [] ∧ answered s .haltNotice = true ∧ ∃ t, exec .haltNotice { s with agenda := [] } = .next t)
    ∧ (∀ bad : Bool, let s := codeAt (if bad then [0x80, 0, 0, 0, 0, 0, 0, 0, 0, 0, 0, 0x27] else [])
       s.agenda = [] ∧ s.running = true ∧ s.bg = false ∧ s.task.status = .resident ∧ s.strm.fin = false ∧ s.halted = false ∧ s.withheld = false
       ∧ s.strm.arrive = .inSection)
    ∧ (modStrm (fun r => { r with arrive := .atLead }) (codeAt [])).strm.arrive ≠ .inSection
    ∧ (∃ bs, fetchUnits (codeAt []) (codeAt []).strm.pc 3 = .bytes bs ∧ okE (decodeBytes bs) = true)
    ∧ (let s := codeAt [0x80, 0, 0, 0, 0, 0, 0, 0, 0, 0, 0, 0x27]
       ∃ bs, fetchUnits s s.strm.pc 3 = .bytes bs ∧ okE (decodeBytes bs) = false)
    ∧ (let s := modStrm (fun r => { r with pc := 2 ^ 50 }) (codeAt [])
       ∃ c i va, fetchUnits s s.strm.pc 3 = .trap c i va)
    ∧ (let s := { codeAt [] with walks := [] }
       ∃ d p ia, fetchUnits s s.strm.pc 3 = .hold d p ia)
    ∧ (let s := { codeAt [] with migrating := [⟨0, 1, 0⟩] }
       ∃ c, fetchUnits s s.strm.pc 3 = .wait c) := by
  refine ⟨⟨rfl, by decide +kernel, _, rfl⟩, by decide +kernel, by decide +kernel, ⟨_, rfl, by decide +kernel⟩, ⟨_, rfl, by decide +kernel⟩,
    ⟨_, _, _, rfl⟩, ⟨_, _, _, rfl⟩, ⟨_, rfl⟩⟩

theorem witness_round_trip :
    (Instr.add (alu 3 (.g 1) (.g 2) (.g 3))).wf = true ∧ (encode (.add (alu 3 (.g 1) (.g 2) (.g 3)))).isSome = true
    ∧ okE (decode 0x2700_0000_0024_00C0_0000_0000#96) = true := by
  decide +kernel

theorem witness_general_registers :
    (let f := alu 3 (.g 0) (.g 2) (.g 3)
     f.d = .g 0 ∧ Ready (srcsAB f) [f.d] (at_ .c) ∧ Issues 0x03 f.pred (aluCheck (intRule2 true) f) (at_ .c))
    ∧ Stream.a ≠ (at_ .c).cur := by
  unfold Ready Issues; decide +kernel

theorem witness_division_and_shifts :
    let f := { alu 3 (.g 1) (.g 2) (.g 3) with sat := false }
    let g := { f with sat := true }
    let s := setG 2 0x8000000000000000 (setG 3 0xFFFFFFFFFFFFFFFF (at_ .c))
    let least : Int := -((2 ^ (intWidth f.ty - 1) : Nat) : Int)
    (intSigned f.ty = true ∧ intVal f.ty (s.peekSrc f.a) = least ∧ intVal f.ty (valueB f s) = -1 ∧ Ready (srcsAB f) [f.d] s
      ∧ Issues 0x08 f.pred (aluCheck (intRule2 true) f) s ∧ Issues 0x08 g.pred (aluCheck (intRule2 true) g) s
      ∧ Issues 0x09 f.pred (aluCheck (intRule2 false) f) s)
    ∧ (intVal f.ty (valueB f (at_ .c)) = 0 ∧ (valueB f (at_ .c)).toNat % intWidth f.ty = 0 ∧ Ready (srcsAB f) [f.d] (at_ .c)
      ∧ ∀ op ∈ [0x09#8, 0x0E, 0x0F, 0x10, 0x11], Issues op f.pred (aluCheck (intRule2 false) f) (at_ .c))
    ∧ Issues 0x08 f.pred (aluCheck (intRule2 true) f) (at_ .c) := by
  unfold Ready Issues; decide +kernel

theorem witness_predicate_logic :
    (let f := { alu 0 (.p 1) (.p 2) (.p 3) with sub := 6 }
     predHolds f.pred (at_ .c) = true ∧ f.d = .p 1 ∧ f.a = .p 2 ∧ f.b = .p 3 ∧ f.c = .g 0 ∧ f.ty = 0#5 ∧ f.sub.toNat < 16 ∧ f.rm = 0#3
     ∧ f.rbm1 = 0#4 ∧ f.sat = false ∧ f.immb = false ∧ f.imm = 0#32)
    ∧ (predHolds (alu 0 (.g 1) (.p 2) (.p 3)).pred (at_ .c) = true ∧ ∀ n, (alu 0 (.g 1) (.p 2) (.p 3)).d ≠ .p n) := by
  refine ⟨by decide +kernel, by decide +kernel, fun n => by simp [alu]⟩

theorem witness_software_trap :
    ∀ armed : Bool, ∀ wide : Bool, let f := ifm (.g 0) (.g 0) (if wide then 2 ^ 32 else 2 ^ 32 - 1)
    let s := modStrm (fun r => { r with trapsec := if armed then 0x1001 else 0 }) (at_ .c)
    f.d = .g 0 ∧ f.a = .g 0 ∧ predHolds f.pred s = true ∧ s.strm.semw = none ∧ s.strm.trapsec.getLsbD 0 = armed
    ∧ (2 ^ 32 ≤ f.imm.toNat ↔ wide = true) := by
  decide +kernel

theorem witness_register_word_frame :
    let f := alu 3 (.g 1) (.q 6) (.g 3)
    let s := withQ 6 (at_ .c)
    f.d = .g 1 ∧ Ready (srcsAB f) [f.d] s ∧ (∀ op ∈ [0x03#8, 0x05, 0x06, 0x08], Issues op f.pred (aluCheck (intRule2 true) f) s)
    ∧ ∀ op ∈ [0x09#8, 0x0E, 0x0F, 0x10, 0x07, 0x16, 0x17, 0x0A, 0x0B, 0x0C, 0x0D, 0x14, 0x15, 0x11],
        Issues op f.pred (aluCheck (intRule2 false) f) s := by
  unfold Ready Issues; decide +kernel

theorem witness_load_and_store_frames :
    (∀ lsel : Bool, let f := { memw (.g 1) (.g 2) (.g 0) 3 with lsel := lsel }
     let s := setG 2 (if lsel then 0x17FFF8 else 2 ^ 16 - 8) (mapped .s)
     Issues 0xD0 f.pred (mCheck { storeRule with lsel := true, hint := true } f) s ∧ Ready [f.base, f.index, f.d] [] s ∧ s.task.logWait = []
     ∧ lsJudge .noStash (took f.d (accessT f s)).task (accessVa f s).toNat (sizeBytes f.size) = none ∧ s.task.stash = [] ∧ Memory.wf s.task.ls = true)
    ∧ (let f := memw (.g 1) (.g 2) (.g 0) 3
       let s := setG 2 (2 ^ 16 - 8) (mapped .s)
       let t0 := took f.d (accessT f s)
       let e : WalkEntry := ⟨0, 0, 0, 0x10000, false, false⟩
       translate (t0.window f.win.toNat) (accessVa f s).toNat (sizeBytes f.size) .w = .ok (2 ^ 16 - 8) ∧ (2 ^ 16 - 8) % 128 + sizeBytes f.size ≤ 128
       ∧ locate t0 (2 ^ 16 - 8) = .stack e (2 ^ 16 - 8) ∧ discarded e = false ∧ s.held = [] ∧ s.migrating = [] ∧ s.offDie s.task < 64 ∧ s.hostLines = []
       ∧ (∀ k ∈ everyTask t0, k.stash = [] ∧ k.sidelog = [] ∧ k.logWait = []) ∧ Memory.wf s.mem = true)
    ∧ (let f := memw (.g 1) (.g 2) (.g 0) 3
       let s := modStrm (fun r => { r with trapsec := 0x1001 }) (mapped .a)
       f.lsel = false ∧ s.strm.trapsec.getLsbD 0 = true ∧ s.strm.semw = none ∧ s.circuits = [] ∧ (∀ k ∈ everyTask s, k.stash = [])
       ∧ ∃ t, exec (.ld f) s = .next t) := by
  refine ⟨?_, ?_, ?_, ?_, ?_, ?_, ?_, _, rfl⟩
  all_goals first | decide +kernel | (unfold Ready Issues; decide +kernel)

theorem witness_issue_order :
    ∀ own : Bool, let f := { alu 3 (.g 1) (.g 2) (.g 3) with pred := never }
    let i : Instr := if own then .add f else .mma { sysw (.t 0) (.g 0) (.g 0) (.g 0) with pred := never }
    (match encode i with
     | some w => i.wf && !unassigned (opField w) && (issuedBy (opField w) (at_ .c).cur == own) && !predHolds (predOf w) (at_ .c)
     | none => false) = true := by
  decide +kernel

/-- Whether a step goes on. -/
def goesOn (o : Host.Outcome State Fault Refusal) : Bool := match o with
  | .next _ => true
  | _ => false

theorem goesOn_next {o : Host.Outcome State Fault Refusal} (h : goesOn o = true) : ∃ t, o = .next t := by
  cases o with
  | next t => exact ⟨t, rfl⟩
  | fault f => exact absurd h (by simp [goesOn])
  | refused r => exact absurd h (by simp [goesOn])

theorem witness_memory_canonical : MemInv (mapped .c) ∧ ∃ t, core.step (codeAt []) = .next t :=
  ⟨fun p h => by
    rw [show (mapped .c).packs = [(mapped .c).toPack] from rfl, List.mem_singleton] at h
    subst h
    exact ⟨by decide +kernel, fun im h => absurd h (by simp [mapped, at_, State.reset, Pack.reset])⟩, goesOn_next (by decide +kernel)⟩

end Sys2Proof.Tests
end

section
/-! SUPPORT. The general registers (R50): integer words of two operands, writes seen from another stream, and the streams
of a launched task; with them O6. -/

namespace Sys2Proof.Machine

/-- A two-operand integer word that issues and finds its operands reads them, raises its flags, writes its destination
and retires (R159, R160). -/
theorem intOp2_done {op : BitVec 8} {sat : Bool} {f : RAlu} {s : State} (g : Int → Int → Int)
    (hr : Ready (srcsAB f) [f.d] s) (hi : Issues op f.pred (aluCheck (intRule2 sat) f) s) :
    intOp2 op sat f g s
      = aluDone f s (intResult f.ty f.sat (g (intVal f.ty (s.peekSrc f.a)) (intVal f.ty (valueB f s)))) := by
  rw [intOp2, issue_eq hi]
  simp [intBody2, gate_eq hr, aluDone]

/-- A word whose destination is g0 loses its result and keeps its flags and the queues it popped (R50). -/
theorem aluDone_g0 {f : RAlu} (hd : f.d = .g 0) (s : State) (r : BitVec 64 × FlagSet) :
    aluDone f s r = .next (retire (raiseS r.2 (tookAB f s))) := by
  simp [aluDone, put, hd]

/-- A register write leaves the task's other streams as they are (R50). -/
theorem writeG_strm_other (n : Fin 32) (v : BitVec 64) (s : State) {st : Stream} (h : st ≠ s.cur) :
    (writeG n v s).task.strm st = s.task.strm st := by
  unfold writeG
  split
  · rfl
  · exact modStrm_strm_other _ s h

/-- What a stream reads rests on its own registers alone (R50). -/
theorem readG_congr {s t : State} (h : s.strm = t.strm) (m : Fin 32) : s.readG m = t.readG m := by
  simp [State.readG, h]

/-- A stream at launch holds zero in every register (R21, R50). -/
theorem launchStream_g (entry trapVa seed : BitVec 64) (m : Fin 32) : (launchStream entry trapVa seed).g[m] = 0 := by
  simp [launchStream, Strm.init]

/-- The streams of a launched task are launch streams: TASK_START gives each its entry point, its trap section and its
seed, and nothing else (R21). -/
theorem launchTask_strm {core slot node : Nat} {tile step patch : BitVec 64} {n : NodeSt} {s u : State} {t : Task}
    (h : launchTask core slot node tile n step patch s = .ok (t, u)) (st : Stream) :
    ∃ entry trapVa seed, t.strm st = launchStream entry trapVa seed := by
  obtain ⟨header, s₁, -, h⟩ := ok_bind h
  obtain ⟨s', s₂, -, h⟩ := ok_bind h
  obtain ⟨objs, s₃, -, h⟩ := ok_bind h
  obtain ⟨sems, s₄, -, h⟩ := ok_bind h
  rw [pure_eq] at h
  cases h
  cases st <;> exact ⟨_, _, _, rfl⟩

/-- Settles O6: each clause from the rule of its operation. -/
theorem generalRegisters : Obligations.GeneralRegisters := by
  refine ⟨readG_zero, writeG_zero, fun f s hd hr hi => ?add, fun n m v s hn => readG_writeG n m v s hn,
    fun n m v s st hst => ?own, fun core slot node tile step patch n s u t st m h => ?launch⟩
  case add => exact (intOp2_done (· + ·) hr hi).trans (aluDone_g0 hd s _)
  case own =>
    apply readG_congr
    exact writeG_strm_other n v s hst
  case launch =>
    obtain ⟨entry, trapVa, seed, hst⟩ := launchTask_strm h st
    rw [hst]
    exact launchStream_g entry trapVa seed m

end Sys2Proof.Machine
end

section
/-! SUPPORT. Integer words (R158 to R162): extension depends on the value modulo 2^W alone, and a value in range is kept;
with them O7. -/

namespace Sys2Proof.Machine

/-- sx(x, w) is the balanced remainder modulo 2^w (R9). -/
theorem sxInt_eq_bmod (w x : Nat) : sxInt w x = (x : Int).bmod (2 ^ w) := by
  have hm : ((x % 2 ^ w : Nat) : Int) = (x : Int) % ((2 ^ w : Nat) : Int) := Int.natCast_mod x (2 ^ w)
  simp only [sxInt, Int.bmod, ← hm]
  split <;> split <;> omega

/-- Wrapping is the remainder modulo 2^w. -/
theorem natCast_wrapN (w : Nat) (r : Int) : (wrapN w r : Int) = r % ((2 ^ w : Nat) : Int) := by
  have h0 : ((2 ^ w : Nat) : Int) ≠ 0 := by exact_mod_cast (Nat.two_pow_pos w).ne'
  exact Int.toNat_of_nonneg (Int.emod_nonneg r h0)

/-- A signed TYPE extends by the balanced remainder (R158). -/
theorem intExt_signed {ty : BitVec 5} (h : intSigned ty = true) (r : Int) :
    intExt ty r = BitVec.ofInt 64 (r.bmod (2 ^ intWidth ty)) := by
  rw [intExt, if_pos h, sxInt_eq_bmod, natCast_wrapN, Int.emod_bmod]

/-- An unsigned TYPE extends by the remainder (R158). -/
theorem intExt_unsigned {ty : BitVec 5} (h : intSigned ty = false) (r : Int) :
    intExt ty r = BitVec.ofNat 64 (wrapN (intWidth ty) r) := by
  simp [intExt, h]

/-- What is written rests on the low W bits of the result alone (R158). -/
theorem intExt_congr {ty : BitVec 5} {r q : Int}
    (h : r % ((2 ^ intWidth ty : Nat) : Int) = q % ((2 ^ intWidth ty : Nat) : Int)) : intExt ty r = intExt ty q := by
  have hw : wrapN (intWidth ty) r = wrapN (intWidth ty) q := by rw [wrapN, wrapN, h]
  rw [intExt, intExt, hw]

/-- A source's value has the low W bits of the source (R158). -/
theorem intVal_emod (ty : BitVec 5) (x : BitVec 64) :
    intVal ty x % ((2 ^ intWidth ty : Nat) : Int) = (x.toNat : Int) % ((2 ^ intWidth ty : Nat) : Int) := by
  unfold intVal
  split
  · rw [sxInt_eq_bmod, Int.bmod_emod]
  · rw [Int.natCast_mod, Int.emod_emod_of_dvd _ (dvd_refl _)]

/-- Any integer that agrees with a source modulo 2^W is written as the source's value is. -/
theorem intExt_eq_intExt_intVal {ty : BitVec 5} {x : BitVec 64} {r : Int}
    (h : r % ((2 ^ intWidth ty : Nat) : Int) = (x.toNat : Int) % ((2 ^ intWidth ty : Nat) : Int)) :
    intExt ty r = intExt ty (intVal ty x) :=
  intExt_congr (h.trans (intVal_emod ty x).symm)

/-- 2^W is twice 2^(W - 1): no TYPE has a width of zero. -/
theorem two_pow_intWidth (ty : BitVec 5) : 2 ^ intWidth ty = 2 * 2 ^ (intWidth ty - 1) := by
  have hpos : 0 < intWidth ty := by simp [intWidth]
  rw [← Nat.pow_succ', Nat.succ_eq_add_one, Nat.sub_add_cancel hpos]

/-- A value that a signed TYPE holds is written as it is (R158). -/
theorem intExt_of_mem_range {ty : BitVec 5} (h : intSigned ty = true) {r : Int} (hlo : intMin ty ≤ r) (hhi : r ≤ intMax ty) :
    intExt ty r = BitVec.ofInt 64 r := by
  have hw := two_pow_intWidth ty
  simp only [intMin, intMax, h, if_true] at hlo hhi
  rw [intExt_signed h, Int.bmod_eq_of_le] <;> omega

theorem intMin_le_intMax (ty : BitVec 5) : intMin ty ≤ intMax ty := by
  have hw := two_pow_intWidth ty
  have hpos := Nat.two_pow_pos (intWidth ty - 1)
  simp only [intMin, intMax]
  split <;> omega

/-- The quotient by zero: every bit of W set (R161). -/
theorem intExt_neg_one (ty : BitVec 5) :
    intExt ty (-1) = if intSigned ty then BitVec.allOnes 64 else BitVec.ofNat 64 (2 ^ intWidth ty - 1) := by
  have hw := two_pow_intWidth ty
  have hpos := Nat.two_pow_pos (intWidth ty - 1)
  split
  case isTrue h =>
    rw [intExt_of_mem_range h (by simp only [intMin, h, if_true]; omega) (by simp only [intMax, h, if_true]; omega)]
    rfl
  case isFalse h =>
    rw [intExt_unsigned (by simpa using h)]
    congr 1
    have hm : (-1 : Int) % ((2 ^ intWidth ty : Nat) : Int) = ((2 ^ intWidth ty : Nat) : Int) - 1 := by
      rw [← Int.add_emod_right, Int.emod_eq_of_lt] <;> omega
    rw [wrapN, hm]
    omega

theorem intExt_zero (ty : BitVec 5) : intExt ty 0 = 0 := by
  simp [intExt, wrapN, sxInt]

/-- A two-operand word that issues and finds its operands writes what its function gives, raises its flags and retires
(R159). -/
theorem intBody2_done {op : BitVec 8} {f : RAlu} {check : State → Option (BitVec 32)} {s : State}
    (g : BitVec 64 → BitVec 64 → BitVec 64 × FlagSet) (hr : Ready (srcsAB f) [f.d] s) (hi : Issues op f.pred check s) :
    issue op f.pred check (intBody2 f g) s = aluDone f s (g (s.peekSrc f.a) (valueB f s)) := by
  rw [issue_eq hi]
  simp [intBody2, gate_eq hr, aluDone]

/-- Division by zero gives every bit set and raises DZ (R161). -/
theorem divResult_zero {ty : BitVec 5} {y : BitVec 64} (sat : Bool) (x : BitVec 64) (hy : intVal ty y = 0) :
    divResult ty sat x y
      = (if intSigned ty then BitVec.allOnes 64 else BitVec.ofNat 64 (2 ^ intWidth ty - 1), FlagSet.onlyDz) := by
  rw [divResult, if_pos hy, intExt_neg_one]

/-- The least value divided by -1 is one more than the greatest (R161). -/
theorem divResult_intMin {ty : BitVec 5} {x y : BitVec 64} (sat : Bool) (h : intSigned ty = true)
    (hx : intVal ty x = intMin ty) (hy : intVal ty y = -1) : divResult ty sat x y = intResult ty sat (intMax ty + 1) := by
  have hq : (intMin ty).tdiv (-1) = intMax ty + 1 := by
    rw [Int.tdiv_neg, Int.tdiv_one]
    simp [intMin, intMax, h]
  rw [divResult, if_neg (by omega), hx, hy, hq]

/-- One more than the greatest value wraps to the least (R160). -/
theorem intResult_wraps {ty : BitVec 5} (h : intSigned ty = true) :
    intResult ty false (intMax ty + 1) = (BitVec.ofInt 64 (intMin ty), FlagSet.none) := by
  have hw := two_pow_intWidth ty
  have hmod : intMax ty + 1 = intMin ty + ((2 ^ intWidth ty : Nat) : Int) := by
    simp only [intMin, intMax, h, if_true]; omega
  have hwrap : intExt ty (intMax ty + 1) = intExt ty (intMin ty) :=
    intExt_congr (by rw [hmod, Int.add_emod_right])
  simp [intResult, hwrap, intExt_of_mem_range h le_rfl (intMin_le_intMax ty)]

/-- One more than the greatest value saturates to the greatest and raises SAT (R160). -/
theorem intResult_saturates {ty : BitVec 5} (h : intSigned ty = true) :
    intResult ty true (intMax ty + 1) = (BitVec.ofInt 64 (intMax ty), FlagSet.onlySat) := by
  have hle := intMin_le_intMax ty
  have hsat : satInt (intMin ty) (intMax ty) (intMax ty + 1) = intMax ty := by
    rw [satInt, if_neg (by omega), if_pos (by omega)]
  simp [intResult, hsat, intExt_of_mem_range h hle le_rfl]

/-- The remainder by zero is the dividend, and raises DZ (R161). -/
theorem remResult_zero {ty : BitVec 5} {y : BitVec 64} (x : BitVec 64) (hy : intVal ty y = 0) :
    remResult ty x y = (intExt ty (intVal ty x), FlagSet.onlyDz) := by
  rw [remResult, if_pos hy]

/-- The remainder by -1 is zero (R161). -/
theorem remResult_neg_one {ty : BitVec 5} {y : BitVec 64} (x : BitVec 64) (hy : intVal ty y = -1) :
    remResult ty x y = (0, FlagSet.none) := by
  rw [remResult, if_neg (by omega), hy, Int.tmod_neg, Int.tmod_one, intExt_zero]

/-- A rotation by no place keeps the low bits. -/
theorem rotN_zero (w x : Nat) : rotN w x 0 = x % 2 ^ w := by
  have h : x % 2 ^ w / 2 ^ w = 0 := Nat.div_eq_of_lt (Nat.mod_lt x (Nat.two_pow_pos w))
  simp [rotN, h]

/-- Settles O7: DIV and REM from their results on the edge cases, the shifts from their count; by no place, each shift has
the low bits of A. -/
theorem divisionAndShiftRules : Obligations.DivisionAndShiftRules := by
  intro f s hr x y w least n
  have hleast : intSigned f.ty = true → intMin f.ty = least := fun h => by simp only [intMin, h, if_true, least, w]
  have hmost : intSigned f.ty = true → intMax f.ty = -least - 1 := fun h => by
    simp only [intMax, h, if_true, least, w, neg_neg]
  refine ⟨fun hi => ?div, fun hi => ?rem, fun hi => ?shl, fun hi => ?shr, fun hi => ?sar, fun hi => ?rot⟩
  case div =>
    have hd : exec (.div f) s = aluDone f s (divResult f.ty f.sat (s.peekSrc f.a) (valueB f s)) := intBody2_done _ hr hi
    refine ⟨fun hy => ?_, fun hs hx hy hsat => ?_, fun hs hx hy hsat => ?_⟩
    · rw [hd, divResult_zero _ _ hy]
    · rw [hd, divResult_intMin _ hs (hx.trans (hleast hs).symm) hy, hsat, intResult_wraps hs, hleast hs]
    · rw [hd, divResult_intMin _ hs (hx.trans (hleast hs).symm) hy, hsat, intResult_saturates hs, hmost hs]
  case rem =>
    have hd : exec (.rem f) s = aluDone f s (remResult f.ty (s.peekSrc f.a) (valueB f s)) := intBody2_done _ hr hi
    refine ⟨fun hy => ?_, fun _ _ hy => ?_⟩
    · rw [hd, remResult_zero _ hy]
    · rw [hd, remResult_neg_one _ hy]
  case shl =>
    have hd : exec (.shl f) s = aluDone f s (intExt f.ty (x * ((2 ^ n : Nat) : Int)), FlagSet.none) := intBody2_done _ hr hi
    refine ⟨by rw [hd]; push_cast; rfl, fun hn => ?_⟩
    rw [hn, pow_zero, mul_one]
  case shr =>
    refine ⟨intBody2_done _ hr hi, fun hn => intExt_eq_intExt_intVal ?_⟩
    rw [hn, pow_zero, Nat.div_one, Int.natCast_mod, Int.emod_emod_of_dvd _ (dvd_refl _)]
  case sar =>
    have hd : exec (.sar f) s = aluDone f s (intExt f.ty (sxInt w (s.peekSrc f.a).toNat / ((2 ^ n : Nat) : Int)), FlagSet.none) :=
      intBody2_done _ hr hi
    refine ⟨by rw [hd]; push_cast; rfl, fun hn => intExt_eq_intExt_intVal ?_⟩
    rw [hn, pow_zero, Int.ediv_one, sxInt_eq_bmod, Int.bmod_emod]
  case rot =>
    refine ⟨intBody2_done _ hr hi, fun hn => intExt_eq_intExt_intVal ?_⟩
    rw [hn, rotN_zero, Int.natCast_mod, Int.emod_emod_of_dvd _ (dvd_refl _)]

end Sys2Proof.Machine
end

section
/-! SUPPORT. Field rules and traps: a check passes exactly when every rule of it holds, and where a precise trap goes (R63);
with them PLOG (R166, O8) and TRAP (R180, O9). -/

namespace Sys2Proof.Machine

/-- A list of field rules passes when every rule holds (R421). -/
theorem firstBroken_eq_none_iff (l : List (Bool × Nat)) : firstBroken l = none ↔ ∀ x ∈ l, x.1 = true := by
  induction l with
  | nil => simp [firstBroken]
  | cons x l ih =>
    obtain ⟨ok, code⟩ := x
    cases ok <;> simp [firstBroken, ih]

/-- The words of the common set may be issued by every stream (Table 21.1). -/
theorem issuedBy_common {op : BitVec 8} (h : op.toNat < 0x30) (st : Stream) : issuedBy op st = true := by
  simp [issuedBy, h]

/-- A word that does not pass its field rules traps ILLEGAL_OPERAND (R419). -/
theorem issue_illegalOperand {op : BitVec 8} {p : Pred} {check : State → Option (BitVec 32)} {body : M Flow} {s : State}
    (h : issuedBy op s.cur = true) (hc : check s ≠ none) :
    ∃ info, issue op p check body s = .next (takeTrap fcIllegalOperand op info 0 s) := by
  obtain ⟨info, hinfo⟩ := Option.ne_none_iff_exists'.1 hc
  exact ⟨info, issue_broken h hinfo⟩

theorem Use.pred_ok_iff (s : State) (o : Operand) : Use.ok .pred s o = true ↔ ∃ n, o = .p n := by
  cases o <;> simp [Use.ok]

/-- The field rules of PLOG (R166). -/
def plogRule : AluRule :=
  { d := .pred, a := .pred, b := .pred, c := .unused, ty := fun t => t == 0#5
    sub := fun x => decide (x.toNat < 16), rm := false, sat := false, immb := false }

/-- The effect of PLOG (R166). -/
def plogBody (f : RAlu) : M Flow := do
  let a ← readSrc f.a
  let b ← readSrc f.b
  writeDst f.d (plogBits f.sub.toNat a b)
  pure .seq

theorem exec_plog (f : RAlu) (s : State) : exec (.plog f) s = issue 0x1E f.pred (aluCheck plogRule f) (plogBody f) s := rfl

/-- What the field rules of PLOG ask of D, A, B, TYPE and SUB (R166). -/
theorem plogCheck_none {f : RAlu} {s : State} (h : aluCheck plogRule f s = none) :
    (∃ n, f.d = .p n) ∧ (∃ n, f.a = .p n) ∧ (∃ n, f.b = .p n) ∧ f.ty = 0#5 ∧ f.sub.toNat < 16 := by
  rw [aluCheck, firstBroken_eq_none_iff] at h
  simp only [plogRule, List.forall_mem_cons, Use.pred_ok_iff, Bool.false_or, Bool.and_eq_true, Bool.not_eq_true',
    beq_iff_eq, decide_eq_true_eq] at h
  obtain ⟨hd, ha, hb, -, hty, hsub, -, ⟨-, himmb⟩, -⟩ := h
  rw [himmb, if_neg (by decide), Use.pred_ok_iff] at hb
  exact ⟨hd, ha, hb, hty, hsub⟩

/-- Position i of a truth table's result is the table's bit at the two positions of its operands (R166). -/
theorem plogBits_getLsbD (table : BitVec 8) (a b : BitVec 64) {i : Nat} (hi : i < 64) :
    (plogBits table.toNat a b).getLsbD i = table.getLsbD (2 * (a.getLsbD i).toNat + (b.getLsbD i).toNat) := by
  have hbit : ∀ n, bitN table.toNat n = table.getLsbD n := fun n => by
    rw [bitN, BitVec.getLsbD, Nat.testBit_eq_decide_div_mod_eq]; rfl
  have hif : ∀ (c : Bool) (x : BitVec 64), (if c then x else 0).getLsbD i = (c && x.getLsbD i) := fun c x => by
    cases c <;> simp
  simp only [plogBits, BitVec.getLsbD_or, hif, hbit, BitVec.getLsbD_and, BitVec.getLsbD_not, hi, decide_true, Bool.true_and]
  cases a.getLsbD i <;> cases b.getLsbD i <;> simp

/-- Settles O8: the truth table position by position, and the field rules. -/
theorem predicateLogic : Obligations.PredicateLogic := by
  intro f s hp
  have hop : issuedBy 0x1E s.cur = true := issuedBy_common (by decide) _
  refine ⟨fun d a b hd ha hb hc hty hsub hrm hrbm hsat himmb himm => ?table, fun hbad => ?broken⟩
  case table =>
    have hcheck : aluCheck plogRule f s = none := by
      rw [aluCheck, firstBroken_eq_none_iff]
      simp [plogRule, Use.ok, Use.blank, specOk, rmFieldOk, hd, ha, hb, hc, hty, hsub, hrm, hrbm, hsat, himmb, himm]
    refine ⟨plogBits f.sub.toNat (s.readP a) (s.readP b), fun i => plogBits_getLsbD _ _ _ i.isLt, ?_⟩
    have hput : put (.p d) (plogBits f.sub.toNat (s.readP a) (s.readP b)) s
        = if d = 0 then s else writeP d (plogBits f.sub.toNat (s.readP a) (s.readP b)) s := by
      split
      case isTrue h0 => rw [h0]; rfl
      case isFalse => rfl
    rw [exec_plog, issue_eq ⟨hop, hcheck, hp⟩, ← hput]
    simp [plogBody, hd, ha, hb, State.peekSrc, took]
  case broken =>
    rw [exec_plog]
    apply issue_illegalOperand hop
    intro hnone
    obtain ⟨⟨d, hd⟩, ⟨a, ha⟩, ⟨b, hb⟩, hty, hsub⟩ := plogCheck_none hnone
    rcases hbad with h | h | h | h | h
    · exact h d hd
    · exact h a ha
    · exact h b hb
    · exact h hty
    · omega

/-- The high half of an IMM64 is zero when its value fits the low half. -/
theorem highHalf_eq_zero_iff (x : BitVec 64) : x.extractLsb' 32 32 = 0#32 ↔ x.toNat < 2 ^ 32 := by
  have := x.isLt
  simp only [← BitVec.toNat_inj, BitVec.extractLsb'_toNat, BitVec.toNat_ofNat, Nat.shiftRight_eq_div_pow]
  omega

/-- The field rules of TRAP and BKPT with blank D and A: a high half of zero (R180). -/
theorem codeCheck_eq_none_iff {f : IForm} (hd : f.d = .g 0) (ha : f.a = .g 0) (s : State) :
    codeCheck f s = none ↔ f.imm.toNat < 2 ^ 32 := by
  rw [codeCheck, firstBroken_eq_none_iff, ← highHalf_eq_zero_iff]
  simp [specOk, hd, ha]

/-- A precise trap enters the trap section where TRAPSEC.V is set (R63). -/
theorem takeTrap_section {code : BitVec 8} {s : State} (op : BitVec 8) (info : BitVec 32) (addr : BitVec 64)
    (hv : s.strm.trapsec.getLsbD 0 = true) (hc : code ≠ fcCircuitFail) :
    takeTrap code op info addr s = modStrm (fun r => r.enterTrap code op info s.strm.pc) (refundWait s) := by
  obtain ⟨-, -, hsec⟩ := refundWait_keeps s
  simp only [takeTrap, takeTrapAt, hsec]
  rw [if_pos ⟨hv, hc⟩]

/-- A precise trap freezes the task where TRAPSEC.V is clear (R63, R400). -/
theorem takeTrap_freeze {s : State} (code op : BitVec 8) (info : BitVec 32) (addr : BitVec 64)
    (hv : s.strm.trapsec.getLsbD 0 = false) :
    takeTrap code op info addr s = freezeTask s.task.tid ⟨code, op, some s.cur, 0, info, addr⟩ 0 s.strm.pc (refundWait s) := by
  obtain ⟨hcur, htid, hsec⟩ := refundWait_keeps s
  simp only [takeTrap, takeTrapAt, hcur, htid, hsec]
  rw [if_neg (by simp only [hv, Bool.false_eq_true, false_and, not_false_eq_true])]

/-- TRAP, where its field rules and its PRED pass, is the trap SOFTWARE_TRAP with the low half of IMM64 (R180). -/
theorem exec_trap {f : IForm} {s : State} (hi : Issues 0x2D f.pred (codeCheck f) s) :
    exec (.trap f) s = .next (takeTrap fcSoftwareTrap 0x2D (f.imm.setWidth 32) 0 s) :=
  issue_eq hi

/-- Settles O9: the trap of TRAP, and where a precise trap goes. -/
theorem softwareTrap : Obligations.SoftwareTrap := by
  intro f s hd ha hp
  have hop : issuedBy 0x2D s.cur = true := issuedBy_common (by decide) _
  have hcheck := codeCheck_eq_none_iff hd ha s
  refine ⟨fun himm hv => ?enters, fun himm hv => ?freezes, fun himm => ?broken⟩
  case enters =>
    rw [exec_trap ⟨hop, hcheck.2 himm, hp⟩, takeTrap_section _ _ _ hv (by decide)]
    rfl
  case freezes =>
    rw [exec_trap ⟨hop, hcheck.2 himm, hp⟩, takeTrap_freeze _ _ _ _ hv]
    rfl
  case broken =>
    apply issue_illegalOperand hop
    intro hnone
    exact absurd (hcheck.1 hnone) (Nat.not_lt.2 himm)

end Sys2Proof.Machine
end

section
/-! SUPPORT. Encoding and decoding as a whole (07, R135 to R147): every word that decodes is the encoding of what it decodes
to; with them O4. -/

namespace Sys2Proof

/-- Decoding undoes encoding for every instruction: each word by the lemma of its constructor, and an event has no
encoding. -/
theorem decode_encode (i : Instr) : Laws.RoundTrip.Statement i := by
  cases i with
  | nop f => exact Laws.RoundTrip.nop f
  | li f => exact Laws.RoundTrip.li f
  | mov f => exact Laws.RoundTrip.mov f
  | add f => exact Laws.RoundTrip.add f
  | addi f => exact Laws.RoundTrip.addi f
  | sub f => exact Laws.RoundTrip.sub f
  | mul f => exact Laws.RoundTrip.mul f
  | mulh f => exact Laws.RoundTrip.mulh f
  | div f => exact Laws.RoundTrip.div f
  | rem f => exact Laws.RoundTrip.rem f
  | and f => exact Laws.RoundTrip.and f
  | or f => exact Laws.RoundTrip.or f
  | xor f => exact Laws.RoundTrip.xor f
  | andn f => exact Laws.RoundTrip.andn f
  | shl f => exact Laws.RoundTrip.shl f
  | shr f => exact Laws.RoundTrip.shr f
  | sar f => exact Laws.RoundTrip.sar f
  | rot f => exact Laws.RoundTrip.rot f
  | clz f => exact Laws.RoundTrip.clz f
  | popc f => exact Laws.RoundTrip.popc f
  | bext f => exact Laws.RoundTrip.bext f
  | bdep f => exact Laws.RoundTrip.bdep f
  | min f => exact Laws.RoundTrip.min f
  | max f => exact Laws.RoundTrip.max f
  | madd f => exact Laws.RoundTrip.madd f
  | cmp f => exact Laws.RoundTrip.cmp f
  | sel f => exact Laws.RoundTrip.sel f
  | fop f => exact Laws.RoundTrip.fop f
  | fcvt f => exact Laws.RoundTrip.fcvt f
  | fcmp f => exact Laws.RoundTrip.fcmp f
  | plog f => exact Laws.RoundTrip.plog f
  | br f => exact Laws.RoundTrip.br f
  | brc f => exact Laws.RoundTrip.brc f
  | call f => exact Laws.RoundTrip.call f
  | ret f => exact Laws.RoundTrip.ret f
  | loop f => exact Laws.RoundTrip.loop f
  | qtry f => exact Laws.RoundTrip.qtry f
  | qtryPush f => exact Laws.RoundTrip.qtryPush f
  | qcnt f => exact Laws.RoundTrip.qcnt f
  | qpeek f => exact Laws.RoundTrip.qpeek f
  | ssig f => exact Laws.RoundTrip.ssig f
  | swait f => exact Laws.RoundTrip.swait f
  | stry f => exact Laws.RoundTrip.stry f
  | fence f => exact Laws.RoundTrip.fence f
  | ctlr f => exact Laws.RoundTrip.ctlr f
  | ctlw f => exact Laws.RoundTrip.ctlw f
  | trap f => exact Laws.RoundTrip.trap f
  | bkpt f => exact Laws.RoundTrip.bkpt f
  | stop f => exact Laws.RoundTrip.stop f
  | gstart f => exact Laws.RoundTrip.gstart f
  | gpatch f => exact Laws.RoundTrip.gpatch f
  | gquery f => exact Laws.RoundTrip.gquery f
  | gjoin f => exact Laws.RoundTrip.gjoin f
  | gleave f => exact Laws.RoundTrip.gleave f
  | gmemb f => exact Laws.RoundTrip.gmemb f
  | gbar f => exact Laws.RoundTrip.gbar f
  | gred f => exact Laws.RoundTrip.gred f
  | gbcast f => exact Laws.RoundTrip.gbcast f
  | tspawn f => exact Laws.RoundTrip.tspawn f
  | renq f => exact Laws.RoundTrip.renq f
  | rsig f => exact Laws.RoundTrip.rsig f
  | bind f => exact Laws.RoundTrip.bind f
  | unbind f => exact Laws.RoundTrip.unbind f
  | acq f => exact Laws.RoundTrip.acq f
  | rel f => exact Laws.RoundTrip.rel f
  | xpbgo f => exact Laws.RoundTrip.xpbgo f
  | fmtend f => exact Laws.RoundTrip.fmtend f
  | sleep f => exact Laws.RoundTrip.sleep f
  | tickwait f => exact Laws.RoundTrip.tickwait f
  | speedq f => exact Laws.RoundTrip.speedq f
  | evmask f => exact Laws.RoundTrip.evmask f
  | noderel f => exact Laws.RoundTrip.noderel f
  | stragq f => exact Laws.RoundTrip.stragq f
  | ld f => exact Laws.RoundTrip.ld f
  | ldacq f => exact Laws.RoundTrip.ldacq f
  | ldv f => exact Laws.RoundTrip.ldv f
  | ldvs f => exact Laws.RoundTrip.ldvs f
  | gath f => exact Laws.RoundTrip.gath f
  | pref f => exact Laws.RoundTrip.pref f
  | rld f => exact Laws.RoundTrip.rld f
  | rldv f => exact Laws.RoundTrip.rldv f
  | stash f => exact Laws.RoundTrip.stash f
  | unstash f => exact Laws.RoundTrip.unstash f
  | discard f => exact Laws.RoundTrip.discard f
  | cpygo f => exact Laws.RoundTrip.cpygo f
  | cpymc f => exact Laws.RoundTrip.cpymc f
  | lgo f => exact Laws.RoundTrip.lgo f
  | lhalt f => exact Laws.RoundTrip.lhalt f
  | ringset f => exact Laws.RoundTrip.ringset f
  | ringput f => exact Laws.RoundTrip.ringput f
  | ringq f => exact Laws.RoundTrip.ringq f
  | winq f => exact Laws.RoundTrip.winq f
  | plhint f => exact Laws.RoundTrip.plhint f
  | pgstate f => exact Laws.RoundTrip.pgstate f
  | bchk f => exact Laws.RoundTrip.bchk f
  | xlatq f => exact Laws.RoundTrip.xlatq f
  | lstat f => exact Laws.RoundTrip.lstat f
  | vadd f => exact Laws.RoundTrip.vadd f
  | vsub f => exact Laws.RoundTrip.vsub f
  | vmul f => exact Laws.RoundTrip.vmul f
  | vfma f => exact Laws.RoundTrip.vfma f
  | vfms f => exact Laws.RoundTrip.vfms f
  | vneg f => exact Laws.RoundTrip.vneg f
  | vabs f => exact Laws.RoundTrip.vabs f
  | vmin f => exact Laws.RoundTrip.vmin f
  | vmax f => exact Laws.RoundTrip.vmax f
  | vdiv f => exact Laws.RoundTrip.vdiv f
  | vsqrt f => exact Laws.RoundTrip.vsqrt f
  | vrcp f => exact Laws.RoundTrip.vrcp f
  | vrsq f => exact Laws.RoundTrip.vrsq f
  | vcmp f => exact Laws.RoundTrip.vcmp f
  | vsel f => exact Laws.RoundTrip.vsel f
  | vand f => exact Laws.RoundTrip.vand f
  | vor f => exact Laws.RoundTrip.vor f
  | vxor f => exact Laws.RoundTrip.vxor f
  | vandn f => exact Laws.RoundTrip.vandn f
  | vshl f => exact Laws.RoundTrip.vshl f
  | vshr f => exact Laws.RoundTrip.vshr f
  | vsar f => exact Laws.RoundTrip.vsar f
  | vfshl f => exact Laws.RoundTrip.vfshl f
  | vfshr f => exact Laws.RoundTrip.vfshr f
  | vclz f => exact Laws.RoundTrip.vclz f
  | vpopc f => exact Laws.RoundTrip.vpopc f
  | vcvt f => exact Laws.RoundTrip.vcvt f
  | vsrnd f => exact Laws.RoundTrip.vsrnd f
  | vperm f => exact Laws.RoundTrip.vperm f
  | vshuf f => exact Laws.RoundTrip.vshuf f
  | vbcast f => exact Laws.RoundTrip.vbcast f
  | vextr f => exact Laws.RoundTrip.vextr f
  | vins f => exact Laws.RoundTrip.vins f
  | vredadd f => exact Laws.RoundTrip.vredadd f
  | vredmax f => exact Laws.RoundTrip.vredmax f
  | vredmin f => exact Laws.RoundTrip.vredmin f
  | vgmax f => exact Laws.RoundTrip.vgmax f
  | vgsum f => exact Laws.RoundTrip.vgsum f
  | vscan f => exact Laws.RoundTrip.vscan f
  | vcomp f => exact Laws.RoundTrip.vcomp f
  | vexpd f => exact Laws.RoundTrip.vexpd f
  | viota f => exact Laws.RoundTrip.viota f
  | vmov f => exact Laws.RoundTrip.vmov f
  | vli f => exact Laws.RoundTrip.vli f
  | vsfn f => exact Laws.RoundTrip.vsfn f
  | vsfl f => exact Laws.RoundTrip.vsfl f
  | vstat f => exact Laws.RoundTrip.vstat f
  | vmulh f => exact Laws.RoundTrip.vmulh f
  | vmadd f => exact Laws.RoundTrip.vmadd f
  | vcplx f => exact Laws.RoundTrip.vcplx f
  | vpcnt f => exact Laws.RoundTrip.vpcnt f
  | vplog f => exact Laws.RoundTrip.vplog f
  | vpfirst f => exact Laws.RoundTrip.vpfirst f
  | vslide f => exact Laws.RoundTrip.vslide f
  | vdot f => exact Laws.RoundTrip.vdot f
  | vclamp f => exact Laws.RoundTrip.vclamp f
  | mma f => exact Laws.RoundTrip.mma f
  | mmat f => exact Laws.RoundTrip.mmat f
  | aclr f => exact Laws.RoundTrip.aclr f
  | aget f => exact Laws.RoundTrip.aget f
  | aput f => exact Laws.RoundTrip.aput f
  | ascale f => exact Laws.RoundTrip.ascale f
  | drain f => exact Laws.RoundTrip.drain f
  | rpop f => exact Laws.RoundTrip.rpop f
  | sigt f => exact Laws.RoundTrip.sigt f
  | sigchk f => exact Laws.RoundTrip.sigchk f
  | fftset f => exact Laws.RoundTrip.fftset f
  | fftrun f => exact Laws.RoundTrip.fftrun f
  | spmul f => exact Laws.RoundTrip.spmul f
  | shtl f => exact Laws.RoundTrip.shtl f
  | blkt f => exact Laws.RoundTrip.blkt f
  | fmtpop f => exact Laws.RoundTrip.fmtpop f
  | st f => exact Laws.RoundTrip.st f
  | strel f => exact Laws.RoundTrip.strel f
  | stv f => exact Laws.RoundTrip.stv f
  | stvs f => exact Laws.RoundTrip.stvs f
  | scat f => exact Laws.RoundTrip.scat f
  | amo f => exact Laws.RoundTrip.amo f
  | amov f => exact Laws.RoundTrip.amov f
  | red f => exact Laws.RoundTrip.red f
  | redv f => exact Laws.RoundTrip.redv f
  | skupd f => exact Laws.RoundTrip.skupd f
  | skqry f => exact Laws.RoundTrip.skqry f
  | skadd f => exact Laws.RoundTrip.skadd f
  | skclr f => exact Laws.RoundTrip.skclr f
  | uop f => exact Laws.RoundTrip.uop f
  | ucvt f => exact Laws.RoundTrip.ucvt f
  | nfchk f => exact Laws.RoundTrip.nfchk f
  | scommit f => exact Laws.RoundTrip.scommit f
  | sflush f => exact Laws.RoundTrip.sflush f
  | rstv f => exact Laws.RoundTrip.rstv f
  | skstat f => exact Laws.RoundTrip.skstat f
  | zero f => exact Laws.RoundTrip.zero f
  | stnt f => exact Laws.RoundTrip.stnt f
  | rrput f => exact Laws.RoundTrip.rrput f
  | stls f => exact Laws.RoundTrip.stls f
  | unassignedOpcode op rest => exact Laws.RoundTrip.unassignedOpcode op rest
  | _ => exact Laws.RoundTrip.of_event rfl

/-- A well-formed word has an encoding. -/
theorem encode_isSome_of_wf (i : Instr) (h : i.wf = true) : (encode i).isSome = true := by
  cases i <;> simp_all [Instr.wf, encode]

/-- What the decoder builds from a word is well formed, and the word is its encoding. -/
def Encodes (w : BitVec 96) (i : Instr) : Prop := i.wf = true ∧ encode i = some w

theorem encodes_rAlu {w : BitVec 96} (c : RAlu → Instr) (hc : formatCheck .r w = none)
    (he : ∀ f, encode (c f) = some (rAluWord (opField w) f)) (hw : ∀ f, (c f).wf = true) : Encodes w (c (rAluOf w)) := by
  have h : w.extractLsb' 54 2 = 0#2 := by simpa [formatCheck] using hc
  exact ⟨hw _, by rw [he, rAluWord_rAluOf w h]⟩

theorem encodes_rSys {w : BitVec 96} (c : RSys → Instr) (hc : formatCheck .r w = none)
    (he : ∀ f, encode (c f) = some (rSysWord (opField w) f)) (hw : (c (rSysOf w)).wf = true) : Encodes w (c (rSysOf w)) := by
  have h : w.extractLsb' 54 2 = 0#2 := by simpa [formatCheck] using hc
  exact ⟨hw, by rw [he, rSysWord_rSysOf w h]⟩

theorem encodes_iForm {w : BitVec 96} (c : IForm → Instr) (hc : formatCheck .i w = none)
    (he : ∀ f, encode (c f) = some (iFormWord (opField w) f)) (hw : ∀ f, (c f).wf = true) : Encodes w (c (iFormOf w)) := by
  have h : w.extractLsb' 64 6 = 0#6 := by simpa [formatCheck] using hc
  exact ⟨hw _, by rw [he, iFormWord_iFormOf w h]⟩

theorem encodes_bForm {w : BitVec 96} (c : BForm → Instr) (hc : formatCheck .b w = none)
    (he : ∀ f, encode (c f) = some (bFormWord (opField w) f)) (hw : ∀ f, (c f).wf = true) : Encodes w (c (bFormOf w)) := by
  have h : w.extractLsb' 48 18 = 0#18 := by simpa [formatCheck] using hc
  exact ⟨hw _, by rw [he, bFormWord_bFormOf w h]⟩

theorem encodes_vForm {w : BitVec 96} (c : VForm → Instr)
    (he : ∀ f, encode (c f) = some (vFormWord (opField w) f)) (hw : ∀ f, (c f).wf = true) : Encodes w (c (vFormOf w)) :=
  ⟨hw _, by rw [he, vFormWord_vFormOf w]⟩

/-- An E word that passes the format checks has WMODE other than 3 (Table 21.2). -/
theorem encodes_eForm {w : BitVec 96} (c : EForm → Instr) (hc : formatCheck .e w = none)
    (he : ∀ f, encode (c f) = some (eFormWord (opField w) f)) (hw : ∀ f, (c f).wf = f.wf) : Encodes w (c (eFormOf w)) := by
  simp only [formatCheck] at hc
  split at hc
  · cases hc
  · next h7 =>
    split at hc
    · cases hc
    · next hm =>
      have h : w.extractLsb' 7 1 = 0#1 := by
        rw [← bit1_field]
        simp only [Bool.not_eq_true] at h7
        rw [h7]; rfl
      exact ⟨by rw [hw]; simpa [EForm.wf, eFormOf] using hm, by rw [he, eFormWord_eFormOf w h]⟩

/-- An M word that passes the format checks has HINT at most 2 and a SIZE that exists (Table 21.2). -/
theorem encodes_mForm {w : BitVec 96} (c : MForm → Instr) (hc : formatCheck .m w = none)
    (he : ∀ f, encode (c f) = some (mFormWord (opField w) f)) (hw : ∀ f, (c f).wf = f.wf) : Encodes w (c (mFormOf w)) := by
  simp only [formatCheck] at hc
  split at hc
  · cases hc
  · next hh =>
    split at hc
    · cases hc
    · next hs =>
      rw [not_or] at hs
      obtain ⟨h5, h6⟩ := hs
      refine ⟨?_, by rw [he, mFormWord_mFormOf w]⟩
      simp only [hw, MForm.wf, mFormOf, Bool.and_eq_true, bne_iff_ne, ne_eq, decide_eq_true_eq]
      exact ⟨⟨h5, h6⟩, by omega⟩

/-- Opcode 0x24 is QTRY or QTRY_PUSH by its SUB (R174). -/
theorem encodes_qtry {w : BitVec 96} (ho : opField w = 0x24#8) (hc : formatCheck .r w = none) :
    Encodes w (if (rSysOf w).sub = 0x01#8 then .qtryPush (rSysOf w) else .qtry (rSysOf w)) := by
  split
  · next h => exact encodes_rSys .qtryPush hc (by simp [ho, encode]) (by simp [Instr.wf, h])
  · next h => exact encodes_rSys .qtry hc (by simp [ho, encode]) (by simp [Instr.wf, h])

/-- The opcodes of the R words with the ALU layout (Table 07.4). -/
def rAluOpcodes : List Nat :=
  [0x02, 0x03, 0x05, 0x06, 0x07, 0x08, 0x09, 0x0A, 0x0B, 0x0C, 0x0D, 0x0E, 0x0F, 0x10, 0x11, 0x12, 0x13, 0x14, 0x15,
   0x16, 0x17, 0x1A, 0x18, 0x19, 0x1B, 0x1C, 0x1D, 0x1E, 0xDD, 0xDE]

/-- The opcodes of the R words with the system layout, but for 0x24 (Table 07.5). -/
def rSysOpcodes : List Nat :=
  [0x00, 0x22, 0x25, 0x26, 0x2A, 0x2B, 0x2C, 0x2F, 0x41, 0x42, 0x43, 0x44, 0x45, 0x49, 0x4C, 0x4D, 0x4E, 0x4F, 0x51,
   0x52, 0x53, 0x54, 0x55, 0x56, 0x57, 0x68, 0x69, 0x6A, 0x6E, 0x6F, 0x70, 0x71, 0x72, 0x73, 0x74, 0x76, 0x77, 0xC0,
   0xC1, 0xC2, 0xC3, 0xC4, 0xC5, 0xC7, 0xC8, 0xC9, 0xCB, 0xCC, 0xCE, 0xCF, 0xE1, 0xE3]

/-- The opcodes of the I words. -/
def iFormOpcodes : List Nat :=
  [0x01, 0x04, 0x2D, 0x2E]

/-- The opcodes of the B words. -/
def bFormOpcodes : List Nat :=
  [0x1F, 0x20, 0x21, 0x23]

/-- The opcodes of the E words. -/
def eFormOpcodes : List Nat :=
  [0x27, 0x28, 0x29, 0x40, 0x46, 0x47, 0x48, 0x4A, 0x4B, 0x50, 0x6B, 0x6C, 0x6D, 0x75, 0xC6, 0xCA, 0xCD, 0xD9, 0xDA,
   0xDB, 0xDC, 0xDF, 0xE0, 0xE6]

/-- The opcodes of the M words. -/
def mFormOpcodes : List Nat :=
  [0x60, 0x61, 0x62, 0x63, 0x64, 0x65, 0x66, 0x67, 0xD0, 0xD1, 0xD2, 0xD3, 0xD4, 0xD5, 0xD6, 0xD7, 0xD8, 0xE2, 0xE4,
   0xE5, 0xE7]

/-- The opcodes of the V words. -/
def vFormOpcodes : List Nat :=
  [0x80, 0x81, 0x82, 0x83, 0x84, 0x85, 0x86, 0x87, 0x88, 0x89, 0x8A, 0x8B, 0x8C, 0x8D, 0x8E, 0x8F, 0x90, 0x91, 0x92,
   0x93, 0x94, 0x95, 0x96, 0x97, 0x98, 0x99, 0x9A, 0x9B, 0x9C, 0x9D, 0x9E, 0x9F, 0xA0, 0xA1, 0xA2, 0xA3, 0xA4, 0xA5,
   0xA6, 0xA7, 0xA8, 0xA9, 0xAA, 0xAB, 0xAC, 0xAD, 0xAE, 0xAF, 0xB0, 0xB1, 0xB2, 0xB3, 0xB4, 0xB5, 0xB6, 0xB7]

theorem encodes_of_mem_rAluOpcodes {w : BitVec 96} (hc : formatCheck .r w = none) :
    ∀ n ∈ rAluOpcodes, opField w = BitVec.ofNat 8 n → Encodes w (buildAt n w) := by
  simp only [rAluOpcodes, List.forall_mem_cons]
  refine ⟨?_, ?_, ?_, ?_, ?_, ?_, ?_, ?_, ?_, ?_, ?_, ?_, ?_, ?_, ?_, ?_, ?_, ?_, ?_, ?_, ?_, ?_, ?_, ?_, ?_, ?_, ?_, ?_, ?_, ?_, fun _ h => absurd h List.not_mem_nil⟩
  all_goals
    intro ho
    exact encodes_rAlu _ hc (fun f => by rw [ho]; rfl) (fun _ => rfl)

theorem encodes_of_mem_rSysOpcodes {w : BitVec 96} (hc : formatCheck .r w = none) :
    ∀ n ∈ rSysOpcodes, opField w = BitVec.ofNat 8 n → Encodes w (buildAt n w) := by
  simp only [rSysOpcodes, List.forall_mem_cons]
  refine ⟨?_, ?_, ?_, ?_, ?_, ?_, ?_, ?_, ?_, ?_, ?_, ?_, ?_, ?_, ?_, ?_, ?_, ?_, ?_, ?_, ?_, ?_, ?_, ?_, ?_, ?_, ?_, ?_, ?_, ?_, ?_, ?_, ?_, ?_, ?_, ?_, ?_, ?_, ?_, ?_, ?_, ?_, ?_, ?_, ?_, ?_, ?_, ?_, ?_, ?_, ?_, ?_, fun _ h => absurd h List.not_mem_nil⟩
  all_goals
    intro ho
    exact encodes_rSys _ hc (fun f => by rw [ho]; rfl) rfl

theorem encodes_of_mem_iFormOpcodes {w : BitVec 96} (hc : formatCheck .i w = none) :
    ∀ n ∈ iFormOpcodes, opField w = BitVec.ofNat 8 n → Encodes w (buildAt n w) := by
  simp only [iFormOpcodes, List.forall_mem_cons]
  refine ⟨?_, ?_, ?_, ?_, fun _ h => absurd h List.not_mem_nil⟩
  all_goals
    intro ho
    exact encodes_iForm _ hc (fun f => by rw [ho]; rfl) (fun _ => rfl)

theorem encodes_of_mem_bFormOpcodes {w : BitVec 96} (hc : formatCheck .b w = none) :
    ∀ n ∈ bFormOpcodes, opField w = BitVec.ofNat 8 n → Encodes w (buildAt n w) := by
  simp only [bFormOpcodes, List.forall_mem_cons]
  refine ⟨?_, ?_, ?_, ?_, fun _ h => absurd h List.not_mem_nil⟩
  all_goals
    intro ho
    exact encodes_bForm _ hc (fun f => by rw [ho]; rfl) (fun _ => rfl)

theorem encodes_of_mem_eFormOpcodes {w : BitVec 96} (hc : formatCheck .e w = none) :
    ∀ n ∈ eFormOpcodes, opField w = BitVec.ofNat 8 n → Encodes w (buildAt n w) := by
  simp only [eFormOpcodes, List.forall_mem_cons]
  refine ⟨?_, ?_, ?_, ?_, ?_, ?_, ?_, ?_, ?_, ?_, ?_, ?_, ?_, ?_, ?_, ?_, ?_, ?_, ?_, ?_, ?_, ?_, ?_, ?_, fun _ h => absurd h List.not_mem_nil⟩
  all_goals
    intro ho
    exact encodes_eForm _ hc (fun f => by rw [ho]; rfl) (fun _ => rfl)

theorem encodes_of_mem_mFormOpcodes {w : BitVec 96} (hc : formatCheck .m w = none) :
    ∀ n ∈ mFormOpcodes, opField w = BitVec.ofNat 8 n → Encodes w (buildAt n w) := by
  simp only [mFormOpcodes, List.forall_mem_cons]
  refine ⟨?_, ?_, ?_, ?_, ?_, ?_, ?_, ?_, ?_, ?_, ?_, ?_, ?_, ?_, ?_, ?_, ?_, ?_, ?_, ?_, ?_, fun _ h => absurd h List.not_mem_nil⟩
  all_goals
    intro ho
    exact encodes_mForm _ hc (fun f => by rw [ho]; rfl) (fun _ => rfl)

theorem encodes_of_mem_vFormOpcodes {w : BitVec 96} :
    ∀ n ∈ vFormOpcodes, opField w = BitVec.ofNat 8 n → Encodes w (buildAt n w) := by
  simp only [vFormOpcodes, List.forall_mem_cons]
  refine ⟨?_, ?_, ?_, ?_, ?_, ?_, ?_, ?_, ?_, ?_, ?_, ?_, ?_, ?_, ?_, ?_, ?_, ?_, ?_, ?_, ?_, ?_, ?_, ?_, ?_, ?_, ?_, ?_, ?_, ?_, ?_, ?_, ?_, ?_, ?_, ?_, ?_, ?_, ?_, ?_, ?_, ?_, ?_, ?_, ?_, ?_, ?_, ?_, ?_, ?_, ?_, ?_, ?_, ?_, ?_, ?_, fun _ h => absurd h List.not_mem_nil⟩
  all_goals
    intro ho
    exact encodes_vForm _ (fun f => by rw [ho]; rfl) (fun _ => rfl)

/-- The opcodes that have a form, or that have none (Table 07.11). -/
def hasForm (op : BitVec 8) : Option FormKind → Prop
  | none => unassigned op = true
  | some .r => op.toNat ∈ rAluOpcodes ∨ op.toNat ∈ rSysOpcodes ∨ op = 0x24#8
  | some .i => op.toNat ∈ iFormOpcodes
  | some .b => op.toNat ∈ bFormOpcodes
  | some .e => op.toNat ∈ eFormOpcodes
  | some .m => op.toNat ∈ mFormOpcodes
  | some .v => op.toNat ∈ vFormOpcodes

theorem hasForm_formOf (op : BitVec 8) : hasForm op (formOf op) := by
  have h : ∀ op : BitVec 8, ∀ k, formOf op = k → hasForm op k := by
    intro op k hk
    rcases k with _ | k
    · revert op; simp only [hasForm]; decide
    · cases k <;> (revert op; simp only [hasForm]; decide)
  exact h op _ rfl

/-- A word with an assigned opcode that passes its form's checks is the encoding of the instruction built from it. -/
theorem encodes_buildInstr {w : BitVec 96} {k : FormKind} (hf : formOf (opField w) = some k) (hc : formatCheck k w = none) :
    Encodes w (buildInstr w) := by
  have ho : opField w = BitVec.ofNat 8 (opField w).toNat := by simp
  have hm := hasForm_formOf (opField w)
  rw [hf] at hm
  cases k with
  | r =>
    rcases hm with h | h | h
    · exact encodes_of_mem_rAluOpcodes hc _ h ho
    · exact encodes_of_mem_rSysOpcodes hc _ h ho
    · rw [buildInstr, h]
      exact encodes_qtry h hc
  | i => exact encodes_of_mem_iFormOpcodes hc _ hm ho
  | b => exact encodes_of_mem_bFormOpcodes hc _ hm ho
  | e => exact encodes_of_mem_eFormOpcodes hc _ hm ho
  | m => exact encodes_of_mem_mFormOpcodes hc _ hm ho
  | v => exact encodes_of_mem_vFormOpcodes _ hm ho

/-- An unassigned opcode is the top of its word, whatever the rest holds (R416). -/
theorem encodes_unassigned {w : BitVec 96} (hf : formOf (opField w) = none) :
    Encodes w (.unassignedOpcode (opField w) (w.extractLsb' 0 88)) := by
  have hm := hasForm_formOf (opField w)
  rw [hf] at hm
  refine ⟨hm, ?_⟩
  rw [encode, opField, fields_join w 0 88 8 88 rfl, field_all w]

/-- A word that decodes is the encoding of what it decodes to. -/
theorem encodes_of_decode {w : BitVec 96} {i : Instr} (h : decode w = .ok i) : Encodes w i := by
  unfold decode at h
  split at h
  · next hf =>
    cases h
    exact encodes_unassigned hf
  · next k hf =>
    split at h
    · cases h
    · next hc =>
      cases h
      exact encodes_buildInstr hf hc

/-- Settles O4: the round trip of each constructor, and each form's words rebuilt from their fields. -/
theorem encodeDecodeRoundTrip : Obligations.EncodeDecodeRoundTrip :=
  ⟨fun i w hi hw => decode_encode i w hi hw, encode_isSome_of_wf, fun _ _ h => encodes_of_decode h⟩

end Sys2Proof
end

section
/-! SUPPORT. Integer words, moves, compares and conversions: what each writes once it issues and finds its operands; with
them O13, O14, O15 and O16. -/

namespace Sys2Proof.Machine

/-- Settles O13: each word is a two-operand word with its own function (R159 to R162). -/
theorem integerWords : Obligations.IntegerWords := by
  refine ⟨fun f s hr => ?flagged, fun f s hr => ?plain⟩
  case flagged =>
    refine ⟨intOp2_done _ hr, intOp2_done _ hr, intOp2_done _ hr, intBody2_done _ hr, fun hi => ?rem, fun hi => ?shl,
      intBody2_done _ hr, fun hi => ?sar⟩
    case rem =>
      refine (intBody2_done _ hr hi).trans ?_
      rw [remResult, Int.tmod_def, mul_comm]
    case shl =>
      refine (intBody2_done _ hr hi).trans ?_
      push_cast [shiftCount]
      rfl
    case sar =>
      refine (intBody2_done _ hr hi).trans ?_
      push_cast [shiftCount]
      rfl
  case plain =>
    /- A word that cannot saturate writes its result without flags. -/
    have unsaturated : ∀ {op : BitVec 8} (g : Int → Int → Int), Issues op f.pred (aluCheck (intRule2 false) f) s → f.sat = false →
        intOp2 op false f g s = aluDone f s (intExt f.ty (g (intVal f.ty (s.peekSrc f.a)) (intVal f.ty (valueB f s))), FlagSet.none) :=
      fun g hi hsat => (intOp2_done g hr hi).trans (by simp [intResult, hsat])
    have bitwise : ∀ {op : BitVec 8} (g : BitVec 64 → BitVec 64 → BitVec 64), Issues op f.pred (aluCheck (intRule2 false) f) s →
        bitOp2 op f g s = aluDone f s (intExt f.ty ((g (s.peekSrc f.a) (valueB f s)).toNat : Int), FlagSet.none) :=
      fun g hi => intBody2_done _ hr hi
    intro u v x y w plain bits ok
    refine ⟨fun hi hsat => ?mulh, fun hi hsat => ?min, fun hi hsat => ?max, bitwise (· &&& ·), bitwise (· ||| ·),
      bitwise (· ^^^ ·), bitwise (fun x y => x &&& ~~~y), bitwise (fun x y => BitVec.ofNat 64 (bextN w x.toNat y.toNat)),
      bitwise (fun x y => BitVec.ofNat 64 (bdepN w x.toNat y.toNat)), fun hi => intBody2_done _ hr hi⟩
    case mulh =>
      refine (unsaturated (fun x y => x * y / ((2 ^ w : Nat) : Int)) hi hsat).trans ?_
      push_cast
      rfl
    case min => exact (unsaturated (fun x y => if x ≤ y then x else y) hi hsat).trans (by rw [min_def])
    case max => exact (unsaturated (fun x y => if x ≤ y then y else x) hi hsat).trans (by rw [max_def])

/-- Settles O14: each word's sources are read, its result written, and it retires (R144, R159, R163). -/
theorem moveWords : Obligations.MoveWords := by
  refine ⟨⟨fun f s hr => ⟨fun hi => ?clz, fun hi => ?popc⟩, fun f s hr hi => ?madd, fun f s => ⟨fun hr hi => ?li, fun hr hi => ?addi⟩⟩,
    fun f s hi hr => ?mov⟩
  case clz => exact (issue_eq hi).trans (by simp [gate_eq hr])
  case popc => exact (issue_eq hi).trans (by simp [gate_eq hr])
  case madd => exact (issue_eq hi).trans (by simp [gate_eq hr])
  case li => exact (issue_eq hi).trans (by simp [gate_eq hr])
  case addi => exact (issue_eq hi).trans (by simp [gate_eq hr])
  case mov =>
    have hpop : Ready [f.a] [] s := ⟨hr.1, by simp⟩
    refine ⟨fun hsub hx d hd => ?vector, fun d hform ha hd => ?event, fun d hform ha hd => ?pred, fun hform ha hd => ?copy⟩
    case vector =>
      refine (issue_eq hi).trans ?_
      simp only [bind_eq, getS_eq, if_pos (show f.sub = 1#8 ∧ s.cur = .x from ⟨hsub, hx⟩), gate_eq hpop, readVSrc_eq, hd, writeVDst_eq,
        putV, pure_eq, finishFlow_seq]
      cases f.a <;> rfl
    case event =>
      have ha15 : f.a = .q ⟨15, by decide⟩ := ha
      rw [ha15] at hpop
      refine (issue_eq hi).trans ?_
      simp only [-Fin.reduceFinMk, bind_eq, getS_eq, if_neg hform, ha15, hd, gate_eq hpop, writeEvent, modS_eq, pure_eq, finishFlow_seq]
    case pred =>
      refine (issue_eq hi).trans ?_
      simp [hform, hd, gate_eq hpop]
      rfl
    case copy =>
      have ha15 : ∀ h, f.a ≠ .q ⟨15, h⟩ := fun _ => ha
      refine (issue_eq hi).trans ?_
      simp [-Fin.reduceFinMk, hform, gate_eq hr, ha15]

/-- Settles O15: compares, selections and conversions read their sources, raise their flags and write (R164 to R170). -/
theorem compareAndConvertWords : Obligations.CompareAndConvertWords := by
  refine ⟨fun f s => ⟨fun hz hr hi => ?cmp, fun hz hr hi => ?zero, fun hi => ?plog⟩,
    fun f s => ⟨fun hi hr => ?fcvt, fun hi hr => ?fcmp, fun hi hr => ?sel⟩⟩
  case cmp =>
    rw [show exec (.cmp f) s = execCmp f s from rfl]
    simp only [execCmp, hz]
    refine (issue_eq hi).trans ?_
    simp [gate_eq hr]
  case zero =>
    rw [show exec (.cmp f) s = execCmp f s from rfl]
    simp only [execCmp, hz]
    refine (issue_eq hi).trans ?_
    simp [gate_eq hr]
  case plog =>
    have hpred := plogCheck_none hi.2.1
    refine (issue_eq hi).trans ?_
    obtain ⟨-, ⟨a, ha⟩, ⟨b, hb⟩, -⟩ := hpred
    simp [ha, hb, took, State.peekSrc]
  case fcvt => exact (issue_eq hi).trans (by simp [gate_eq hr])
  case fcmp => exact (issue_eq hi).trans (by simp [gate_eq hr])
  case sel =>
    refine (issue_eq hi).trans ?_
    cases himm : f.immb
    · simp [gate_eq hr, himm]
    · cases hty : intTy f.ty <;> simp [gate_eq hr, himm, hty, tookAB]

/-- Settles O16: FOP by the operands its function reads (R167, R168, R78). -/
theorem scalarFloatWord : Obligations.ScalarFloatWord := by
  intro f s ub uc hi hr
  refine (issue_eq hi).trans ?_
  cases hb : ub <;> cases hc : uc <;> simp_all [ub, uc, gate_eq]

end Sys2Proof.Machine
end

section
/-! SUPPORT. The frame of a word that writes one general register: what popping a queue, raising a flag, writing the register
and retiring each leave, and so their composition (R157, R158, R160); with it O10. -/

namespace Sys2Proof.Machine

/-- What a word of the current stream leaves that may write register n, raise DZ and SAT and pop the queues named. -/
structure WordFrame (n : Fin 32) (names : List Nat) (s t : State) : Prop where
  outside : t = { s with task := t.task }
  streams : ∀ st, st ≠ s.cur → t.task.strm st = s.task.strm st
  regs : ∀ m, m ≠ n → t.readG m = s.readG m
  preds : t.strm.p = s.strm.p
  sctl : t.strm.sctl = s.strm.sctl
  seed : t.strm.seed = s.strm.seed
  trapsec : t.strm.trapsec = s.strm.trapsec
  trapcause : t.strm.trapcause = s.strm.trapcause
  trappc : t.strm.trappc = s.strm.trappc
  semw : t.strm.semw = s.strm.semw
  flags : ∀ j, j ≠ 1 → j ≠ 5 → t.strm.fflags.getLsbD j = s.strm.fflags.getLsbD j
  sticky : ∀ j, s.strm.fflags.getLsbD j = true → t.strm.fflags.getLsbD j = true
  queues : ∀ q : Fin 12, q.val ∉ names → t.task.qs[q] = s.task.qs[q]
  task : { t.task with c := s.task.c, a := s.task.a, x := s.task.x, s := s.task.s, qs := s.task.qs, fmtDone := s.task.fmtDone } = s.task

namespace WordFrame

variable {n : Fin 32} {names : List Nat} {s t u : State}

theorem cur (h : WordFrame n names s t) : t.cur = s.cur := congrArg (·.cur) h.outside

theorem refl : WordFrame n names s s :=
  ⟨rfl, fun _ _ => rfl, fun _ _ => rfl, rfl, rfl, rfl, rfl, rfl, rfl, rfl, fun _ _ _ => rfl, fun _ h => h, fun _ _ => rfl, rfl⟩

/-- Frames compose. -/
theorem trans (h : WordFrame n names s t) (k : WordFrame n names t u) : WordFrame n names s u where
  outside := by rw [k.outside, h.outside]
  streams st hst := (k.streams st (h.cur ▸ hst)).trans (h.streams st hst)
  regs m hm := (k.regs m hm).trans (h.regs m hm)
  preds := k.preds.trans h.preds
  sctl := k.sctl.trans h.sctl
  seed := k.seed.trans h.seed
  trapsec := k.trapsec.trans h.trapsec
  trapcause := k.trapcause.trans h.trapcause
  trappc := k.trappc.trans h.trappc
  semw := k.semw.trans h.semw
  flags j h1 h5 := (k.flags j h1 h5).trans (h.flags j h1 h5)
  sticky j hj := k.sticky j (h.sticky j hj)
  queues q hq := (k.queues q hq).trans (h.queues q hq)
  task := by
    have hk := k.task
    have hh := h.task
    rw [← hk] at hh
    exact hh

/-- The task changes, but no stream of it. -/
theorem modCur {f : Task → Task} (hs : ∀ st, (f s.task).strm st = s.task.strm st)
    (hq : ∀ q : Fin 12, q.val ∉ names → (f s.task).qs[q] = s.task.qs[q])
    (ht : { f s.task with
              c := s.task.c, a := s.task.a, x := s.task.x, s := s.task.s, qs := s.task.qs
              fmtDone := s.task.fmtDone } = s.task) :
    WordFrame n names s (modCur f s) := by
  have hstrm : (Machine.modCur f s).strm = s.strm := hs s.cur
  refine ⟨rfl, fun st _ => hs st, fun m _ => by simp only [State.readG, hstrm], ?_, ?_, ?_, ?_, ?_, ?_, ?_,
    fun j _ _ => ?_, fun j hj => ?_, hq, ht⟩
  all_goals simp only [hstrm]
  exact hj

/-- The current stream changes in its registers, its flags and where it stands. -/
theorem modStrm {f : Strm → Strm} (hg : ∀ m : Fin 32, m ≠ n → (f s.strm).g[m] = s.strm.g[m]) (hp : (f s.strm).p = s.strm.p)
    (hc : { f s.strm with
              g := s.strm.g, p := s.strm.p, fflags := s.strm.fflags, pc := s.strm.pc, arrive := s.strm.arrive
              rsecValid := s.strm.rsecValid, rsec := s.strm.rsec, fin := s.strm.fin, wait := s.strm.wait
              await := s.strm.await, srcs := s.strm.srcs } = s.strm)
    (hf : ∀ j, j ≠ 1 → j ≠ 5 → (f s.strm).fflags.getLsbD j = s.strm.fflags.getLsbD j)
    (hk : ∀ j, s.strm.fflags.getLsbD j = true → (f s.strm).fflags.getLsbD j = true) :
    WordFrame n names s (modStrm f s) where
  outside := rfl
  streams st hst := modStrm_strm_other f s hst
  regs m hm := by simp only [State.readG, modStrm_strm, hg m hm]
  preds := by rw [modStrm_strm, hp]
  sctl := by rw [modStrm_strm]; exact (congrArg Strm.sctl hc :)
  seed := by rw [modStrm_strm]; exact (congrArg Strm.seed hc :)
  trapsec := by rw [modStrm_strm]; exact (congrArg Strm.trapsec hc :)
  trapcause := by rw [modStrm_strm]; exact (congrArg Strm.trapcause hc :)
  trappc := by rw [modStrm_strm]; exact (congrArg Strm.trappc hc :)
  semw := by rw [modStrm_strm]; exact (congrArg Strm.semw hc :)
  flags j h1 h5 := by rw [modStrm_strm, hf j h1 h5]
  sticky j hj := by rw [modStrm_strm, hk j hj]
  queues q _ := by simp only [modStrm_task_qs]
  task := by cases hs : s.cur <;> simp only [Machine.modStrm, Task.setStrm, hs]

/-- A scalar source read: a queue that the word names may lose its head (R33). -/
theorem took {o : Operand} (ho : srcOk s o = true) (hn : ∀ q ∈ queueOf o, q ∈ names) : WordFrame n names s (took o s) := by
  cases o with
  | q k =>
    have hk : k.val < 12 := by
      simp only [srcOk, popOk, Bool.and_eq_true, decide_eq_true_eq] at ho
      exact ho.1
    have hdrop : Machine.took (.q k) s = Machine.modCur (fun t => { t with qs := t.qs.set k.val (t.qs[k.val]).tail }) s := by
      have h12 : k.val ≠ 12 := by omega
      have h13 : k.val ≠ 13 := by omega
      simp [Machine.took, Machine.modCur, Task.dropQ, Task.setScalarQ, Task.scalarQ, h12, h13, hk]
    rw [hdrop]
    refine modCur (fun st => by cases st <;> rfl) (fun q hq => ?_) rfl
    have hne : k.val ≠ q.val := fun e => hq (e ▸ hn k.val (by simp [queueOf]))
    simp [hne]
  | _ => exact refl

/-- A general register written (R50). -/
theorem writeG (v : BitVec 64) : WordFrame n names s (writeG n v s) := by
  unfold Machine.writeG
  split
  · exact refl
  · refine modStrm (f := fun r => { r with g := r.g.set n v }) (fun m hm => ?_) rfl rfl (fun _ _ _ => rfl) (fun _ h => h)
    have hne : n.val ≠ m.val := fun e => hm (Fin.ext e.symm)
    simp [hne]

/-- DZ or SAT raised: flags are sticky (R160, R161). -/
theorem raiseS {r : FlagSet} (hr : ∀ j, j ≠ 1 → j ≠ 5 → r.bits.getLsbD j = false) : WordFrame n names s (raiseS r s) := by
  refine modStrm (f := fun x => { x with fflags := raiseFlags x.fflags r }) (fun _ _ => rfl) rfl rfl (fun j h1 h5 => ?_)
    (fun j hj => ?_)
  · simp [raiseFlags, hr j h1 h5]
  · simp [raiseFlags, hj]

/-- A section left by its word (R27); the formats of the task end with the last section that says so (R199). -/
theorem leaveSection (a : Arrive) (pc : BitVec 64) : WordFrame n names s (leaveSection a pc s) := by
  have hk : WordFrame n names s (Machine.modStrm (fun r => { r with
      rsecValid := true, rsec := r.sec.secno, pc := pc, arrive := a, wait := none, await := none, srcs := none
      fin := r.fin || r.sec.last }) s) := modStrm (fun _ _ => rfl) rfl rfl (fun _ _ _ => rfl) (fun _ h => h)
  unfold Machine.leaveSection
  simp only
  split
  · exact hk.trans (modCur (fun st => by cases st <;> rfl) (fun _ _ => rfl) rfl)
  · exact hk

/-- A word that retires goes on to the next, or leaves its section (R26, R27). -/
theorem retire : WordFrame n names s (retire s) := by
  unfold Machine.retire
  simp only
  split
  · exact leaveSection _ _
  · exact modStrm (fun _ _ => rfl) rfl rfl (fun _ _ _ => rfl) (fun _ h => h)

end WordFrame

/-- The flags that an integer word may raise (R160, R161). -/
def IntegerFlags (r : FlagSet) : Prop := r = FlagSet.none ∨ r = FlagSet.onlyDz ∨ r = FlagSet.onlySat

theorem IntegerFlags.bits {r : FlagSet} (h : IntegerFlags r) {j : Nat} (h1 : j ≠ 1) (h5 : j ≠ 5) : r.bits.getLsbD j = false := by
  have hz : FlagSet.none.bits = 0#64 := by decide
  have hdz : FlagSet.onlyDz.bits = BitVec.twoPow 64 1 := by decide
  have hsat : FlagSet.onlySat.bits = BitVec.twoPow 64 5 := by decide
  rcases h with rfl | rfl | rfl
  · simp [hz]
  · simp [hdz, BitVec.getLsbD_twoPow, h1.symm]
  · simp [hsat, BitVec.getLsbD_twoPow, h5.symm]

theorem intResult_flags (ty : BitVec 5) (sat : Bool) (r : Int) : IntegerFlags (intResult ty sat r).2 := by
  unfold intResult
  split
  · dsimp only
    split
    · exact .inl rfl
    · exact .inr (.inr rfl)
  · exact .inl rfl

theorem divResult_flags (ty : BitVec 5) (sat : Bool) (x y : BitVec 64) : IntegerFlags (divResult ty sat x y).2 := by
  unfold divResult
  split
  · exact .inr (.inl rfl)
  · exact intResult_flags _ _ _

theorem remResult_flags (ty : BitVec 5) (x y : BitVec 64) : IntegerFlags (remResult ty x y).2 := by
  unfold remResult
  split
  · exact .inr (.inl rfl)
  · exact .inl rfl

/-- The sources of a two-operand word that passes its field rules are scalar sources (R157). -/
theorem srcOk_of_aluCheck {f : RAlu} {sat : Bool} {s : State} (h : aluCheck (intRule2 sat) f s = none) :
    srcOk s f.a = true ∧ (f.immb = false → srcOk s f.b = true) := by
  rw [aluCheck, firstBroken_eq_none_iff] at h
  simp only [intRule2, List.forall_mem_cons, Use.ok] at h
  obtain ⟨-, ha, hb, -⟩ := h
  exact ⟨ha, fun hi => by simpa [hi] using hb⟩

/-- What is a source in a stream rests on the stream alone. -/
theorem srcOk_congr {s t : State} (h : t.cur = s.cur) (o : Operand) : srcOk t o = srcOk s o := by
  cases o <;> simp [srcOk, popOk, h]

/-- A two-operand word that reads its sources, raises integer flags, writes register n and retires keeps its frame. -/
theorem aluDone_frame {f : RAlu} {n : Fin 32} {sat : Bool} {s : State} {r : BitVec 64 × FlagSet} (hd : f.d = .g n)
    (hc : aluCheck (intRule2 sat) f s = none) (hf : IntegerFlags r.2) :
    ∃ t, aluDone f s r = .next t ∧ WordFrame n ((srcsAB f).flatMap queueOf) s t := by
  obtain ⟨ha, hb⟩ := srcOk_of_aluCheck hc
  have hread : WordFrame n ((srcsAB f).flatMap queueOf) s (tookAB f s) := by
    have hA : WordFrame n ((srcsAB f).flatMap queueOf) s (took f.a s) :=
      .took ha fun q hq => by unfold srcsAB; split <;> simp [hq]
    unfold tookAB
    split
    · exact hA
    · next hi =>
      refine hA.trans (.took ?_ fun q hq => by simp [srcsAB, hi, hq])
      rw [srcOk_congr hA.cur]
      exact hb (by simpa using hi)
  refine ⟨_, rfl, ?_⟩
  rw [hd]
  exact ((hread.trans (.raiseS fun j h1 h5 => hf.bits h1 h5)).trans (.writeG _)).trans .retire

/-- The words of the two-operand integer layout keep their frame (R158 to R162). -/
theorem integerWord_frame {f : RAlu} {n : Fin 32} {s : State} (hd : f.d = .g n) (hr : Ready (srcsAB f) [f.d] s) :
    ∀ x ∈ [(0x03#8, true, Instr.add f), (0x05#8, true, .sub f), (0x06#8, true, .mul f), (0x07#8, false, .mulh f), (0x08#8, true, .div f),
        (0x09#8, false, .rem f), (0x0A#8, false, .and f), (0x0B#8, false, .or f), (0x0C#8, false, .xor f), (0x0D#8, false, .andn f),
        (0x0E#8, false, .shl f), (0x0F#8, false, .shr f), (0x10#8, false, .sar f), (0x11#8, false, .rot f), (0x14#8, false, .bext f),
        (0x15#8, false, .bdep f), (0x16#8, false, .min f), (0x17#8, false, .max f)],
      Issues x.1 f.pred (aluCheck (intRule2 x.2.1) f) s →
      ∃ t, exec x.2.2 s = .next t ∧ WordFrame n ((srcsAB f).flatMap queueOf) s t := by
  have done : ∀ {op : BitVec 8} {sat : Bool} (g : BitVec 64 → BitVec 64 → BitVec 64 × FlagSet), (∀ x y, IntegerFlags (g x y).2) →
      Issues op f.pred (aluCheck (intRule2 sat) f) s →
      ∃ t, issue op f.pred (aluCheck (intRule2 sat) f) (intBody2 f g) s = .next t
        ∧ WordFrame n ((srcsAB f).flatMap queueOf) s t := fun {op sat} g hg hi => by
    rw [intBody2_done g hr hi]
    exact aluDone_frame hd hi.2.1 (hg _ _)
  have result : ∀ {op : BitVec 8} {sat : Bool} (g : Int → Int → Int), Issues op f.pred (aluCheck (intRule2 sat) f) s →
      ∃ t, intOp2 op sat f g s = .next t ∧ WordFrame n ((srcsAB f).flatMap queueOf) s t :=
    fun g => done _ fun _ _ => intResult_flags _ _ _
  have bitwise : ∀ {op : BitVec 8} (g : BitVec 64 → BitVec 64 → BitVec 64), Issues op f.pred (aluCheck (intRule2 false) f) s →
      ∃ t, bitOp2 op f g s = .next t ∧ WordFrame n ((srcsAB f).flatMap queueOf) s t :=
    fun g => done _ fun _ _ => .inl rfl
  have shift : ∀ {op : BitVec 8} (g : BitVec 64 → Nat → Int), Issues op f.pred (aluCheck (intRule2 false) f) s →
      ∃ t, shiftOp op f g s = .next t ∧ WordFrame n ((srcsAB f).flatMap queueOf) s t :=
    fun g => done _ fun _ _ => .inl rfl
  simp only [List.forall_mem_cons]
  exact ⟨result (· + ·), result (· - ·), result (· * ·), result fun x y => x * y / ((2 ^ intWidth f.ty : Nat) : Int),
    done (divResult f.ty f.sat) fun _ _ => divResult_flags _ _ _ _, done (remResult f.ty) fun _ _ => remResult_flags _ _ _,
    bitwise (· &&& ·), bitwise (· ||| ·), bitwise (· ^^^ ·), bitwise fun x y => x &&& ~~~y,
    shift fun x n => intVal f.ty x * ((2 ^ n : Nat) : Int), shift fun x n => ((x.toNat % 2 ^ intWidth f.ty / 2 ^ n : Nat) : Int),
    shift fun x n => sxInt (intWidth f.ty) x.toNat / ((2 ^ n : Nat) : Int),
    shift fun x n => ((rotN (intWidth f.ty) x.toNat n : Nat) : Int),
    bitwise fun x y => BitVec.ofNat 64 (bextN (intWidth f.ty) x.toNat y.toNat),
    bitwise fun x y => BitVec.ofNat 64 (bdepN (intWidth f.ty) x.toNat y.toNat),
    result fun x y => if x ≤ y then x else y, result fun x y => if x ≤ y then y else x, fun _ h => absurd h List.not_mem_nil⟩

/-- Settles O10: each word's frame, field by field. -/
theorem registerWordFrame : Obligations.RegisterWordFrame := by
  intro f n s hd hr x hx hi
  obtain ⟨t, ht, h⟩ := integerWord_frame hd hr x hx hi
  have hmem : t.mem = s.mem := congrArg (·.mem) h.outside
  have hls : t.task.ls = s.task.ls := (congrArg Task.ls h.task :)
  refine ⟨t, ht, h.outside, fun a => by rw [hmem], fun a => by rw [hls], h.streams, h.regs, fun m => ?_, h.sctl, h.seed, h.trapsec,
    h.trapcause, h.trappc, h.semw, h.flags, h.sticky, h.queues, h.task⟩
  simp only [State.readP, h.preds]

end Sys2Proof.Machine
end

section
/-! SUPPORT. Branches, the queue and semaphore words, fences and control words; with them O17, O18 and O19. -/

namespace Sys2Proof.Machine

theorem took_greg {s : State} {o : Operand} (h : Use.ok .greg s o = true) (t : State) : took o t = t := by
  cases o <;> simp_all [Use.ok, took]

@[simp] theorem stop_eq {α : Type} (e : Stop) (s : State) : (stop e : M α) s = .error e := rfl
@[simp] theorem trap_eq {α : Type} (c : BitVec 8) (i : BitVec 32) (s : State) : (trap c i : M α) s = .error (.trap c i 0) := rfl
@[simp] theorem block_eq {α : Type} (w : Wait) (s : State) : (block w : M α) s = .error (.wait w) := rfl

/-- A computation chosen by a condition runs the chosen one. -/
theorem ite_run {α : Type} (c : Prop) [Decidable c] (x y : M α) (s : State) : (if c then x else y) s = if c then x s else y s := by
  split <;> rfl

@[simp] theorem queueOf_q (q : Fin 16) : queueOf (.q q) = [q.val] := rfl

/-- Settles O17: each branch reads its operands and goes to its target (R171 to R173). -/
theorem branchWords : Obligations.BranchWords := by
  refine ⟨fun f s => ⟨fun hi => ?br, fun onPred one hp ho hi hr => ?brc, fun hi => ?call, fun hi => ?loop⟩, fun f s hi hr => ?ret⟩
  case br => exact (issue_eq hi).trans (by simp [branchVa])
  case brc =>
    subst hp ho
    refine (issue_eq hi).trans ?_
    simp only [bind_eq, gate_eq hr, getS_eq, readSrc_eq, branchVa]
    cases (f.cc == 8#4 || f.cc == 9#4) || f.cc == 0xA#4 || f.cc == 0xB#4
    all_goals
      simp only [if_true, if_false, Bool.false_eq_true, bind_eq, readSrc_eq, pure_eq]
      split <;> simp_all
  case call => exact (issue_eq hi).trans (by simp [branchVa])
  case loop =>
    have hg : Use.ok .greg s f.a = true := by
      have h := (firstBroken_eq_none_iff _).1 hi.2.1
      simp only [List.forall_mem_cons, Bool.and_eq_true] at h
      exact h.1.1
    refine (issue_eq hi).trans ?_
    simp only [bind_eq, getS_eq, readSrc_eq, took_greg hg, writeDst_eq, pure_eq, branchVa]
    split
    · next h => simp only [finishFlow_seq, h]
    · simp
  case ret => exact (issue_eq hi).trans (by simp [gate_eq hr])

/-- A pop that never blocks, where the queue holds an element and the destination has room (R174, R175). -/
theorem qpop_ready {f : RSys} {q : Fin 16} {s : State} {take : Bool} (ha : f.a = .q q)
    (h : 0 < s.task.queueCount q.val ∧ ∀ d ∈ queueOf f.d, s.task.queueFull d = false) :
    qpop take f s = .ok (.seq, put f.b (BitVec.allOnes 64)
      (if take then modCur (fun t => t.dropAny q.val) (delivered q.val f.d s) else delivered q.val f.d s)) := by
  have hready : (decide (0 < s.task.queueCount q.val) && (queueOf f.d).all (fun d => !s.task.queueFull d)) = true := by
    simpa using h
  simp only [qpop, bind_eq, getS_eq, ha, queueOf_q, List.headD_cons, hready, if_true]
  cases take <;> simp

/-- A pop that never blocks, where it cannot be done (R174, R175). -/
theorem qpop_unready {f : RSys} {q : Fin 16} {s : State} {take : Bool} (ha : f.a = .q q)
    (h : ¬ (0 < s.task.queueCount q.val ∧ ∀ d ∈ queueOf f.d, s.task.queueFull d = false)) :
    qpop take f s = .ok (.seq, put f.b 0 s) := by
  have hready : (decide (0 < s.task.queueCount q.val) && (queueOf f.d).all (fun d => !s.task.queueFull d)) = false := by
    rw [← Bool.not_eq_true]
    simpa using h
  simp only [qpop, bind_eq, getS_eq, ha, queueOf_q, List.headD_cons, hready, Bool.false_eq_true, if_false, writeDst_eq, pure_eq]

/-- Settles O18: the pops and pushes that never block, the count, and the semaphore words by whether their wait holds. -/
theorem queueAndSemaphoreWords : Obligations.QueueAndSemaphoreWords := by
  refine ⟨fun f s q => ⟨fun ha hi => ⟨fun h => ?tryTakes, fun h => ?tryFails⟩, fun ha hi => ⟨fun h => ?peekReads, fun h => ?peekFails⟩,
    fun hd hi => ⟨fun h => ?pushes, fun h => ?pushFails⟩, fun ha hr hi => ?qcnt⟩,
    fun f s hr => ⟨fun hi => ⟨fun u hu => ?ssig, fun hu => ?ssigOver⟩, fun hi => ⟨fun h hw => ?swaitBlocks, fun h hw hs => ?swait, fun h hw hs => ?swaitHolds, fun h u hu => ?swaitSignals⟩,
      fun hi => ?stry⟩⟩
  case tryTakes =>
    refine (issue_eq hi).trans ?_
    simp only [qpop_ready ha h, finishFlow_seq, if_true]
  case tryFails =>
    refine (issue_eq hi).trans ?_
    simp only [qpop_unready ha h, finishFlow_seq]
  case peekReads =>
    refine (issue_eq hi).trans ?_
    simp [qpop_ready ha h]
  case peekFails =>
    refine (issue_eq hi).trans ?_
    simp only [qpop_unready ha h, finishFlow_seq]
  case pushes =>
    refine (issue_eq hi).trans ?_
    obtain ⟨hroom, hheld⟩ := h
    have hready : ((queueOf f.d).all (fun d => !s.task.queueFull d)
        && (queueOf f.a).all (fun q => decide (0 < s.task.queueCount q))) = true := by
      simpa using ⟨hroom, hheld⟩
    simp only [bind_eq, getS_eq, hready, if_true]
    cases f.a <;> simp [hd, putV, put]
  case pushFails =>
    refine (issue_eq hi).trans ?_
    have hready : ((queueOf f.d).all (fun d => !s.task.queueFull d)
        && (queueOf f.a).all (fun q => decide (0 < s.task.queueCount q))) = false := by
      rw [← Bool.not_eq_true]
      simpa using h
    simp only [bind_eq, getS_eq, hready, Bool.false_eq_true, if_false, writeDst_eq, pure_eq, finishFlow_seq]
  case qcnt =>
    refine (issue_eq hi).trans ?_
    have hfind : (queueOf f.d).find? s.task.queueFull = none := by
      have hroom := hr.2
      simpa using hroom
    simp [ha, hfind]
  case ssig => exact (issue_eq hi).trans (by simp [gate_eq hr, hu])
  case ssigOver => exact (issue_eq hi).trans (by simp [gate_eq hr, hu])
  case swaitBlocks => 
    refine (issue_eq hi).trans ?_
    simp [gate_eq hr, h, gateWait_wait hw]
    rfl
  case swait => exact (issue_eq hi).trans (by simp [gate_eq hr, h, hs, gateWait_ready hw])
  case swaitHolds =>
    have hs' : ¬ f.sinc = 0#12 := hs
    exact (issue_eq hi).trans (by simp [gate_eq hr, h, hs', gateWait_ready hw])
  case swaitSignals =>
    refine (issue_eq hi).trans ?_
    simp only [bind_eq, getS_eq, h, if_true, modS_eq]
    refine (finishFlow_ownSignal _ _ _ _ _).trans ?_
    rw [signalled, modStrm_task_tid, hu]
  case stry =>
    refine (issue_eq hi).trans ?_
    simp only [bind_eq, gate_eq hr, semAmount_eq, getS_eq]
    split <;> simp

/-- A fence that waits for writes still waits while one of them is open (R118). -/
theorem isEmpty_false_of_ne {α : Type} {l : List α} (h : l ≠ []) : l.isEmpty = false := by
  simpa using h

/-- Settles O19: the fence by the writes it waits for, the control words and the words that end or stop a stream. -/
theorem controlAndTrapWords : Obligations.ControlAndTrapWords := by
  refine ⟨fun f s => ⟨fun hi => ⟨fun hw ha => ?fence, fun hf hw => ?fenceWaits⟩, fun hi hr => ?ctlr,
      fun hi hr => ⟨fun u hu => ?ctlw, fun hu => ?ctlwBad⟩⟩,
    fun f s => ⟨fun hi => exec_trap hi, fun hi => ?bkpt⟩, fun f s => ⟨fun hi => issue_eq hi, fun hi => issue_eq hi⟩⟩
  case fence =>
    refine (issue_eq hi).trans ?_
    have hreplies : ¬ (f.sub ≠ 1#8 ∧ s.cur = .a ∧ s.task.rlds.any (fun r => !r.ready) = true) := by
      rintro ⟨h1, hA, hany⟩
      obtain ⟨r, hr, hnot⟩ := List.any_eq_true.1 hany
      rcases ha with h | h | h
      · exact h1 h
      · exact h hA
      · simp [h r hr] at hnot
    by_cases h2 : f.sub = 2#8
    · simp only [bind_eq, getS_eq, if_pos h2, pure_eq, Bool.not_true, Bool.false_eq_true, if_false, if_neg hreplies]
      split <;> rfl
    · simp only [bind_eq, getS_eq, if_neg h2, awaitWrites_eq, hw.resolve_left h2, List.isEmpty_nil, Bool.not_true,
        Bool.false_eq_true, if_false, if_neg hreplies]
      split <;> rfl
  case fenceWaits =>
    refine (issue_eq hi).trans ?_
    simp only [bind_eq, getS_eq, if_neg hf, awaitWrites_eq, isEmpty_false_of_ne hw, Bool.not_false, if_true, pure_eq, finishFlow_hold]
  case ctlr => exact (issue_eq hi).trans (by simp [gate_eq hr])
  case ctlw => exact (issue_eq hi).trans (by simp [gate_eq hr, hu])
  case ctlwBad => exact (issue_eq hi).trans (by simp [gate_eq hr, hu])
  case bkpt =>
    refine (issue_eq hi).trans ?_
    simp only [bind_eq, getS_eq, pure_eq]
    split <;> rfl

end Sys2Proof.Machine
end

section
/-! SUPPORT. The graph words, the words of time and speed, and the guards; with them O20 and O21. -/

namespace Sys2Proof.Machine

/-- Settles O20: each word by its checks and what it does to the graph (R184 to R188). -/
theorem graphWords : Obligations.GraphWords := by
  refine ⟨fun f s t u slot hi hr hw hg hn => ?gstart, fun f s t slot => ⟨fun hi hr hg => ?gquery, fun hi hr hg => ?gpatch⟩,
    fun f s => ⟨fun hi hr => ?tspawn, fun hi hw hrel => ?noderel⟩⟩
  case gstart =>
    refine (issue_eq hi).trans ?_
    simp only [bind_eq, gate_eq hr, hw, hg, readSrc_eq, ensureValue_ok (decide_eq_true hn), getS_eq, modS_eq, writeDst_eq, pure_eq,
      finishFlow_seq]
  case gquery =>
    refine (issue_eq hi).trans ?_
    simp only [bind_eq, gate_eq hr, hg, getS_eq, writeDst_eq, pure_eq, finishFlow_seq]
  case gpatch =>
    dsimp only
    intro hn hk hoff hls
    refine ⟨fun hq => ?queued, fun bs w x tags hq hload hwrite => ?written⟩
    all_goals
      refine (issue_eq hi).trans ?_
      simp only [bind_eq, gate_eq hr, hg, readSrc_eq, getS_eq, ensureValue_ok (decide_eq_true hn), ensureValue_ok (decide_eq_true hk),
        ensureValue_ok (decide_eq_true hoff), hls]
    case queued => simp only [hq, if_true, bind_eq, writeDst_eq, pure_eq, finishFlow_seq]
    case written =>
      simp only [hq, Option.isSome_none, Bool.false_eq_true, if_false, bind_eq, hload, hwrite, writeDst_eq, pure_eq, finishFlow_seq]
  case tspawn =>
    dsimp only
    intro ha hnode
    have hval : (decide ((s.peekSrc f.a).toNat < 2 ^ 18)
        && !((getSlot (took f.b (took f.a s)) (bits (s.peekSrc f.a).toNat 12 6)).v
          && decide ((getSlot (took f.b (took f.a s)) (bits (s.peekSrc f.a).toNat 12 6)).nnodes ≤ bits (s.peekSrc f.a).toNat 0 12)))
        = true := by
      rw [decide_eq_true ha, Bool.true_and]
      cases hv : (getSlot (took f.b (took f.a s)) (bits (s.peekSrc f.a).toNat 12 6)).v
      · rfl
      · simpa using hnode hv
    refine (issue_eq hi).trans ?_
    simp only [bind_eq, gate_eq hr, readSrc_eq, getS_eq, ensureValue_ok hval, modS_eq, writeDst_eq, pure_eq, finishFlow_seq]
  case noderel =>
    refine (issue_eq hi).trans ?_
    simp [hw, hrel]

theorem modStrm_await (ids : List Nat) (s : State) : modStrm (fun r => { r with await := some ids }) s = awaiting ids s := rfl

/-- Settles O21: the words of time by what they wait for, the guards by what they hold (R120, R121, R196 to R203). -/
theorem timeAndGuardWords : Obligations.TimeAndGuardWords := by
  refine ⟨fun f s => ⟨fun hi => issue_eq hi, fun hi hr => ?sleep, fun a hi hr hk => ?tickwait, fun hi hr => ?speedq, fun hi hr hn => ?evmask⟩,
    fun f s u guard region hi hr => ?bind, fun f s b hi hr => ?unbind, fun f s va ia hr hk => ⟨fun hi hn => ?acq, fun hi hn hh => ?rel⟩⟩
  case sleep =>
    dsimp only
    intro w u hw
    refine ⟨fun c hc => ?wakes, fun hc => ?sleeps⟩
    all_goals
      refine (issue_eq hi).trans ?_
      simp only [bind_eq, getS_eq, gate_eq hr, readSrc_eq]
    case wakes =>
      rcases hw with ⟨ha, rfl, rfl⟩ | ⟨ha, ia, hwin, rfl⟩
      · simp only [if_pos ha, bind_eq, pure_eq, hc, modS_eq, writeDst_eq, finishFlow_seq]
      · simp only [if_neg ha, bind_eq, hwin, pure_eq, hc, modS_eq, writeDst_eq, finishFlow_seq]
    case sleeps =>
      rcases hw with ⟨ha, rfl, rfl⟩ | ⟨ha, ia, hwin, rfl⟩
      · simp only [if_pos ha, bind_eq, pure_eq, hc, modS_eq, finishFlow_hold]
      · simp only [if_neg ha, bind_eq, hwin, pure_eq, hc, modS_eq, finishFlow_hold]
  case tickwait =>
    dsimp only
    intro hd
    refine ⟨fun h => ?past, fun h => ?early⟩
    all_goals
      refine (issue_eq hi).trans ?_
      simp only [bind_eq, heldSources_eq hr, hk, List.headD_cons, gate_eq hd, getS_eq]
    case past => simp only [if_pos h, bind_eq, modS_eq, writeDst_eq, pure_eq, finishFlow_seq]
    case early => simp only [if_neg (Nat.not_le.2 h), bind_eq, modS_eq, pure_eq, finishFlow_hold]
  case speedq =>
    refine (issue_eq hi).trans ?_
    simp only [bind_eq, gate_eq hr, readSrc_eq, getS_eq, writeDst_eq, pure_eq, finishFlow_seq] <;> rfl
  case evmask =>
    refine (issue_eq hi).trans ?_
    simp only [bind_eq, gate_eq hr, readSrc_eq, ensureValue_ok (decide_eq_true hn), getS_eq, modS_eq, writeDst_eq, pure_eq, finishFlow_seq]
  case bind =>
    dsimp only
    intro hg hreg hfew hapart hva hlen hne
    refine (issue_eq hi).trans ?_
    simp only [bind_eq, gate_eq hr, readSrc_eq, objectIa_eq hg, hreg, getS_eq]
    have hany : (u.task.bindings.any fun b => decide (region < b.ia + b.len)
        && decide (b.ia < region + ((took f.b (took f.a s)).peekSrc f.c).toNat)) = false := by
      simpa using hapart
    have hbad : ¬ (((took f.a s).peekSrc f.b).toNat % 128 ≠ 0 ∨ ((took f.b (took f.a s)).peekSrc f.c).toNat % 128 ≠ 0
        ∨ (took f.b (took f.a s)).peekSrc f.c = 0) := by
      simp only [hva, hlen, ne_eq, not_true_eq_false, false_or]
      exact hne
    simp only [if_neg (Nat.not_le.2 hfew), hany, if_neg hbad, Bool.false_eq_true, if_false, bind_eq, modS_eq, pure_eq, finishFlow_seq]
  case unbind =>
    dsimp only
    intro hfind hfree
    refine (issue_eq hi).trans ?_
    simp only [bind_eq, gate_eq hr, readSrc_eq, getS_eq, hfind, hfree, Bool.false_eq_true, if_false, modS_eq, pure_eq, finishFlow_seq]
  case acq =>
    refine ⟨fun hw hh => ?granted, fun hw hh => ?waits, fun hw hh hb => ?asks⟩
    all_goals
      refine (issue_eq hi).trans ?_
      simp only [bind_eq, heldSources_eq hr, hk, List.headD_cons, getS_eq, objectIa_eq hn]
    case granted => simp only [hw, hh, if_true, pure_eq, finishFlow_seq]
    case waits => simp only [hw, hh, Bool.false_eq_true, if_true, if_false, pure_eq, finishFlow_hold]
    case asks =>
      have hall : ((keptSources [f.a] s).2.task.bindings.all fun b => b.guard != ia) = false := by
        obtain ⟨b, hb, rfl⟩ := hb
        simpa using ⟨b, hb, rfl⟩
      simp only [if_neg hw, hh, hall, Bool.false_eq_true, if_false, bind_eq, modS_eq, pure_eq, finishFlow_hold]
  case rel =>
    dsimp only
    refine ⟨fun hopen => ?before, fun hdone ids u hback => ⟨fun hopen => ?after, fun hdone' x hrel => ?released⟩⟩
    all_goals
      refine (issue_eq hi).trans ?_
      simp only [bind_eq, heldSources_eq hr, hk, List.headD_cons, getS_eq, objectIa_eq hn, hh, not_true_eq_false, if_false, awaitWrites_eq]
    case before => simp only [isEmpty_false_of_ne hopen, Bool.not_false, if_true, pure_eq, finishFlow_hold]
    case after =>
      rw [hdone] at hback
      simp only [hdone, List.isEmpty_nil, Bool.not_true, Bool.false_eq_true, if_false, bind_eq, hback, modS_eq, getS_eq,
        modStrm_await, awaitWrites_eq, isEmpty_false_of_ne hopen, Bool.not_false, if_true, pure_eq, finishFlow_hold]
    case released =>
      rw [hdone] at hback
      rw [hdone'] at hrel
      simp only [hdone, List.isEmpty_nil, Bool.not_true, Bool.false_eq_true, if_false, bind_eq, hback, modS_eq, getS_eq,
        modStrm_await, awaitWrites_eq, hdone', hrel, pure_eq, finishFlow_seq]

end Sys2Proof.Machine
end

section
/-! SUPPORT. Groups: the membership words, the arrivals of collectives, and what is sent to other tasks; with them O22 and
O23. -/

namespace Sys2Proof.Machine

theorem groupVa_eq {a : Operand} {win ia : Nat} {s : State} (h : NamesObject win (s.peekSrc a) 64 64 .a ia (took a s)) :
    groupVa a win s = .ok (ia, reachedOut (iaPkg ia) (took a s)) := by
  simp only [groupVa, bind_eq, readSrc_eq, objectIa_eq h]

/-- A message enters a send queue of fewer than 16 where the core has a reservation for it (R363, R365). -/
theorem sendFromC_eq {i : SendC} {s : State} (h : s.task.sendC.length < 16) (ho : s.offDie s.task < 64) :
    sendFromC i s = .ok ((), modCur (fun t => { t with sendC := t.sendC ++ [i] }) s) := sendFromC_ok h (gateReserve_one ho)

/-- A collective word with no earlier operation of its kind open puts its arrival into the send queue (R191, R365). -/
theorem collIssue_eq {kind : CollKind} {f : EForm} {s t : State} (ht : t = took f.b (took f.a s)) (hr : Ready [f.a, f.b] [] s)
    (hfree : ∀ ia, translate (t.window f.sub.toNat) (s.peekSrc f.a).toNat 64 .a = .ok ia → collBusy t ia kind t.task.tid = false)
    (hlen : t.task.sendC.length < 16) (hoff : t.offDie t.task < 64) :
    collIssue kind f s = .ok (.seq, arrivedWith kind f (s.peekSrc f.a) ((took f.a s).peekSrc f.b) t) := by
  subst ht
  simp only [collIssue, bind_eq, gate_eq hr, readSrc_eq, getS_eq, arrivedWith]
  cases hw : translate ((took f.b (took f.a s)).window f.sub.toNat) (s.peekSrc f.a).toNat 64 .a with
  | error e => simp [sendFromC_eq hlen hoff, Except.toOption]
  | ok ia => simp [hfree ia hw, sendFromC_eq hlen hoff, Except.toOption]

theorem lsClean_zero (s : State) : lsClean 0 0 s = .ok ((), s) := by
  have h : s.task.lsBadRow 0 0 1 0 = none := by
    simp [Task.lsBadRow]
  simp only [lsClean, lsCleanRows, h]

/-- Settles O22: the membership words by the group they name, the collectives by their arrival (R42 to R44, R189 to R193). -/
theorem groupWords : Obligations.GroupWords := by
  refine ⟨fun f s ia hn => ?member, fun f s hr => ?issue, fun p s u a hw hp ha hf => ?finish, fun p s ia hn => ?arrival⟩
  case member =>
    dsimp only
    refine ⟨fun hi hr hs ho => ?join, fun hi hr hs ho harr hopen => ⟨fun hk => ?leave, fun hk => ?absent⟩, fun hi hr => ?memb,
      fun hi hr => ?strag⟩
    all_goals
      refine (issue_eq hi).trans ?_
    case join =>
      simp [gate_eq hr, hs, gateReserve_one ho, groupVa_eq hn] <;> rfl
    case leave => simp [gate_eq hr, hs, gateReserve_one ho, groupVa_eq hn, harr, hopen, hk]
    case absent => simp [gate_eq hr, hs, gateReserve_one ho, groupVa_eq hn, harr, hopen, hk]
    case memb => simp [gate_eq hr, groupVa_eq hn]
    case strag => simp [gate_eq hr, groupVa_eq hn]
  case issue =>
    dsimp only
    intro hlen hoff
    refine ⟨fun hi hfree => ?_, fun hi hfree => ?_, fun hi hfree => ?_⟩
    all_goals
      refine (issue_eq hi).trans ?_
      rw [collIssue_eq rfl hr hfree hlen hoff, finishFlow_seq]
  case finish =>
    have harrive : arriveHead p s = .ok ((), applyArrival a (modCur (fun t => { t with sendC := t.sendC.tail }) u)) := by
      cases hwait : p.wait with
      | none =>
        rw [hwait, waitServed] at ha
        simp [arriveHead, hwait, hp, ha, hf]
      | some w =>
        rw [hwait, waitServed] at ha
        simp [arriveHead, hwait, hw w hwait, hp, ha, hf]
    rw [finishArrival, harrive]
  case arrival =>
    dsimp only
    intro hk
    obtain ⟨halign, -⟩ := id hn
    refine ⟨fun hbar => ?bar, fun hbar hoff hj r hload hobj hok hls hcl => ?other⟩
    all_goals
      have hmem : ((getGroup (reachedOut (iaPkg ia) s) ia).rankOf (reachedOut (iaPkg ia) s).task.tid).isNone = false := by
        simpa using hk
      have hva : ensureValue (p.va.toNat % 64 == 0) 2 s = .ok ((), s) := ensureValue_ok (by simp [halign])
    case bar =>
      have hzero : collRec 0 = ⟨0, 0, 0, 0, 0, 0⟩ := by decide
      have hsum : (CollKind.bar == CollKind.red) = false := rfl
      have hsize : CollRec.size ⟨0, 0, 0, 0, 0, 0⟩ = 0 := Nat.zero_mul _
      simp only [arrivalOf, arrivalRecord, bind_eq, getS_eq, hbar, if_true, pure_eq, Option.getD_some, hzero, hsum, Bool.false_and,
        Bool.false_eq_true, if_false, hva, ne_eq, not_true_eq_false, objectIa_eq hn, hmem, hsize, lsClean_zero]
      rfl
    case other =>
      have hread : ¬ (p.off.toNat % 16 ≠ 0 ∨ (lsJudge .any s.task p.off.toNat 16).isSome = true) := by simp [hoff, hj]
      have halign16 : ∀ t, ensureValue (p.off.toNat % 16 == 0) 3 t = .ok ((), t) := fun t => ensureValue_ok (by simp [hoff])
      simp only [arrivalOf, arrivalRecord, bind_eq, getS_eq, if_neg hbar, if_neg hread, hload, pure_eq, Option.getD_some]
      rcases hobj with ⟨hop, hz⟩ | ⟨hop, hred, x, huse⟩
      · have hsum : (p.kind == .red && (collRec (BitVec.ofNat 128 r)).op == 3) = false := by simp [hop]
        have hobj : (p.obj == 0#16) = true := by simp [hz]
        simp only [hsum, Bool.false_eq_true, if_false, bind_eq, hva, ne_eq, hbar, not_false_eq_true, if_true, halign16,
          Option.isNone_some, Bool.false_or, ensure_ok hok, ensure_ok hobj, getS_eq,
          objectIa_eq hn, hls, hmem, hcl, pure_eq, hop]
      · have hsum : (p.kind == .red && (collRec (BitVec.ofNat 128 r)).op == 3) = true := by simp [hop, hred]
        simp only [hsum, if_true, bind_eq, huse, hva, ne_eq, hbar, not_false_eq_true, halign16,
          Option.isNone_some, Bool.false_or, Bool.true_or, ensure_ok hok, ensure_ok, getS_eq,
          objectIa_eq hn, hls, hmem, Bool.false_eq_true, if_false, hcl, pure_eq, if_pos hop]

/-- What needs a circuit to a package in reach is done with the request under way (R364, R369). -/
theorem overLink_eq {pkg : Nat} {s : State} (lost f : State → State) (h : InReach pkg s) : overLink pkg lost f s = f (reachedOut pkg s) := by
  simp only [overLink, gateLink, reachedOut, Pack.cutFrom]
  rcases h with h | ⟨hpresent, hlost, hup, hsend⟩
  · simp [h]
  · by_cases hp : pkg = s.pkg <;> simp [hp, hpresent, hlost, hup, hsend]

theorem getTask?_cur {s : State} (h : s.task.status ≠ .vacant) : getTask? s s.task.tid = some s.task := by
  simp [getTask?, ownTask?, h]

theorem blockHeader_eq {off h : Nat} {s : State} (hj : lsJudge .plain s.task off 16 = none) (hh : lsNumber off 16 s = .ok (h, s)) :
    blockHeader off s = .ok (some h, s) := by
  simp [blockHeader, hj, hh]

/-- Settles O23: what RSIG, RENQ and XPBGO put into the send queue, and what the head of the queue does (R194, R195, R198). -/
theorem remoteWords : Obligations.RemoteWords := by
  refine ⟨fun f s t ia hr hw => ⟨fun hi hn => ?rsig, fun hi hjobs hperf => ?renq⟩, fun f s x rank hi hlog hjobs hperf hx => ?xpbgo,
    fun s g i m hv hhead hreach => ?start⟩
  case rsig =>
    dsimp only
    intro hp hlen hoff
    refine (issue_eq hi).trans ?_
    simp only [bind_eq, gate_eq hr, hw, groupVa_eq hn, readSrc_eq, getS_eq, hp, not_true_eq_false, if_false, sendFromC_eq hlen hoff,
      pure_eq, finishFlow_seq]
  case renq =>
    dsimp only
    intro hz1 hz2 hoff hj h hh hok hn hls hcl x hx hin hlen ho
    obtain ⟨halign, -⟩ := id hn
    have hva : ((t.peekSrc f.a).toNat % 64 == 0) = true := by simp [halign]
    have hb : (bits ((took f.a t).peekSrc f.b).toNat 53 11 == 0 && bits ((took f.a t).peekSrc f.b).toNat 16 16 == 0
        && bits ((took f.a t).peekSrc f.b).toNat 32 21 % 16 == 0) = true := by simp [hz1, hz2, hoff]
    refine (issue_eq hi).trans ?_
    simp only [bind_eq, gate_eq hr, hw, getS_eq, if_neg (Nat.not_le.2 hjobs), hperf, not_true_eq_false, if_false, readSrc_eq,
      ensureValue_ok hva, ensureValue_ok hb, blockHeader_eq hj hh, Option.getD_some, ensure_ok hok, objectIa_eq hn, hls, hx,
      if_neg (Nat.not_le.2 hin), hcl, sendFromC_eq hlen ho, modS_eq, pure_eq, finishFlow_seq]
  case xpbgo =>
    dsimp only
    intro hopen hrank hr0 hk hsrc hring hplain hlen ho
    refine (issue_eq hi).trans ?_
    have hlog' : gateLog s = .ok ((), s) := by simp [gateLog, hlog]
    have hjob : gateJob s = .ok ((), s) := by simp [gateJob, Nat.not_le.2 hjobs, hperf]
    simp only [bind_eq, hlog', hjob, hx, getS_eq, hopen, Bool.false_eq_true, if_false, hrank]
    generalize xpbOf x.toNat = p at *
    generalize rowSpan p.pitchIn p.z (p.len p.axIn) (p.rows p.axIn (rank - p.rank0)) = sn at *
    generalize rowSpan p.pitchOut p.z (p.len p.axOut) (p.rows p.axOut (rank - p.rank0)) = dn at *
    have hin : (decide (p.rank0 ≤ rank) && decide (rank - p.rank0 < p.size)) = true := by simp [hr0, hk]
    have hapart : (p.dstRing || !(decide (p.srcOff < p.dstOff + dn) && decide (p.dstOff < p.srcOff + sn))) = true := by
      cases hd : p.dstRing with
      | true => rfl
      | false =>
        obtain ⟨-, hapart⟩ := hplain hd
        simp only [Bool.false_or, Bool.not_eq_true', Bool.and_eq_false_iff, decide_eq_false_iff_not, Nat.not_lt]
        exact hapart.symm
    simp only [ensure_ok hin, ensure_ok hapart, hsrc]
    cases hd : p.dstRing with
    | true =>
      obtain ⟨hen, hslot⟩ := hring hd
      simp only [if_true, bind_eq, ensure_ok hen, ensure_ok (decide_eq_true hslot), sendFromC_eq hlen ho, modS_eq, pure_eq, finishFlow_seq]
    | false =>
      obtain ⟨hdst, -⟩ := hplain hd
      simp only [Bool.false_eq_true, if_false, bind_eq, hdst, sendFromC_eq hlen ho, modS_eq, pure_eq, finishFlow_seq]
  case start =>
    simp only [sendStart, getTask?_cur hv, Option.bind_some, hhead, overLink_eq _ _ hreach]

end Sys2Proof.Machine
end

section
/-! SUPPORT. The A stream: loads, the stash, rings, windows and pages, and the starts of jobs; with them O24, O25 and O26. -/

namespace Sys2Proof.Machine

theorem took_lsPoison (o : Operand) (s : State) : (took o s).task.lsPoison = s.task.lsPoison := by
  cases o <;> simp only [took, modCur]
  unfold Task.dropQ Task.setScalarQ
  repeat' split
  all_goals rfl

/-- A local store without poison is read freely (R411). -/
theorem lsClean_of_noPoison {s : State} (h : s.task.lsPoison = []) (off n : Nat) : lsClean off n s = .ok ((), s) := by
  simp [lsClean, lsCleanRows, Task.lsBadRow, h]

/-- Without a stash mapping an LS read touches no line (R98, R103). -/
theorem lsLoad_plain {s : State} (hs : s.task.stash = []) (hp : s.task.lsPoison = []) (off n : Nat) :
    lsLoad off n s = .ok (s.task.lsRead off n, s) := by
  have ht : s.task.stashTouched off n = [] := by simp [Task.stashTouched, hs]
  simp only [lsLoad, bind_eq, getS_eq, ht, List.mapM_nil, pure_eq, lsClean_of_noPoison hp]

theorem lsChecks_one {u : LsUse} {off n : Nat} {s : State} (h : lsJudge u s.task off n = none) :
    lsChecks [(u, off, n)] s = .ok ((), s) := by
  have hover : lsOver off n = false := by
    unfold lsJudge at h
    split at h
    · next hn => simp [lsOver, hn]
    · split at h
      · cases h
      · next hle => simp [lsOver, hle]
  simp [lsChecks, hover, h]

/-- A range inside the local store whose bytes lie in regions allowed passes its checks (R421, R426). -/
theorem lsJudge_none {u : LsUse} {t : Task} {off n : Nat} (hb : off + n ≤ 0x180000) (hr : lsBadByte u t off n = none) :
    lsJudge u t off n = none := by
  simp [lsJudge, hr, Nat.not_lt.2 hb]

/-- A load of one element from plain bytes of the local store (R98, R100, R204). -/
theorem loadElems_plain {f : MForm} {va : BitVec 64} {b c : Bool} {s : State} (hl : f.lsel = true) (hcf : f.cf = false)
    (hb : va.toNat + sizeBytes f.size ≤ 0x180000) (hr : lsBadByte .any s.task va.toNat (sizeBytes f.size) = none)
    (hs : s.task.stash = []) (hp : s.task.lsPoison = []) :
    loadElems f b c [va] s = .ok (readCells s.task.ls va.toNat (sizeBytes f.size), s) := by
  simp [loadElems, loadLs, hl, hcf, lsChecks_one (lsJudge_none hb hr), lsLoad_plain hs hp, Task.lsRead]

theorem putV_q (q : Fin 16) (v : BitVec 2048) (s : State) : putV (.q q) v s = modCur (fun t => t.pushQ q.val v) s := rfl

/-- Settles O24: each load by the bytes its access gives; from plain local store those bytes are read off, and a dropped
prefetch only reads its operands (R98, R100, R204 to R208). -/
theorem loadWords : Obligations.LoadWords := by
  refine ⟨fun f s u bs => ⟨fun hi hr hl => ?ld, fun hi hr hl => ?ldacq, fun hi hr hd hl => ?ldv, fun hi hr hd hl => ?ldvs,
    fun hi hr hd => ?gath, fun hi hr hl q hd => ?rld, fun hi hr hl => ?rldv⟩, fun f s => ⟨fun hi hr hl hcf hs => ?plain, fun hi hr hd => ?pref⟩⟩
  case ld =>
    refine (issue_eq hi).trans ?_
    simp only [bind_eq, gate_eq hr, readAddr_eq, hl, writeDst_eq, pure_eq, finishFlow_seq]
  case ldacq =>
    refine (issue_eq hi).trans ?_
    simp only [bind_eq, gate_eq hr, readAddr_eq, hl, writeDst_eq, modS_eq, pure_eq, finishFlow_seq]
  case ldv =>
    rw [hd] at hr
    refine (issue_eq hi).trans ?_
    simp only [bind_eq, gate_eq hr, readAddr_eq, hl, writeVDst_eq, pure_eq, finishFlow_seq, hd, putV_q]
    rfl
  case ldvs =>
    rw [hd] at hr
    refine (issue_eq hi).trans ?_
    have hl' : loadElems f true false (stridedAddrs f (s.peekSrc f.base) ((took f.base s).peekSrc f.index))
      (took f.index (took f.base s)) = .ok (bs, u) := hl
    simp only [bind_eq, gate_eq hr, readSrc_eq, hl', writeVDst_eq, pure_eq, finishFlow_seq, hd, putV_q]
    rfl
  case gath =>
    dsimp only [accessT]
    intro ix v hls hix hl
    refine (issue_eq hi).trans ?_
    simp only [bind_eq, gate_eq hr, readSrc_eq, hls, hix]
    cases hsel : f.lsel
    all_goals
      simp only [hsel, Bool.false_eq_true, if_true, if_false] at hl ⊢
      simp only [bind_eq, hl, writeVDst_eq, pure_eq, finishFlow_seq, hd, putV_q]
      rfl
  case rld =>
    rw [hd] at hr
    refine (issue_eq hi).trans ?_
    simp only [bind_eq, gate_eq hr, readAddr_eq, hl, getS_eq, issueRld, modS_eq, pure_eq, finishFlow_seq, hd, queueOf_q, List.headD_cons]
  case rldv =>
    refine (issue_eq hi).trans ?_
    simp only [bind_eq, gate_eq hr, readAddr_eq, hl, getS_eq, issueRld, modS_eq, pure_eq, finishFlow_seq]
  case plain =>
    dsimp only
    intro hb hreg hp
    refine (issue_eq hi).trans ?_
    have hls : (accessT f s).task.ls = s.task.ls := by rw [accessT, took_ls, took_ls]
    have hstash : (accessT f s).task.stash = [] := by rw [accessT, took_stash, took_stash, hs]
    have hpoison : (accessT f s).task.lsPoison = [] := by rw [accessT, took_lsPoison, took_lsPoison, hp]
    simp only [bind_eq, gate_eq hr, readAddr_eq, loadElems_plain hl hcf hb hreg hstash hpoison, hls, writeDst_eq, pure_eq, finishFlow_seq]
  case pref =>
    refine (issue_eq hi).trans ?_
    simp only [bind_eq, gate_eq hr, readAddr_eq, getS_eq]
    cases hia : prefetchIa (accessT f s) f.win.toNat (accessVa f s).toNat with
    | none => simp only [pure_eq, finishFlow_seq]
    | some ia =>
      have hh : ¬ (f.hint = 0#3 ∧ l1Find (accessT f s) (lineOf ia) = none) := fun h => by
        rcases hd with hd | hd
        · rw [hia] at hd
          cases hd
        · exact hd h.1
      simp only [if_neg hh, pure_eq, finishFlow_seq]

theorem modStrm_congr {f g : Strm → Strm} {s : State} (h : f s.strm = g s.strm) : modStrm f s = modStrm g s := by
  cases hc : s.cur <;> simp_all [modStrm, State.strm, Task.strm]

/-- A range of the stash area (R102). -/
theorem stashRange_eq {t : Task} {off n : Nat} {s : State} (hb : off + n ≤ 0x180000) (ha : t.inStashArea off = true)
    (he : off + n ≤ lscfgBase t.lscfg + lscfgSize t.lscfg) : stashRange t off n s = .ok ((), s) := by
  simp [stashRange, Nat.not_lt.2 hb, Nat.not_lt.2 he, ha]

/-- The pages of a range without a line at the host are discarded (R108, R214). -/
theorem discardRange_eq {ia len : Nat} {s : State} (h : s.hostLineIn ia len = none) :
    let r := ((List.range ((ia + len) / 65536 - (ia + 65535) / 65536)).map
      (fun i => ((ia + 65535) / 65536 + i) * 65536)).foldl (discardPage ia len) (s, 0)
    discardRange ia len s = .ok (r.2, r.1) := by
  simp only [discardRange, bind_eq, getS_eq, h, pure_eq, modS_eq]

/-- Settles O25: the stash by the mapping it adds, removes or discards, the rings by their slots, the queries by what they
read (R102, R103, R108, R213 to R219). -/
theorem stashAndRingWords : Obligations.StashAndRingWords := by
  refine ⟨fun f s t u ia => ⟨fun hi hr ht => ?stash, fun hi hr va hk => ?unstash, fun hi hr ht => ?discard⟩,
    fun f s => ⟨fun hi hr => ?ringset, fun hi hr => ?ringput, fun hi hr => ?ringq, fun hi hr => ?winq, fun hi hr => ?plhint,
      fun hi hr ia u hw => ?pgstate, fun hi hr => ⟨fun ia hx => ?xlatq, fun c hx => ?xlatqFails⟩⟩⟩
  case stash =>
    dsimp only
    intro ha hb hc hz hw hspan harea hend hls n hfree
    subst ht
    refine (issue_eq hi).trans ?_
    have hc' : (((took f.b (took f.a s)).peekSrc f.c).toNat % 128 == 0 && ((took f.b (took f.a s)).peekSrc f.c) != 0) = true := by
      rw [Bool.and_eq_true]
      exact ⟨by simp [hc], bne_iff_ne.2 hz⟩
    simp only [bind_eq, gate_eq hr, readSrc_eq, getS_eq, ensureValue_ok (beq_iff_eq.2 ha), ensureValue_ok (beq_iff_eq.2 hb),
      ensureValue_ok hc', hfree, hw, if_neg (Nat.not_lt.2 hspan), stashRange_eq hls harea hend, modS_eq, writeDst_eq, pure_eq,
      finishFlow_seq]
  case unstash =>
    dsimp only
    intro hmap hclean
    have hids : (modStrm (fun r => { r with await := some (r.await.getD [] ++ []) }) (keptSources [f.a] s).2)
        = awaiting ((keptSources [f.a] s).2.strm.await.getD []) (keptSources [f.a] s).2 :=
      modStrm_congr (by simp only [List.append_nil])
    refine ⟨fun hrest => ?gone, fun hrest => ?waits⟩
    all_goals
      refine (issue_eq hi).trans ?_
      simp only [bind_eq, heldSources_eq hr, hk, List.headD_cons, getS_eq, ensureValue_ok hmap, hclean, List.mapM_nil, pure_eq,
        modS_eq, hids, awaitWrites_eq]
    case gone => simp only [hrest, List.isEmpty_nil, Bool.not_true, Bool.false_eq_true, if_false, bind_eq, modS_eq, pure_eq, finishFlow_seq]
    case waits => simp only [isEmpty_false_of_ne hrest, Bool.not_false, if_true, pure_eq, finishFlow_hold]
  case discard =>
    dsimp only
    intro ha hb hw hhost
    subst ht
    refine (issue_eq hi).trans ?_
    simp only [bind_eq, gate_eq hr, readSrc_eq, ensureValue_ok (beq_iff_eq.2 ha), ensureValue_ok (beq_iff_eq.2 hb), hw,
      discardRange_eq hhost, modS_eq, writeDst_eq, pure_eq, finishFlow_seq]
  case ringset =>
    dsimp only
    intro hlock hfill hcfg
    refine (issue_eq hi).trans ?_
    have hidle : (((took f.a s).ringOf (ringField f.ring1)).lock &&& ~~~((took f.a s).ringOf (ringField f.ring1)).void == 0#16
        && ((took f.a s).ringOf (ringField f.ring1)).fillers.isEmpty) = true := by simp [hlock, hfill]
    have hvalid : (s.peekSrc f.a == 0 || (took f.a s).task.ringCfgOk (ringField f.ring1).val (s.peekSrc f.a)) = true := by
      simpa using hcfg
    simp only [bind_eq, gate_eq hr, readSrc_eq, getS_eq, ensure_ok hidle, ensure_ok hvalid, modS_eq, pure_eq, finishFlow_seq]
  case ringput =>
    dsimp only
    intro hen hclaim hb hls hfit hcl
    refine (issue_eq hi).trans ?_
    have hroom : ¬ ((s.ringOf (ringField f.ring1)).en = true ∧ ¬ (s.ringOf (ringField f.ring1)).claimable = true) := by simp [hclaim]
    simp only [bind_eq, gate_eq hr, readSrc_eq, getS_eq, if_neg hroom, ensureValue_ok (bne_iff_ne.2 hb), hls, ensure_ok hen,
      ensure_ok (decide_eq_true hfit), hcl, modS_eq, pure_eq, finishFlow_seq]
  case ringq =>
    refine (issue_eq hi).trans ?_
    simp only [bind_eq, gate_eq hr, getS_eq, writeDst_eq, pure_eq, finishFlow_seq]
  case winq =>
    refine (issue_eq hi).trans ?_
    simp only [bind_eq, gate_eq hr, getS_eq, writeDst_eq, pure_eq, finishFlow_seq]
  case plhint =>
    refine (issue_eq hi).trans ?_
    simp only [bind_eq, gate_eq hr, readSrc_eq, pure_eq, finishFlow_seq]
  case pgstate =>
    refine (issue_eq hi).trans ?_
    simp only [bind_eq, gate_eq hr, readSrc_eq, hw, getS_eq, writeDst_eq, pure_eq, finishFlow_seq]
  all_goals
    refine (issue_eq hi).trans ?_
    simp only [bind_eq, gate_eq hr, readSrc_eq, getS_eq, hx, writeDst_eq, pure_eq, finishFlow_seq]

theorem gateLog_eq {s : State} (h : s.task.logWait = []) : gateLog s = .ok ((), s) := by
  simp [gateLog, h]

/-- A task with fewer than 16 jobs and no write in its way starts one more (R23, R123). -/
theorem gateJob_eq {s : State} (hj : s.task.jobs < 16) (hw : writesPerformed s.task 2#2 = true) : gateJob s = .ok ((), s) := by
  simp [gateJob, Nat.not_le.2 hj, hw]

/-- A start goes to a unit of its die, or finds a reservation (R363). -/
theorem gateStart_eq {unit : Nat} {s : State} (h : unit / 4 = s.dieOf s.task.core ∨ s.offDie s.task < 64) :
    gateStart unit s = .ok ((), s) := by
  simp only [gateStart, bind_eq, getS_eq]
  by_cases hd : unit / 4 = s.dieOf s.task.core
  · rw [if_pos hd]; rfl
  · rw [if_neg hd]; exact gateReserve_one (h.resolve_left hd)

/-- One more job of the current task. -/
def countJob (s : State) : State := { s with task := { s.task with jobs := s.task.jobs + 1 } }

/-- A copy start whose operands, template and channel pass their checks reaches its channel, and its word goes on
(R209, R324). -/
theorem copyBody_eq {multi : Bool} {f : EForm} {s t u : State} {vs : List (BitVec 64)} {x : Nat} (hwait : s.strm.wait ≠ some .unit)
    (hk : heldSources [f.a, f.b] s = .ok (vs, t)) (hlog : t.task.logWait = []) (hjobs : t.task.jobs < 16)
    (hperf : writesPerformed t.task 2#2 = true) (hx : useObj f.obj 2 templateOk (fun _ => true) t = .ok (x, t))
    (hmode : ((templateMode x == 2) == multi) = true)
    (hval : (bits (vs.headD 0).toNat 5 27 == 0
      && (if multi then decide (bits (vs.headD 0).toNat 32 32 < 2 ^ (bits x 112 4 + 1)) else bits (vs.headD 0).toNat 32 32 == 0)) = true)
    (hfen : s.chans[Fin.ofNat 32 ((vs.headD 0).toNat % 32)].fenced = false)
    (hstart : (vs.headD 0).toNat % 32 / 4 = t.dieOf t.task.core ∨ t.offDie t.task < 64)
    (hu : u = countJob (reachChan (Fin.ofNat 32 ((vs.headD 0).toNat % 32))
      (startData f ((vs.getD 1 0).setWidth 32) (BitVec.ofNat 16 (bits (vs.headD 0).toNat 32 32))) (some t.task.tid) t)) (hw : startWaits u = false) :
    copyBody multi f s = .ok (.seq, u) := by
  have hf : (!s.chans[Fin.ofNat 32 ((vs.headD 0).toNat % 32)].fenced) = true := by rw [hfen]; rfl
  rw [countJob] at hu
  simp only [copyBody, bind_eq, getS_eq, if_neg hwait, hk, gateLog_eq hlog, gateJob_eq hjobs hperf, hx, ensure_ok hmode,
    ensureValue_ok hval, ensureValue_ok hf, gateStart_eq hstart, modS_eq, ← hu, hw, Bool.false_eq_true, if_false, pure_eq]

/-- Settles O26: a start by the unit it reaches, LHALT by where the program stands, LSTAT and BCHK by what they read
(R209 to R212, R320, R323, R330). -/
theorem launchWords : Obligations.LaunchWords := by
  refine ⟨fun f s x va vb hwait hr hk => ?starts, fun f s hr => ⟨fun hi => ⟨fun h => ?running, fun h h' => ?saved⟩, fun hi hr => ?lstat⟩,
    fun f s u x bs hi hr hx => ?bchk⟩
  case starts =>
    have hsrc : heldSources [f.a, f.b] s = .ok ([va, vb], (keptSources [f.a, f.b] s).2) := by rw [heldSources_eq hr, ← hk]
    dsimp only
    intro hlog hjobs hperf hstart
    refine ⟨fun hx ha hfen hw => ⟨fun hi hmode hmask => ?cpygo, fun hi hmode hmask => ?cpymc⟩, fun hi hx hfen hw => ?lgo⟩
    all_goals
      refine (issue_eq hi).trans ?_
    case cpygo =>
      rw [copyBody_eq hwait hsrc hlog hjobs hperf hx (by simpa using hmode) (by simp [ha, hmask]) hfen hstart rfl hw, finishFlow_seq]
      rfl
    case cpymc =>
      rw [copyBody_eq hwait hsrc hlog hjobs hperf hx (by simpa using hmode) (by simpa [ha] using hmask) hfen hstart rfl hw, finishFlow_seq]
      rfl
    case lgo =>
      have hf : (!s.lighters[Fin.ofNat 32 (va.toNat % 32)].fenced) = true := by rw [hfen]; rfl
      have hn : (Fin.ofNat 32 (va.toNat % 32)).val = va.toNat % 32 := Nat.mod_mod _ _
      have hstart' : (Fin.ofNat 32 (va.toNat % 32)).val / 4 = (keptSources [f.a, f.b] s).2.dieOf (keptSources [f.a, f.b] s).2.task.core
          ∨ (keptSources [f.a, f.b] s).2.offDie (keptSources [f.a, f.b] s).2.task < 64 := by rwa [hn]
      simp only [bind_eq, getS_eq, if_neg hwait, hsrc, List.headD_cons, gateLog_eq hlog, gateJob_eq hjobs hperf,
        hx, ensureValue_ok hf, gateStart_eq hstart', modS_eq, List.getD_cons_succ, List.getD_cons_zero, hw, Bool.false_eq_true,
        if_false, pure_eq, finishFlow_seq]
  case running =>
    refine (issue_eq hi).trans ?_
    simp only [bind_eq, gate_eq hr, readSrc_eq, getS_eq, modS_eq, pure_eq, finishFlow_seq]
    rcases h with h | ⟨hsaved, hqueued⟩
    · rw [if_pos h]
    · simp only [hsaved, hqueued, Bool.false_eq_true, if_true, if_false, ite_self]
  case saved =>
    refine (issue_eq hi).trans ?_
    simp only [bind_eq, gate_eq hr, readSrc_eq, getS_eq, modS_eq, pure_eq, finishFlow_seq]
    rcases h' with hsaved | hqueued
    · simp only [h, hsaved, Bool.false_eq_true, if_true, if_false]
    · simp only [h, hqueued, Bool.false_eq_true, if_false, ite_self]
  case lstat =>
    refine (issue_eq hi).trans ?_
    simp only [bind_eq, gate_eq hr, readSrc_eq, getS_eq, writeDst_eq, pure_eq, finishFlow_seq]
  case bchk =>
    dsimp only
    intro hb hls hload
    refine (issue_eq hi).trans ?_
    simp only [bind_eq, gate_eq hr, hx, getS_eq, ensure_ok hb, readSrc_eq, hls, hload, writeDst_eq, pure_eq, finishFlow_seq]

end Sys2Proof.Machine
end

section
/-! SUPPORT. The X stream's words of elements: arithmetic, comparisons and conversions, bits and moves; with them O27, O28
and O29. -/

namespace Sys2Proof.Machine

/-- Element i of packed elements (R53). -/
theorem packElems_div (w i : Nat) (xs : List Nat) : packElems w xs / 2 ^ (w * i) % 2 ^ w = xs.getD i 0 % 2 ^ w := by
  induction xs generalizing i with
  | nil => simp [packElems]
  | cons x xs ih =>
    have hpos := Nat.two_pow_pos w
    cases i with
    | zero => simp [packElems, Nat.add_mul_mod_self_left]
    | succ i =>
      have hdiv : (x % 2 ^ w + 2 ^ w * packElems w xs) / 2 ^ w = packElems w xs := by
        rw [Nat.add_mul_div_left _ _ hpos, Nat.div_eq_of_lt (Nat.mod_lt _ hpos), Nat.zero_add]
      rw [packElems, Nat.mul_succ, Nat.add_comm (w * i) w, Nat.pow_add, ← Nat.div_div_eq_div_mul, hdiv, ih, List.getD_cons_succ]

/-- A field that lies below a bit is not changed by cutting off at that bit. -/
theorem mod_two_pow_div_mod (n k m w : Nat) (h : k + w ≤ m) : n % 2 ^ m / 2 ^ k % 2 ^ w = n / 2 ^ k % 2 ^ w := by
  apply Nat.eq_of_testBit_eq
  intro i
  simp only [Nat.testBit_mod_two_pow, Nat.testBit_div_two_pow]
  by_cases hi : i < w
  · simp [hi, show i + k < m by omega]
  · simp [hi]

/-- What a register packed from elements holds at an element (R53). -/
theorem elemN_vecOf {w i : Nat} (h : w * i + w ≤ 2048) (xs : List Nat) : elemN (vecOf w xs) w i = xs.getD i 0 % 2 ^ w := by
  rw [elemN, BitVec.extractLsb'_toNat, vecOf, BitVec.toNat_ofNat, Nat.shiftRight_eq_div_pow, mod_two_pow_div_mod _ _ 2048 _ h,
    packElems_div]

theorem elemN_lt (v : BitVec 2048) (w i : Nat) : elemN v w i < 2 ^ w := BitVec.isLt _

theorem raiseS_readV (r : FlagSet) (n : Fin 32) (s : State) : (raiseS r s).readV n = s.readV n := by
  cases hc : s.cur <;> simp [raiseS, modStrm, State.readV, Task.setStrm, hc]

/-- The old elements of a vector register (R223). -/
theorem oldElems_getElem {s : State} {d : Fin 32} {zm : Bool} {w i : Nat} (hi : i < (s.oldElems (.v d) zm w).length) :
    (s.oldElems (.v d) zm w)[i] = if zm then 0 else elemN (s.readV d) w i := by
  simp only [State.oldElems]
  split <;> simp [elems]

theorem oldElems_length (s : State) (d : Fin 32) (zm : Bool) (w : Nat) : (s.oldElems (.v d) zm w).length = 2048 / w := by
  simp only [State.oldElems]
  split <;> simp [elems]

theorem laneWord_of {f : VForm} {s : State} {op : BitVec 8} {r : VRule} (hr : Ready [f.a, f.b, f.c] [f.d] s) (hi : Issues op f.pred (vCheck r f) s)
    (ub uc : Bool) (g : LaneOp) :
    issue op f.pred (vCheck r f) (laneBody f ub uc g) s = laneWord f ub uc (fun c => laneElem f c g) s :=
  (issue_eq hi).trans (laneBody_eq hr ub uc g)

/-- What a word writes at an element of a vector register: its result, or the old element (R222, R223). -/
theorem merged_getD {f : VForm} {d : Fin 32} {w i : Nat} {xs : List (Option Nat)} {s : State} (hd : f.d = .v d)
    (hx : xs.length = 2048 / w) (hi : i < 2048 / w) :
    (merged f w xs s).getD i 0 = (xs.getD i none).getD (if f.zm then 0 else elemN (s.readV d) w i) := by
  have hlen : i < (s.oldElems (.v d) f.zm w).length := by rwa [oldElems_length]
  have hm : i < (merged f w xs s).length := by simp [merged, hd, oldElems_length, hx, hi]
  rw [List.getD_eq_getElem _ _ hm, List.getD_eq_getElem _ _ (hx ▸ hi)]
  simp only [merged, List.getElem_map, List.getElem_zip, hd, oldElems_getElem hlen]

/-- Settles O27: each word by its lanes, and a lane by its mask bit (R52, R222 to R227, R251). -/
theorem vectorArithmeticWords : Obligations.VectorArithmeticWords := by
  refine ⟨fun f s hr => ?words, fun f d w i act rs s hd hw hdvd hact hrs hi => ?lane⟩
  case words =>
    refine ⟨fun hi => laneWord_of hr hi _ _ _, fun hi => laneWord_of hr hi _ _ _, fun hi => laneWord_of hr hi _ _ _,
      fun hi => laneWord_of hr hi _ _ _, fun hi => laneWord_of hr hi _ _ _, fun hi => laneWord_of hr hi _ _ _,
      fun hi => laneWord_of hr hi _ _ _, fun hi => laneWord_of hr hi _ _ _, fun hi => laneWord_of hr hi _ _ _,
      fun hi => laneWord_of hr hi _ _ _, fun hi => laneWord_of hr hi _ _ _,
      fun _ => ⟨fun hi => laneWord_of hr hi _ _ _, fun hi => laneWord_of hr hi _ _ _, fun hi => laneWord_of hr hi _ _ _,
        fun hi => laneWord_of hr hi _ _ _, fun hi => laneWord_of hr hi _ _ _⟩, fun hi => ?cplx⟩
    case cplx =>
      refine (issue_eq hi).trans ?_
      simp only [bind_eq, vGate_eq hr, readAbc_eq, laneCtx_eq, laneWord]
      split <;> simp
  case lane =>
    have hend : w * i + w ≤ 2048 := by
      obtain ⟨k, hk⟩ := hdvd
      rw [hk, Nat.mul_div_cancel_left _ hw] at hi
      calc w * i + w = w * (i + 1) := by ring
        _ ≤ w * k := Nat.mul_le_mul_left w hi
        _ = 2048 := hk.symm
    have hlen : ((act.zip rs).map (fun x => if x.1 then some x.2.1 else none)).length = 2048 / w := by simp [hact, hrs]
    have hin : i < (act.zip rs).length := by simp [hact, hrs, hi]
    have hresult : ((act.zip rs).map (fun x => if x.1 then some x.2.1 else none)).getD i none
        = if act.getD i false then some (rs.getD i (0, FlagSet.none)).1 else none := by
      rw [List.getD_eq_getElem _ _ (hlen ▸ hi), List.getD_eq_getElem _ _ (hact ▸ hi), List.getD_eq_getElem _ _ (hrs ▸ hi)]
      simp only [List.getElem_map, List.getElem_zip]
    simp only [lanesDone, hd, putV, readV_writeV, if_true, elemN_vecOf hend, merged_getD hd hlen hi, hresult, raiseS_readV]
    split
    · rfl
    · split
      · exact Nat.zero_mod _
      · exact Nat.mod_eq_of_lt (elemN_lt _ _ _)

/-- The flags of the active lanes of a comparison (R224, R228). -/
theorem foldl_or_eq_laneFlags (act : List Bool) (rs : List (Bool × FlagSet)) :
    (act.zip rs).foldl (fun a y => if y.1 then a.or y.2.2 else a) FlagSet.none = laneFlags act (rs.map fun r => (0, r.2)) := by
  simp only [laneFlags, List.zip_map_right, List.map_map, List.foldl_map]
  congr 1
  funext a y
  cases hy : y.1 <;> simp [hy]

/-- What a comparison writes to a predicate: its bits where the mask makes them active (R228). -/
theorem putPred_eq (f : VForm) (old : BitVec 64) (act : List Bool) (rs : List (Bool × FlagSet)) (s : State) :
    putPred f old act (rs.map Prod.fst) s = .ok ((), put f.d (BitVec.ofNat 64 (((List.range (act.zip rs).length).zip (act.zip rs)).map
      (fun y => if (if y.2.1 then y.2.2.1 else !f.zm && old.getLsbD y.1) then 2 ^ y.1 else 0)).sum) s) := by
  simp only [putPred, writeDst_eq, List.zip_map_right, List.map_map, List.length_map]
  rfl

/-- The active ones of numbered results, paired either way. -/
theorem map_range_zip {α : Type} (n : Nat) (act : List Bool) (g : Nat → α) :
    ((List.range n).zip act).map (fun x => if x.2 then some (g x.1) else none)
      = (act.zip ((List.range n).map g)).map (fun x => if x.1 then some x.2 else none) := by
  rw [List.zip_map_right, List.map_map, ← List.zip_swap, List.map_map]
  rfl

theorem raiseS_oldElems (r : FlagSet) (s : State) (d : Operand) (zm : Bool) (w : Nat) :
    (raiseS r s).oldElems d zm w = s.oldElems d zm w := by
  cases d <;> simp only [State.oldElems, raiseS_readV]

theorem ctxState_maskOf (f : VForm) (s : State) : (ctxState f s).maskOf f = s.maskOf f := by
  simp only [ctxState, advanced]
  split
  · simp [State.maskOf, State.readP]
  · rfl

/-- What a conversion places, element by element (R233). -/
theorem placeParts_eq (f : VForm) (ws wd : Nat) (src : List Nat) (conv : Nat → Nat → Nat → Nat × FlagSet) (s : State) :
    let n := cvtCount ws wd
    let p := f.imm.toNat * n
    let act := activeOf (s.maskOf f) (max ws wd)
    let rs := (List.range n).map (fun k => if wd ≤ ws then conv k (p + k) (src.getD k 0) else conv k k (src.getD (p + k) 0))
    let v := raiseS (laneFlags act rs) s
    let new := (act.zip rs).map (fun x => if x.1 then some x.2.1 else none)
    let keep := v.oldElems f.d false wd
    placeParts f ws wd src conv s = .ok ((), if wd ≤ ws
      then putV f.d (vecOf wd (keep.take p ++ (new.zip ((v.oldElems f.d f.zm wd).drop p)).map (fun x => x.1.getD x.2) ++ keep.drop (p + n))) v
      else putV f.d (vecOf wd (merged f wd new v)) v) := by
  have hnew : ∀ (act : List Bool) (rs : List (Nat × FlagSet)),
      ((act.zip rs).map (fun x => if x.1 then some x.2 else none)).map (fun x => x.map Prod.fst)
        = (act.zip rs).map (fun x => if x.1 then some x.2.1 else none) := fun act rs => by
    rw [List.map_map]
    congr 1
    funext x
    cases hx : x.1 <;> simp [hx]
  intro n p act rs v new keep
  have hsel := map_range_zip n act (fun k => if wd ≤ ws then conv k (p + k) (src.getD k 0) else conv k k (src.getD (p + k) 0))
  simp only [placeParts, bind_eq, getS_eq, ← apply_ite some, raise_eq]
  simp only [n, p, act] at hsel
  simp only [hsel, hnew]
  simp only [keep, new, v, raiseS_oldElems, rs, act, p, n]
  by_cases hw : wd ≤ ws
  all_goals
    simp only [hw, if_true, if_false, writeVDst_eq, putElems_eq]
    rfl

/-- Settles O28: comparisons by their lanes and destination, conversions by the part they fill (R228, R229, R232 to R236). -/
theorem vectorCompareAndConvertWords : Obligations.VectorCompareAndConvertWords := by
  refine ⟨fun f s hr => ⟨fun hi => ⟨fun hd => ?cmpVec, fun n hd => ?cmpPred⟩, fun hi => ⟨fun n hc => ?selPred, fun hc => ?selVec⟩,
    fun hi => ?srnd⟩, fun f s hr hi => ⟨fun hx hd => ?parts, fun hd x hx => ?mx, fun hx => ?expand⟩⟩
  all_goals
    refine (issue_eq hi).trans ?_
  case cmpVec =>
    simp only [bind_eq, vGate_eq hr, getS_eq, readAbc_eq, ite_run, raise_eq, putLanes_eq, pure_eq, Bool.if_true_left, Bool.or_false,
      decide_eq_true_eq]
    split <;> rfl
  case cmpPred =>
    simp only [bind_eq, vGate_eq hr, getS_eq, readAbc_eq, ite_run, raise_eq, pure_eq, hd, putPred_eq, foldl_or_eq_laneFlags,
      State.oldPred, Bool.if_true_left, Bool.or_false, decide_eq_true_eq]
    split <;> rfl
  case selPred =>
    simp only [bind_eq, vGate_eq hr, getS_eq, readAbc_eq, hc, pure_eq, putLanes_eq, finishFlow_seq]
  case selVec =>
    simp only [bind_eq, vGate_eq hr, getS_eq, readAbc_eq, readElems_eq, pure_eq, putLanes_eq, finishFlow_seq]
  case srnd => simp only [bind_eq, vGate_eq hr, readElems_eq, laneCtx_eq, putLanes_eq, pure_eq, finishFlow_seq]
  case parts =>
    simp only [bind_eq, vGate_eq hr, hx, Bool.false_eq_true, if_false, readElems_eq]
    by_cases ht : f.ty.toNat = 0xE
    all_goals
      simp only [vcvtOne, ht, if_true, if_false, bind_eq, readElems_eq, pure_eq, laneCtx_eq, if_neg hd, placeParts_eq, finishFlow_seq]
  case mx =>
    have hb : f.sub.getLsbD 5 = false := by
      rw [BitVec.getLsbD, hd]; rfl
    simp only [bind_eq, vGate_eq hr, hb, Bool.false_eq_true, if_false, readElems_eq]
    by_cases ht : f.ty.toNat = 0xE
    all_goals
      simp only [ht, if_true, if_false] at hx
      simp only [ht, if_true, if_false, bind_eq, readElems_eq, pure_eq, laneCtx_eq, hd, hx, finishFlow_seq]
  case expand =>
    simp only [bind_eq, vGate_eq hr, hx, if_true, vcvtExpand, readVSrc_eq]
    by_cases hk : f.sub.toNat % 32 < 3
    all_goals
      simp only [hk, if_true, if_false, Nat.reduceEqDiff, bind_eq, pure_eq, readVSrc_eq, getS_eq, advanceSeed_eq, putLanes_eq,
        finishFlow_seq, ctxState_maskOf]
      rfl

theorem took_strm (o : Operand) (s : State) : (took o s).strm = s.strm := by
  cases o <;> simp only [took]
  unfold modCur Task.dropQ Task.setScalarQ
  cases hc : s.cur <;> (repeat' split) <;> simp [State.strm, Task.strm, hc]

theorem took_maskOf (o : Operand) (f : VForm) (s : State) : (took o s).maskOf f = s.maskOf f := by
  simp only [State.maskOf, State.readP, took_strm]

theorem tookVB_maskOf (f : VForm) (s : State) : (tookVB f s).maskOf f = s.maskOf f := by
  unfold tookVB
  split
  · rfl
  · exact took_maskOf _ _ _

/-- Reading the operands of a vector word leaves its mask (R52). -/
theorem tookAbc_maskOf (f : VForm) (ub uc : Bool) (s : State) : (tookAbc f ub uc s).maskOf f = s.maskOf f := by
  unfold tookAbc
  cases ub <;> cases uc <;> simp only [Bool.false_eq_true, if_true, if_false, took_maskOf, tookVB_maskOf]

/-- A word on the bits of elements (R230, R231). -/
theorem bitBody_eq {f : VForm} {op : BitVec 8} {r : VRule} {s : State} (hr : Ready [f.a, f.b, f.c] [f.d] s)
    (hi : Issues op f.pred (vCheck r f) s) (ub uc : Bool) (g : Nat → Nat → Nat → Nat → Nat) :
    issue op f.pred (vCheck r f) (bitBody f ub uc g) s
      = movedWord f (vWidth f.ty.toNat) ((tuples (elemsAbc f (vWidth f.ty.toNat) ub uc s).1 (elemsAbc f (vWidth f.ty.toNat) ub uc s).2.1
        (elemsAbc f (vWidth f.ty.toNat) ub uc s).2.2).map
          (fun y => g (vWidth f.ty.toNat) y.2.1 y.2.2.1 y.2.2.2 % 2 ^ vWidth f.ty.toNat)) (tookAbc f ub uc s) := by
  refine (issue_eq hi).trans ?_
  simp only [bitBody, bind_eq, vGate_eq hr, getS_eq, readAbc_eq, putLanes_eq, pure_eq, finishFlow_seq, movedWord, quiet, List.map_map,
    tookAbc_maskOf]
  rfl

/-- Settles O29: the bit words by their elements, the moves by the elements they place (R230, R231, R237 to R243). -/
theorem vectorBitAndMoveWords : Obligations.VectorBitAndMoveWords := by
  refine ⟨fun f s hr => ⟨fun hi => bitBody_eq hr hi _ _ _, fun hi => bitBody_eq hr hi _ _ _, fun hi => bitBody_eq hr hi _ _ _,
      fun hi => bitBody_eq hr hi _ _ _, fun hi => bitBody_eq hr hi _ _ _, fun hi => bitBody_eq hr hi _ _ _, fun hi => bitBody_eq hr hi _ _ _,
      fun hi => bitBody_eq hr hi _ _ _, fun hi => bitBody_eq hr hi _ _ _, fun hi => bitBody_eq hr hi _ _ _, fun hi => bitBody_eq hr hi _ _ _⟩,
    fun f s hr => ⟨fun hi => ?vmov, fun hi => ?vli, fun hi => ?vperm, fun hi => ?vshuf, fun hi => ?vbcast, fun hi => ?vextr,
      fun hi => ?vins, fun hi => ?vslide, fun hi => ?vcomp, fun hi => ?vexpd, fun hi => ?viota⟩⟩
  all_goals
    refine (issue_eq hi).trans ?_
  case vmov => simp only [bind_eq, vGate_eq hr, readElems_eq, putMoved_eq, pure_eq, finishFlow_seq, movedWord]
  case vli => simp only [bind_eq, vGate_eq hr, putMoved_eq, pure_eq, finishFlow_seq, movedWord]
  case vperm => simp only [bind_eq, vGate_eq hr, readElems_eq, readElemsB_eq, putMoved_eq, pure_eq, finishFlow_seq, movedWord]
  case vshuf =>
    simp only [bind_eq, vGate_eq hr, readElems_eq]
    split <;> simp only [bind_eq, readElems_eq, putMoved_eq, pure_eq, finishFlow_seq, movedWord]
  case vbcast =>
    simp only [bind_eq, vGate_eq hr]
    split <;> simp only [bind_eq, readElems_eq, readIndex_eq, readSrc_eq, putMoved_eq, pure_eq, finishFlow_seq, movedWord]
  case vextr => simp only [bind_eq, vGate_eq hr, readElems_eq, readIndex_eq, writeDst_eq, pure_eq, finishFlow_seq]
  case vins => simp only [bind_eq, vGate_eq hr, getS_eq, readSrc_eq, readIndex_eq, writeVDst_eq, pure_eq, finishFlow_seq]
  case vslide => simp only [bind_eq, vGate_eq hr, readElems_eq, readSrc_eq, putMoved_eq, pure_eq, finishFlow_seq, movedWord]
  case vcomp => simp only [bind_eq, vGate_eq hr, getS_eq, readElems_eq, putElems_eq, pure_eq, finishFlow_seq]
  case vexpd => simp only [bind_eq, vGate_eq hr, getS_eq, readElems_eq, putElems_eq, pure_eq, finishFlow_seq]
  case viota =>
    simp only [bind_eq, vGate_eq hr, readSrc_eq, tookVB]
    split <;> simp only [bind_eq, readSrc_eq, putMoved_eq, pure_eq, finishFlow_seq, movedWord]

end Sys2Proof.Machine
end

section
/-! SUPPORT. The X stream's reductions, scans, predicates and functions; with them O30. -/

namespace Sys2Proof.Machine

/-- A word that goes on in either of two states. -/
theorem finishFlow_seq_ite (c : Prop) [Decidable c] (op : BitVec 8) (s t u : State) :
    finishFlow op s (if c then .ok (.seq, t) else .ok (.seq, u)) = .next (retire (if c then t else u)) := by
  split <;> rfl

/-- Settles O30: reductions and scans by their trees, predicates by their bits, functions by their image (R244 to R258). -/
theorem vectorReductionWords : Obligations.VectorReductionWords := by
  refine ⟨fun f s hr => ⟨fun hi => ?redadd, fun hi => ?redmax, fun hi => ?redmin, fun hi => ?gmax, fun hi => ?gsum, fun hi => ?scan,
      fun hi => ?stat⟩,
    fun f s hr => ⟨fun hi => ⟨fun hk => ?plogPred, fun hk => ?plogVec, fun hk => ?plogNz⟩, fun hi => ?pcnt,
      fun hi => ⟨fun l hl => ?pfirst, fun hl => ?pnone⟩, fun hi => ?dot,
      fun hi => ⟨fun hk => ?shipped, fun slot hk hs hform hls hcl himg => ?image, fun slot hk hs hform hls hcl himg => ?changed⟩,
      fun hi halign => ⟨fun hf hcl => ?loads, fun o hf => ?fault⟩⟩⟩
  all_goals
    refine (issue_eq hi).trans ?_
  case redadd | redmax | redmin =>
    simp only [reduceBody, bind_eq, vGate_eq hr, readElems_eq, laneCtx_eq, raise_eq, ite_run, writeVDst_eq, writeDst_eq, pure_eq,
      finishFlow_seq_ite] <;> rfl
  case gmax | gsum =>
    simp only [segBody, bind_eq, vGate_eq hr, readElems_eq, laneCtx_eq, putLanes_eq, pure_eq, finishFlow_seq]
  case scan =>
    simp only [bind_eq, vGate_eq hr, readElems_eq, laneCtx_eq, putLanes_eq]
    cases ht : tyI f.ty.toNat
    all_goals
      simp only [Bool.false_eq_true, not_true_eq_false, not_false_eq_true, if_true, if_false, bind_eq, raise_eq, pure_eq, finishFlow_seq]
  case stat =>
    simp only [bind_eq, vGate_eq hr, readElems_eq, laneCtx_eq, raise_eq, writeVDst_eq, pure_eq, finishFlow_seq]
  case plogPred =>
    have hmode : f.sub.toNat / 16 = 0 := by omega
    simp only [bind_eq, vGate_eq hr, getS_eq, hmode, readSrc_eq, putPred, writeDst_eq, pure_eq, finishFlow_seq]
  case plogVec =>
    simp only [bind_eq, vGate_eq hr, getS_eq, hk, readSrc_eq, putMoved_eq, pure_eq, finishFlow_seq, movedWord]
  case plogNz =>
    have hmode : f.sub.toNat / 16 = 2 := by omega
    simp only [bind_eq, vGate_eq hr, getS_eq, hmode, readElems_eq, putPred, writeDst_eq, pure_eq, finishFlow_seq]
  case pcnt => simp only [bind_eq, vGate_eq hr, readSrc_eq, getS_eq, writeDst_eq, pure_eq, finishFlow_seq]
  case pfirst | pnone => simp only [bind_eq, vGate_eq hr, readSrc_eq, getS_eq, hl, writeDst_eq, pure_eq, finishFlow_seq]
  case dot =>
    simp only [bind_eq, vGate_eq hr, readElems_eq, readElemsB_eq, getS_eq, putLanes_eq, pure_eq, finishFlow_seq]
  case shipped => simp only [bind_eq, vGate_eq hr, getS_eq, if_pos hk, readElems_eq, putLanes_eq, pure_eq, finishFlow_seq]
  case image =>
    simp only [bind_eq, vGate_eq hr, getS_eq, if_neg (Nat.not_lt.2 hk), hs, ensure_ok hform, hls, hcl, readElems_eq, if_pos himg,
      putLanes_eq, pure_eq, finishFlow_seq]
  case changed =>
    simp only [bind_eq, vGate_eq hr, getS_eq, if_neg (Nat.not_lt.2 hk), hs, ensure_ok hform, hls, hcl, readElems_eq, if_neg himg,
      freeBytes, putLanes_eq, pure_eq, finishFlow_seq]
  case loads =>
    simp only [bind_eq, vGate_eq hr, readSrc_eq, ensureValue_ok (beq_iff_eq.2 halign), getS_eq, hf, hcl, modS_eq, pure_eq, finishFlow_seq]
  case fault =>
    simp only [bind_eq, vGate_eq hr, readSrc_eq, ensureValue_ok (beq_iff_eq.2 halign), getS_eq, hf, trap_eq, finishFlow_trap]

end Sys2Proof.Machine
end

section
/-! SUPPORT. The matrix engine: what rings and tiles an instruction finds in place, and its words; with them O31. -/

namespace Sys2Proof.Machine

/-- The writes of a task that a release waits for are the same (R117, R123). -/
structure SameWrites (s t : State) : Prop where
  sendS : t.task.sendS = s.task.sendS
  acks : t.task.acks = s.task.acks
  sidelog : t.task.sidelog = s.task.sidelog
  logWait : t.task.logWait = s.task.logWait

namespace SameWrites

variable {s t u : State}

theorem trans (h : SameWrites s t) (k : SameWrites t u) : SameWrites s u :=
  ⟨k.sendS.trans h.sendS, k.acks.trans h.acks, k.sidelog.trans h.sidelog, k.logWait.trans h.logWait⟩

theorem raiseS (r : FlagSet) (s : State) : SameWrites s (raiseS r s) := by
  constructor <;> simp [Machine.raiseS]

theorem putTile (n : Fin 4) (x : Tile) (s : State) : SameWrites s (putTile n x s) := ⟨rfl, rfl, rfl, rfl⟩

theorem useFormat (s : State) : SameWrites s (modCur Task.useFormat s) := by
  constructor
  all_goals
    simp only [modCur_task, Task.useFormat]
    split <;> rfl

theorem mayPop (h : SameWrites s t) {rs : List (Option (Fin 8) × Bool)} (hp : MayPop rs s) : MayPop rs t := by
  intro hany
  obtain ⟨hlog, hperf⟩ := hp hany
  refine ⟨h.logWait.trans hlog, ?_⟩
  rw [← hperf]
  simp only [writesPerformed, Task.openWrites, h.sendS, h.acks, h.sidelog, h.logWait]

end SameWrites

/-- What the field rules of a word of the system layout ask of its operands. -/
theorem sysCheck_operands {r : SysRule} {f : RSys} {s : State} (h : sysCheck r f s = none) :
    r.d.ok s f.d = true ∧ r.a.ok s f.a = true ∧ r.b.ok s f.b = true ∧ r.c.ok s f.c = true ∧ r.ring1 f.ring1 = true := by
  rw [sysCheck, firstBroken_eq_none_iff] at h
  simp only [List.forall_mem_cons, Bool.and_eq_true] at h
  obtain ⟨hd, ha, hb, hc, -, -, -, -, ⟨hring, -⟩, -⟩ := h
  exact ⟨hd, ha, hb, hc, hring⟩

theorem formatHead_eq {w : BitVec 64} {s : State} (h : s.task.q14.head? = some w) : formatHead s = .ok (w, s) := by
  cases hq : s.task.q14 with
  | nil => simp [hq] at h
  | cons x r =>
    obtain rfl : x = w := by simpa [hq] using h
    simp [formatHead, hq]

theorem modTile_eq (n : Fin 4) (g : Tile → Tile) (s : State) : modTile n g s = .ok ((), putTile n (g (s.tile n)) s) := rfl

theorem raiseS_tile (r : FlagSet) (n : Fin 4) (s : State) : (raiseS r s).tile n = s.tile n := by
  simp [State.tile, raiseS]

theorem advancedM_tile (sel : Nat × Nat) (n : Fin 4) (s : State) : (advancedM sel s).tile n = s.tile n := by
  simp only [advancedM]
  split <;> rfl

/-- A tile command whose format word, operands and tile pass their checks (R263 to R270). -/
theorem mmaBody_eq {mmat : Bool} {f : RSys} {s t u : State} {w : BitVec 64} {h : MmaShape} {a b : LsArg} {ab bb : Nat}
    {r : List Nat × FlagSet × Bool} {pops : List (Option (Fin 8) × Bool)}
    (hw : s.task.q14.head? = some w) (hrings : gateRings [ringNamed f.ring1, ringNamed f.ring2] s = .ok ((), s))
    (ht : took f.b (took f.a s) = t) (hab : rowBytes h.aty h.k = ab) (hbb : rowBytes h.bty (h.bElems mmat) = bb)
    (ha : lsArg t (ringNamed f.ring1) (s.peekSrc f.a) (h.apitch * 63 + ab) = a)
    (hb : lsArg t (ringNamed f.ring2) ((took f.a s).peekSrc f.b) (h.bpitch * (h.bRows mmat - 1) + bb) = b)
    (hr : mmaResult h (f.sub.getLsbD 0) mmat (t.tile (tileNum f.d)) (lsRows t.task a.off h.apitch 64 ab)
      (lsRows t.task b.off h.bpitch (h.bRows mmat) bb) = r)
    (hpops : [(ringNamed f.ring1, f.sub.getLsbD 1), (ringNamed f.ring2, f.sub.getLsbD 2)] = pops)
    (hu : raiseS r.2.1 (modCur Task.useFormat t) = u)
    (hshape : mmaShape mmat w = some h) (hmode : f.sub.getLsbD 0 = true ∨ (t.tile (tileNum f.d)).mode = h.mode) (hpop : MayPop pops t)
    (hargs : checkArgs [a, b] t = .ok ((), t))
    (hbeats : mmat = true → checkBeats a.off h.apitch 64 ab 0 t = .ok ((), t) ∧ checkBeats b.off h.bpitch (h.bRows mmat) bb 1 t = .ok ((), t))
    (hca : lsCleanRows a.off h.apitch 64 ab t = .ok ((), t)) (hcb : lsCleanRows b.off h.bpitch (h.bRows mmat) bb t = .ok ((), t)) :
    mmaBody mmat f s = .ok (.seq, popped pops (putTile (tileNum f.d)
      { (u.tile (tileNum f.d)).fill h.mode r.1 with ovf := (u.tile (tileNum f.d)).ovf || r.2.2 } u)) := by
  have hz : ¬ (¬ f.sub.getLsbD 0 = true ∧ (t.tile (tileNum f.d)).mode ≠ h.mode) := fun ⟨h1, h2⟩ => hmode.elim h1 h2
  have hpop' : MayPop pops (putTile (tileNum f.d)
      { (u.tile (tileNum f.d)).fill h.mode r.1 with ovf := (u.tile (tileNum f.d)).ovf || r.2.2 } u) := by
    subst hu
    exact ((SameWrites.useFormat t).trans ((SameWrites.raiseS _ _).trans (SameWrites.putTile _ _ _))).mayPop hpop
  simp only [mmaBody, bind_eq, formatHead_eq hw, hrings, readSrc_eq, ht, getS_eq, hshape, hab, hbb, ha, hb, hargs]
  cases mmat
  case false =>
    simp only [Bool.false_eq_true, if_false, if_neg hz, bind_eq, hca, hcb, modS_eq, raise_eq, modTile_eq, hr, hu, hpops,
      popRings_eq _ hpop', pure_eq]
  case true =>
    obtain ⟨hba, hbb⟩ := hbeats rfl
    simp only [if_true, if_neg hz, bind_eq, hba, hbb, hca, hcb, modS_eq, raise_eq, modTile_eq, hr, hu, hpops,
      popRings_eq _ hpop', pure_eq]

/-- Settles O31: the tile commands by their shape and operands, the words on a tile by its cells (R263 to R279). -/
theorem tileWords : Obligations.TileWords := by
  refine ⟨fun f s w h hi hw hrings => ?mma, fun f s => ⟨fun hi => ?aclr, fun hi hr => ?aget, fun hi hr => ?aput, fun hi hr => ?ascale,
    fun hi => ?rpop, fun hi hr => ?sigt, fun hi hr => ?sigchk, fun hi w r hq => ?fmtpop⟩, fun f s x hi hlog hjobs hperf hstaged => ?drain⟩
  case mma =>
    dsimp only
    intro hmode hpop
    have hregs : took f.a s = s ∧ took f.b s = s := by
      have hcheck : sysCheck mmaRule f s = none := hi.elim (fun h => h.2.1) (fun h => h.2.1)
      obtain ⟨-, ha, hb, -⟩ := sysCheck_operands hcheck
      exact ⟨took_greg ha s, took_greg hb s⟩
    obtain ⟨ha, hb⟩ := hregs
    have hpop' : MayPop [(ringNamed f.ring1, f.sub.getLsbD 1), (ringNamed f.ring2, f.sub.getLsbD 2)] (took f.b (took f.a s)) := by
      rwa [ha, hb]
    refine ⟨fun hi hs hargs hcl => ?_, fun hi hs hargs hba hbb hcl => ?_⟩
    all_goals
      refine (issue_eq hi).trans ?_
    · rw [mmaBody_eq hw hrings rfl rfl rfl rfl rfl rfl rfl rfl hs hmode hpop' hargs (fun h => by cases h) hcl.1 hcl.2, finishFlow_seq]
    · rw [mmaBody_eq hw hrings rfl rfl rfl rfl rfl rfl rfl rfl hs hmode hpop' hargs (fun _ => ⟨hba, hbb⟩) hcl.1 hcl.2, finishFlow_seq]
  case aclr => 
    refine (issue_eq hi).trans ?_
    simp only [bind_eq, modTile_eq, pure_eq, finishFlow_seq]
  case aget =>
    dsimp only
    intro cells hcells hty
    refine (issue_eq hi).trans ?_
    simp only [bind_eq, gate_eq hr, readSrc_eq, getS_eq, hcells, hty, not_true_eq_false, if_false, advanceSeedM_eq, raise_eq, writeVDst_eq,
      pure_eq, finishFlow_seq, flagsOf]
  case aput =>
    dsimp only
    intro cells hcells hty
    refine (issue_eq hi).trans ?_
    simp only [bind_eq, gate_eq hr, readVSrc_eq, readSrc_eq, getS_eq, hcells, hty, not_true_eq_false, if_false, modTile_eq, pure_eq,
      finishFlow_seq] <;> rfl
  case ascale =>
    dsimp only
    intro hm hexp hfloat
    have hval : f.sub.getLsbD 0 = false →
        (((took f.a s).tile (tileNum f.d)).mode != 0 || decide ((s.peekSrc f.a).toNat < 2 ^ 32)) = true := fun hsub => by
      rw [Bool.or_eq_true, bne_iff_ne, decide_eq_true_eq]
      exact or_iff_not_imp_left.2 fun h0 => hfloat hsub (not_not.1 h0)
    refine (issue_eq hi).trans ?_
    simp only [bind_eq, gate_eq hr, readSrc_eq, getS_eq]
    cases hsub : f.sub.getLsbD 0
    case false =>
      simp only [Bool.false_eq_true, if_false, bind_eq, ensureValue_ok (hval hsub), if_neg hm, advanceSeedM_eq, raise_eq, modTile_eq, pure_eq,
        raiseS_tile, advancedM_tile, finishFlow_seq]
      rfl
    case true =>
      simp only [if_true, bind_eq, ensureValue_ok (decide_eq_true (hexp hsub)), if_neg hm, advanceSeedM_eq, raise_eq, modTile_eq, pure_eq,
        raiseS_tile, advancedM_tile, finishFlow_seq]
      rfl
  case rpop =>
    dsimp only
    intro hen hfull hrel
    obtain ⟨-, -, -, -, hring⟩ := sysCheck_operands hi.2.1
    have hnamed : ringNamed f.ring1 = some (ringField f.ring1) := if_pos hring
    refine (issue_eq hi).trans ?_
    have hgate : gateRings [some (ringField f.ring1)] s = .ok ((), s) := by simp [gateRings, hfull]
    have hstate : (lsArg s (some (ringField f.ring1)) 0 0).ringState s = .ok ((), s) := by simp [LsArg.ringState, lsArg, hen]
    simp only [bind_eq, hnamed, hgate, getS_eq, hstate, popRings_eq _ (fun _ => hrel), pure_eq, finishFlow_seq]
  case sigt =>
    refine (issue_eq hi).trans ?_
    simp only [bind_eq, gate_eq hr, readSrc_eq, getS_eq, writeDst_eq, pure_eq, finishFlow_seq]
  case sigchk =>
    refine ⟨fun hab => ?same, fun hab hsub => ?event, fun hab hsub => ?trap⟩
    all_goals
      refine (issue_eq hi).trans ?_
      simp only [bind_eq, gate_eq hr, readSrc_eq]
    case same => simp only [if_pos hab, bind_eq, writeDst_eq, pure_eq, finishFlow_seq, predBits, if_true]
    case event => simp only [if_neg hab, hsub, Bool.false_eq_true, if_false, bind_eq, writeDst_eq, modS_eq, pure_eq, finishFlow_seq, predBits]
    case trap => simp only [if_neg hab, hsub, if_true, bind_eq, trap_eq, finishFlow_trap]
  case fmtpop =>
    refine (issue_eq hi).trans ?_
    have hhead : s.task.q14.head? = some w := by rw [hq]; rfl
    have htail : modCur (fun t => { t with q14 := t.q14.tail, q14uses := 0 }) s = modCur (fun t => { t with q14 := r, q14uses := 0 }) s := by
      simp only [modCur, hq, List.tail_cons]
    simp only [bind_eq, formatHead_eq hhead, modS_eq, writeDst_eq, pure_eq, finishFlow_seq, htail]
  case drain =>
    dsimp only
    intro hx hb halign hls hcl hrec hty hroom hap
    obtain ⟨g, hg⟩ := hb
    have hkeep : took f.b s = s := by rw [hg]; rfl
    refine (issue_eq hi).trans ?_
    simp only [bind_eq, gateLog_eq hlog, gateJob_eq hjobs hperf, getS_eq, if_neg (Nat.not_le.2 hstaged), hx, readSrc_eq, hkeep,
      ensureValue_ok (beq_iff_eq.2 halign), hls, hcl]
    simp only [ensure_ok hrec, hty, not_true_eq_false, if_false, if_neg (not_or.2 ⟨Nat.not_le.2 hroom, Bool.eq_false_iff.1 hap⟩),
      bind_eq, advanceSeedM_eq, raise_eq, modS_eq, pure_eq, finishFlow_seq]
    rfl

end Sys2Proof.Machine
end

section
/-! SUPPORT. Words that write the local store and then pop rings; with them O32. -/

namespace Sys2Proof.Machine

theorem SameWrites.lsWrite (n : Nat) (bs : List (BitVec 8)) (s : State) : SameWrites s (modCur (fun t => t.lsWrite n bs) s) := ⟨rfl, rfl, rfl, rfl⟩

theorem SameWrites.lsWrites (offset : Nat × List (BitVec 8) → Nat) (l : List (Nat × List (BitVec 8))) (s : State) :
    SameWrites s (modCur (fun t => l.foldl (fun (t : Task) (x : Nat × List (BitVec 8)) => t.lsWrite (offset x) x.2) t) s) := by
  induction l generalizing s with
  | nil => exact ⟨rfl, rfl, rfl, rfl⟩
  | cons x l ih => exact (SameWrites.lsWrite (offset x) x.2 s).trans (ih (modCur (fun t => t.lsWrite (offset x) x.2) s))

theorem freeBytes_eq (n : Nat) (s : State) :
    freeBytes n s = .ok ((List.range n).map (fun i => Config.freeByte (s.free + i)), { s with free := s.free + n }) := rfl

/-- Settles O32: the transforms by their plan, operands and rings, and the block transpose (R280 to R289). -/
theorem transformWords : Obligations.TransformWords := by
  refine ⟨fun f s t x hw => ⟨fun hi hobj => ?fftset, fun hi hobj => ?shtl⟩,
    fun f s => ⟨fun hi hrings => ?fftrun, fun hi hrings => ?spmul, fun hi hr => ?blkt⟩⟩
  case fftset =>
    refine ⟨fun hp => ?good, fun o hp => ?bad⟩
    all_goals
      refine (issue_eq hi).trans ?_
      simp only [bind_eq, hw, hobj, hp]
    case good => simp only [modS_eq, finishFlow_ownSignal]
    case bad => simp only [trap_eq, finishFlow_trap]
  case shtl =>
    dsimp only
    intro hrings hargs hcp hcf hpop hmode
    have hz : ¬ (¬ f.sub.getLsbD 1 = true ∧ ((took f.b t).tile (tileNum f.a)).mode ≠ (legendreOf x).mode) :=
      fun ⟨h1, h2⟩ => hmode.elim h1 h2
    refine (issue_eq hi).trans ?_
    simp only [bind_eq, hw, hobj, hrings, readSrc_eq, getS_eq, hargs, if_neg hz, hcp, hcf, raise_eq, modTile_eq, raiseS_tile]
    rw [popRings_eq _ (((SameWrites.raiseS _ _).trans (SameWrites.putTile _ _ _)).mayPop hpop)]
    simp only [finishFlow_ownSignal]
  case fftrun =>
    dsimp only
    intro x hx hargs hcl hpop
    refine (issue_eq hi).trans ?_
    simp only [bind_eq, hrings, readSrc_eq, getS_eq, hx, hargs, hcl, raise_eq, modS_eq]
    rw [popRings_eq _ (((SameWrites.raiseS _ _).trans (SameWrites.lsWrites _ _ _)).mayPop hpop)]
    simp only [pure_eq, finishFlow_seq]
  case spmul =>
    dsimp only
    intro hargs hca hcb hcc hpop
    refine (issue_eq hi).trans ?_
    simp only [bind_eq, hrings, readSrc_eq, getS_eq, hargs, hca, hcb, hcc, raise_eq, modS_eq]
    rw [popRings_eq _ (((SameWrites.raiseS _ _).trans (SameWrites.lsWrite _ _ _)).mayPop hpop)]
    simp only [pure_eq, finishFlow_seq] <;> rfl
  case blkt =>
    dsimp only
    intro ha hb hc1 hc2 hargs hcl
    have hc := Bool.and_eq_true_iff.2 ⟨decide_eq_true hc1, decide_eq_true hc2⟩
    refine ⟨fun h => ?apart, fun hne hov => ?overlap⟩
    all_goals
      refine (issue_eq hi).trans ?_
      simp only [bind_eq, gate_eq hr, readSrc_eq, getS_eq, ensureValue_ok (beq_iff_eq.2 ha), ensureValue_ok (beq_iff_eq.2 hb),
        ensureValue_ok hc, hargs, hcl]
    case apart => rw [if_neg h]; rfl
    case overlap => simp only [if_pos (And.intro hne hov), bind_eq, freeBytes_eq, modS_eq, pure_eq, finishFlow_seq]

end Sys2Proof.Machine
end

section
/-! SUPPORT. What stores, atomics and remote stores find before their effect, and their words; with them O33 to O35. -/

namespace Sys2Proof.Machine

theorem gateRelease_eq {scope : BitVec 2} {s : State} (h : writesPerformed s.task scope = true) : gateRelease scope s = .ok ((), s) := by
  simp [gateRelease, h]

theorem gateAtomic_eq {f : MForm} {s : State} (hlog : s.task.logWait = []) (hrel : f.ord.getLsbD 1 = true → writesPerformed s.task f.scope = true) :
    gateAtomic f s = .ok ((), s) := by
  simp only [gateAtomic, bind_eq, gateLog_eq hlog]
  split
  · next h => exact gateRelease_eq (hrel h)
  · rfl

theorem acquireForm_eq (f : MForm) (s : State) : acquireForm f s = .ok ((), if f.ord.getLsbD 0 then acquireAt f.scope s else s) := by
  simp only [acquireForm]
  split <;> rfl

/-- What precedes a scalar store's effect: its operands, its hold and its release (R116, R292). -/
theorem storeBody_eq {op : BitVec 8} {rel : Bool} {f : MForm} {s : State} (hr : Ready [f.base, f.index, f.d] [] s)
    (hlog : s.task.logWait = []) (hrel : rel = true → writesPerformed s.task f.scope = true) :
    storeBody op rel f s = (do
      let bs := natBytes (sizeBytes f.size) ((accessT f s).peekSrc f.d).toNat
      if f.lsel then
        lsCheck .noStash (accessVa f s).toNat bs.length
        lsStore (accessVa f s).toNat bs
      else
        let ia ← windowIa f.win.toNat (accessVa f s).toNat bs.length .w .plain none
        storeMem op f false (f.hint == 1#3) [((accessVa f s).toNat, ia, bs)]
      pure Flow.seq) (took f.d (accessT f s)) := by
  simp only [storeBody, bind_eq, gate_eq hr, gateLog_eq hlog]
  cases rel
  case false => simp only [Bool.false_eq_true, if_false, bind_eq, readAddr_eq, readSrc_eq]
  case true => simp only [if_true, bind_eq, gateRelease_eq (hrel rfl), readAddr_eq, readSrc_eq]

theorem storeBody_ls {op : BitVec 8} {rel : Bool} {f : MForm} {s u : State} (hr : Ready [f.base, f.index, f.d] [] s)
    (hlog : s.task.logWait = []) (hrel : rel = true → writesPerformed s.task f.scope = true) (hl : f.lsel = true)
    (hc : lsCheck .noStash (accessVa f s).toNat (natBytes (sizeBytes f.size) ((accessT f s).peekSrc f.d).toNat).length
      (took f.d (accessT f s)) = .ok ((), took f.d (accessT f s)))
    (hs : lsStore (accessVa f s).toNat (natBytes (sizeBytes f.size) ((accessT f s).peekSrc f.d).toNat) (took f.d (accessT f s)) = .ok ((), u)) :
    storeBody op rel f s = .ok (.seq, u) := by
  rw [storeBody_eq hr hlog hrel, if_pos hl]
  simp only [bind_eq, hc, hs, pure_eq]

theorem storeBody_mem {op : BitVec 8} {rel : Bool} {f : MForm} {s u v : State} {ia : Nat} (hr : Ready [f.base, f.index, f.d] [] s)
    (hlog : s.task.logWait = []) (hrel : rel = true → writesPerformed s.task f.scope = true) (hl : f.lsel = false)
    (hw : windowIa f.win.toNat (accessVa f s).toNat (natBytes (sizeBytes f.size) ((accessT f s).peekSrc f.d).toNat).length .w .plain none
      (took f.d (accessT f s)) = .ok (ia, u))
    (hs : storeMem op f false (f.hint == 1#3) [((accessVa f s).toNat, ia, natBytes (sizeBytes f.size) ((accessT f s).peekSrc f.d).toNat)] u
      = .ok ((), v)) :
    storeBody op rel f s = .ok (.seq, v) := by
  rw [storeBody_eq hr hlog hrel, if_neg (Bool.eq_false_iff.1 hl)]
  simp only [bind_eq, hw, hs, pure_eq]

/-- A vector store of a byte range that lies in the register (R293). -/
theorem storeRange_eq {op : BitVec 8} {drop : Bool} {f : MForm} {s t : State} {b x : BitVec 64} {v : BitVec 2048} {first len va : Nat}
    (hr : Ready [f.base, f.d] [] s) (hlog : s.task.logWait = []) (hb : s.peekSrc f.base = b) (hx : (took f.base s).peekSrc f.index = x)
    (hv : readVSrc f.d (took f.index (took f.base s)) = .ok (v, t)) (hrange : byteRange x = some (first, len))
    (hva : (mBase f b).toNat + first = va) :
    storeRange op drop f s = (do
      if f.lsel then
        lsCheck .noStash va len
        lsStore va (((bytesOfVec v).drop first).take len)
      else
        let ia ← windowIa f.win.toNat (va % 2 ^ 64) len .w .plain none
        storeMem op f false drop [(va % 2 ^ 64, ia, ((bytesOfVec v).drop first).take len)]
      pure Flow.seq) t := by
  subst hb hx hva
  simp only [storeRange, bind_eq, gate_eq hr]
  cases hl : f.lsel
  case true => simp only [not_true_eq_false, if_false, if_true, pure_eq, bind_eq, readSrc_eq, hv, hrange]
  case false =>
    simp only [Bool.false_eq_true, not_false_eq_true, if_false, if_true, gateLog_eq hlog, bind_eq, readSrc_eq, hv, hrange]

theorem storeRange_ls {op : BitVec 8} {drop : Bool} {f : MForm} {s t u : State} {b x : BitVec 64} {v : BitVec 2048} {first len va : Nat}
    (hr : Ready [f.base, f.d] [] s) (hlog : s.task.logWait = []) (hb : s.peekSrc f.base = b) (hx : (took f.base s).peekSrc f.index = x)
    (hv : readVSrc f.d (took f.index (took f.base s)) = .ok (v, t)) (hrange : byteRange x = some (first, len))
    (hva : (mBase f b).toNat + first = va) (hl : f.lsel = true)
    (hc : lsCheck .noStash va len t = .ok ((), t)) (hs : lsStore va (((bytesOfVec v).drop first).take len) t = .ok ((), u)) :
    storeRange op drop f s = .ok (.seq, u) := by
  rw [storeRange_eq hr hlog hb hx hv hrange hva, if_pos hl]
  simp only [bind_eq, hc, hs, pure_eq]

theorem storeRange_mem {op : BitVec 8} {drop : Bool} {f : MForm} {s t u w : State} {b x : BitVec 64} {v : BitVec 2048} {first len va ia : Nat}
    (hr : Ready [f.base, f.d] [] s) (hlog : s.task.logWait = []) (hb : s.peekSrc f.base = b) (hx : (took f.base s).peekSrc f.index = x)
    (hv : readVSrc f.d (took f.index (took f.base s)) = .ok (v, t)) (hrange : byteRange x = some (first, len))
    (hva : (mBase f b).toNat + first = va) (hl : f.lsel = false)
    (hw : windowIa f.win.toNat (va % 2 ^ 64) len .w .plain none t = .ok (ia, u))
    (hs : storeMem op f false drop [(va % 2 ^ 64, ia, ((bytesOfVec v).drop first).take len)] u = .ok ((), w)) :
    storeRange op drop f s = .ok (.seq, w) := by
  rw [storeRange_eq hr hlog hb hx hv hrange hva, if_neg (Bool.eq_false_iff.1 hl)]
  simp only [bind_eq, hw, hs, pure_eq]

/-- Settles O33: the scalar stores by their address and bytes, the vector stores by their byte range, ZERO, and the
element stores by their list of addresses (R292 to R296). -/
theorem storeWords : Obligations.StoreWords := by
  refine ⟨fun f s hlog => ?plain, fun f s u hlog hr => ⟨fun hi hs => ?stvs, fun hi hc hcl hs => ?scat⟩⟩
  case plain =>
    dsimp only
    refine ⟨fun hi hr hrel => ?st, fun hi hr hrel => ?strel, fun hi hr first len hb => ?stv, fun hi hr first len hb => ?stnt,
      fun hi hr first len hb => ?stls, fun hi hr hva hn h1 h2 ia u v hw hs => ?zero⟩
    case st | strel =>
      refine ⟨fun u hl hc hs => (issue_eq hi).trans ?_, fun ia u v hl hw hs => (issue_eq hi).trans ?_⟩
      · rw [storeBody_ls hr hlog hrel hl hc hs, finishFlow_seq]
      · rw [storeBody_mem hr hlog hrel hl hw hs, finishFlow_seq]
    case stv | stnt | stls =>
      refine ⟨fun u hl hc hs => (issue_eq hi).trans ?_, fun ia u v hl hw hs => (issue_eq hi).trans ?_⟩
      · rw [storeRange_ls hr hlog rfl rfl (readVSrc_eq _ _) hb rfl hl hc hs, finishFlow_seq]
      · rw [storeRange_mem hr hlog rfl rfl (readVSrc_eq _ _) hb rfl hl hw hs, finishFlow_seq]
    case zero =>
      have hlen := Bool.and_eq_true_iff.2 ⟨Bool.and_eq_true_iff.2 ⟨beq_iff_eq.2 hn, decide_eq_true h1⟩, decide_eq_true h2⟩
      refine (issue_eq hi).trans ?_
      simp only [bind_eq, gate_eq hr, gateLog_eq hlog, readSrc_eq, ensureValue_ok (beq_iff_eq.2 hva), ensureValue_ok hlen, hw, hs,
        pure_eq, finishFlow_seq]
  case stvs =>
    refine (issue_eq hi).trans ?_
    cases hv : f.d
    all_goals
      simp only [hv] at hr hs
      simp only [bind_eq, gate_eq hr, gateLog_eq hlog, readSrc_eq, readVSrc_eq, hs, pure_eq, finishFlow_seq]
  case scat =>
    refine (issue_eq hi).trans ?_
    cases hv : f.d
    all_goals
      simp only [hv] at hr hc hcl hs
      simp only [bind_eq, gate_eq hr, gateLog_eq hlog, readSrc_eq, readVSrc_eq, getS_eq, hc, hcl, hs, pure_eq, finishFlow_seq]

/-- What an integer atomic stores, by its operation (Table 11.2). -/
theorem atomicNew_table (n old x e : Nat) :
    atomicNew 0 n old x e = (old + x) % 2 ^ (8 * n)
    ∧ atomicNew 1 n old x e = (old &&& x) % 2 ^ (8 * n)
    ∧ atomicNew 2 n old x e = (old ||| x) % 2 ^ (8 * n)
    ∧ atomicNew 3 n old x e = (old ^^^ x) % 2 ^ (8 * n)
    ∧ sxInt (8 * n) (atomicNew 4 n old x e) = min (sxInt (8 * n) (old % 2 ^ (8 * n))) (sxInt (8 * n) (x % 2 ^ (8 * n)))
    ∧ sxInt (8 * n) (atomicNew 5 n old x e) = max (sxInt (8 * n) (old % 2 ^ (8 * n))) (sxInt (8 * n) (x % 2 ^ (8 * n)))
    ∧ atomicNew 6 n old x e = min (old % 2 ^ (8 * n)) (x % 2 ^ (8 * n))
    ∧ atomicNew 7 n old x e = max (old % 2 ^ (8 * n)) (x % 2 ^ (8 * n))
    ∧ atomicNew 8 n old x e = x % 2 ^ (8 * n)
    ∧ atomicNew 9 n old x e = (if old % 2 ^ (8 * n) = e % 2 ^ (8 * n) then x else old) % 2 ^ (8 * n) := by
  refine ⟨(Nat.add_mod _ _ _).symm, (Nat.and_mod_two_pow ..).symm, (Nat.or_mod_two_pow ..).symm, (Nat.xor_mod_two_pow ..).symm,
    ?smin, ?smax, rfl, rfl, rfl, (apply_ite (· % 2 ^ (8 * n)) _ _ _).symm⟩
  case smin => exact (apply_ite (sxInt (8 * n)) _ _ _).trans (min_def _ _).symm
  case smax =>
    rw [max_comm]
    exact (apply_ite (sxInt (8 * n)) _ _ _).trans (max_def _ _).symm

/-- Settles O34: the atomics by the IAs of their elements and the replies, and the table of their operations (R297 to R299). -/
theorem atomicWords : Obligations.AtomicWords := by
  refine ⟨fun f s hlog hrel => ?words, fun n old x e _ => atomicNew_table n old x e⟩
  dsimp only
  refine ⟨fun hi hr ia u x w hia hrep => ?amo, fun hi hr ia u w hia hm => ?red,
    fun ias u hr => ⟨fun hi hias halign hc olds w x hm hs => ?amov, fun hi hias w hm => ?redv⟩⟩
  all_goals
    refine (issue_eq hi).trans ?_
    simp only [bind_eq, gate_eq hr, gateAtomic_eq hlog hrel, readSrc_eq, readVSrc_eq, getS_eq]
  case amo =>
    cases hv : f.d
    all_goals
      simp only [hv] at hrep
      simp only [hia, hrep, writeDst_eq, acquireForm_eq, pure_eq, finishFlow_seq]
  case red => simp only [hia, hm, pure_eq, finishFlow_seq]
  case amov =>
    cases hv : f.index
    all_goals
      simp only [hv] at hias halign hc hm hs
      simp only [hias, ensure_ok (beq_iff_eq.2 halign), hc, hm, hs, acquireForm_eq, pure_eq, finishFlow_seq]
  case redv =>
    cases hv : f.index
    all_goals
      simp only [hv] at hias hm
      simp only [hias, hm, pure_eq, finishFlow_seq]

end Sys2Proof.Machine
end

section
/-! SUPPORT. RSTV, RRPUT and SFLUSH: O35. -/

namespace Sys2Proof.Machine

/-- The values a word that may wait has read or kept, given by name. -/
theorem heldSources_values {os : List Operand} {s : State} {vs : List (BitVec 64)} (h : s.strm.srcs = none → Ready os [] s)
    (hvs : (keptSources os s).1 = vs) : heldSources os s = .ok (vs, (keptSources os s).2) := by
  rw [heldSources_eq h, ← hvs]

/-- A held word retires once none of the writes it waits for is open (R118). -/
theorem finishFlow_awaited (op : BitVec 8) (s0 s : State) (rest : List Nat) (w : Wait) :
    finishFlow op s0 (.ok (if rest.isEmpty = true then .seq else .hold w, s)) = .next (if rest = [] then retire s else setWait w s) := by
  cases rest <;> rfl

/-- Settles O35: RSTV and RRPUT by what enters the send queue, SFLUSH by the lines it writes back (R300 to R302). -/
theorem remoteStoreWords : Obligations.RemoteStoreWords := by
  refine ⟨fun f s hi hr hlog hrel hlen hoff => ?rstv, fun f s hi => ?rrput, fun f s hi => ?sflush⟩
  case rstv =>
    dsimp only
    intro hva hhi hlo hal ia u hw
    have hx := Bool.and_eq_true_iff.2 ⟨Bool.and_eq_true_iff.2 ⟨beq_iff_eq.2 hhi, beq_iff_eq.2 hlo⟩, beq_iff_eq.2 hal⟩
    refine (issue_eq hi).trans ?_
    simp only [bind_eq, gate_eq hr, gateAtomic_eq hlog hrel, getS_eq, if_neg (Nat.not_le.2 hlen), pure_eq, gateReserve_one hoff, readSrc_eq,
      readVSrc_eq, ensureValue_ok (beq_iff_eq.2 hva), ensureValue_ok hx, hw, modS_eq, finishFlow_seq] <;> rfl
  case rrput =>
    refine ⟨fun hw hq => ?done, fun hw hq => ?still, fun hw hready va vb t ia x hvs hlog hgate hlen hoff => ?first⟩
    case done =>
      refine (issue_eq hi).trans ?_
      simp only [bind_eq, getS_eq, if_pos hw, hq, ne_eq, not_true_eq_false, if_false, bind_eq, modS_eq, pure_eq, finishFlow_seq]
    case still =>
      refine (issue_eq hi).trans ?_
      simp only [bind_eq, getS_eq, if_pos hw, if_pos hq, pure_eq, finishFlow_hold]
    case first =>
      dsimp only
      intro h31 h53 hlen0 hal hname hc hrank hen hfit hcl hperf
      have hb := Bool.and_eq_true_iff.2 ⟨Bool.and_eq_true_iff.2 ⟨Bool.and_eq_true_iff.2 ⟨beq_iff_eq.2 h31, beq_iff_eq.2 h53⟩,
        bne_iff_ne.2 hlen0⟩, beq_iff_eq.2 hal⟩
      refine (issue_eq hi).trans ?_
      simp only [bind_eq, getS_eq, if_neg hw, heldSources_values hready hvs, gateLog_eq hlog, hgate, if_neg (Nat.not_le.2 hlen),
        gateReserve_one hoff, List.headD_cons, List.getD_cons_succ, List.getD_cons_zero]
      simp only [ensureValue_ok hb, objectIa_eq hname, hc, hrank, bind_eq, ensure_ok hen, ensure_ok (decide_eq_true hfit), hcl, hperf,
        not_true_eq_false, if_false, modS_eq, holdServed, finishFlow_hold]
  case sflush =>
    refine ⟨fun hw => ?held, fun hw hready va vb vc hvs => ?first⟩
    case held =>
      refine (issue_eq hi).trans ?_
      simp only [bind_eq, getS_eq, if_pos hw, awaitWrites_eq, pure_eq, finishFlow_awaited]
    case first =>
      dsimp only
      intro m hm hlo hhi ids u hwb
      refine (issue_eq hi).trans ?_
      simp only [bind_eq, getS_eq, hw, Bool.false_eq_true, if_false, heldSources_values hready hvs, List.headD_cons, List.getD_cons_succ,
        List.getD_cons_zero, hm, ensureValue_ok (decide_eq_true hlo), ensureValue_ok (decide_eq_true hhi), hwb, awaitWrites_eq, pure_eq,
        finishFlow_awaited]

end Sys2Proof.Machine
end

section
/-! SUPPORT. The sketch words, sketch counters, and the update stage; with them O36. -/

namespace Sys2Proof.Machine

/-- A loop over a list runs its body for every element in order. -/
theorem forIn_eq_forM {α : Type} (l : List α) (g : α → M Unit) :
    (forIn l PUnit.unit (fun p _ => do g p; pure (ForInStep.yield PUnit.unit)) : M PUnit) = l.forM g := by
  induction l with
  | nil => rfl
  | cons x l ih => simp only [List.forIn_cons, bind_assoc, pure_bind, ih]; rfl

/-- A counter's new value and whether it saturated (R304, R306). -/
theorem satCounter_spec (a b : Int) :
    (satCounter a b).1 = max (-(2 ^ 31)) (min (2 ^ 31 - 1) (a + b))
    ∧ ((satCounter a b).2 = true ↔ a + b < -(2 ^ 31) ∨ 2 ^ 31 ≤ a + b) := by
  simp only [satCounter, satInt, bne_iff_ne]
  split
  · omega
  · split <;> omega

/-- A store to a local store without mappings replaces its bytes (R103). -/
theorem lsStore_plain {off : Nat} {bs : List (BitVec 8)} {s : State} (h : s.task.stash = []) :
    lsStore off bs s = .ok ((), modCur (fun t => t.lsWrite off bs) s) := by
  have ht : s.task.stashTouched off bs.length = [] := by simp [Task.stashTouched, h]
  simp only [lsStore, bind_eq, getS_eq, ht, List.mapM_nil, pure_eq, modS_eq]

/-- Settles O36: the sketch words by their elements and updates, the saturating counter, UOP and UCVT by the elements of
their operands, and what the update stage leaves at D (R303 to R311). -/
theorem sketchWords : Obligations.SketchWords := by
  refine ⟨⟨fun f s t x hw => ?sketch, fun f s x hi hr hobj => ?skstat⟩, fun a b _ _ => satCounter_spec a b,
    fun f s => ⟨?uop, ?ucvt⟩, fun bad d z rs s hst => ?upd⟩
  case sketch =>
    dsimp only
    refine ⟨fun hi hr hobj off idx u v he hcl hfor => ?skupd, fun hi hr hobj off idx u es v he hm => ?skqry,
      fun hi hr hobj ha y cs u v hobj' hg hread hfor => ?skadd, fun hi hobj tags u hwr => ?skclr⟩
    all_goals
      refine (issue_eq hi).trans ?_
    case skupd => simp only [bind_eq, gate_eq hr, hw, hobj, he, hcl, getS_eq, forIn_eq_forM, hfor, sketchSignal_eq, pure_eq, finishFlow_seq]
    case skqry => simp only [bind_eq, gate_eq hr, hw, hobj, he, hm, raise_eq, modS_eq, finishFlow_ownSignal, flagsOf]
    case skadd =>
      simp only [bind_eq, gate_eq hr, hw, hobj, readSrc_eq, hobj', ensureValue_ok (beq_iff_eq.2 ha), ensure_ok (beq_iff_eq.2 hg), getS_eq, hread,
        forIn_eq_forM, hfor]
      cases bitN y 127 <;> rfl
    case skclr => simp only [bind_eq, hw, hobj, getS_eq, hwr, modS_eq, sketchSignal_eq, pure_eq, finishFlow_seq]
  case skstat =>
    refine (issue_eq hi).trans ?_
    simp only [bind_eq, gate_eq hr, hobj, writeDst_eq]
    split <;> rfl
  case uop =>
    dsimp only
    intro hi hr hd ha hb hc hls as bs cs u v w hua hub huc y hy
    have himp : ∀ {p q : Bool}, (p = true → q = true) → (!p || q) = true := by decide
    refine (issue_eq hi).trans ?_
    simp only [bind_eq, gate_eq hr, getS_eq, readSrc_eq, ensureValue_ok (beq_iff_eq.2 hd), ensureValue_ok (beq_iff_eq.2 ha),
      ensureValue_ok (himp (fun h => beq_iff_eq.2 (hb h))), ensureValue_ok (himp (fun h => beq_iff_eq.2 (hc h))), hls, hua, hub, huc,
      advanceSeed_eq, hy, pure_eq, finishFlow_seq]
  case ucvt =>
    dsimp only
    intro hi hd ha hls bs u y hl hy
    refine (issue_eq hi).trans ?_
    simp only [bind_eq, getS_eq, readSrc_eq, ensureValue_ok (beq_iff_eq.2 hd), ensureValue_ok (beq_iff_eq.2 ha), hls, hl,
      advanceSeed_eq, hy, pure_eq, finishFlow_seq]
  case upd =>
    cases bad
    case false =>
      have hst' : (raiseS (flagsOf rs) s).task.stash = [] := by simp [raiseS, hst]
      simp only [updWrite, Bool.false_eq_true, if_false, bind_eq, raise_eq]
      exact lsStore_plain hst'
    case true =>
      simp only [updWrite, if_true, bind_eq, freeBytes_eq]
      exact lsStore_plain hst

end Sys2Proof.Machine
end

section
/-! SUPPORT. NFCHK, SCOMMIT and a request at its gate: O37. -/

namespace Sys2Proof.Machine

/-- How SCOMMIT retires with a reply (R314). -/
theorem finishFlow_commit (f : EForm) (r : BitVec 64) (s0 s : State) :
    finishFlow 0xE0 s0 (finishCommit f r s) =
      if r.toNat % 4 = 1 then signalled 0xE0 f.ssem f.sinc.toNat (acquireAt 3#2 (put f.b r (modStrm (fun r => { r with semw := none }) s)))
      else .next (retire (acquireAt 3#2 (put f.b r (modStrm (fun r => { r with semw := none }) s)))) := by
  simp only [finishCommit, bind_eq, modS_eq, writeDst_eq]
  split
  · exact finishFlow_ownSignal ..
  · rfl

/-- How SCOMMIT goes on being held: its served wait is kept (R314). -/
theorem finishFlow_heldCommit (w : Option SemWait) (s0 s : State) :
    finishFlow 0xE0 s0 ((if s.strm.wait = some .gate then pure (Flow.hold .gate) else holdServed w .gate : M Flow) s) =
      .next (setWait .gate (if s.strm.wait = some .gate then s
        else modStrm (fun r => { r with semw := w.map (fun w => { w with granted := true }) }) s)) := by
  split <;> rfl

/-- Settles O37: NFCHK by its report, SCOMMIT by what its gate answers or by its held request's reply (R313, R314). -/
theorem gateWords : Obligations.GateWords := by
  refine ⟨fun f s t v w ia bs hi hr hlog hw hperf => ?nfchk, fun f s va vb hi hready hvs => ?scommit,
    fun by_ u r0 r1 r2 r3 r4 r5 tid ia step w0 w1 b0 b1 size hrec h0 h1 h2 h3 h4 hn hb0 hb1 hsz => ?request⟩
  case nfchk =>
    dsimp only
    intro hva h21 h52 h61 hn hty hname hc hl hrep
    have hb := Bool.and_eq_true_iff.2 ⟨Bool.and_eq_true_iff.2 ⟨Bool.and_eq_true_iff.2 ⟨Bool.and_eq_true_iff.2
      ⟨beq_iff_eq.2 h21, beq_iff_eq.2 h52⟩, beq_iff_eq.2 h61⟩, bne_iff_ne.2 hn⟩, hty⟩
    refine (issue_eq hi).trans ?_
    simp only [bind_eq, gate_eq hr, gateLog_eq hlog, hw, gateRelease_eq hperf, readSrc_eq, ensureValue_ok (beq_iff_eq.2 hva),
      ensureValue_ok hb, objectIa_eq hname, hc, hl, getS_eq, hrep, modS_eq, finishFlow_ownSignal]
  case scommit =>
    dsimp only
    refine ⟨fun c hc => ⟨fun hrep => ?held, fun r hrep => ?replied⟩, fun t ia answer x hc hw hname hreq =>
      ⟨fun r ha => ?atOnce, fun c ha hx htid => ⟨fun hrep => ?nowHeld, fun r hrep => ?decided⟩⟩⟩
    all_goals
      refine (issue_eq hi).trans ?_
      simp only [bind_eq, heldSources_values hready hvs, getS_eq, hc]
    case held => simp only [pure_eq, hc, hrep, finishFlow_heldCommit]
    case replied => simp only [pure_eq, hc, hrep, bind_eq, modS_eq, finishFlow_commit]
    all_goals
      simp only [hw, List.headD_cons, List.getD_cons_succ, List.getD_cons_zero, objectIa_eq hname, hreq, ha]
    case atOnce => simp only [finishFlow_commit]
    case nowHeld => simp only [htid, hx, hrep, finishFlow_heldCommit]
    case decided => simp only [htid, hx, hrep, bind_eq, modS_eq, finishFlow_commit]
  case request =>
    dsimp only
    have hok := Bool.and_eq_true_iff.2 ⟨Bool.and_eq_true_iff.2 ⟨Bool.and_eq_true_iff.2
      ⟨bne_iff_ne.2 hn, beq_iff_eq.2 hb0⟩, beq_iff_eq.2 hb1⟩, beq_iff_eq.2 hsz⟩
    refine ⟨fun hgen => ?past, fun hgen hne => ?ahead⟩
    all_goals
      simp only [gateRequest, bind_eq, hrec, h0, h1, h2, h3, h4, ensureValue_ok hok]
    case past => simp only [if_pos hgen, pure_eq]
    case ahead => simp only [if_neg hgen, if_pos hne, pure_eq]

end Sys2Proof.Machine
end

section
/-! SUPPORT. A task of this package in the list of every task, and how tasks freeze; with them O39. -/

namespace Sys2Proof.Machine

theorem getTask?_own {s : State} {tid : Nat} {t : Task} (h : ownTask? s tid = some t) : getTask? s tid = some t := by
  simp only [getTask?, h, Option.some_or]

theorem hasTask_own {s : State} {tid : Nat} {t : Task} (h : ownTask? s tid = some t) : s.toPack.hasTask tid = true := by
  simp only [ownTask?] at h
  simp only [Pack.hasTask, Pack.tasks, List.any_eq_true, beq_iff_eq]
  split at h
  · next hc => exact ⟨s.task, by simp [hc.2], hc.1⟩
  · refine ⟨t, ?_, by simpa using List.find?_some h⟩
    have hm := List.mem_of_find?_eq_some h
    split
    · exact hm
    · exact List.mem_cons_of_mem _ hm

/-- What an operation does at the package of a task of this package. -/
theorem atTask_own {s : State} {tid : Nat} {t : Task} (f : State → State) (h : ownTask? s tid = some t) : atTask tid f s = f s := by
  simp only [atTask, atPack, hasTask_own h, if_true]

/-- Settles O39: the freeze and its kept context, the resumption and the release of a frozen task, and a frozen-job slot
(R400 to R403, R457). -/
theorem freezingTasks : Obligations.FreezingTasks := by
  refine ⟨⟨fun st code op info s => ?trap, fun op rest s => rfl⟩, fun s t f n ht hres hcode hentry => ?freeze,
    fun s n t ctx he ht hfail hrun => ?resume, fun s n tid ctx b he => ?release, fun s die j => rfl⟩
  case trap =>
    dsimp only
    intro hno
    have htid := (refundWait_keeps { s with cur := st }).2.1
    have hcur := (refundWait_keeps { s with cur := st }).1
    have hc : ¬ ((refundWait { s with cur := st }).strm.trapsec.getLsbD 0 = true ∧ code ≠ fcCircuitFail) := by
      rintro ⟨h1, h2⟩
      exact hno.elim (fun h => Bool.noConfusion (h.symm.trans h1)) h2
    refine congrArg Host.Outcome.next ?_
    simp only [withStream, takeTrap, takeTrapAt, if_neg hc, htid, hcur]
    rfl
  case freeze =>
    dsimp only
    refine congrArg Host.Outcome.next ?_
    have hb : (f.code == fcBreakpoint) = true := beq_iff_eq.2 hcode
    simp only [getTask?_own ht, hres, true_or, if_true]
    refine (atTask_own _ ht).trans ?_
    simp only [freezeHere, ht, hb, if_true]
    generalize hfree : findBelow _ 16 = entry
    obtain rfl : entry = some n := hfree.symm.trans hentry
    cases f.st
    all_goals simp only [Option.isSome_some]
  case resume =>
    refine congrArg Host.Outcome.next ?_
    have hg : ¬ ((getSlot s t.slot).failed = true ∨ (getSlot s t.slot).running = none) := by simp [hfail, hrun]
    have ht' : getTask? { s with frozen := s.frozen.setIfInBounds n.val ⟨0, false, false, 0⟩ } t.tid = some t := ht
    have hg' : ¬ ((getSlot { s with frozen := s.frozen.setIfInBounds n.val ⟨0, false, false, 0⟩ } t.slot).failed = true
      ∨ (getSlot { s with frozen := s.frozen.setIfInBounds n.val ⟨0, false, false, 0⟩ } t.slot).running = none) := hg
    simp only [resumeFrozen, he, and_self, if_true, ht', if_neg hg']
  case release =>
    dsimp only
    refine congrArg Host.Outcome.next ?_
    simp only [releaseFrozen, he, if_true]

end Sys2Proof.Machine
end

section
/-! SUPPORT. The life of a task: O40. -/

namespace Sys2Proof.Machine

/-- Settles O40: a task's launch, the start of the tile at the head of a core's queue, and a task's end (R20 to R22, R352). -/
theorem taskLife : Obligations.TaskLife := by
  refine ⟨fun core slot node tile step patch n s u t h => ?launch, fun core slot node tile n s u t hq hn hidle hl => ?start,
    fun s u v tid t t' ns ht => ⟨fun hend => ?early, fun hend hwb ht' => ⟨fun hend' => ?later, fun hend' hg => ?ended⟩⟩⟩
  case launch =>
    simp only [launchTask] at h
    obtain ⟨h0, s0, -, h⟩ := ok_bind h
    obtain ⟨s1, s2, -, h⟩ := ok_bind h
    obtain ⟨ol, s3, -, h⟩ := ok_bind h
    obtain ⟨sl, s4, -, h⟩ := ok_bind h
    obtain ⟨rfl, rfl⟩ := Prod.mk.inj (Except.ok.inj h)
    refine ⟨fun st => ?_, rfl, rfl, rfl, rfl, rfl, rfl, rfl, rfl, rfl, rfl⟩
    cases st <;> exact ⟨rfl, rfl, rfl, rfl, rfl, rfl, rfl, rfl⟩
  case start =>
    dsimp only
    simp only [exec, execTaskStart, hq, hn, hidle, not_true_eq_false, if_false, bind_eq, hl, modS_eq]
    cases badRing t <;> rfl
  case early => simp only [exec, execTaskEnd, ht, hend, Bool.false_eq_true, not_false_eq_true, if_true]
  case later => simp only [exec, execTaskEnd, ht, hend, not_true_eq_false, if_false, bind_eq, hwb, getS_eq, ht', hend', Bool.false_eq_true, pure_eq, finishEvent]
  case ended => simp only [exec, execTaskEnd, ht, hend, hend', not_true_eq_false, if_true, if_false, bind_eq, hwb, getS_eq, ht', hg, modS_eq, finishEvent]

end Sys2Proof.Machine
end

section
/-! SUPPORT. Pre-emption, dealing and resumption: O41. -/

namespace Sys2Proof.Machine

/-- A context taken back from its area leaves the task's name, status and poison (R49). -/
theorem takeContext_front {s : State} (h : s.task.status ≠ .vacant) :
    (takeContext s.task.tid s).task.tid = s.task.tid ∧ (takeContext s.task.tid s).task.status = s.task.status
    ∧ (takeContext s.task.tid s).task.poisoned = s.task.poisoned := by
  have hown : ownTask? s s.task.tid = some s.task := by simp [ownTask?, h]
  unfold takeContext
  rw [hown, Option.bind_some]
  cases s.task.area with
  | none => exact ⟨rfl, rfl, rfl⟩
  | some n =>
    dsimp only
    rw [modTask_cur s _ h, modCur_task]
    simp only [Task.fromArea, and_self]

/-- The task as it runs on a core again (R49). -/
def restoredOn (core : Nat) (s : State) (t : Task) : Task := { t with status := .resident, core := core, speed := BitVec.ofNat 64 (s.speedOf core) }

/-- A saved task in front, not poisoned, whose context has been taken back (R49). -/
theorem resumeTask_front {s v : State} {core tid : Nat} (hv : takeContext tid s = v) (htid : v.task.tid = tid) (h : v.task.status ≠ .vacant)
    (hp : v.task.poisoned = false) :
    resumeTask tid core s = modTask tid (fun t => { t with savedQueue := [], savedProgQueue := [] })
      (requeueJobs (restoredOn core v v.task) (l1Drop core { modCur (restoredOn core v) v with preemptFail := false })) := by
  subst htid
  have hget : getTask? (modCur (restoredOn core v) v) v.task.tid = some (restoredOn core v v.task) :=
    getTask?_cur (s := modCur (restoredOn core v) v) (fun h => TaskStatus.noConfusion h)
  have hres : resumeTask v.task.tid core s =
      (match getTask? (modTask v.task.tid (restoredOn core v) v) v.task.tid with
      | none => modTask v.task.tid (restoredOn core v) v
      | some t =>
        let s := l1Drop core { modTask v.task.tid (restoredOn core v) v with preemptFail := false }
        if t.poisoned then freezeTask v.task.tid ⟨fcDataPoison, 0, none, 0, 0, 0⟩ 0 0 s
        else modTask v.task.tid (fun t => { t with savedQueue := [], savedProgQueue := [] }) (requeueJobs t s)) := by
    rw [resumeTask, hv]
    rfl
  rw [hres, modTask_cur v _ h, hget]
  dsimp only
  rw [show (restoredOn core v v.task).poisoned = false from hp, if_neg Bool.false_ne_true]

/-- Settles O41: a due pre-emption, the distributor's pick, and a saved task's resumption (R47 to R49, R356 to R359). -/
theorem placingTasks : Obligations.PlacingTasks := by
  refine ⟨fun s slot node t hdue => ?preempt, fun s slot node core n n' item cur hnext htake hpick => ?pick,
    fun s core slot node tid hq hidle htid hst hp => ?resume⟩
  case preempt =>
    dsimp only
    refine ⟨fun hd => ?delayed, fun hd ha => ?saved, fun hd ha => ?kept⟩
    all_goals
      refine congrArg Host.Outcome.next ?_
      simp only [hdue]
    case delayed => exact if_pos hd
    case saved => exact (if_neg (Bool.eq_false_iff.1 hd)).trans (if_pos ha)
    case kept => exact (if_neg (Bool.eq_false_iff.1 hd)).trans (if_neg (Bool.eq_false_iff.1 ha))
  case pick =>
    refine congrArg Host.Outcome.next ?_
    simp only [hnext, htake, hpick]
  case resume =>
    dsimp only
    subst htid
    refine congrArg Host.Outcome.next ?_
    simp only [hq, hidle, if_true]
    have hvac : (popQueue core s).task.status ≠ .vacant := fun h => TaskStatus.noConfusion (hst.symm.trans h)
    obtain ⟨htid, hsaved, hpois⟩ := takeContext_front hvac
    exact resumeTask_front rfl htid (hsaved.symm ▸ hvac) (hpois.trans hp)

end Sys2Proof.Machine
end

section
/-! SUPPORT. Semaphore cycles, events, deadlocks and stalls: O42. -/

namespace Sys2Proof.Machine

/-- Two signals of one cycle are taken in the order of their agents, in whichever order they came (R39). -/
theorem mergeSort_signals {x y : SemSignal} (h : agentOrder x.agent < agentOrder y.agent) :
    [y, x].mergeSort (fun a b => agentOrder a.agent ≤ agentOrder b.agent) = [x, y]
    ∧ [x, y].mergeSort (fun a b => agentOrder a.agent ≤ agentOrder b.agent) = [x, y] := by
  constructor <;> simp [List.mergeSort, h, Nat.le_of_lt]

/-- A signal that does not overflow adds to the counter of a task in front (R37, R452). -/
theorem addSignal_front {s : State} {k : BitVec 8} {x : SemSignal} (h : s.task.status ≠ .vacant) (hk : s.task.sem k + x.inc < 2 ^ 32) :
    addSignal s.task.tid k x s = modCur (fun t => { t with
      k := t.k.set k.toNat (BitVec.ofNat 32 (t.sem k + x.inc)) k.isLt, stallTicks := 0, stallDone := false }) s := by
  have hk' : (s.task.k[k.toNat]'(k.isLt)).toNat + x.inc < 2 ^ 32 := hk
  simp only [addSignal, getTask?_cur h, Option.map_some, Task.signal?, if_pos hk', modTask_cur s _ h]
  rfl

/-- Settles O42: a counter's cycle, event delivery, and the ends of a deadlock and of a stall (R36 to R41, R451, R452). -/
theorem semaphoresEventsAndStalls : Obligations.SemaphoresEventsAndStalls := by
  refine ⟨⟨fun s tid k x y hxy => ?order, fun s k x hres hk => ?one, fun s e r hst hev => ?event⟩,
    fun s tid t ht => ⟨fun hres hd hn => ?dead, fun hn => ?early, fun hd hf => ?frozen, fun hd hf => ?reported⟩⟩
  case order =>
    obtain ⟨hyx, hxy⟩ := mergeSort_signals hxy
    simp only [exec, execSemaphoreWaitSatisfied, occur, hyx, hxy, List.foldl_cons, List.foldl_nil, and_self]
  case one =>
    have hv : s.task.status ≠ .vacant := fun h => TaskStatus.noConfusion (hres.symm.trans h)
    simp only [exec, execSemaphoreWaitSatisfied, occur, List.mergeSort_singleton, List.foldl_cons, List.foldl_nil, addSignal_front hv hk]
  case event =>
    refine congrArg Host.Outcome.next ?_
    rw [modTask_cur s _ hst]
    simp only [modCur, hev]
    split <;> rfl
  all_goals
    refine congrArg Host.Outcome.next ?_
    simp only [ht]
  case dead => exact if_pos ⟨hres, hd, hn⟩
  case early => exact if_neg fun h => Nat.not_le.2 hn h.2.2
  case frozen => simp only [hd, hf, not_true_eq_false, if_false, if_true]
  case reported =>
    simp only [hd, hf, not_true_eq_false, if_false, Bool.false_eq_true]
    cases t.firstBlocked <;> rfl

end Sys2Proof.Machine
end

section
/-! SUPPORT. Graph residence, steps and nodes: O43. -/

namespace Sys2Proof.Machine

/-- A node of a list of nodes that begin a step (R352). -/
theorem beginNodes_getElem? {s : State} {slot i : Nat} {plfix : Bool} {ns : List NodeSt} {n : NodeSt} (h : ns[i]? = some n) :
    (((List.range ns.length).zip ns).map (beginNode s slot plfix))[i]? = some (beginNode s slot plfix (i, n)) := by
  obtain ⟨hi, hn⟩ := List.getElem?_eq_some_iff.1 h
  simp [hi, hn]

/-- A load into a slot that runs nothing is what its checks find (R349). -/
theorem loadGraph_eq {s u : State} {slot : Fin 64} {obj : BitVec 16} (hrun : (getSlot s slot.val).running = none)
    (hb : loadBody slot.val obj (modSlot slot.val (fun g => { g with oreg := obj }) s) = .ok ((), u)) : loadGraph slot.val obj s = u := by
  simp only [loadGraph, getSlot_modSlot, hrun, Option.isSome_none, Bool.false_eq_true, if_false, hb]

/-- A node with one predecessor fewer (R352). -/
theorem predDone_eq (s : State) (slot node : Nat) (m : NodeSt) : ∃ o, predDone s slot node m =
    { m with preds := m.preds - 1, ready := m.ready || decide (m.preds - 1 = 0), order := o } := by
  by_cases h : m.preds - 1 = 0 ∧ ¬ m.ready = true
  · exact ⟨readyOrder s slot node, by simp [predDone, h]⟩
  · refine ⟨m.order, ?_⟩
    have hr : (m.ready || decide (m.preds - 1 = 0)) = m.ready := by
      cases hm : m.ready
      · simpa [hm] using h
      · rfl
    simp only [predDone, if_neg h, hr]

/-- How a running graph's next step begins (R351 to R355). -/
def stepBegun (slot : Fin 64) (r : Start) (s : State) : State :=
  modSlot slot.val (fun g => { g with
      nodes := ((List.range (getSlot s slot.val).nodes.length).zip (getSlot s slot.val).nodes).map (beginNode s slot.val (getSlot s slot.val).plfix)
      inStep := true, lastNode := 0, lastCore := 0xFF, running := some { r with begin_ := s.tick } })
    (if (getSlot s slot.val).plfix then s else { s with counters := [], free := s.free + (getSlot s slot.val).nodes.length })

theorem modSlot_mem (n : Nat) (f : GSlot → GSlot) (s : State) : (modSlot n f s).mem = s.mem := by
  simp only [modSlot]
  split <;> rfl

theorem modSlot_task (n : Nat) (f : GSlot → GSlot) (s : State) : (modSlot n f s).task = s.task := by
  simp only [modSlot]
  split <;> rfl

theorem getSlot_counted (c : Bool) (s : State) (n k : Nat) :
    getSlot (if c = true then s else { s with counters := [], free := s.free + n }) k = getSlot s k := by
  cases c <;> rfl

theorem stepBegin_eq {s : State} {slot : Fin 64} {r : Start} (hr : (getSlot s slot.val).running = some r)
    (hin : (getSlot s slot.val).inStep = false) (hf : (getSlot s slot.val).failed = false) (hh : s.halted = false) :
    exec (.stepBegin slot) s = .next (stepBegun slot r s) := by
  refine congrArg Host.Outcome.next ?_
  have hgo : ¬ ((getSlot s slot.val).inStep = true ∨ (getSlot s slot.val).failed = true ∨ s.halted = true) := by simp [hin, hf, hh]
  simp only [hr, if_neg hgo]
  cases hp : (getSlot s slot.val).plfix <;> simp only [stepBegun, hp] <;> rfl

theorem hostSteps_eq (n : BitVec 32) (k : Nat) : (if n.toNat = 0 then k else n.toNat) = if n = 0 then k else n.toNat := by
  by_cases h : n = 0
  · rw [if_pos h, if_pos (by rw [h]; rfl)]
  · rw [if_neg h, if_neg (c := n.toNat = 0) (fun h' => h (BitVec.eq_of_toNat_eq h'))]

/-- Settles O43: loading, eviction and starts of a graph, the beginning and the end of a step, and a node's completion
(R349 to R353, R360). -/
theorem graphLife : Obligations.GraphLife := by
  refine ⟨⟨fun s slot obj => ⟨fun hrun => ?refused, fun hrun => ⟨?evict, fun e he => ?badObj, fun h ns u hh hns => ?loaded, fun h u hh hns => ?badNode⟩⟩,
    fun s slot n => ⟨fun hv => ?absent, fun hv hr => ?begun, fun hv hr hq => ?queued, fun hv hr hq => ?full⟩⟩,
    fun s slot r hr hin hf hh => ?stepBegin, fun s slot node n hn => ⟨fun hd => ?notDone, fun hd k hk hne => ?done⟩,
    fun s u slot r hr => ⟨fun hd => ?going, fun hd hw => ⟨fun hlt => ?next, fun hle hsig => ?last, fun tid k inc hle hsig hinc => ?signalled⟩⟩⟩
  case refused =>
    have hrun' : (getSlot s slot.val).running.isSome = true := Option.isSome_iff_ne_none.2 hrun
    refine ⟨congrArg Host.Outcome.next ?_, congrArg Host.Outcome.next ?_⟩
    · simp only [loadGraph, getSlot_modSlot, hrun', if_true, setErr]
    · simp only [evictGraph, hrun', if_true, setErr]
  case evict =>
    refine congrArg Host.Outcome.next ?_
    simp only [evictGraph, hrun, Option.isSome_none, Bool.false_eq_true, if_false]
  case badObj =>
    refine congrArg Host.Outcome.next (loadGraph_eq hrun ?_)
    simp only [loadBody, bind_eq, getS_eq, he, modS_eq]
  case loaded =>
    refine congrArg Host.Outcome.next (loadGraph_eq hrun ?_)
    simp only [loadBody, bind_eq, getS_eq, hh, hns]
    cases depsOk ns <;> rfl
  case badNode =>
    refine congrArg Host.Outcome.next (loadGraph_eq hrun ?_)
    simp only [loadBody, bind_eq, getS_eq, hh, hns, modS_eq]
  case absent => 
    refine congrArg Host.Outcome.next ?_
    simp only [hostStart, hv, Bool.false_eq_true, if_false]
  case begun =>
    refine congrArg Host.Outcome.next ?_
    simp only [hostStart, hv, if_true, startGraph, hr, modSlot_modSlot, hostSteps_eq]
    rfl
  case queued =>
    refine congrArg Host.Outcome.next ?_
    simp only [hostStart, hv, if_true, startGraph, if_neg hr, hq, modSlot_modSlot, hostSteps_eq]
    rfl
  case full =>
    refine congrArg Host.Outcome.next ?_
    simp only [hostStart, hv, if_true, startGraph, if_neg hr, if_neg hq]
    rfl
  case stepBegin =>
    refine ⟨stepBegun slot r s, stepBegin_eq hr hin hf hh, ?_⟩
    simp only [stepBegun, getSlot_modSlot, getSlot_counted]
    refine ⟨trivial, trivial, by simp, fun i n m hn hm => ?_, fun k hk => ?_, ?_, ?_⟩
    · obtain rfl := Option.some.inj ((beginNodes_getElem? hn).symm.trans hm)
      exact ⟨rfl, rfl, beq_eq_decide _ _, rfl, rfl, rfl, rfl, rfl, rfl⟩
    · rw [getSlot_modSlot_ne _ _ _ _ hk, getSlot_counted]
    · rw [modSlot_mem]
      cases (getSlot s slot.val).plfix <;> rfl
    · rw [modSlot_task]
      cases (getSlot s slot.val).plfix <;> rfl
  case notDone =>
    refine congrArg Host.Outcome.next ?_
    simp only [hn, hd, Bool.false_eq_true, not_false_eq_true, if_true]
  case done =>
    refine ⟨modNode slot.val k (predDone (modSlot slot.val (fun g => { g with lastNode := node })
      (modNode slot.val node (fun n => { n with complete := true }) s)) slot.val k)
      (modSlot slot.val (fun g => { g with lastNode := node }) (modNode slot.val node (fun n => { n with complete := true }) s)),
      congrArg Host.Outcome.next ?_, ?_, ?_, ?_⟩
    · simp only [hn, hd, not_true_eq_false, if_false, hk, List.foldl_cons, List.foldl_nil]
    · simp only [modNode, getSlot_modSlot, List.getElem?_modify, hn, if_neg hne, if_true]
      rfl
    · simp only [modNode, getSlot_modSlot]
    · intro m hm
      obtain ⟨o, ho⟩ := predDone_eq (modSlot slot.val (fun g => { g with lastNode := node })
        (modNode slot.val node (fun n => { n with complete := true }) s)) slot.val k m
      refine ⟨o, ?_⟩
      simp only [modNode, getSlot_modSlot, List.getElem?_modify, hm, if_neg (Ne.symm hne), if_true]
      exact congrArg some ho
  case going => simp only [exec, execStepEnd, hr, hd, Bool.false_eq_true, not_false_eq_true, if_true]
  case next => simp only [exec, execStepEnd, hr, hd, not_true_eq_false, if_false, bind_eq, hw, modS_eq, if_pos hlt, finishEvent]
  case last => simp only [exec, execStepEnd, hr, hd, not_true_eq_false, if_false, bind_eq, hw, modS_eq, if_neg (Nat.not_lt.2 hle), finishEvent, endStart, hsig] <;> rfl
  case signalled => simp only [exec, execStepEnd, hr, hd, not_true_eq_false, if_false, bind_eq, hw, modS_eq, if_neg (Nat.not_lt.2 hle), finishEvent, endStart, hsig, hinc] <;> rfl

end Sys2Proof.Machine
end

section
/-! SUPPORT. What holds of every package and a change at one of them; groups and their collectives; with them O44. -/

namespace Sys2Proof.Machine

/-- What holds of every package, and stays so where an operation is done, holds of every one after it. -/
theorem packs_atPack {R : Pack → Prop} {c : Pack → Bool} {f : State → State} {s : State}
    (hf : ∀ s : State, (∀ p ∈ s.packs, R p) → ∀ p ∈ (f s).packs, R p) (h : ∀ p ∈ s.packs, R p) : ∀ p ∈ (atPack c f s).packs, R p := by
  unfold atPack
  split
  · exact hf s h
  · split
    · next i _ => exact fun p hp => hf _ (fun p hp => h p (mem_packs_swapPack hp)) p (mem_packs_swapPack hp)
    · exact hf s h

/-- A group that is stored leaves the collectives (R42). -/
theorem putGroup_collectives {g : Group} {s : State} {ia : Nat} (h : ∀ c ∈ s.collectives, c.key.group ≠ ia) :
    ∀ c ∈ (putGroup g s).collectives, c.key.group ≠ ia := by
  intro c hc
  obtain ⟨p, hp, hc⟩ := List.mem_flatMap.1 hc
  refine packs_atPack (R := fun p => ∀ c ∈ p.damask, c.key.group ≠ ia) (fun s h p hp => ?_)
    (fun p hp c hc => h c (List.mem_flatMap.2 ⟨p, hp, hc⟩)) p hp c hc
  rcases List.mem_cons.1 hp with rfl | hp
  · exact h s.toPack List.mem_cons_self
  · exact h p (List.mem_cons_of_mem _ hp)

theorem damaskLost_none {s : State} {ia : Nat} (tid : Nat) (status : BitVec 8) (h : ∀ c ∈ s.collectives, c.key.group ≠ ia) :
    damaskLost ia tid status s = s := by
  have hnone : s.collectives.filter (fun c => c.key.group == ia && c.ended.isNone && c.members.any (fun m => m.tid == tid && !m.done)) = [] :=
    List.filter_eq_nil_iff.2 fun c hc => by simp [h c hc]
  rw [damaskLost, hnone, List.foldl_nil]

/-- A member that leaves no open operation and no Damask collective behind is no member any more (R453). -/
theorem removeMember_plain {s : State} {ia tid r : Nat} (hr : (getGroup s ia).rankOf tid = some r) (hcolls : (getGroup s ia).colls = [])
    (hd : ∀ c ∈ s.collectives, c.key.group ≠ ia) :
    removeMember ia tid s = putGroup { getGroup s ia with members := (getGroup s ia).members.filter (fun m => m.2 != tid), colls := [] } s := by
  simp only [removeMember, hr, hcolls, List.any_nil, Bool.false_eq_true, if_false, List.map_nil, List.filter_nil,
    damaskLost_none _ _ (putGroup_collectives hd)]

/-- Settles O44: a collective's completion, and the order of a group tick (R44, R191 to R193, R453, R455). -/
theorem groupLife : Obligations.GroupLife := by
  refine ⟨fun s ia kind c hc => ?complete, fun s as rs js => ⟨rfl, fun ia tid r has hrs hjs hr hcolls hd => ?removal⟩⟩
  case complete =>
    obtain rfl : c.kind = kind := by simpa using List.find?_some hc
    dsimp only
    refine ⟨fun hf => ?_, fun hf u hu => ?_⟩
    · simp only [exec, execGroupCollectiveComplete, hc, hf, Bool.false_eq_true, if_false]
    · simp only [exec, execGroupCollectiveComplete, hc, hf, if_true, completeColl, bind_eq, getS_eq]
      simp only [Bool.not_eq_true]
      split
      · next hsum =>
        rw [if_pos hsum] at hu
        simp only [bind_eq, hu, getS_eq, modS_eq, finishEvent]
      · next hsum =>
        rw [if_neg hsum] at hu
        obtain rfl : s = u := congrArg Prod.snd (Except.ok.inj hu)
        simp only [bind_eq, getS_eq, modS_eq, finishEvent]
  case removal =>
    subst has hrs hjs
    exact congrArg Host.Outcome.next (removeMember_plain hr hcolls hd)

end Sys2Proof.Machine
end

section
/-! SUPPORT. What remote messages do at their target: O45. -/

namespace Sys2Proof.Machine

/-- What needs a circuit to a package that none reaches any more is lost (R467). -/
theorem overLink_cut {pkg : Nat} {s : State} (lost f : State → State) (h : s.cutFrom pkg = true) : overLink pkg lost f s = lost s := if_pos h

/-- Settles O45: remote signals, command blocks, RSTV writes and RRPUT fills by their rank and their circuit (R40, R45, R300, R301,
R454, R467). -/
theorem remoteArrivals : Obligations.RemoteArrivals := by
  refine ⟨⟨fun s m => ⟨fun t ht => ⟨fun hreach => ?signal, fun hcut => ?signalCut⟩, fun ht => ?signalVacant⟩,
    fun s m => ⟨fun t ht => ⟨fun hlen hreach => ?block, fun hlen hcut => ?blockCut, fun hlen => ?blockWaits⟩, fun ht => ?blockVacant⟩⟩,
    fun s m => ⟨fun ht => ?rstvVacant, fun t ht hcut => ?rstvCut, fun t ht hreach => ?rstv⟩,
    fun s m => ⟨fun ht => ?fillVacant, fun t ht => ⟨fun hcut => ?fillCut, fun hreach => ?fill⟩⟩⟩
  case rstv =>
    dsimp only
    refine ⟨fun code i hj => ?_, fun hj => ?_⟩
    all_goals
      refine congrArg Host.Outcome.next ?_
      simp only [ht, overLink_eq _ _ hreach, hj]
      rfl
  case fill =>
    dsimp only
    refine ⟨fun hfit => ?_, fun hfit => ?_⟩
    all_goals
      refine congrArg Host.Outcome.next ?_
      simp only [ht]
      refine (overLink_eq _ _ hreach).trans ?_
    · exact if_neg (Bool.eq_false_iff.1 hfit)
    · exact if_pos hfit
  all_goals
    refine congrArg Host.Outcome.next ?_
    simp only [ht]
  case signal => exact overLink_eq _ _ hreach
  case signalCut | rstvCut | fillCut => exact overLink_cut _ _ hcut
  case block => exact (if_neg (Nat.not_le.2 hlen)).trans (overLink_eq _ _ hreach)
  case blockCut => exact (if_neg (Nat.not_le.2 hlen)).trans (overLink_cut _ _ hcut)
  case blockWaits => exact if_pos hlen
  case signalVacant | blockVacant | rstvVacant | fillVacant => rfl

end Sys2Proof.Machine
end

section
/-! SUPPORT. What arrives at a task from outside its streams: O46. -/

namespace Sys2Proof.Machine

/-- What is done to a task in front. -/
theorem modTask_front {s : State} {f : Task → Task} {t : Task} (h : s.task.status ≠ .vacant) (hf : f s.task = t) :
    modTask s.task.tid f s = { s with task := t } := by
  rw [modTask_cur s f h, modCur, hf]

/-- Replies of other queues wait for their own turn (R204). -/
theorem settleRlds_others {q : Nat} {l : List Rld} (h : ∀ x ∈ l, x.q ≠ q) (t : Task) : Task.settleRlds q l t = { t with rlds := l } := by
  induction l generalizing t with
  | nil => rfl
  | cons x l ih => rw [Task.settleRlds, if_pos (h x List.mem_cons_self), ih (fun y hy => h y (List.mem_cons_of_mem _ hy))]

/-- The oldest outstanding reply arrives (R207). -/
theorem replyRld_eq {t : Task} {r : Rld} {rest : List Rld} (h : t.rlds = r :: rest) (hr : r.ready = false) :
    t.replyRld = Task.settleRlds r.q ({ r with ready := true, off := false } :: rest) t.deliver := by
  simp [Task.replyRld, h, hr, modFirst]

/-- Settles O46: replies, acknowledgements, slot claims and timed waits (R60, R114, R204, R334). -/
theorem arrivalsAtATask : Obligations.ArrivalsAtATask := by
  intro s hst
  refine ⟨fun r rest hr hready => ⟨?reply, fun hothers => ?replyLast⟩, fun a rest ha => ⟨fun htag hok => ?silent, fun htag hok => ?tagged, fun hrest htag hfull => ?held⟩,
    fun k => ⟨fun hen hfree => ?claim, fun hen hlock => ?locked⟩, fun d hd hc => ⟨fun hle => ?due, fun hlt => ?notDue⟩⟩
  all_goals refine congrArg Host.Outcome.next (modTask_front hst ?_)
  case reply => exact replyRld_eq hr hready
  case replyLast =>
    rw [replyRld_eq hr hready, Task.settleRlds, if_neg (fun h => h rfl), if_pos rfl, settleRlds_others hothers]
  case silent => simp only [ha, List.find?_cons_of_pos hok, List.erase_cons_head, htag, Bool.false_eq_true, if_false]
  case tagged => simp only [ha, List.find?_cons_of_pos hok, List.erase_cons_head, htag, if_true]
  case held =>
    have hno : s.task.acks.find? s.task.ackReady = none := by
      rw [ha, hrest]
      simp [Task.ackReady, htag, hfull]
    simp only [hno]
  case claim => exact if_pos (by simpa [Ring.claimable] using And.intro hen hfree)
  case locked => exact if_neg (by simpa [Ring.claimable] using fun _ => hlock)
  case due => exact if_pos ⟨by simp [hd, hle], hc⟩
  case notDue => exact if_neg (by simp [hd, hlt])

end Sys2Proof.Machine
end

section
/-! SUPPORT. Command blocks and starts through the copy aperture: O47. -/

namespace Sys2Proof.Machine

/-- Settles O47: the next record of a command block, the block's end, and starts at a channel (R36, R45, R324, R331, R332). -/
theorem commandsOfEngines : Obligations.CommandsOfEngines := by
  refine ⟨fun s tid t0 b ht htid hres => ?block, fun s n d tid => ⟨fun hno hlen => ?joins, fun hwait => ?waits, fun x hx => ?taken⟩⟩
  case block =>
    dsimp only
    intro hb
    have hexec : exec (.jobUnitRecordStart tid) s = .next (nextRecord tid s) := congrArg Host.Outcome.next (atTask_own _ ht)
    refine ⟨fun hev => ?event, fun x rest hrec hev => ?record, fun hb0 hrec hopen => ?done, fun hb0 hopen => ?notDone⟩
    case event =>
      rw [hexec]
      simp only [nextRecord, ht, hev, or_true, if_true]
    case record =>
      have hgo : ¬ (t0.status ≠ .resident ∨ eventWaits s .jobUnit (some tid) = true) := by simp [hres, hev]
      rw [hexec]
      simp only [nextRecord, ht, if_neg hgo, hb, hrec]
      refine ⟨fun hready => ?_, fun hready => ⟨fun hok => ?_, fun hok hroom => ?_, fun hok hroom => ?_⟩⟩
      all_goals
        refine congrArg Host.Outcome.next ?_
        simp only [hready, not_true_eq_false, Bool.false_eq_true, not_false_eq_true, if_true, if_false]
      all_goals
        simp only [hok, not_true_eq_false, Bool.false_eq_true, not_false_eq_true, if_true, if_false]
      · exact if_pos hroom
      · exact if_neg (Bool.eq_false_iff.1 hroom)
    case done =>
      refine congrArg Host.Outcome.next ?_
      simp only [getTask?_own ht, hb0, if_pos (And.intro hrec hopen)]
    case notDone =>
      refine congrArg Host.Outcome.next ?_
      simp only [getTask?_own ht, hb0, if_neg (fun h : b.records = [] ∧ b.open_ = 0 => hopen h.2)]
  case joins =>
    refine congrArg Host.Outcome.next (if_pos ⟨hlen, ?_⟩)
    simpa using hno
  case waits =>
    refine congrArg Host.Outcome.next (if_neg ?_)
    rintro ⟨hlen, hall⟩
    refine hwait.elim (fun h => h ?_) (Nat.not_le.2 hlen)
    simpa using hall
  case taken => simp only [takeStart, hx]

end Sys2Proof.Machine
end

section
/-! SUPPORT. Jobs of a channel: starts and chunks: O48. -/

namespace Sys2Proof.Machine

theorem chans_modChan (n : Fin 32) (f : Chan → Chan) (s : State) : (modChan n f s).chans[n] = f s.chans[n] := by
  simp [modChan]

/-- A change of a task leaves every channel (R333). -/
theorem chans_modTask (tid : Nat) (f : Task → Task) (s : State) : (modTask tid f s).chans = s.chans := by
  unfold modTask
  split <;> rfl

/-- What a chunk of a running template job does, while its die has reservations (R323, R363). -/
theorem bteChunkComplete_eq {s : State} {n : Fin 32} {r : BteRun} (hr : s.chans[n].run = some r) (hj : r.job.drain = none)
    (hc : r.chunk < r.nChunks) (hh : s.chans[n].held = none) :
    exec (.bteChunkComplete n) s = .next (engineStep n (failBte n) (bteChunk n r) s) := by
  refine congrArg Host.Outcome.next ?_
  have hgo : ¬ (r.job.drain.isSome = true ∨ r.nChunks ≤ r.chunk ∨ s.chans[n].held.isSome = true) := by
    rw [hj, hh]
    simp [hc]
  simp only [hr, if_neg hgo]

/-- Settles O48: the start of a channel's job, new or brought back, and its chunks (R317, R322, R323, R333, R446). -/
theorem copyJobs : Obligations.CopyJobs := by
  refine ⟨fun s n => ⟨fun hd => ?notDue, fun tid old r hd hs hf => ?restored, fun tid old r hd hs hf => ?restoredFenced,
    fun j rest hd hs hq hf => ?fenced, fun j rest hd hs hq hf => ?starts⟩,
    fun s n r hr hj hc hh => ⟨fun hp => ?full, fun hp => ⟨fun c i a hb => ?fails, fun d p ia b hb => ?waits, ?moves⟩⟩,
    fun s u n r d hr hd hc hh hp hu => ?drain, fun s n r hr hno => ?noDrain⟩
  case notDue => exact congrArg Host.Outcome.next (if_pos (by simp [hd]))
  case restored => 
    refine congrArg Host.Outcome.next ?_
    simp only [hd, not_true_eq_false, if_false, hs, restoreBte, chans_modTask, hf, Bool.false_eq_true]
  case restoredFenced =>
    refine congrArg Host.Outcome.next ?_
    simp only [hd, not_true_eq_false, if_false, hs, restoreBte, chans_modTask, hf, if_true]
  case fenced =>
    refine congrArg Host.Outcome.next ?_
    simp only [hd, not_true_eq_false, if_false, hs, hq, startBte, hf, if_true]
  case starts =>
    dsimp only
    refine ⟨fun code hr => ?_, fun x hr hx => ?_, fun x tid k hr hdrain htid hk => ?_⟩
    all_goals
      refine congrArg Host.Outcome.next ?_
      simp only [hd, not_true_eq_false, if_false, hs, hq, startBte, hf, Bool.false_eq_true]
    · cases hdrain : j.drain
      all_goals
        simp only [hdrain] at hr
        simp only [hr]
    · rcases hx with hx | hx
      · obtain ⟨d, hdrain⟩ := Option.isSome_iff_exists.1 hx
        simp only [hdrain] at hr
        simp only [hdrain, hr]
        cases j.tid <;> rfl
      · cases hdrain : j.drain
        all_goals
          simp only [hdrain] at hr
          simp only [hr, hx]
          cases j.tid <;> rfl
    · simp only [hdrain, htid] at hr
      simp only [hdrain, htid, hr, hk]
  case full =>
    rw [bteChunkComplete_eq hr hj hc hh, engineStep, if_pos (by simp [hp])]
  case fails | waits =>
    rw [bteChunkComplete_eq hr hj hc hh, engineStep, if_neg (by simp [hp]), hb]
  case moves =>
    dsimp only
    intro m u hmode hring htags hacts
    rw [bteChunkComplete_eq hr hj hc hh, engineStep, if_neg (by simp [hp])]
    simp only [bteChunk, if_neg hmode, hring, plainChunk, htags, Bool.false_eq_true, if_false, bind_eq, hacts, modS_eq]
  case drain =>
    refine congrArg Host.Outcome.next ?_
    simp only [hr, hd, hc, hh, and_self, if_true]
    rw [engineStep, if_neg (by simp [hp]), hu]
  case noDrain =>
    refine congrArg Host.Outcome.next ?_
    simp only [hr]
    split
    · next d hd => exact if_neg fun h => hno.elim (fun h' => by rw [h'] at hd; cases hd) (fun h' => h' h.1)
    · rfl

end Sys2Proof.Machine
end

section
/-! SUPPORT. How jobs of engines end: O49. -/

namespace Sys2Proof.Machine

/-- A ring's record is written and the unit released (R326). -/
theorem completionRingWrite_put {s u : State} {e : Engine} {rec_ : BitVec 128} (h : unitHeld s e = some rec_)
    (hput : ringPut (engineBy e) (ringRegs s e).1 (ringRegs s e).2 16 rec_.toNat s = .ok (true, u)) :
    exec (.completionRingWrite e) s = .next (releaseUnit e rec_ u) := by
  refine congrArg Host.Outcome.next ?_
  simp only [writeCompletion, h, hput]

/-- A unit without a ring is released at once (R326). -/
theorem ringPut_none {by_ : Requester} {base l z rec_ : Nat} (h : l = 0) (s : State) : ringPut by_ base l z rec_ s = .ok (true, s) := by
  rw [ringPut, if_pos h, pure_eq]

theorem dropFiller_none {r : BteRun} (h : r.job.drain.isSome ∨ (templateFields r.body.toNat).dring = none) (tid : Nat) (s : State) :
    dropFiller tid r s = s := by
  rcases h with h | h
  · obtain ⟨d, hd⟩ := Option.isSome_iff_exists.1 h
    simp only [dropFiller, hd]
  · cases hd : r.job.drain <;> simp only [dropFiller, hd, h]

/-- What the end of a job of a task in front leaves at it (R23, R35, R403). -/
theorem endAtTask_front {e : Engine} {kind stream : Nat} {rec_ : BitVec 128} {ssem : BitVec 8} {sinc : BitVec 12} {s : State}
    (h : s.task.status ≠ .vacant) {v : State}
    (hv : modCur (fun t => ({ t with jobs := t.jobs - 1 } : Task).pushEvent (engineSource e)
      (eventOf (eventLow (bits rec_.toNat 32 32) (engineNum e) (recFault rec_).toNat kind) (bits rec_.toNat 64 64))) s = v) :
    endAtTask e s.task.tid kind stream rec_ false ssem sinc s =
      if recStatus rec_ = 0 then agentSignal { mkind := if kind = 1 then 2 else 3, unit := engineNum e, stream := stream }
        s.task.tid s.task.tid ssem sinc.toNat v else v := by
  have h2 : pushEventTo s.task.tid (engineSource e) (eventOf (eventLow (bits rec_.toNat 32 32) (engineNum e) (recFault rec_).toNat kind)
      (bits rec_.toNat 64 64)) (modCur Task.endJob s) = v := (modTask_cur (modCur Task.endJob s) _ h).trans hv
  simp only [endAtTask, modTask_cur s _ h, h2, unitSignal, Bool.false_eq_true, if_false]

/-- Settles O49: a job's end by its chunks and its failures, its record, and what its unit leaves at its task (R325, R326, R403). -/
theorem jobEnds : Obligations.JobEnds := by
  refine ⟨⟨fun s n r hr hh => ⟨fun hc => ?running, fun hc hm => ?plain, fun hc hm => ?multi, fun code => ?fails⟩,
    fun s u e rec_ hheld => ⟨fun hput => ?put, fun hput => ?full, fun hl => ?noRing⟩⟩, fun s n r rec_ hr hb hh hl hd htid hst => ?released⟩
  case running =>
    refine congrArg Host.Outcome.next ?_
    simp only [completeBte, hr, hc, true_or, if_true]
  case plain | multi =>
    have hgo : ¬ (r.chunk < r.nChunks ∨ s.chans[n].held.isSome = true) := by
      rw [hh]
      simp [hc]
    refine congrArg Host.Outcome.next ?_
    simp only [completeBte, hr, if_neg hgo, hm, Bool.false_eq_true, if_false, if_true]
  case fails => exact congrArg Host.Outcome.next (if_neg (by rw [hh]; simp))
  case put => exact completionRingWrite_put hheld hput
  case full =>
    refine congrArg Host.Outcome.next ?_
    simp only [writeCompletion, hheld, hput]
  case noRing => exact completionRingWrite_put hheld (ringPut_none hl s)
  case released =>
    dsimp only
    refine (completionRingWrite_put (e := .bte n) hh (ringPut_none hl s)).trans (congrArg Host.Outcome.next ?_)
    simp only [releaseUnit, hr, htid, dropFiller_none hd, hb]
    exact endAtTask_front (e := .bte n) (kind := 1) (s := modChan n (fun c => { c with run := none, held := none }) s) hst rfl

end Sys2Proof.Machine
end

section
/-! SUPPORT. Lighters: the command a program stands at, claims of ring slots, starts and ends; with them O50. -/

namespace Sys2Proof.Machine

/-- What the command that a program stands at does (R328). -/
theorem lightStep_run {s t : State} {n : Fin 32} {r : LRun} {c : LCmd} {body : LRun → M Unit} (hr : lighterRuns s n = some r)
    (hp : poolFree s (n.val / 4) = true) (hc : fetchCmd n r s = .ok (c, t)) :
    (∀ u, body r t = .ok ((), u) → lightStep n c body s = .next u)
    ∧ (∀ code i a, body r t = .error (.trap code i a) → lightStep n c body s = .next (failLighter n code s)) := by
  refine ⟨fun u hb => congrArg Host.Outcome.next ?_, fun code i a hb => congrArg Host.Outcome.next ?_⟩
  all_goals simp only [hr, engineStep, hp, not_true_eq_false, if_false, bind_eq, hc, if_true, hb]

/-- A command that the program does not stand at changes nothing (R328). -/
theorem lightStep_other {s t : State} {n : Fin 32} {r : LRun} {c d : LCmd} {body : LRun → M Unit} (hr : lighterRuns s n = some r)
    (hp : poolFree s (n.val / 4) = true) (hc : fetchCmd n r s = .ok (c, t)) (hne : c ≠ d) : lightStep n d body s = .next t := by
  refine congrArg Host.Outcome.next ?_
  simp only [hr, engineStep, hp, not_true_eq_false, if_false, bind_eq, hc, if_neg hne, pure_eq]

theorem lighters_modTask (tid : Nat) (f : Task → Task) (s : State) : (modTask tid f s).lighters = s.lighters := by
  unfold modTask
  split <;> rfl

theorem lighters_modLighter (n : Fin 32) (f : Lighter → Lighter) (s : State) : (modLighter n f s).lighters[n] = f s.lighters[n] := by
  simp [modLighter]

/-- The claim of a push that its ring admits: the program waits, or takes slot TAIL (R60, R328, R329, R334). -/
theorem claimPush_eq {t : State} {n : Fin 32} {r : LRun} {k : Fin 8} {b : Nat} {tk : Task} (hsl : r.slot = none) (hcan : r.canRead = true)
    (ht : getTask? t r.prog.tid = some tk) (hen : tk.rings[k].en = true) (hb : b ≤ ringSlotBytes tk.rings[k].cfg) :
    ((tk.rings[k].claimable = false ∨ 2 ≤ r.flight.length ∨ claimsFirst t tk.tid k (33 + n.val) = true) →
      claimPush n r k b t = .ok (none, modLRun n (fun r => { r with waiting := some k }) (assignRing n tk.tid k t)))
    ∧ (tk.rings[k].claimable = true → r.flight.length < 2 → claimsFirst t tk.tid k (33 + n.val) = false →
      claimPush n r k b t = .ok (none, modLRun n (fun r => { r with waiting := none, slot := some (k, tk.rings[k].tail) })
        (modTask tk.tid (fun t => t.modRing k Ring.claim) (assignRing n tk.tid k t)))) := by
  have hfit : (tk.rings[k].en && decide (b ≤ ringSlotBytes tk.rings[k].cfg)) = true := by rw [hen, decide_eq_true hb]; rfl
  have hclaim : claimPush n r k b t = (if ¬ tk.rings[k].claimable = true ∨ 2 ≤ r.flight.length ∨ claimsFirst t tk.tid k (33 + n.val) = true then
      (do modS (modLRun n (fun r => { r with waiting := some k })); pure none : M (Option Nat)) else do
        modS (modTask tk.tid (fun t => t.modRing k Ring.claim))
        modS (modLRun n (fun r => { r with waiting := none, slot := some (k, tk.rings[k].tail) }))
        pure none) (assignRing n tk.tid k t) := by
    simp only [claimPush, hsl, hcan, bind_eq, ensure_ok, getS_eq, ht, ensure_ok hfit, modS_eq]
  rw [hclaim]
  refine ⟨fun h => ?_, fun hfree hlen hfirst => ?_⟩
  · rw [if_pos (by simpa using h)]
    rfl
  · rw [if_neg (by rw [hfree, hfirst]; simp [hlen])]
    rfl

/-- Settles O50: the commands of a Lighter's program, its claims and pushes, its start and its end (R95, R328 to R334). -/
theorem lighterPrograms : Obligations.LighterPrograms := by
  refine ⟨fun s t n r c hr hp hc => ?registers, fun s t n r c hr hp hc => ?signals, fun s t n r c ring elog ssem sinc hr hp hc => ?pushes,
    fun s n p rest hd hs hq => ?starts, fun s n tid old r hd hs => ?restored, fun s n r f fs hr hf => ?lands,
    fun s n r p hr hw => ⟨fun e key hl => ?walks, fun hl => ?noWalk⟩, fun s n r hr hh hf hsl hheld => ?halted, fun s n r code hr => ?fails⟩
  case registers =>
    have hrun := fun body => (lightStep_run (body := body) hr hp hc).1
    refine ⟨?_, ?_, ?_, ?_, ?_, ?_, fun ia hne => lightStep_other hr hp hc hne⟩
    · rintro ia rfl; exact hrun _ _ rfl
    · rintro ia rfl; exact hrun _ _ rfl
    · rintro off rfl; exact hrun _ _ rfl
    · rintro d k st rfl; exact hrun _ _ rfl
    · rintro x rfl; exact hrun _ _ rfl
    · rintro l k x rfl; exact hrun _ _ rfl
  case signals =>
    have hrun := fun body => (lightStep_run (body := body) hr hp hc).1
    refine ⟨?_, ?_, ?_⟩
    · rintro k inc rfl
      refine hrun _ _ ?_
      split <;> rfl
    · rintro m k thr rfl
      refine hrun _ _ ?_
      simp only [bind_eq, getS_eq]
      split <;> rfl
    · rintro rfl
      refine hrun _ _ ?_
      split <;> rfl
  case pushes =>
    have hrun := fun body => (lightStep_run (body := body) hr hp hc).1
    refine ⟨?push, fun tk b hsl hcan ht hen hb => ?claim, ?gather⟩
    case push =>
      rintro ndim rfl
      refine ⟨fun hsl hcan => ?_, fun u hclaim => hrun _ _ ?_, fun u v slot bs hclaim hread => hrun _ _ ?_⟩
      · refine (lightStep_run hr hp hc).2 _ 0 0 ?_
        simp only [bind_eq, claimPush, hsl, hcan]
        rfl
      · simp only [bind_eq, hclaim, pure_eq]
      · simp only [bind_eq, hclaim, hread, modS_eq, fillPush]
        rfl
    case claim => exact claimPush_eq hsl hcan ht hen hb
    case gather =>
      rintro count scale rfl
      refine ⟨fun u hclaim => hrun _ _ ?_, fun u v w slot ib parts hclaim hread hm => hrun _ _ ?_⟩
      · simp only [bind_eq, hclaim, pure_eq]
      · simp only [bind_eq, hclaim, hread, hm, modS_eq, fillPush]
        rfl
  case starts =>
    dsimp only
    refine ⟨fun b hf hobj => ?_, fun code hf hobj => ?_, fun b hf hobj => ?_, fun code hf hobj => ?_⟩
    all_goals
      refine congrArg Host.Outcome.next ?_
      simp only [hd, not_true_eq_false, if_false, hs, hq, hf, hobj, Bool.false_eq_true, if_true]
  case restored =>
    refine congrArg Host.Outcome.next ?_
    simp only [hd, not_true_eq_false, if_false, hs, restoreProg, lighters_modLighter, lighters_modTask]
  case lands =>
    refine congrArg Host.Outcome.next ?_
    simp only [landPush, hr, hf, Ring.setFull]
  case walks =>
    refine congrArg Host.Outcome.next ?_
    simp only [hr, hw, hl]
  case noWalk =>
    refine congrArg Host.Outcome.next ?_
    simp only [hr, hw]
  case halted =>
    refine congrArg Host.Outcome.next ?_
    simp only [haltLighter, hr, hh, hf, hsl, hheld, and_self, if_true]
  case fails =>
    refine congrArg Host.Outcome.next ?_
    simp only [failUnit, hr]

end Sys2Proof.Machine
end

section
/-! SUPPORT. A Damask collective that two packages keep under one key: O51. -/

namespace Sys2Proof.Machine

/-- The membership of task 0 with an exchange record, not yet started. -/
def joinedWith (x : BitVec 1024) : DMember :=
  { tid := 0, rank := 0, pkg := 0, xpb := x, wait := none, since := 0, ssem := 0, sinc := 0, started := false, tick := 0, phases := 0
    srcDone := false, flits := 0, slips := 0, slots := [], done := false }

/-- A collective of that one member. -/
def collOf (x : BitVec 1024) : DColl :=
  { key := ⟨0, 0, 0⟩, members := [joinedWith x], moved := [], ended := none, slotMove := 0, slotPhase := 0, slipMax := 0, unslotted := false }

/-- Two packages that keep a collective under the same key, with exchange records that differ. -/
def twoKeepers : State :=
  { State.reset with
    task := { Task.init with status := .resident }
    damask := [collOf 0]
    peers := [{ Pack.reset with damask := [collOf 1] }] }

/-- The exchange records that the other packages' members hold after a step. -/
def peerRecords : Host.Outcome State Fault Refusal → List (BitVec 1024)
  | .next s => s.peers.flatMap (fun p => p.damask.flatMap (fun c => c.members.map (·.xpb)))
  | _ => []

/-- Refutes O51: at a member's start the statement gives every member of that task under the key the record of its own package's
table, where the model gives all of them the record of the member that starts (R342); they differ where a second package keeps
a collective under the same key. -/
theorem not_damaskCollectives : ¬ Obligations.DamaskCollectives := by
  rintro ⟨hmembers, -⟩
  obtain ⟨hmember, -⟩ := hmembers twoKeepers ⟨0, 0, 0⟩ (collOf 0) (joinedWith 0) rfl
  obtain ⟨hstart, -⟩ := hmember rfl
  obtain ⟨hsame, -⟩ := hstart (by decide +kernel) rfl
  have hrecords := congrArg peerRecords (hsame rfl)
  exact absurd hrecords (by decide +kernel)

end Sys2Proof.Machine
end

section
/-! SUPPORT. Events of the memory side: home slices, guards, sketches, gates, stash copies, translation; with them O52 to O54. -/

namespace Sys2Proof.Machine

/-- An update in one step of line order, of a line that this package homes (R92, R111). -/
theorem updateLine_home {α : Type} {by_ : Requester} {ias : List Nat} {f : List (BitVec 8) → List (BitVec 8) × α}
    {s u v w : State} {bs : List (BitVec 8)} {word : BitVec 64} (hp : iaPkg (ias.headD 0) = s.pkg)
    (hr : recallLine (lineOf (ias.headD 0)) true none s = .ok ((), u)) (hb : readEvent false by_ ias u = .ok (bs, v))
    (ha : applyLine by_ (ias.zip (f bs).1) v = .ok (word, w)) :
    updateLine by_ ias f s = .ok ((word, (f bs).2), w) := by
  simp only [updateLine, atHome, if_pos hp, bind_eq, hr, hb, ha, pure_eq]

/-- An atomic that the rules allow is an update of its element, acknowledged to the S stream that sent it (R297). -/
theorem homeSliceAtomic_update {by_ : Requester} {ia n : Nat} {opk : BitVec 4} {flt : Bool} {operand expected : BitVec 64}
    {s u : State} {word : BitVec 64} {x : Nat} (hn : n = 4 ∨ n = 8) (ha : ia % n = 0)
    (ht : flt = true → 0xA ≤ opk.toNat ∧ opk.toNat ≤ 0xC ∨ opk = 8) (hf : flt = false → opk.toNat < 0xA)
    (hu : updateLine by_ (span ia n) (fun old =>
      (natBytes n (atomicNew opk n (bytesNat old) operand.toNat expected.toNat), bytesNat old)) s = .ok ((word, x), u)) :
    exec (.homeSliceAtomic by_ ia opk n flt operand expected) s = .next (ackTo by_ ia word u) := by
  have hop : opk.toNat ≤ 0xC ∧ (flt = true → 0xA ≤ opk.toNat ∨ opk = 8#4) := by
    cases flt with
    | true =>
      obtain ⟨hlo, hhi⟩ | h8 := ht rfl
      · exact ⟨hhi, fun _ => .inl hlo⟩
      · exact ⟨by rw [h8]; decide, fun _ => .inr h8⟩
    | false => exact ⟨by have := hf rfl; omega, nofun⟩
  refine (if_pos ⟨hn, ha, hop.1, hop.2, hf⟩).trans ?_
  simp only [atomicAt, bind_eq, hu, pure_eq, modS_eq, finishEvent]

/-- Settles O52: each event is its read or write event of the line, and a fault of it is held. -/
theorem homeSlicesAndGuards : Obligations.HomeSlicesAndGuards := by
  unfold Obligations.HomeSlicesAndGuards
  refine ⟨fun by_ ia s => ?_, fun s u ia q bs hq hb => ?_⟩
  · dsimp only
    refine ⟨fun data words u h => ?write, fun data d p a b h => ?writeFault, fun n bs u h => ?read,
      fun n d p a b h => ?readFault, fun opk n flt operand expected hn ha ht hf =>
        ⟨fun x word u h => homeSliceAtomic_update hn ha ht hf h, fun bs word u v w hp hr hb hw => ?atomic⟩⟩
    case write =>
      simp only [exec, execHomeSliceWrite, bind_eq, h, modS_eq, finishEvent]
      rfl
    case writeFault => simp only [exec, execHomeSliceWrite, bind_eq, h, finishEvent]
    case read => simp only [exec, execHomeSliceRead, bind_eq, h, pure_eq, finishEvent]
    case readFault => simp only [exec, execHomeSliceRead, bind_eq, h, finishEvent]
    case atomic =>
      have hhead : (span ia n).headD 0 = ia := by
        obtain rfl | rfl := hn
        · rfl
        · rfl
      refine homeSliceAtomic_update hn ha ht hf (x := bytesNat bs) ?_
      exact updateLine_home (f := fun old =>
        (natBytes n (atomicNew opk n (bytesNat old) operand.toNat expected.toNat), bytesNat old))
        (hhead.symm ▸ hp) (hhead.symm ▸ hr) hb hw
  · dsimp only
    refine ⟨fun v hg hv => ?_, fun hg => ?_⟩
    · simp only [exec, execGuardGrant, hq, bind_eq, hb, hg, if_true, hv, modS_eq, finishEvent] <;> rfl
    · simp only [exec, execGuardGrant, hq, bind_eq, hb, hg, Bool.false_eq_true, if_false, pure_eq, finishEvent]

/-- A line that no stash holds has nothing to recall (R104). -/
theorem recallLine_none {line : Nat} {w : Bool} {s : State} (h : stashHolders s line = []) :
    recallLine line w none s = .ok ((), s) := by
  simp only [recallLine, bind_eq, getS_eq, h, List.filter_nil, List.any_nil, Bool.or_false, List.foldl_nil]
  cases w with
  | true => simp only [List.forIn_nil, pure_eq, if_true, modS_eq]
  | false => simp only [List.forIn_nil, pure_eq, Bool.false_eq_true, if_false]

/-- Settles O53: each event is the update, report, fill or recall that its operands name, or nothing. -/
theorem sketchGateAndStashEvents : Obligations.SketchGateAndStashEvents := by
  unfold Obligations.SketchGateAndStashEvents
  refine ⟨⟨fun s u obj row bucket inc word sat => ?update, fun s obj row bucket inc h => ?noUpdate,
    fun s u v by_ ia nf word hi h hv => ?report, fun s by_ ia nf hi => if_neg hi⟩, fun s tid off m hm => ?stash⟩
  case update =>
    dsimp only
    intro h5 hok hrow hbucket h
    refine (if_pos ⟨h5, hok, hrow, hbucket⟩).trans ?_
    simp only [sketchApply, skCounter, bind_eq, h]
    cases sat with
    | true => simp only [if_true, modS_eq, finishEvent]
    | false => simp only [Bool.false_eq_true, if_false, pure_eq, finishEvent]
  case noUpdate =>
    refine if_neg fun hc => ?_
    obtain ⟨h5, -, hrow, -⟩ := hc
    exact h.elim (Nat.not_le.2 hrow) (absurd h5)
  case report =>
    refine (if_pos hi).trans ?_
    simp only [gateReport, bind_eq, h, hv, finishEvent]
  case stash =>
    dsimp only
    refine ⟨fun hl => ?_, fun u hl h => ?_, fun ia w u h => ?_, fun ia w h => ?_⟩
    · simp only [exec, execStashFill, hm, hl, if_true]
    · simp only [exec, execStashFill, hm, hl, Bool.false_eq_true, if_false, h, finishEvent]
    · simp only [exec, execStashRecall, h, finishEvent]
    · simp only [exec, execStashRecall, recallLine_none h, finishEvent]

/-- Marking entries leaves the package's number (R96). -/
theorem foldl_setMig_pkg (v : Bool) (die : Nat) (as : List Nat) (s : State) : (as.foldl (setMig v die) s).pkg = s.pkg := by
  induction as generalizing s with
  | nil => rfl
  | cons a as ih =>
    refine (ih _).trans ?_
    dsimp only [setMig]
    split <;> rfl

/-- Settles O54: the events are the model's own updates, in the branch that the hypotheses name. -/
theorem translationEvents : Obligations.TranslationEvents := by
  unfold Obligations.TranslationEvents
  refine ⟨fun s => ⟨fun by_ ia kind h => ?noFault, fun tid st ia d va pc op opk size tag data h => ?logged,
    fun by_ ia d kind h hk => ?held, fun tid => ?entry, fun tid seq e u he h => ?replay, fun tid seq he => ?noReplay,
    fun die page h => ?noneHeld, fun die page h => ?someHeld⟩,
    fun s => ⟨fun die ia => rfl, fun index => rfl, fun region die frame hm hb => ?busy, fun region die frame a1 b1 => ?begin,
      fun m die frame a1 b1 => ?finish⟩⟩
  case noFault =>
    refine congrArg Host.Outcome.next ?_
    have hnone : faultingDie s by_ ia = none := by
      unfold faultingDie
      split
      · next d hd => exact absurd hd (h d)
      · rfl
    simp only [hnone]
  case logged =>
    refine congrArg Host.Outcome.next ?_
    simp only [faultingDie, h]
  case held =>
    refine congrArg Host.Outcome.next ?_
    obtain rfl | rfl := hk
    · simp only [faultingDie, h]
    · simp only [faultingDie, h]
  case entry => rfl
  case replay => simp only [exec, execSidelogEntryApply, he, h, finishEvent]
  case noReplay => simp only [exec, execSidelogEntryApply, he]
  case noneHeld =>
    refine ⟨congrArg Host.Outcome.next (if_pos h), congrArg Host.Outcome.next ?_⟩
    simp only [abortPage, h, List.foldl_nil]
  case someHeld => exact ⟨congrArg Host.Outcome.next (if_neg h), rfl⟩
  case busy =>
    refine congrArg Host.Outcome.next ?_
    simp only [hm, List.find?_nil, beginMigration, hb, or_true, true_or, if_true]
  case begin =>
    dsimp only
    intro hm hold hne hb hoff hframe ha hb1
    have hgo : ¬ (s.migrating ≠ [] ∨ 8 ≤ s.homeOf (region * 2 ^ 21) ∨ s.homeOf (region * 2 ^ 21) = die.val ∨ regionBusy s region
        ∨ deviceSpan ≤ region * 2 ^ 21 ∨ 2 ^ 15 ≤ frame) := by
      simp only [hm, hb, hne, not_or, ne_eq, not_true_eq_false, not_false_eq_true, Bool.false_eq_true, true_and, Nat.not_le]
      exact ⟨hold, hoff, hframe⟩
    have hnone : s.migrating.find? (fun m => m.region == region) = none := by rw [hm, List.find?_nil]
    refine ⟨fun hmay => congrArg Host.Outcome.next ?_, fun hmay => congrArg Host.Outcome.next ?_⟩
    · simp only [hnone, beginMigration, if_neg hgo, ha, hb1, hmay, Bool.false_eq_true, if_false]
    · simp only [hnone, beginMigration, if_neg hgo, ha, hb1, hmay, if_true, foldl_setMig_pkg]
  case finish =>
    dsimp only
    intro hm ha hb
    refine ⟨fun he => congrArg Host.Outcome.next ?_, fun he => congrArg Host.Outcome.next ?_⟩
    · simp only [hm, finishMigration, ha, hb, he, if_true]
    · simp only [hm, finishMigration, ha, hb, he, Bool.false_eq_true, if_false]

end Sys2Proof.Machine
end

section
/-! SUPPORT. Steps, printed words, reset, sections and trap entry: O1, O2, O3, O38. -/

namespace Sys2Proof.Machine

/-- Settles O1: the step is the branch of `runStream` that the fetch names, with time and turns around it. -/
theorem stepRunsDecodedWord : Obligations.StepRunsDecodedWord := by
  unfold Obligations.StepRunsDecodedWord
  refine ⟨fun s t i rest ha hans h => ?agenda, fun s ha hrun hbg hres hfin hhalt hheld => ?turn⟩
  case agenda =>
    show step s = _
    simp only [step, ha, hans, if_true, h, around, Bool.false_eq_true, if_false]
    rfl
  case turn =>
    have hturn : s.streamTurn = true := by
      simp only [State.streamTurn, hres, hfin, hhalt, hheld, beq_self_eq_true, Bool.not_false, Bool.true_or, Bool.and_self]
    have hstep : core.step s = around true (runStream s) := by
      show step s = _
      simp only [step, ha, hrun, hbg, not_true_eq_false, Bool.false_eq_true, if_false]
    refine ⟨fun harr => ?enter, fun harr bs hf => ⟨fun i rest hd => ?exec, fun e hd => ?format⟩, fun harr c i va hf => ?trap,
      fun harr d p ia hf => ?hold, fun harr c hf => ?wait⟩
    all_goals rw [hstep]
    case enter =>
      simp only [runStream, hturn, not_true_eq_false, if_false, ne_eq, harr, not_false_eq_true, if_true, around]
      rfl
    case exec =>
      simp only [runStream, hturn, not_true_eq_false, if_false, ne_eq, harr, hf, hd, around, if_true]
      rfl
    case format =>
      simp only [runStream, hturn, not_true_eq_false, if_false, ne_eq, harr, hf, hd, around, if_true]
      rfl
    case trap | hold | wait =>
      simp only [runStream, hturn, not_true_eq_false, if_false, ne_eq, harr, hf, around, if_true]
      rfl

/-- Settles O2: the twelve words are closed, and the decoder runs on each. -/
theorem printedWordsDecode : Obligations.PrintedWordsDecode := by
  unfold Obligations.PrintedWordsDecode
  decide +kernel

/-- Settles O3: each field of the reset state is a literal. -/
theorem resetValues : Obligations.ResetValues := by
  unfold Obligations.ResetValues
  have hslot : ∀ n : Fin 64, State.reset.gslots[n] = GSlot.init := fun n => Vector.getElem_replicate _
  have hfrozen : ∀ n : Fin 16, State.reset.frozen[n] = ⟨0, false, false, 0⟩ := fun n => Vector.getElem_replicate _
  refine ⟨rfl, rfl, fun n => ?slots, rfl, rfl, rfl, rfl, rfl, rfl, rfl, rfl, rfl, rfl, rfl, fun n => ?frozen, rfl, rfl, rfl, rfl,
    rfl, rfl, rfl, rfl, rfl, rfl, rfl, reset_memInv⟩
  case slots =>
    rw [show core.reset.gslots[n] = GSlot.init from hslot n]
    exact ⟨rfl, rfl, rfl, rfl, rfl, rfl, rfl⟩
  case frozen =>
    rw [show core.reset.frozen[n] = ⟨0, false, false, 0⟩ from hfrozen n]
    exact ⟨rfl, rfl⟩

/-- What is done with the fetch of a section's header (R28, R134). -/
def headerReached (lead : BitVec 64) (s : State) : Fetch → State
  | .trap c i va => takeTrapAt c 0 i va va s
  | .hold d p ia => holdFetch d p ia s
  | .wait c => waitFetch c s
  | .bytes hs =>
    match headerFault (bytesNat hs) with
    | some b => takeTrapAt fcIllegalEncoding 0 (BitVec.ofNat 32 (0x40000000 + b)) (lead + 4) (lead + 4) s
    | none =>
      match unmetDep s (bytesNat hs) with
      | some st => setWait (.dep st) s
      | none =>
        modStrm (fun r => { r with
          sec := ⟨lead, BitVec.ofNat 16 (bytesNat hs), BitVec.ofNat 12 (bits (bytesNat hs) 16 12), bitN (bytesNat hs) 28,
            bitN (bytesNat hs) 29⟩
          arrive := .inSection, pc := lead + 12, wait := none }) s

/-- Past a lead unit that is zero, or with none before it, control is at the header (R134, R420). -/
theorem enterSection_begin {s : State} {lead : BitVec 64} (hfin : s.strm.fin = false) (harr : s.strm.arrive ≠ .inSection)
    (hl : lead = if s.strm.arrive = .atLead then s.strm.pc else s.strm.pc - 4)
    (hz : s.strm.arrive = .atLead → fetchUnits s lead 1 = .bytes [0, 0, 0, 0]) :
    enterSection s = headerReached lead s (fetchUnits s (lead + 4) 2) := by
  subst hl
  have hcome : ¬ (s.strm.fin = true ∨ s.strm.arrive = .inSection) :=
    fun h => h.elim (fun h => Bool.false_ne_true (hfin.symm.trans h)) harr
  rw [enterSection, if_neg hcome]
  by_cases hat : s.strm.arrive = .atLead
  · simp only [hat, beq_self_eq_true, if_true] at hz ⊢
    simp only [hz]
    rfl
  · have hne : (s.strm.arrive == .atLead) = false := beq_eq_false_iff_ne.2 hat
    simp only [hne, hat, Bool.false_eq_true, if_false]
    rfl

/-- Settles O38: control at a section, or a trap, is the branch of `enterSection` or `takeTrapAt` that the hypotheses name. -/
theorem sectionAndTrapEntry : Obligations.SectionAndTrapEntry := by
  unfold Obligations.SectionAndTrapEntry
  refine ⟨fun st s hs => ?enter, fun st code op info s => ?trap⟩
  case enter =>
    dsimp only
    intro hfin harr hlead hhead
    have hcome := enterSection_begin hfin harr rfl hlead
    refine ⟨fun b hb => congrArg Host.Outcome.next ?_, fun d hh hd => congrArg Host.Outcome.next ?_,
      fun hh hd => congrArg Host.Outcome.next ?_⟩
    · simp only [withStream, hcome, hhead, headerReached, hb]
    · simp only [withStream, hcome, hhead, headerReached, hh, hd, setWait]
    · simp only [withStream, hcome, hhead, headerReached, hh, hd]
  case trap =>
    dsimp only
    intro hv hc
    refine congrArg Host.Outcome.next ?_
    simp only [withStream, takeTrap, takeTrapAt, if_pos (And.intro hv hc)]
    rfl

end Sys2Proof.Machine
end

section
/-! SUPPORT. Management registers: what a write to a block of BAR0 does; with them O55. -/

namespace Sys2Proof.Machine

/-- Whether a circuit is established, as a test of the table. -/
theorem any_up_iff (s : State) : (s.circuits.any (fun c => c.state == .up)) = true ↔ ∃ c ∈ s.circuits, c.state = .up := by
  simp only [List.any_eq_true, beq_iff_eq]

/-- PKGNUM's two cases (R368). -/
theorem writePkgnum_held {v : BitVec 64} {s : State} (h : s.anyResident = true ∨ ∃ c ∈ s.circuits, c.state = .up) :
    writePkgnum v s = s := if_pos (h.imp id (any_up_iff s).2)

theorem writePkgnum_free {v : BitVec 64} {s : State} (hr : s.anyResident = false) (hc : ∀ c ∈ s.circuits, c.state ≠ .up) :
    writePkgnum v s = { s with pkgnum := v &&& 0xFFF#64 } := by
  refine if_neg fun h => ?_
  obtain h | h := h
  · exact Bool.false_ne_true (hr.symm.trans h)
  · obtain ⟨c, hm, hup⟩ := (any_up_iff s).1 h
    exact hc c hm hup

/-- One 64-bit word of PKGMAP is replaced (R368). -/
theorem writePkgmap_bits (word : Fin 32) (v : BitVec 64) (s : State) (i : Nat) (hi : i < 2048) :
    (writePkgmap word.val v s).pkgmap.getLsbD i = if i / 64 = word.val then v.getLsbD (i % 64) else s.pkgmap.getLsbD i := by
  have hw : word.val % 32 = word.val := Nat.mod_eq_of_lt word.isLt
  simp only [writePkgmap, hw, BitVec.getLsbD_or, BitVec.getLsbD_and, BitVec.getLsbD_not, BitVec.getLsbD_shiftLeft,
    BitVec.getLsbD_setWidth, BitVec.getLsbD_allOnes, hi, decide_true, Bool.true_and]
  by_cases hlo : i < 64 * word.val
  · have hne : i / 64 ≠ word.val := by omega
    simp only [hlo, hne, decide_true, Bool.not_true, Bool.false_and, Bool.not_false, Bool.and_true, Bool.or_false, if_false]
  · by_cases hin : i - 64 * word.val < 64
    · have heq : i / 64 = word.val := by omega
      have hsub : i - 64 * word.val = i % 64 := by omega
      have h64 : i % 64 < 64 := Nat.mod_lt _ (by decide)
      have h2048 : i % 64 < 2048 := by omega
      simp only [hlo, heq, hsub, h64, h2048, decide_true, decide_false, Bool.not_false, Bool.and_self, Bool.true_and, Bool.not_true,
        Bool.and_false, Bool.false_or, if_true]
    · have hne : i / 64 ≠ word.val := by omega
      have hv : v.getLsbD (i - 64 * word.val) = false := BitVec.getLsbD_of_ge _ _ (by omega)
      simp only [hlo, hin, hne, hv, decide_false, Bool.not_false, Bool.and_false, Bool.and_true, Bool.or_false, if_false]

/-- The blocks of BAR0 that an offset falls in (Table 16.3). -/
theorem writeReg_walker {d reg : Nat} {v : BitVec 64} {s : State} (hb : s.bootFail = 0) (hd : d < 8) (hr : reg < 0x100) (h8 : reg % 8 = 0) :
    writeReg (0x20000 + 0x100 * d + reg) v s = writeWalkerReg d reg v s := by
  have hdie : (0x20000 + 0x100 * d + reg - 0x20000) / 0x100 = d := by omega
  have hreg : (0x20000 + 0x100 * d + reg - 0x20000) % 0x100 = reg := by omega
  simp (disch := omega) only [writeReg, if_neg, if_pos, hdie, hreg]

theorem writeReg_slot {n reg : Nat} {v : BitVec 64} {s : State} (hb : s.bootFail = 0) (hn : n < 64) (hr : reg < 32) (h8 : reg % 8 = 0) :
    writeReg (0x40000 + 32 * n + reg) v s = writeSlotReg n reg v s := by
  have hslot : (0x40000 + 32 * n + reg - 0x40000) / 32 = n := by omega
  have hreg : (0x40000 + 32 * n + reg - 0x40000) % 32 = reg := by omega
  simp (disch := omega) only [writeReg, if_neg, if_pos, hslot, hreg]

theorem writeReg_ring {n reg : Nat} {v : BitVec 64} {s : State} (hb : s.bootFail = 0) (hn : n < 64) (hr : reg < 16) (h8 : reg % 8 = 0) :
    writeReg (0x50000 + 16 * n + reg) v s = some (writeRingReg n reg v s) := by
  have hunit : (0x50000 + 16 * n + reg - 0x50000) / 16 = n := by omega
  have hreg : (0x50000 + 16 * n + reg - 0x50000) % 16 = reg := by omega
  simp (disch := omega) only [writeReg, if_neg, if_pos, hunit, hreg]

theorem writeReg_optical {reg : Nat} {v : BitVec 64} {s : State} (hb : s.bootFail = 0) (hr : reg < 0x200) (h8 : reg % 8 = 0) :
    writeReg (0x60000 + reg) v s = writeOpticalReg reg v s := by
  have hreg : 0x60000 + reg - 0x60000 = reg := by omega
  simp (disch := omega) only [writeReg, if_neg, if_pos, hreg]

/-- A write outside a failed bring-up, at the block of BAR0 that its offset names. -/
theorem registerWrite_eq {off : Nat} {v : BitVec 64} {s t : State} (h : writeReg off v s = some t) :
    exec (.registerWrite off v) s = .next t := by
  simp only [exec, execRegisterWrite, h]

/-- The one pending write of a register takes effect as it is read back (R385). -/
theorem readBack_own {off : Nat} {v : BitVec 64} {s : State} (h : s.regPend = []) :
    readBack off 8 { s with regPend := [(off, v)] } = regEffect off v s := by
  have hhit : (decide (off < off + 8) && decide (off < off + 8)) = true := by simp
  have hs : ({ s with regPend := [] } : State) = s := by rw [← h]
  simp only [readBack, List.filter_cons, hhit, if_true, List.filter_nil, Bool.not_true, Bool.false_eq_true, if_false, List.foldl_cons,
    List.foldl_nil, hs]

/-- The pending writes of a die's walker registers (R94, R434). -/
theorem regEffect_walker {d : Fin 8} {v : BitVec 64} {s : State} :
    regEffect (0x20000 + 0x100 * d.val + 8) v s = invalidatePage d.val (iaOff v.toNat / 65536) s := by
  have hd : (0x20000 + 0x100 * d.val + 8 - 0x20000) / 0x100 = d.val := by omega
  simp (disch := omega) only [regEffect, if_neg, if_pos, hd]

theorem regEffect_faultres {d : Fin 8} {v : BitVec 64} {s : State} :
    (bits v.toNat 0 2 = 1 → regEffect (0x20000 + 0x100 * d.val + 16) v s = retryPage d.val (bits v.toNat 16 42) s)
    ∧ (bits v.toNat 0 2 = 2 → regEffect (0x20000 + 0x100 * d.val + 16) v s = abortPage d.val (bits v.toNat 16 42) s) := by
  have hd : (0x20000 + 0x100 * d.val + 16 - 0x20000) / 0x100 = d.val := by omega
  refine ⟨fun h => ?_, fun h => ?_⟩
  all_goals simp (disch := omega) only [regEffect, if_neg, hd, h]

theorem regEffect_pkgmap {w : Fin 32} {v : BitVec 64} {s : State} : regEffect (0x60100 + 8 * w.val) v s = writePkgmap w.val v s := by
  have hw : (0x60100 + 8 * w.val - 0x60100) / 8 = w.val := by omega
  simp (disch := omega) only [regEffect, if_neg, if_pos, hw]

/-- Settles O55: each offset falls in its block, and each read-back takes its register's effect. -/
theorem registerWrites : Obligations.RegisterWrites := by
  unfold Obligations.RegisterWrites
  refine fun s v => ⟨fun h => congrArg Host.Outcome.next (writePkgnum_held h), fun hr hc => congrArg Host.Outcome.next (writePkgnum_free hr hc),
    fun word => ⟨writePkgmap word.val v s, rfl, rfl, rfl, writePkgmap_bits word v s⟩, fun off hb => registerWrite_eq (if_pos hb),
    fun hb => ⟨?bodyBase, ?tagBase, fun d => ?root, fun off hoff => ?pends, ?pkgnum, fun n => ?grstart, fun n => ⟨?base, ?log2, ?lighter⟩,
      ?hwbase, ?errBase, ?errLost⟩,
    fun off hp => ?readBack, rfl, rfl, rfl, fun w => ?pkgmap, fun d => ⟨?walker, fun h => ?retry, fun h => ?abort⟩⟩
  case bodyBase | tagBase | errBase | errLost =>
    refine registerWrite_eq ?_
    simp (disch := omega) only [writeReg, if_neg, if_pos, if_true, writeErrorReg]
  case root =>
    refine registerWrite_eq ((writeReg_walker (reg := 0) hb d.isLt (by decide) rfl).trans ?_)
    rfl
  case pends =>
    obtain rfl | rfl | ⟨d, rfl | rfl⟩ | ⟨w, rfl⟩ := hoff
    · refine registerWrite_eq ?_
      simp (disch := omega) only [writeReg, if_neg, if_true, pendReg]
    · exact registerWrite_eq (writeReg_optical (reg := 0x20) hb (by decide) rfl)
    · exact registerWrite_eq (writeReg_walker (reg := 8) hb d.isLt (by decide) rfl)
    · exact registerWrite_eq (writeReg_walker (reg := 16) hb d.isLt (by decide) rfl)
    · have hoff : 0x60100 + 8 * w.val = 0x60000 + (0x100 + 8 * w.val) := by omega
      rw [hoff]
      refine registerWrite_eq ((writeReg_optical (reg := 0x100 + 8 * w.val) hb (by omega) (by omega)).trans ?_)
      simp (disch := omega) only [writeOpticalReg, if_neg, if_pos, pendReg]
  case pkgnum =>
    refine registerWrite_eq ((writeReg_optical (reg := 0x10) hb (by decide) rfl).trans ?_)
    simp only [writeOpticalReg, any_up_iff, pendReg]
    rfl
  case grstart => exact registerWrite_eq (writeReg_slot (reg := 8) hb n.isLt (by decide) rfl)
  case base =>
    refine registerWrite_eq ((writeReg_ring (reg := 0) hb (by omega) (by decide) rfl).trans ?_)
    simp (disch := omega) only [writeRingReg, if_pos, if_true, Fin.ofNat_eq_cast, Fin.cast_val_eq_self]
  case log2 =>
    refine registerWrite_eq ((writeReg_ring (reg := 8) hb (by omega) (by decide) rfl).trans ?_)
    simp (disch := omega) only [writeRingReg, if_pos, if_neg, Fin.ofNat_eq_cast, Fin.cast_val_eq_self]
  case lighter =>
    have hoff : 0x50200 + 16 * n.val = 0x50000 + 16 * (32 + n.val) + 0 := by omega
    have hunit : Fin.ofNat 32 (32 + n.val) = n := Fin.ext (by simp)
    rw [hoff]
    refine registerWrite_eq ((writeReg_ring (reg := 0) hb (by omega) (by decide) rfl).trans ?_)
    simp (disch := omega) only [writeRingReg, if_neg, if_true, hunit]
  case hwbase => exact registerWrite_eq (writeReg_optical (reg := 0x28) hb (by decide) rfl)
  case readBack => rw [readBar0, readBack_own hp]
  case pkgmap => rw [regEffect_pkgmap]; rfl
  case walker => rw [regEffect_walker]; rfl
  case retry => rw [regEffect_faultres.1 h]; rfl
  case abort => rw [regEffect_faultres.2 h]; rfl

end Sys2Proof.Machine
end

section
/-! SUPPORT. Error records, fences, ageing, power, checkpoints, package reset: O56 and O57. -/

namespace Sys2Proof.Machine

/-- A fold of maxima is at least each of its arguments, and at most a bound of all. -/
theorem le_foldl_max {α : Type} (f : α → Nat) (l : List α) (n : Nat) : n ≤ l.foldl (fun n x => max n (f x)) n := by
  induction l generalizing n with
  | nil => exact Nat.le_refl n
  | cons x l ih => exact Nat.le_trans (Nat.le_max_left _ _) (ih _)

theorem mem_le_foldl_max {α : Type} (f : α → Nat) {l : List α} {x : α} (h : x ∈ l) (n : Nat) :
    f x ≤ l.foldl (fun n x => max n (f x)) n := by
  induction l generalizing n with
  | nil => exact absurd h List.not_mem_nil
  | cons y l ih =>
    obtain rfl | h := List.mem_cons.1 h
    · exact Nat.le_trans (Nat.le_max_right _ _) (le_foldl_max f l _)
    · exact ih h _

theorem foldl_max_lt {α : Type} (f : α → Nat) {l : List α} {b : Nat} (h : ∀ x ∈ l, f x < b) {n : Nat} (hn : n < b) :
    l.foldl (fun n x => max n (f x)) n < b := by
  induction l generalizing n with
  | nil => exact hn
  | cons y l ih => exact ih (fun x hx => h x (List.mem_cons_of_mem y hx)) (Nat.max_lt.2 ⟨hn, h y List.mem_cons_self⟩)

/-- No image of a modelled package records a higher SEQ (R415). -/
theorem image_seq_le {s : State} {p : Pack} (hp : p ∈ s.packs) {im : Image} (hi : p.image = some im) : im.seq ≤ s.imageSeq := by
  have hm : im ∈ s.packs.filterMap (·.image) := List.mem_filterMap.2 ⟨p, hp, hi⟩
  have hlt := foldl_max_lt (fun im : Image => im.seq.toNat) (l := s.packs.filterMap (·.image)) (b := 2 ^ 32)
    (fun im _ => im.seq.isLt) (n := 0) (by decide)
  have hle := mem_le_foldl_max (fun im : Image => im.seq.toNat) hm 0
  rw [BitVec.le_def, State.imageSeq, BitVec.toNat_ofNat, Nat.mod_eq_of_lt hlt]
  exact hle

/-- Settles O56: each event is the branch of its function that the hypotheses name. -/
theorem errorAndManagementEvents : Obligations.ErrorAndManagementEvents := by
  unfold Obligations.ErrorAndManagementEvents
  refine ⟨fun s => ⟨fun h => ?noRecord, fun r rest u hh hl h => ?record, fun u n => ?corrected, fun key hk => if_pos hk,
      fun index => rfl, rfl, fun tid t ht => ⟨fun hr => ?taskState, fun off ho hp => ?localStore⟩, fun die addr ha => ?scrub⟩,
    fun s => ?fences, fun s => ?manage⟩
  case noRecord =>
    have hw : writeRecord s = .ok ((), s) := by
      cases hh : s.errHeld with
      | nil => simp only [writeRecord, bind_eq, getS_eq, hh, pure_eq]
      | cons r rest => simp only [writeRecord, bind_eq, getS_eq, hh, h.resolve_left (hh ▸ List.cons_ne_nil r rest), if_true, pure_eq]
    simp only [exec, execErrorRecordWrite, hw, finishEvent]
  case record =>
    simp only [exec, execErrorRecordWrite, writeRecord, bind_eq, getS_eq, hh, hl, if_false, h, if_true, modS_eq, finishEvent]
  case corrected =>
    dsimp only
    refine ⟨fun h => congrArg Host.Outcome.next ?_, fun h hu => congrArg Host.Outcome.next ?_,
      fun h d f hu hp => congrArg Host.Outcome.next ?_⟩
    · have hc := decide_eq_false (Nat.not_lt.2 h)
      simp only [countCorrected, hc, Bool.false_eq_true, false_and, if_false]
    · have hc := decide_eq_true h
      simp only [countCorrected, hc, if_true]
      refine if_pos ⟨trivial, ?_⟩
      obtain hne | hp := hu
      · refine .inl fun hf => ?_
        split at hf
        · exact hne _ _ rfl
        · exact Bool.false_ne_true hf
      · exact .inr (by rw [hp])
    · subst hu
      have hc := decide_eq_true h
      simp only [countCorrected, hc, if_true]
      exact if_neg fun hall => hall.2.elim (fun hn => hn trivial) (fun h2 => hp (by omega))
  case taskState =>
    refine congrArg Host.Outcome.next ?_
    simp only [ht, hr, if_true]
  case localStore =>
    have hin : ¬ (lsOver off 1 = true ∨ (getTask? s tid).isNone = true) := by
      simp only [lsOver, ht, Option.isNone_some, Bool.false_eq_true, or_false, Bool.and_eq_true, decide_eq_true_eq, not_and]
      intro _
      have : Config.lsBytes = 0x180000 := rfl
      omega
    exact congrArg Host.Outcome.next (if_neg hin)
  case scrub =>
    have hin : ¬ Config.stackBytes ≤ addr := Nat.not_le.2 ha
    exact ⟨if_neg hin, if_neg hin, if_neg hin⟩
  case fences =>
    dsimp only
    refine ⟨fun n l hn => congrArg Host.Outcome.next (if_pos hn), fun n => rfl, fun n => rfl, fun n hn => ?slice, fun d a ha hf => ?frame,
      fun d a ha => if_pos ha⟩
    case slice =>
      refine congrArg Host.Outcome.next ?_
      simp only [fenceUnit, hn, Bool.false_eq_true, if_false]
    case frame =>
      refine (if_neg (Nat.not_le.2 ha)).trans (congrArg Host.Outcome.next ?_)
      simp only [fenceUnit, hf, Bool.false_eq_true, if_false]
  case manage =>
    refine ⟨fun core => ?ageing, fun hr => congrArg Host.Outcome.next (if_pos hr), fun hr => ?speeds, rfl, ⟨fun hq hm => ?made, fun h => ?waits⟩,
      fun hi => ?noImage, fun im hi => ?restores, fun p hp im hi => image_seq_le hp hi, fun b => rfl, fun h => congrArg Host.Outcome.next (if_neg h),
      fun h => congrArg Host.Outcome.next (if_pos h), fun h hq => congrArg Host.Outcome.next (if_pos ⟨h, hq⟩),
      fun h hq hr => ?rest, fun hq => ?busy, rfl⟩
    case ageing =>
      have hcore : s.cores[core.val]? = some s.cores[core] := Vector.getElem?_eq_getElem core.isLt
      refine ⟨congrArg Host.Outcome.next ?_, fun hs hg => congrArg Host.Outcome.next ?_, fun h => congrArg Host.Outcome.next ?_⟩
      · simp only [marginLow, hcore, if_true]
      · simp only [marginLow, hcore, Bool.false_eq_true, if_false, if_neg (not_or.2 ⟨Nat.not_lt.2 hs, Nat.not_lt.2 hg⟩), modCore,
          dif_pos core.isLt]
        rfl
      · simp only [marginLow, hcore, Bool.false_eq_true, if_false, if_pos h]
    case speeds =>
      refine congrArg Host.Outcome.next (if_neg ?_)
      simp only [hr, Bool.false_eq_true, not_false_eq_true]
    case made => exact congrArg Host.Outcome.next (if_pos ⟨hq, hm⟩)
    case waits =>
      refine congrArg Host.Outcome.next (if_neg fun hall => ?_)
      obtain ⟨hq, hm⟩ := hall
      exact h.elim (fun hf => Bool.false_ne_true (hf.symm.trans hq)) (fun hn => hn hm)
    case noImage | restores =>
      refine congrArg Host.Outcome.next ?_
      simp only [hi]
    case rest =>
      refine congrArg Host.Outcome.next (if_pos ⟨h, hq, ?_⟩)
      simp only [hr, Bool.false_eq_true, not_false_eq_true]
    case busy =>
      refine congrArg Host.Outcome.next (if_neg fun hall => ?_)
      obtain ⟨-, ht, -⟩ := hall
      exact Bool.false_ne_true (hq.symm.trans ht)

end Sys2Proof.Machine
end

section
/-! SUPPORT. Package reset: memory cleared, boot stages, calibration; with them O57. -/

namespace Sys2Proof.Machine

/-- What is read after the cells of some keys are dropped. -/
theorem readCell_filter (p : Nat → Bool) (m : List Host.Cell) (k : Nat) :
    readCell (m.filter (fun c => p c.1)) k = if p k then readCell m k else 0 := by
  induction m with
  | nil => simp only [List.filter_nil, readCell, ite_self]
  | cons c m ih =>
    obtain ⟨a, v⟩ := c
    rw [List.filter_cons]
    by_cases ha : a = k
    · subst ha
      cases hp : p a with
      | true => simp only [if_true, readCell]
      | false => simp only [Bool.false_eq_true, if_false, ih, hp]
    · cases hp : p a with
      | true => simp only [if_true, readCell, if_neg ha, ih]
      | false => simp only [Bool.false_eq_true, if_false, readCell, if_neg ha, ih]

/-- A package without a number sets up no circuit at bring-up (R368). -/
theorem foldl_bootCircuit_unnumbered (xs : List (SetupReq × BitVec 20)) {s : State} (h : s.pkgnum = 0) :
    xs.foldl bootCircuit s = s := by
  induction xs with
  | nil => rfl
  | cons x xs ih =>
    have hbit : s.pkgnum.getLsbD 11 = false := by
      rw [h]
      decide
    have hmay : maySetup s x.1 = false := by simp only [maySetup, hbit, Bool.false_and]
    have hx : bootCircuit s x = s := by simp only [bootCircuit, hmay, Bool.false_eq_true, if_false]
    rw [List.foldl_cons, hx, ih]

/-- The entry that calibration finds lies between 1.90 GHz and where it starts (R381). -/
theorem calibrate_bounds {pass n speed x : Nat} (h : calibrate pass n speed = some x) : 1900 ≤ x ∧ x ≤ speed := by
  induction n generalizing speed with
  | zero => exact nomatch h
  | succ n ih =>
    rw [calibrate] at h
    split at h
    · exact nomatch h
    · next hlo =>
      split at h
      · exact Option.some.inj h ▸ ⟨Nat.not_lt.1 hlo, Nat.le_refl _⟩
      · obtain ⟨h1, h2⟩ := ih h
        exact ⟨h1, by omega⟩

/-- The boot stages as the order of their checks (R379). -/
theorem bootStages_eq (b : BootInputs) (f : Fuses) :
    bootStages b f = if b.fusesOk = false ∨ f.ok = false then 0x101 else if imageOk b f = false then 0x202
      else if b.hbmOk = false then 0x303 else if calibrateAll f b.passes = none then 0x404 else 0xE := by
  simp only [bootStages, Bool.not_eq_true, Option.isNone_iff_eq_none]

/-- READY is set by the last stage alone (R379, Table 16.4). -/
theorem bootStages_ready (b : BootInputs) (f : Fuses) : (bootStages b f).getLsbD 3 = decide (bootStages b f = 0xE) := by
  unfold bootStages
  split
  · rfl
  split
  · rfl
  split
  · rfl
  split
  · rfl
  · rfl

/-- The state after a package reset (R379). -/
theorem packageReset_eq (b : BootInputs) (s : State) :
    exec (.packageReset b) s = .next (if bootStages b s.fuses = 0xE then
      writeSpeeds ((calibrateAll s.fuses b.passes).getD []) { coldReset s with bootst := bootStages b s.fuses }
      else { coldReset s with bootst := bootStages b s.fuses }) := by
  refine congrArg Host.Outcome.next ?_
  dsimp only
  rw [bootStages_ready, foldl_bootCircuit_unnumbered _ rfl]
  simp only [decide_eq_true_eq]

/-- Settles O57: the reset state is a literal but for memory and the fuses, and each check of bring-up decides its stage. -/
theorem packageReset : Obligations.PackageReset := by
  unfold Obligations.PackageReset
  intro s b
  dsimp only
  rw [← bootStages_eq b s.fuses]
  refine ⟨packageReset_eq b s, ⟨_, packageReset_eq b s, ?_⟩, fun h => ?image, fun xs h => ?speeds⟩
  · have hmem : ∀ k, readCell (coldReset s).mem k = if k < 2 ^ 58 then 0 else readCell s.mem k := fun k => by
      have hk := readCell_filter (fun a => decide (2 ^ 58 ≤ a)) s.mem k
      simp only [decide_eq_true_eq] at hk
      refine hk.trans ?_
      by_cases hlt : k < 2 ^ 58
      · rw [if_neg (Nat.not_le.2 hlt), if_pos hlt]
      · rw [if_pos (Nat.not_lt.1 hlt), if_neg hlt]
    split
    · exact ⟨rfl, rfl, rfl, rfl, rfl, rfl, rfl, rfl, hmem⟩
    · exact ⟨rfl, rfl, rfl, rfl, rfl, rfl, rfl, rfl, hmem⟩
  case image =>
    obtain hkey | hver := h
    · simp only [imageOk, beq_eq_false_iff_ne.2 hkey, Bool.false_and]
    · simp only [imageOk, decide_eq_false (Nat.not_le.2 hver), Bool.and_false]
  case speeds =>
    simp only [calibrateAll] at h
    split at h
    · next hc =>
      obtain ⟨hlen, hsum⟩ := hc
      obtain rfl := Option.some.inj h
      refine ⟨hlen, hsum, fun x hx => ?_⟩
      obtain ⟨i, -, hi⟩ := List.mem_filterMap.1 hx
      obtain ⟨hlo, hhi⟩ := calibrate_bounds hi
      exact ⟨hlo, Nat.le_trans hhi (Nat.min_le_left _ _)⟩
    · exact nomatch h

end Sys2Proof.Machine
end

section
/-! SUPPORT. Flits: their header's fields, the sender's turn-over, the receiver's checks; with them O58. -/

namespace Sys2Proof.Machine

/-- The fields of a flit's header read back (Table 15.3). -/
theorem flitHeader_toNat (ctr seq : Nat) (slot : Bool) (kind : Nat) :
    (flitHeader ctr seq slot kind).toNat = ctr % 2 ^ 48 * 2 ^ 16 + seq % 4096 * 16 + b2n slot * 8 + kind % 8 := by
  rw [flitHeader, BitVec.toNat_ofNat]
  refine Nat.mod_eq_of_lt ?_
  have hslot : b2n slot ≤ 1 := by cases slot <;> decide
  omega

section Sealed
variable (key : BitVec 256) (salt : BitVec 48) (ctr seq : Nat) (slot : Bool) (kind : Nat) (text : BitVec 2048)

theorem flitCtr_sealFlit : flitCtr (sealFlit key salt ctr seq slot kind text) = ctr % 2 ^ 48 := by
  have hslot : b2n slot ≤ 1 := by cases slot <;> decide
  simp only [flitCtr, sealFlit, flitHeader_toNat, bits]
  omega

theorem flitSeq_sealFlit : flitSeq (sealFlit key salt ctr seq slot kind text) = seq % 4096 := by
  have hslot : b2n slot ≤ 1 := by cases slot <;> decide
  simp only [flitSeq, sealFlit, flitHeader_toNat, bits]
  omega

theorem flitKind_sealFlit : flitKind (sealFlit key salt ctr seq slot kind text) = kind % 8 := by
  simp only [flitKind, sealFlit, flitHeader_toNat, bits]
  omega

theorem flitSlot_sealFlit : flitSlot (sealFlit key salt ctr seq slot kind text) = slot := by
  simp only [flitSlot, sealFlit, flitHeader_toNat, bitN]
  cases slot with
  | false =>
    rw [beq_eq_false_iff_ne, show b2n false = 0 from rfl]
    omega
  | true =>
    rw [beq_iff_eq, show b2n true = 1 from rfl]
    omega

end Sealed

/-- A new flit under a slot that holds a key (R372). -/
theorem push_eq {d : SendDir} {k : BitVec 256} (h : d.key d.slot = some k) (kind : Nat) (text : BitVec 2048) :
    d.push kind text = { d with
      unacked := d.unacked ++ [(sealFlit k (d.salt d.slot) d.ctr d.seq d.slot kind text, text)]
      wire := d.wire ++ [sealFlit k (d.salt d.slot) d.ctr d.seq d.slot kind text], ctr := d.ctr + 1, seq := (d.seq + 1) % 4096 } := by
  simp only [SendDir.push, h]

/-- When a sender is open (R372, R374, R465). -/
theorem open_iff {d : SendDir} : d.open_ = true ↔
    d.stopped = false ∧ d.unacked.length < 2048 ∧ (d.key d.slot).isSome = true ∧ d.ctr < ctrStop := by
  simp only [SendDir.open_, Bool.and_eq_true, Bool.not_eq_true', decide_eq_true_eq, and_assoc]

/-- The keys of the two slots after one is replaced. -/
theorem setKey_key (d : SendDir) (a : Bool) (k : Option (BitVec 256)) :
    (d.setKey a k).key a = k ∧ (d.setKey a k).key (!a) = d.key (!a) := by
  cases a with
  | false => exact ⟨rfl, rfl⟩
  | true => exact ⟨rfl, rfl⟩

/-- What a receiver does with a flit of an established circuit, by the check that decides (R372, R462). -/
theorem receiveFlit_up {id : Nat} {f : FlitIn} {rtt : BitVec 20} {s : State} {c : Circuit} (hc : getCirc? s id = some c)
    (hup : c.state = .up) :
    (judge c.rx f = .passes → receiveFlit id f rtt s = flitEffect id f (c.rx.text? f) rtt
      (modCirc id (fun c => { c with rx := c.rx.accept f, idle := 0 }) (if f.corrected then countCorrected (.optical c.engine) 1 s else s)))
    ∧ (judge c.rx f = .auth → receiveFlit id f rtt s = rejectAuth c f (if f.corrected then countCorrected (.optical c.engine) 1 s else s))
    ∧ (judge c.rx f = .codeword ∨ judge c.rx f = .crc ∨ judge c.rx f = .order → receiveFlit id f rtt s = rejectPlain c f s) := by
  refine ⟨fun h => ?_, fun h => ?_, fun h => ?_⟩
  · simp only [receiveFlit, hc, hup, ne_eq, not_true_eq_false, if_false, h]
  · simp only [receiveFlit, hc, hup, ne_eq, not_true_eq_false, if_false, h]
  · obtain h | h | h := h
    all_goals simp only [receiveFlit, hc, hup, ne_eq, not_true_eq_false, if_false, h]

/-- A flit that is neither an acknowledgement nor of time sync brings about nothing more (R371). -/
theorem flitEffect_other {id : Nat} {f : FlitIn} {text : BitVec 2048} {rtt : BitVec 20} {s : State} (h2 : flitKind f ≠ 2)
    (h4 : flitKind f ≠ 4) : flitEffect id f text rtt s = s := by
  unfold flitEffect
  split
  · next h => exact absurd h h2
  · next h => exact absurd h h4
  · rfl

/-- A flit event of a circuit: nothing without its kind, nothing while the circuit is not established, and else its checks. -/
def FlitRule (id : Nat) (f : FlitIn) (c : Circuit) (s : State) (kind : Prop) (i : Instr) : Prop :=
  (¬ kind → exec i s = .next s)
  ∧ (c.state ≠ .up → flitKind f ≠ 4 → exec i s = .next s)
  ∧ (c.state = .up → kind → flitKind f ≠ 4 →
    let t := if f.corrected then countCorrected (.optical c.engine) 1 s else s
    let got := modCirc id (fun c => { c with rx := c.rx.accept f, idle := 0 }) t
    (judge c.rx f = .passes → flitKind f ≠ 2 → exec i s = .next got)
    ∧ (judge c.rx f = .passes → flitKind f = 2 → exec i s = .next (modCirc id (fun d => { d with
        tx := d.tx.acked (bits (c.rx.text? f).toNat 0 12) (bitN (c.rx.text? f).toNat 12) }) got))
    ∧ (judge c.rx f = .auth → exec i s = .next (rejectAuth c f t))
    ∧ (judge c.rx f = .codeword ∨ judge c.rx f = .crc ∨ judge c.rx f = .order → exec i s = .next (rejectPlain c f s)))

/-- An event that is the receiver's, where the flit is of its kind, follows the rule. -/
theorem flitRule_of_receive {id : Nat} {f : FlitIn} {c : Circuit} {s : State} {kind : Prop} {i : Instr} (rtt : BitVec 20)
    (hc : getCirc? s id = some c) (hno : ¬ kind → exec i s = .next s)
    (hyes : kind → flitKind f ≠ 4 → exec i s = .next (receiveFlit id f rtt s)) : FlitRule id f c s kind i := by
  refine ⟨hno, fun hdown h4 => ?_, fun hup hk h4 => ?_⟩
  · by_cases hk : kind
    · rw [hyes hk h4]
      refine congrArg Host.Outcome.next ?_
      simp only [receiveFlit, hc, ne_eq, hdown, not_false_eq_true, if_true]
    · exact hno hk
  · obtain ⟨hpass, hauth, hplain⟩ := receiveFlit_up (rtt := rtt) hc hup
    rw [hyes hk h4]
    refine ⟨fun h h2 => congrArg Host.Outcome.next ((hpass h).trans (flitEffect_other h2 h4)), fun h h2 => congrArg Host.Outcome.next ?_,
      fun h => congrArg Host.Outcome.next (hauth h), fun h => congrArg Host.Outcome.next (hplain h)⟩
    rw [hpass h]
    simp only [flitEffect, h2]

/-- The four flit events follow the rule (R371, R372). -/
theorem flitEvents_rule {s : State} {id : Nat} {f : FlitIn} {c : Circuit} (rtt : BitVec 20) (hc : getCirc? s id = some c) :
    FlitRule id f c s (flitKind f = 0 ∨ flitKind f = 3) (.flitDataReceive id f)
    ∧ FlitRule id f c s (flitKind f = 1) (.keyMarkerReceive id f)
    ∧ FlitRule id f c s (flitKind f = 2) (.flitAckReceive c.far id f)
    ∧ FlitRule id f c s (flitKind f = 4) (.timeSyncReceive id f rtt) := by
  refine ⟨flitRule_of_receive (rttOf s id) hc (fun h => ?data0) (fun h _ => ?data), flitRule_of_receive (rttOf s id) hc (fun h => ?key0) (fun h _ => ?key),
    flitRule_of_receive (rttOf s id) hc (fun h => ?ack0) (fun h _ => ?ack), flitRule_of_receive rtt hc (fun h => ?sync0) (fun h h4 => absurd h h4)⟩
  case data0 | key0 | sync0 => exact congrArg Host.Outcome.next (if_neg h)
  case data | key => exact congrArg Host.Outcome.next (if_pos h)
  case ack0 => exact congrArg Host.Outcome.next (if_neg fun ha => h ha.1)
  case ack => exact congrArg Host.Outcome.next (if_pos ⟨h, congrArg (Option.map (·.far)) hc⟩)

/-- The checks of a flit, in their order (R372, R373, R462). -/
theorem judge_cases (d : RecvDir) (f : FlitIn) (k : BitVec 256) :
    (f.codewordOk = false → judge d f = .codeword)
    ∧ (f.codewordOk = true → crc32 (flitBytes f.header f.payload f.tag) ≠ f.crc → judge d f = .crc)
    ∧ (f.codewordOk = true → crc32 (flitBytes f.header f.payload f.tag) = f.crc → flitSeq f ≠ d.seq → judge d f = .order)
    ∧ (f.codewordOk = true → crc32 (flitBytes f.header f.payload f.tag) = f.crc → flitSeq f = d.seq →
      (d.key (flitSlot f) = none → judge d f = .auth)
      ∧ (∀ n, d.key (flitSlot f) = some k → d.last (flitSlot f) = some n → flitCtr f ≤ n → judge d f = .auth)
      ∧ (∀ n, d.key (flitSlot f) = some k → d.last (flitSlot f) = some n → n < flitCtr f →
        gcmTag k (flitIv (d.salt (flitSlot f)) (flitCtr f)) f.header f.payload = f.tag → judge d f = .passes)) := by
  refine ⟨fun h => ?_, fun h hc => ?_, fun h hc hs => ?_, fun h hc hs => ⟨fun hk => ?_, fun n hk hl hn => ?_, fun n hk hl hn ht => ?_⟩⟩
  · simp only [judge, h, Bool.false_eq_true, not_false_eq_true, if_true]
  · simp only [judge, h, not_true_eq_false, if_false, ne_eq, hc, not_false_eq_true, if_true]
  · simp only [judge, h, not_true_eq_false, if_false, ne_eq, hc, hs, not_false_eq_true, if_true]
  · simp only [judge, h, not_true_eq_false, if_false, ne_eq, hc, hs, hk]
  · simp only [judge, h, not_true_eq_false, if_false, ne_eq, hc, hs, hk, hl, decide_eq_false (Nat.not_lt.2 hn), Bool.false_eq_true, false_and]
  · simp only [judge, h, not_true_eq_false, if_false, ne_eq, hc, hs, hk, hl, decide_eq_true hn, ht, and_self, if_true]

/-- Accepting a flit: SEQ, the slot's counter, and a marker's slot (R372, R374). -/
theorem accept_fields (d : RecvDir) (f : FlitIn) :
    (d.accept f).seq = (d.seq + 1) % 4096 ∧ (d.accept f).last (flitSlot f) = some (flitCtr f)
    ∧ (flitKind f = 1 → (d.accept f).key (flitSlot f) = none) := by
  refine ⟨?_, ?_, fun h => ?_⟩
  · unfold RecvDir.accept RecvDir.setKey
    dsimp only
    split
    · cases flitSlot f <;> rfl
    · split <;> rfl
  · unfold RecvDir.accept RecvDir.setKey RecvDir.setLast
    dsimp only
    split
    · cases flitSlot f <;> rfl
    · split <;> cases flitSlot f <;> rfl
  · simp only [RecvDir.accept, h, if_true, RecvDir.setKey]
    cases flitSlot f <;> rfl

/-- The flits from an acknowledged SEQ on (R372). -/
theorem acked_eq (d : SendDir) {a b : List (FlitIn × BitVec 2048)} {f : FlitIn × BitVec 2048} (hd : d.unacked = a ++ f :: b)
    (ha : ∀ x ∈ a, flitSeq x.1 ≠ flitSeq f.1) (neg : Bool) :
    d.acked (flitSeq f.1) neg = { d with unacked := f :: b, wire := if neg then d.wire ++ f.1 :: b.map (·.1) else d.wire } := by
  have hrest : d.unacked.dropWhile (fun x => flitSeq x.1 != flitSeq f.1) = f :: b := by
    rw [hd, List.dropWhile_append_of_pos (fun x hx => bne_iff_ne.2 (ha x hx))]
    exact List.dropWhile_cons_of_neg (by simp)
  simp only [SendDir.acked, hrest]
  exact if_pos (.inl (List.cons_ne_nil f b))

/-- A sender below the marker's counter sends the flit itself (R372, R374). -/
theorem send_plain {d : SendDir} {k : BitVec 256} (hs : d.stopped = false) (hu : d.unacked.length < 2048) (hc : d.ctr < ctrMarker)
    (hk : d.key d.slot = some k) (kind : Nat) (text : BitVec 2048) : d.send kind text = d.push kind text := by
  have hopen : d.open_ = true := open_iff.2 ⟨hs, hu, by rw [hk]; rfl, Nat.lt_trans hc (by decide)⟩
  have hturn : d.turnOver = d := if_neg fun h => absurd h.1 (Nat.not_le.2 hc)
  simp only [SendDir.send, hopen, if_true, hturn]

/-- The sender after its key marker: the other slot from CTR 0, the retired one empty (R374). -/
def turned (d : SendDir) (k : BitVec 256) : SendDir :=
  { (d.push 1 0).setKey d.slot none with
    slot := !d.slot, ctr := 0
    unacked := d.unacked ++ [(sealFlit k (d.salt d.slot) d.ctr d.seq d.slot 1 0, 0)] }

/-- A sender at the marker's counter sends its marker first, and then the flit under the other slot (R374). -/
theorem send_turned {d : SendDir} {k j : BitVec 256} (hs : d.stopped = false) (hu : d.unacked.length < 2047) (hc : ctrMarker ≤ d.ctr)
    (hstop : d.ctr < ctrStop) (hk : d.key d.slot = some k) (hj : d.key (!d.slot) = some j) (kind : Nat) (text : BitVec 2048) :
    d.send kind text = (turned d k).push kind text ∧ (turned d k).key (!d.slot) = some j := by
  have hopen : d.open_ = true := open_iff.2 ⟨hs, by omega, by rw [hk]; rfl, hstop⟩
  have hpush := push_eq hk 1 0
  have hturn : d.turnOver = turned d k := by
    rw [SendDir.turnOver, if_pos ⟨hc, by rw [hj]; rfl, by rw [hk]; rfl, by omega⟩, turned, hpush]
    cases d.slot <;> rfl
  have hkey : (turned d k).key (!d.slot) = some j := by
    refine Eq.trans ?_ (((setKey_key (d.push 1 0) d.slot none).2).trans ?_)
    · rfl
    · rw [hpush]
      exact hj
  have hlen : (turned d k).unacked.length < 2048 := by
    simp only [turned, List.length_append, List.length_cons, List.length_nil]
    omega
  have hstopped : (turned d k).stopped = false := by
    rw [turned, hpush]
    cases d.slot <;> exact hs
  have hopen2 : (turned d k).open_ = true := open_iff.2 ⟨hstopped, hlen, (congrArg Option.isSome hkey).trans rfl, by
    show 0 < ctrStop
    decide⟩
  refine ⟨?_, hkey⟩
  simp only [SendDir.send, hopen, if_true, hturn, hopen2]

/-- Settles O58: the receiver by the check that decides, the sender by its counter. -/
theorem flitEvents : Obligations.FlitEvents := by
  unfold Obligations.FlitEvents
  refine ⟨fun s id f c rtt hc x hx => ?receive, fun d f k => ?checks, fun s id => ⟨fun d a b f hd ha => ?acked, fun d kind text hl => ?full,
    fun d kind text k hk8 hs hu hctr hk hseq => ?plain, fun d kind text k j hs hu hctr hstop hk hj => ?turns,
    fun slot key salt => ?inbound, fun slot key salt => rfl, fun c k0 k1 s0 s1 hc => ⟨?sender, fun hmax => ?receiver⟩,
    fun c hc => ⟨fun hlt => ?counting, fun hge hst => ?stops⟩⟩⟩
  case receive =>
    obtain ⟨hdata, hkey, hack, hsync⟩ := flitEvents_rule rtt hc
    obtain rfl | rfl | rfl | rfl := by simpa only [List.mem_cons, List.not_mem_nil, or_false] using hx
    · exact hdata
    · exact hkey
    · exact hack
    · exact hsync
  case checks =>
    obtain ⟨h1, h2, h3, h4⟩ := judge_cases d f k
    exact ⟨h1, h2, h3, h4, accept_fields d f⟩
  case acked => exact ⟨acked_eq d hd ha false, acked_eq d hd ha true⟩
  case full =>
    have hopen : d.open_ = false := by
      rw [← Bool.not_eq_true, open_iff]
      exact fun h => absurd h.2.1 (Nat.not_lt.2 hl)
    simp only [SendDir.send, hopen, Bool.false_eq_true, if_false]
  case plain =>
    refine ⟨_, (send_plain hs hu hctr hk kind text).trans (push_eq hk kind text), ?_, ?_, flitSlot_sealFlit .., ?_⟩
    · rw [flitCtr_sealFlit, Nat.mod_eq_of_lt (Nat.lt_trans hctr (by decide))]
    · rw [flitSeq_sealFlit, Nat.mod_eq_of_lt hseq]
    · rw [flitKind_sealFlit, Nat.mod_eq_of_lt hk8]
  case turns =>
    obtain ⟨hsend, hkey⟩ := send_turned hs hu hctr hstop hk hj kind text
    have hpush := push_eq (d := turned d k) hkey kind text
    refine ⟨sealFlit k (d.salt d.slot) d.ctr d.seq d.slot 1 0,
      sealFlit j ((turned d k).salt (!d.slot)) 0 (turned d k).seq (!d.slot) kind text, ?_, ?_, flitSlot_sealFlit .., ?_, flitSlot_sealFlit .., ?_, ?_, ?_⟩
    · rw [hsend, hpush]
      exact List.append_assoc _ _ _
    · rw [flitKind_sealFlit]
    · rw [flitCtr_sealFlit]
      exact Nat.mod_eq_of_lt (Nat.lt_of_lt_of_le hstop (by decide))
    · rw [flitCtr_sealFlit, Nat.zero_mod]
    · rw [hsend, hpush]
      exact (setKey_key (d.push 1 0) d.slot none).1
    · rw [hsend, hpush]
      rfl
  case inbound =>
    cases slot <;> rfl
  case sender =>
    refine congrArg Host.Outcome.next ?_
    simp only [hc, if_true]
  case receiver =>
    refine congrArg Host.Outcome.next ?_
    simp only [hc, Bool.false_eq_true, if_false, if_neg (Nat.not_lt.2 hmax)]
  case counting =>
    refine congrArg Host.Outcome.next ?_
    simp only [hc]
    exact if_pos (.inl hlt)
  case stops =>
    refine congrArg Host.Outcome.next ?_
    simp only [hc, hst, Bool.false_eq_true, or_false]
    exact if_neg (Nat.not_lt.2 hge)

end Sys2Proof.Machine
end

section
/-! SUPPORT. Circuits, optical engines, package time, die links: O59. -/

namespace Sys2Proof.Machine

/-- A set-up of this package on a free port enters the table and takes the port (R369). -/
theorem setupAt_own {s : State} {req : SetupReq} (hfrom : req.from_.toNat = s.pkg) (hmay : maySetup s req = true)
    (hc : getCirc? s req.circ = none) (hr : req.rivals = []) (hp : s.ports = []) :
    setupAt req s = { s with circuits := s.circuits ++ [newCircuit s req], ports := [(req.port, req.circ)] } := by
  have hown : (req.from_.toNat == s.pkg && s.pkgnum.getLsbD 11) = true := by
    simp only [maySetup, Bool.and_eq_true] at hmay
    obtain ⟨⟨⟨⟨⟨hnum, -⟩, -⟩, -⟩, -⟩, -⟩ := hmay
    simp only [hfrom, beq_self_eq_true, hnum, Bool.and_self]
  simp only [setupAt, hown, hmay, hc, hr, hp, not_true_eq_false, and_false, if_false, if_true, List.foldl_nil, List.any_nil,
    List.contains_nil, Bool.false_eq_true, or_self, ne_eq, List.nil_append]

/-- The reference package keeps its own time (R370). -/
theorem takeStamp_reference {id stamp : Nat} {s : State} (h : s.pkg = 0) : takeStamp id stamp s = s := by
  cases hc : getCirc? s id with
  | none => simp only [takeStamp, hc]
  | some c => simp only [takeStamp, hc, h, if_true]

/-- Settles O59: each event is the branch of its function that the hypotheses name. -/
theorem circuitAndFabricEvents : Obligations.CircuitAndFabricEvents := by
  unfold Obligations.CircuitAndFabricEvents
  refine ⟨fun s id => ⟨fun req h => ?setup, fun req hd hf => congrArg Host.Outcome.next (if_pos ⟨hd, hf⟩), fun req hf hd hm hc hr hp => ?own,
      fun rtt => rfl, fun c hc hst hn => ?nack, rfl, fun c hc => ⟨fun hd => ?tear, fun hst hi hr hd => ?idle, fun hi => ?busy,
        fun e hst he => ?fails, fun hst he => ?ends⟩⟩,
    fun s => ⟨fun e lane h => ?darkLane, fun e lane hl hd hu => ?lane, fun e hf => congrArg Host.Outcome.next (if_pos hf),
      fun e hf hr hc => ?firstReset, fun e t hf hr ht hc => ?secondReset, fun id c f rtt hc hup hk hj hcor => ?stamp,
      fun id rtt => rfl, fun id => rfl, fun id hp hs ha => congrArg Host.Outcome.next (if_pos ⟨hp, hs, ha⟩),
      fun l hl => ?deadLink, fun l hl => ?link⟩⟩
  case setup =>
    refine congrArg Host.Outcome.next (if_neg fun hall => ?_)
    obtain ⟨hd, hf⟩ := hall
    exact h.elim (fun hn => Bool.false_ne_true (hn.symm.trans hd)) (fun hn => hn hf)
  case own =>
    refine congrArg Host.Outcome.next ((if_neg ?_).trans (setupAt_own hf hm hc hr hp))
    simp only [hd, Bool.false_eq_true, false_and, not_false_eq_true]
  case nack =>
    refine congrArg Host.Outcome.next ?_
    simp only [nackCircuit, hc, hst, ne_eq, not_true_eq_false, if_false, if_pos hn]
    rfl
  case tear =>
    refine congrArg Host.Outcome.next ?_
    simp only [hc, hd, Bool.false_eq_true, if_false, tearCircuit]
  case idle =>
    refine congrArg Host.Outcome.next ?_
    simp only [hc, hst, hi, hr, hd, Bool.false_eq_true, not_false_eq_true, and_self, if_true, tearCircuit]
  case busy =>
    refine congrArg Host.Outcome.next ?_
    simp only [hc, Nat.not_le.2 hi, false_and, and_false, if_false]
  case fails =>
    refine congrArg Host.Outcome.next ?_
    simp only [hc, hst, if_true, failCircuit, reduceCtorEq, or_self, if_false, he]
  case ends =>
    refine congrArg Host.Outcome.next ?_
    simp only [hc, hst, if_true, failCircuit, reduceCtorEq, or_self, if_false, he]
  case darkLane =>
    refine congrArg Host.Outcome.next (if_pos (h.imp_left fun hl => ?_))
    simp only [hl, Bool.false_eq_true, not_false_eq_true]
  case lane =>
    refine congrArg Host.Outcome.next ((if_neg ?_).trans ?_)
    · simp only [hl, hd, not_true_eq_false, Bool.false_eq_true, or_self, not_false_eq_true]
    · simp only [hu, List.foldl_nil]
  case firstReset =>
    refine congrArg Host.Outcome.next ?_
    simp only [hf, hr, hc, modEngine, Bool.false_eq_true, if_false, List.filter_nil, List.any_nil, List.map_nil]
  case secondReset =>
    refine congrArg Host.Outcome.next ?_
    simp only [hf, hr, hc, decide_eq_true ht, Bool.false_eq_true, if_false, if_true, List.filter_nil, List.foldl_nil]
  case stamp =>
    dsimp only
    have hrec : receiveFlit id f rtt s = takeStamp id (bits (c.rx.text? f).toNat 0 64)
        (refreshEntry id rtt (modCirc id (fun c => { c with rx := c.rx.accept f, idle := 0 }) s)) := by
      rw [(receiveFlit_up hc hup).1 hj]
      simp only [hcor, Bool.false_eq_true, if_false, flitEffect, hk]
    refine ⟨fun hp => congrArg Host.Outcome.next ((if_pos hk).trans ?_), fun hp d hd => congrArg Host.Outcome.next ((if_pos hk).trans ?_)⟩
    · rw [hrec, takeStamp_reference hp]
    · rw [hrec]
      simp only [takeStamp, hd, if_neg hp]
  case deadLink =>
    refine congrArg Host.Outcome.next (if_pos ?_)
    simp only [hl, Bool.false_eq_true, not_false_eq_true]
  case link =>
    refine congrArg Host.Outcome.next (if_neg ?_)
    simp only [hl, not_true_eq_false, not_false_eq_true]

end Sys2Proof.Machine
end

section
/-! SUPPORT. The host link: HDM, BAR2, the host aperture, link errors, back-invalidation: O60. -/

namespace Sys2Proof.Machine

/-- A host access that reaches the package behind no other one (R375). -/
theorem hdmHostAccess_does {a : HostAccess} {s : State} (hr : s.reached a = true) (h : ofBar0 a = true ∨ s.hostPend = []) :
    exec (.hdmHostAccess a) s = .next (hostDoes a s) := by
  refine congrArg Host.Outcome.next ?_
  simp only [hr, not_true_eq_false, if_false, if_pos h]

/-- With the link up and bring-up complete every access reaches the package (R375, R379). -/
theorem reached_ready {s : State} (hu : s.hostUp = true) (hb : s.bootst.getLsbD 3 = true) (a : HostAccess) : s.reached a = true := by
  cases a with
  | bar0Read off n => exact hu
  | _ => simp only [State.reached, hu, hb, Bool.and_self]

/-- Without the link, or before bring-up but for BAR0, none does (R379, R473). -/
theorem reached_none {s : State} {a : HostAccess} (h : s.hostUp = false ∨ (s.bootst.getLsbD 3 = false ∧ ofBar0 a = false)) :
    s.reached a = false := by
  obtain hu | ⟨hb, ha⟩ := h
  · cases a with
    | bar0Read off n => exact hu
    | _ => simp only [State.reached, hu, Bool.false_and]
  · cases a with
    | bar0Read off n => exact nomatch ha
    | _ => simp only [State.reached, hb, Bool.and_false]

/-- Settles O60: each access is the branch of `hostDoes` that its address names. -/
theorem hostEvents : Obligations.HostEvents := by
  unfold Obligations.HostEvents
  refine fun s => ⟨fun a h => ?unreached, fun hu off n => hdmHostAccess_does hu (.inl rfl), fun hu hb a hp ha => ?queued,
    fun hu hb hst hp => ⟨fun addr n bs u hlo hhi h => ?read, fun addr data u tags hlo hhi h => ?write, fun addr n b data hout hlen => ?outside,
      fun off data ho hm hl => ?start, fun off data ho hbad => ?noStart, fun off data u tags hlo hhi h => ?aperture⟩,
    fun by_ off bs u tags hu h n => ?apertureWrite, fun by_ off bs u n hu h => ?apertureRead, fun by_ off bs n hu => ?apertureDown,
    rfl, rfl, rfl, fun hu => ?up, fun hu => ?down, fun ia => ⟨fun h => congrArg Host.Outcome.next (if_pos h),
      fun h => congrArg Host.Outcome.next (if_pos h), fun h => ?early⟩⟩
  case unreached =>
    refine congrArg Host.Outcome.next (if_pos ?_)
    simp only [reached_none h, Bool.false_eq_true, not_false_eq_true]
  case queued =>
    refine congrArg Host.Outcome.next ?_
    simp only [reached_ready hu hb, ha, hp, not_true_eq_false, if_false, Bool.false_eq_true, or_self]
  case read =>
    refine (hdmHostAccess_does (reached_ready hu hb _) (.inr hp)).trans (congrArg Host.Outcome.next ?_)
    simp only [hostDoes, State.hdmOffset, if_pos (And.intro hlo hhi), hostRead, hst, Bool.false_eq_true, if_false, h]
  case write =>
    refine (hdmHostAccess_does (reached_ready hu hb _) (.inr hp)).trans (congrArg Host.Outcome.next ?_)
    simp only [hostDoes, State.hdmOffset, if_pos (And.intro hlo hhi), hostWrite, hst, Bool.false_eq_true, if_false, h]
  case outside =>
    have hno : s.hdmOffset addr n = none := if_neg fun hin => hout.elim (fun h => absurd hin.1 (Nat.not_le.2 h)) (fun h => absurd hin.2 (Nat.not_le.2 h))
    refine ⟨(hdmHostAccess_does (reached_ready hu hb _) (.inr hp)).trans (congrArg Host.Outcome.next ?_),
      (hdmHostAccess_does (reached_ready hu hb _) (.inr hp)).trans (congrArg Host.Outcome.next ?_)⟩
    · simp only [hostDoes, hno]
    · simp only [hostDoes, hlen, hno]
  case start =>
    refine (hdmHostAccess_does (reached_ready hu hb _) (.inr hp)).trans (congrArg Host.Outcome.next ?_)
    have hmod : off % 2 ^ 40 = off := Nat.mod_eq_of_lt (by omega)
    simp only [hostDoes, hst, Bool.false_eq_true, if_false, hmod, if_pos (show off < 2 ^ 39 by omega), apertureWrite]
    exact if_pos ⟨hm, hl, ho⟩
  case noStart =>
    refine (hdmHostAccess_does (reached_ready hu hb _) (.inr hp)).trans (congrArg Host.Outcome.next ?_)
    have hmod : off % 2 ^ 40 = off := Nat.mod_eq_of_lt (by omega)
    simp only [hostDoes, hst, Bool.false_eq_true, if_false, hmod, if_pos ho, apertureWrite]
    refine if_neg fun hall => ?_
    obtain ⟨hm, hl, ho⟩ := hall
    exact hbad.elim (fun h => absurd ho (Nat.not_lt.2 h)) (fun h => h.elim (fun h => h hm) (fun h => h hl))
  case aperture =>
    refine (hdmHostAccess_does (reached_ready hu hb _) (.inr hp)).trans (congrArg Host.Outcome.next ?_)
    have hmod : off % 2 ^ 40 = off := Nat.mod_eq_of_lt hhi
    simp only [hostDoes, hst, Bool.false_eq_true, if_false, hmod, if_neg (Nat.not_lt.2 hlo), hostWrite, h]
  case apertureWrite =>
    refine congrArg Host.Outcome.next ?_
    simp only [hu, not_true_eq_false, if_false, h]
  case apertureRead =>
    refine congrArg Host.Outcome.next ?_
    simp only [hu, not_true_eq_false, if_false, h]
  case apertureDown =>
    refine ⟨congrArg Host.Outcome.next ?_, congrArg Host.Outcome.next ?_⟩
    all_goals simp only [hu, Bool.false_eq_true, not_false_eq_true, if_true]
  case up => exact ⟨congrArg Host.Outcome.next (if_pos hu), congrArg Host.Outcome.next (if_pos hu)⟩
  case down =>
    have hn : ¬ s.hostUp = true := by simp only [hu, Bool.false_eq_true, not_false_eq_true]
    exact ⟨congrArg Host.Outcome.next (if_neg hn), congrArg Host.Outcome.next (if_neg hn)⟩
  case early =>
    refine congrArg Host.Outcome.next (if_neg ?_)
    simp only [h, Bool.false_eq_true, not_false_eq_true]

end Sys2Proof.Machine
end

section
/-! SUPPORT. What an operation leaves of every package: a function of the packages read before and after. -/

namespace Sys2Proof.Machine

/-- A part of every modelled package, in their order. -/
def State.parts {α : Type} (κ : Pack → α) (s : State) : List α := s.packs.map κ

section Parts
variable {α : Type} {κ : Pack → α}

theorem parts_front {s t : State} (h : t.parts κ = s.parts κ) : κ t.toPack = κ s.toPack := (List.cons.inj h).1

theorem parts_of_front {s t : State} (hf : κ t.toPack = κ s.toPack) (hp : t.peers = s.peers) : t.parts κ = s.parts κ := by
  simp only [State.parts, State.packs, List.map_cons, hf, hp]

theorem parts_mapPacks {f : Pack → Pack} (h : ∀ p, κ (f p) = κ p) (s : State) : (mapPacks f s).parts κ = s.parts κ := by
  simp only [State.parts, State.packs, mapPacks, List.map_cons, List.map_map, h, Function.comp_def]

/-- What depends on a part of each package alone holds of every package after it held before. -/
theorem forall_packs_of_parts {R : Pack → Prop} {s t : State} (hR : ∀ p q, κ p = κ q → R p → R q) (h : t.parts κ = s.parts κ)
    (hs : ∀ p ∈ s.packs, R p) : ∀ q ∈ t.packs, R q := by
  intro q hq
  have hm : κ q ∈ s.parts κ := h ▸ List.mem_map_of_mem hq
  obtain ⟨p, hp, hpq⟩ := List.mem_map.1 hm
  exact hR p q hpq (hs p hp)

theorem swapPack_swapPack (i : Nat) (s : State) : swapPack i (swapPack i s) = s := by
  cases h : s.peers[i]? with
  | none => simp only [swapPack, h]
  | some p =>
    have hi : i < s.peers.length := (List.getElem?_eq_some_iff.1 h).1
    have hg : s.peers[i] = p := (List.getElem?_eq_some_iff.1 h).2
    simp only [swapPack, h, List.getElem?_set_self hi, List.set_set]
    rw [← hg, List.set_getElem_self]

theorem parts_swapPack {s t : State} (i : Nat) (h : t.parts κ = s.parts κ) : (swapPack i t).parts κ = (swapPack i s).parts κ := by
  obtain ⟨hf, hp⟩ := List.cons.inj h
  have hi : (t.peers[i]?).map κ = (s.peers[i]?).map κ := by rw [← List.getElem?_map, ← List.getElem?_map, hp]
  cases hs : s.peers[i]? with
  | none =>
    have ht : t.peers[i]? = none := by simpa only [hs, Option.map_none, Option.map_eq_none_iff] using hi
    simpa only [swapPack, hs, ht] using h
  | some p =>
    obtain ⟨q, ht, hq⟩ := Option.map_eq_some_iff.1 (hi.trans (congrArg (Option.map κ) hs))
    simp only [swapPack, hs, ht, State.parts, State.packs, List.map_cons, List.map_set, hp, hf, hq]

/-- What leaves the parts where it is done leaves them at whichever package it is done. -/
theorem parts_atPack {c : Pack → Bool} {f : State → State} (hf : ∀ u, (f u).parts κ = u.parts κ) (s : State) :
    (atPack c f s).parts κ = s.parts κ := by
  unfold atPack
  split
  · exact hf s
  · split
    · next i _ => rw [parts_swapPack i (hf (swapPack i s)), swapPack_swapPack]
    · exact hf s

/-- A computation at whichever package, whose success leaves the parts. -/
theorem parts_onPack {β : Type} {c : Pack → Bool} {m : M β} {s t : State} {a : β} {R : State → Prop}
    (hm : ∀ u, R u → ∀ b v, m u = .ok (b, v) → v.parts κ = u.parts κ) (hs : R s) (hsw : ∀ i, s.peers.findIdx? c = some i → R (swapPack i s))
    (h : onPack c m s = .ok (a, t)) : t.parts κ = s.parts κ := by
  unfold onPack at h
  split at h
  · exact hm s hs a t h
  · split at h
    · next i hi =>
      split at h
      · next b v hv =>
        cases h
        rw [parts_swapPack i (hm _ (hsw i hi) _ _ hv), swapPack_swapPack]
      · exact nomatch h
    · exact hm s hs a t h

end Parts

/-- A package's memory, its turn, and the stream that has it with its local store. -/
def Pack.storeParts (p : Pack) : List Host.Cell × Stream × Strm × List Host.Cell := (p.mem, p.cur, p.task.strm p.cur, p.task.ls)

/-- A change of a task that leaves its streams and its local store leaves those parts. -/
theorem storeParts_modTask {tid : Nat} {f : Task → Task} (hs : ∀ t st, (f t).strm st = t.strm st) (hl : ∀ t, (f t).ls = t.ls) (s : State) :
    (modTask tid f s).parts Pack.storeParts = s.parts Pack.storeParts := by
  have hpack : ∀ p : Pack, (Pack.modTask tid f p).storeParts = p.storeParts := fun p => by
    unfold Pack.modTask Pack.storeParts
    split
    · simp only [hs, hl]
    · rfl
  unfold modTask
  split
  · refine parts_of_front ?_ rfl
    simp only [Pack.storeParts, hs, hl]
  · simp only [State.parts, State.packs, List.map_cons, List.map_map, Function.comp_def, hpack]
    rfl

/-- An access counted leaves every part that reads neither the counts nor the graphs (R92, R355). -/
theorem parts_countAccess {α : Type} {κ : Pack → α} (hc : ∀ p c, κ { p with counters := c } = κ p)
    (hg : ∀ p g, κ { p with gslots := g } = κ p) (by_ : Requester) (ia : Nat) (s : State) : (countAccess by_ ia s).parts κ = s.parts κ := by
  have hnode : ∀ u : State, (markNode by_ u).parts κ = u.parts κ := fun u => by
    unfold markNode
    split
    · refine parts_atPack (fun v => ?_) u
      split
      · unfold modNode modSlot
        split
        · exact parts_of_front (hg _ _) rfl
        · rfl
      · rfl
    · rfl
  unfold countAccess
  split
  · rfl
  · exact (hnode _).trans (parts_of_front (hc _ _) rfl)

/-- What a write event does around its bytes leaves those parts: counts, watches and tags (R92, R111, R114). -/
theorem storeParts_countAccess (by_ : Requester) (ia : Nat) (s : State) :
    (countAccess by_ ia s).parts Pack.storeParts = s.parts Pack.storeParts :=
  parts_countAccess (fun _ _ => rfl) (fun _ _ => rfl) by_ ia s

theorem storeParts_noteWatch (line : Nat) (s : State) : (noteWatch line s).parts Pack.storeParts = s.parts Pack.storeParts := by
  refine parts_mapPacks (fun p => ?_) s
  unfold Pack.storeParts
  dsimp only
  split
  · split <;> cases p.cur <;> rfl
  · rfl

theorem storeParts_tagWord (ia : Nat) (s : State) : (tagWord ia s).2.parts Pack.storeParts = s.parts Pack.storeParts := by
  unfold tagWord
  split <;> rfl

theorem storeParts_addAck (tid : Nat) (word : BitVec 64) (w : LogWrite) (s : State) :
    (addAck tid word w s).parts Pack.storeParts = s.parts Pack.storeParts := by
  unfold addAck
  dsimp only
  refine storeParts_modTask (fun t st => ?_) ?_ s
  · cases st <;> rfl
  · exact fun _ => rfl

theorem storeParts_l1Writes (core : Nat) (parts logged : List LogWrite) (s : State) :
    (l1Writes core parts logged s).parts Pack.storeParts = s.parts Pack.storeParts := by
  have hrefresh : ∀ (u : State) (l : Nat), (l1Refresh core l u).parts Pack.storeParts = u.parts Pack.storeParts := fun u l => by
    unfold l1Refresh
    split
    · split <;> rfl
    · rfl
  have hfold : ∀ (ls : List Nat) (u : State), (ls.foldl (fun s l => l1Refresh core l s) u).parts Pack.storeParts = u.parts Pack.storeParts := by
    intro ls
    induction ls with
    | nil => exact fun u => rfl
    | cons l ls ih => exact fun u => (ih _).trans (hrefresh u l)
  exact (hfold _ _).trans rfl

/-- The addresses of an access that lies in one line. -/
theorem mem_span {a n x : Nat} : x ∈ span a n ↔ a ≤ x ∧ x < a + n := by
  induction n generalizing a with
  | zero => simp [span]
  | succ n ih =>
    simp only [span, List.mem_cons, ih]
    omega

theorem span_length (a n : Nat) : (span a n).length = n := by
  induction n generalizing a with
  | zero => rfl
  | succ n ih => simp only [span, List.length_cons, ih]

theorem span_zip (a : Nat) (bs : List (BitVec 8)) : (span a bs.length).zip bs = atAddr a bs := by
  induction bs generalizing a with
  | nil => rfl
  | cons b bs ih => simp only [List.length_cons, span, List.zip_cons_cons, ih, atAddr]

theorem lineParts_one {ia n : Nat} (hn : 0 < n) (hl : ia % 128 + n ≤ 128) (hia : ia < 2 ^ 58) : lineParts ia n = [span ia n] := by
  have hmod : (span ia n).map (fun a => a % 2 ^ 58) = span ia n := by
    refine (List.map_congr_left fun a ha => ?_).trans (List.map_id _)
    obtain ⟨h1, h2⟩ := mem_span.1 ha
    exact Nat.mod_eq_of_lt (by omega)
  have hline : ∀ a ∈ span ia n, (lineOf a == lineOf ia) = true := fun a ha => by
    obtain ⟨h1, h2⟩ := mem_span.1 ha
    have : a / 128 = ia / 128 := by omega
    simp only [lineOf, this, beq_self_eq_true]
  obtain ⟨k, rfl⟩ := Nat.exists_eq_succ_of_ne_zero (Nat.pos_iff_ne_zero.1 hn)
  have htake : (span ia (k + 1)).takeWhile (fun b => lineOf b == lineOf ia) = span ia (k + 1) :=
    List.takeWhile_eq_self_iff.2 hline
  have hdrop : (span ia (k + 1)).dropWhile (fun b => lineOf b == lineOf ia) = [] := List.dropWhile_eq_nil_iff.2 hline
  rw [lineParts, hmod]
  show _ :: splitLines (k + 1) _ = _
  exact congrArg₂ List.cons htake (congrArg (splitLines (k + 1)) hdrop)

/-- Where a page's bytes lie, once one of its bytes is found on a stack (R90, R93). -/
theorem locate_stack_iff {s : State} {ia : Nat} {e : WalkEntry} {key : Nat} :
    locate s ia = .stack e key ↔
      iaPkg ia = s.pkg ∧ iaOff ia < deviceSpan ∧ s.homeOf (iaOff ia) < 8
      ∧ (s.walks.find? (fun x => x.page == iaOff ia / 65536 && x.die == s.homeOf (iaOff ia)) = some e
        ∨ s.walks.find? (fun x => x.page == iaOff ia / 65536 && x.die == s.homeOf (iaOff ia)) = none
          ∧ s.noWalks.contains (s.homeOf (iaOff ia), iaOff ia / 65536) = false ∧ walk s (s.homeOf (iaOff ia)) (iaOff ia) = some e)
      ∧ key = stackKey (s.homeOf (iaOff ia)) (e.frame + iaOff ia % 65536) := by
  have hspan : deviceSpan < hostAperture := by decide
  constructor
  · intro h
    unfold locate at h
    dsimp only at h
    split at h
    · exact nomatch h
    split at h
    · exact nomatch h
    split at h
    · split at h
      · exact nomatch h
      · split at h <;> exact nomatch h
    split at h
    · exact nomatch h
    split at h
    · split at h <;> exact nomatch h
    split at h
    · exact nomatch h
    next hlow hpkg hdie =>
      have hhome := Nat.not_le.1 hdie
      have hoff := Nat.not_le.1 hlow
      split at h
      · next x hx =>
        obtain ⟨rfl, rfl⟩ := Place.stack.inj h
        exact ⟨not_not.1 hpkg, hoff, hhome, .inl hx, rfl⟩
      · next hx =>
        split at h
        · exact nomatch h
        · next hno =>
          split at h
          · next x hw =>
            obtain ⟨rfl, rfl⟩ := Place.stack.inj h
            exact ⟨not_not.1 hpkg, hoff, hhome, .inr ⟨hx, Bool.eq_false_iff.2 hno, hw⟩, rfl⟩
          · exact nomatch h
  · rintro ⟨hpkg, hoff, hhome, hw, rfl⟩
    have hpres : s.present s.pkg = true := by simp only [State.present, beq_self_eq_true, Bool.true_or]
    have hap : ¬ hostAperture ≤ iaOff ia := by omega
    simp only [locate, hpres, not_true_eq_false, if_false, hpkg, ne_eq, false_and, hap, Nat.not_le.2 hoff, Nat.not_le.2 hhome]
    obtain hf | ⟨hf, hno, hwalk⟩ := hw
    · simp only [hf]
    · simp only [hf, hno, hwalk, Bool.false_eq_true, if_false]

/-- A byte of the same page lies as far behind. -/
theorem locate_add {s : State} {ia i : Nat} {e : WalkEntry} {key : Nat} (h : locate s ia = .stack e key) (hl : ia % 128 + i < 128) :
    locate s (ia + i) = .stack e (key + i) := by
  obtain ⟨hpkg, hoff, hhome, hw, rfl⟩ := locate_stack_iff.1 h
  have hdvd : deviceSpan % 128 = 0 := by decide
  have hpkg' : iaPkg (ia + i) = iaPkg ia := by
    simp only [iaPkg, bits]
    omega
  have hoff' : iaOff (ia + i) = iaOff ia + i := by
    simp only [iaOff] at hoff ⊢
    omega
  have hlow : iaOff ia % 128 + i < 128 := by
    simp only [iaOff]
    omega
  have hpage : (iaOff ia + i) / 65536 = iaOff ia / 65536 := by omega
  have hmod : (iaOff ia + i) % 65536 = iaOff ia % 65536 + i := by omega
  have hdie : s.homeOf (iaOff ia + i) = s.homeOf (iaOff ia) := by
    simp only [State.homeOf, show (iaOff ia + i) / 2 ^ 21 = iaOff ia / 2 ^ 21 by omega]
  have hwalk : ∀ d, walk s d (iaOff ia + i) = walk s d (iaOff ia) := fun d => by
    have h34 : bits (iaOff ia + i) 34 13 = bits (iaOff ia) 34 13 := by
      simp only [bits, show (iaOff ia + i) / 2 ^ 34 = iaOff ia / 2 ^ 34 by omega]
    have h21 : bits (iaOff ia + i) 21 13 = bits (iaOff ia) 21 13 := by
      simp only [bits, show (iaOff ia + i) / 2 ^ 21 = iaOff ia / 2 ^ 21 by omega]
    have h16 : bits (iaOff ia + i) 16 5 = bits (iaOff ia) 16 5 := by
      simp only [bits, show (iaOff ia + i) / 2 ^ 16 = iaOff ia / 2 ^ 16 by omega]
    simp only [walk, hpage, h34, h21, h16]
  refine locate_stack_iff.2 ⟨hpkg'.trans hpkg, ?_, ?_, ?_, ?_⟩
  · omega
  · rw [hoff', hdie]
    exact hhome
  · rw [hoff', hdie, hpage, hwalk]
    exact hw
  · rw [hoff', hdie, hmod]
    simp only [stackKey]
    omega

/-- The entry that a walk finds is of the page and of the die (R93). -/
theorem walk_entry {s : State} {d off : Nat} {e : WalkEntry} (h : walk s d off = some e) : e.page = off / 65536 ∧ e.die = d := by
  unfold walk at h
  dsimp only at h
  split at h
  · exact nomatch h
  split at h
  · exact nomatch h
  split at h
  · split at h
    · exact nomatch h
    · obtain rfl := Option.some.inj h
      exact ⟨rfl, rfl⟩
  · split at h
    · exact nomatch h
    · obtain rfl := Option.some.inj h
      exact ⟨rfl, rfl⟩

theorem cacheWalk_cacheWalk (e : WalkEntry) (s : State) : cacheWalk e (cacheWalk e s) = cacheWalk e s := by
  refine if_pos (List.contains_iff_mem.2 ?_)
  unfold cacheWalk
  split
  · next h => exact List.contains_iff_mem.1 h
  · exact List.mem_cons_self

/-- What a walker has cached, it finds again (R94). -/
theorem locate_cacheWalk {s : State} {ia : Nat} {e : WalkEntry} {key : Nat} (h : locate s ia = .stack e key) :
    locate (cacheWalk e s) ia = .stack e key := by
  obtain ⟨hpkg, hoff, hhome, hw, rfl⟩ := locate_stack_iff.1 h
  unfold cacheWalk
  split
  · exact h
  · next hnot =>
    obtain hf | ⟨hf, hno, hwalk⟩ := hw
    · exact absurd (List.contains_iff_mem.2 (List.mem_of_find?_eq_some hf)) hnot
    · refine locate_stack_iff.2 ⟨hpkg, hoff, hhome, .inl ?_, rfl⟩
      have hentry : (e.page == iaOff ia / 65536 && e.die == s.homeOf (iaOff ia)) = true := by
        obtain ⟨hp, hd⟩ := walk_entry hwalk
        simp only [hp, hd, beq_self_eq_true, Bool.and_self]
      exact List.find?_cons_of_pos hentry

/-- The places of addresses that lie on a stack in one page (R433). -/
theorem places_stack {by_ : Requester} {e : WalkEntry} {k : Nat → Nat} {l : List Nat} {s : State}
    (hl : ∀ a ∈ l, locate s a = .stack e (k a)) (hm : s.migrating = []) (hh : s.held = []) :
    ∃ t, places by_ l s = .ok (l.map (fun a => .stack e (k a)), t) ∧ (t = s ∨ t = cacheWalk e s) := by
  induction l generalizing s with
  | nil => exact ⟨s, rfl, .inl rfl⟩
  | cons a l ih =>
    have hmove : s.moving a = false := by simp only [State.moving, hm, List.any_nil, Bool.and_false]
    have hheld : isHeld s (a / 65536) by_ = false := by simp only [isHeld, hh, List.any_nil]
    have hplace : place by_ a s = .ok (.stack e (k a), cacheWalk e s) := by
      simp only [place, hmove, Bool.false_eq_true, if_false, hl a List.mem_cons_self, hheld]
    have hcm : (cacheWalk e s).migrating = [] ∧ (cacheWalk e s).held = [] := by
      unfold cacheWalk
      split
      · exact ⟨hm, hh⟩
      · exact ⟨hm, hh⟩
    obtain ⟨t, ht, hcase⟩ := ih (s := cacheWalk e s) (fun b hb => locate_cacheWalk (hl b (List.mem_cons_of_mem a hb))) hcm.1 hcm.2
    refine ⟨t, ?_, .inr ?_⟩
    · simp only [places, bind_eq, hplace, ht, pure_eq, List.map_cons]
    · obtain rfl | rfl := hcase
      · rfl
      · exact cacheWalk_cacheWalk e s

theorem atAddr_fst (a : Nat) (bs : List (BitVec 8)) : (atAddr a bs).map (·.1) = span a bs.length := by
  induction bs generalizing a with
  | nil => rfl
  | cons b bs ih => simp only [atAddr, List.map_cons, ih, List.length_cons, span]

theorem atAddr_snd (a : Nat) (bs : List (BitVec 8)) : (atAddr a bs).map (·.2) = bs := by
  induction bs generalizing a with
  | nil => rfl
  | cons b bs ih => simp only [atAddr, List.map_cons, ih]

theorem atAddr_shift {ia a : Nat} (key : Nat) (h : ia ≤ a) (bs : List (BitVec 8)) :
    (atAddr a bs).map (fun w => (key + (w.1 - ia), w.2)) = atAddr (key + (a - ia)) bs := by
  induction bs generalizing a with
  | nil => rfl
  | cons b bs ih =>
    simp only [atAddr, List.map_cons, ih (Nat.le_succ_of_le h)]
    rw [show key + (a + 1 - ia) = key + (a - ia) + 1 by omega]

/-- Bytes put at places of one page that is not discarded: they stand at their keys (R108, R111). -/
theorem putBytes_stack {e : WalkEntry} (hd : discarded e = false) (ia key : Nat) (bs : List (BitVec 8)) (hn : bs ≠ []) (s : State) :
    (putBytes (((span ia bs.length).map (fun a => Place.stack e (key + (a - ia)))).zip bs) s).storeParts
      = (writeCells s.mem (atAddr key bs), s.cur, s.strm, s.task.ls) := by
  have hcells : (((span ia bs.length).map (fun a => Place.stack e (key + (a - ia)))).zip bs).map (fun w => (w.1.key, w.2)) = atAddr key bs := by
    rw [List.zip_map_left, span_zip, List.map_map]
    refine Eq.trans ?_ ((atAddr_shift key (Nat.le_refl ia) bs).trans (by rw [Nat.sub_self, Nat.add_zero]))
    rfl
  obtain ⟨b, r, rfl⟩ := List.exists_cons_of_ne_nil hn
  unfold putBytes
  rw [hcells]
  have hhead : ((((span ia (b :: r).length).map (fun a => Place.stack e (key + (a - ia)))).zip (b :: r)).head?.map (·.1))
      = some (Place.stack e (key + (ia - ia))) := rfl
  simp only [hhead, hd, Bool.false_eq_true, if_false]
  split <;> rfl

/-- A write event of bytes of one page: they stand in memory, and the stream and its local store are as they were (R111). -/
theorem applyLine_stack {by_ : Requester} {s : State} {ia key : Nat} {e : WalkEntry} {bs : List (BitVec 8)}
    (hloc : locate s ia = .stack e key) (hd : discarded e = false) (hl : ia % 128 + bs.length ≤ 128) (hn : bs ≠ [])
    (hm : s.migrating = []) (hh : s.held = []) (hhost : s.hostLines = []) :
    ∃ word t, applyLine by_ (atAddr ia bs) s = .ok (word, t)
      ∧ t.storeParts = (writeCells s.mem (atAddr key bs), s.cur, s.strm, s.task.ls) := by
  obtain ⟨b, r, rfl⟩ := List.exists_cons_of_ne_nil hn
  have hall : ∀ a ∈ span ia (b :: r).length, locate s a = .stack e (key + (a - ia)) := fun a ha => by
    obtain ⟨h1, h2⟩ := mem_span.1 ha
    have := locate_add hloc (i := a - ia) (by omega)
    rwa [Nat.add_sub_cancel' h1] at this
  obtain ⟨u, hplaces, hu⟩ := places_stack (by_ := by_) hall hm hh
  have hmem : u.mem = s.mem ∧ u.storeParts = s.storeParts ∧ u.hostLines = [] ∧ u.pkgnum = s.pkgnum := by
    obtain rfl | rfl := hu
    · exact ⟨rfl, rfl, hhost, rfl⟩
    · unfold cacheWalk
      split
      · exact ⟨rfl, rfl, hhost, rfl⟩
      · exact ⟨rfl, rfl, hhost, rfl⟩
  obtain ⟨hum, hus, huh, hup⟩ := hmem
  have hap : u.inAperture ia = false := by
    obtain ⟨-, hoff, -⟩ := locate_stack_iff.1 hloc
    have hspan : deviceSpan < hostAperture := by decide
    simp only [State.inAperture, decide_eq_false (show ¬ hostAperture ≤ iaOff ia by omega), Bool.false_and]
  have hrun : applyLine by_ (atAddr ia (b :: r)) s = .ok ((tagWord ia (noteWatch (lineOf ia) (countAccess by_ ia
      (putBytes (((span ia (b :: r).length).map (fun a => Place.stack e (key + (a - ia)))).zip (b :: r)) u)))).1,
      (tagWord ia (noteWatch (lineOf ia) (countAccess by_ ia
      (putBytes (((span ia (b :: r).length).map (fun a => Place.stack e (key + (a - ia)))).zip (b :: r)) u)))).2) := by
    have hgate : gateHost by_ (lineOf ia) u = .ok ((), u) := by
      simp only [gateHost, huh, List.contains_nil, Bool.false_eq_true, and_false, if_false]
    have hws : atAddr ia (b :: r) = (ia, b) :: atAddr (ia + 1) r := rfl
    rw [hws]
    simp only [applyLine, bind_eq]
    rw [← hws, atAddr_fst, atAddr_snd, hplaces]
    simp only [hgate, getS_eq, hap, Bool.false_eq_true, false_and, if_false, bind_eq, modS_eq, pure_eq]
  refine ⟨_, _, hrun, ?_⟩
  refine (parts_front ((storeParts_tagWord ia _).trans ((storeParts_noteWatch _ _).trans (storeParts_countAccess by_ ia _)))).trans ?_
  rw [putBytes_stack hd ia key (b :: r) hn u, hum]
  simp only [Pack.storeParts, Prod.mk.injEq] at hus
  obtain ⟨-, hcur, hstrm, hls⟩ := hus
  exact Prod.ext rfl (Prod.ext hcur (Prod.ext hstrm hls))

/-- A task without stash mappings and without a log. -/
def Task.Calm (t : Task) : Prop := t.stash = [] ∧ t.sidelog = [] ∧ t.logWait = []

theorem mem_modFirst {α : Type} {p : α → Bool} {g : α → α} {l : List α} {x : α} (h : x ∈ modFirst p g l) : x ∈ l ∨ ∃ y ∈ l, x = g y := by
  induction l with
  | nil => exact absurd h List.not_mem_nil
  | cons a l ih =>
    rw [modFirst] at h
    split at h
    · obtain rfl | h := List.mem_cons.1 h
      · exact .inr ⟨a, List.mem_cons_self, rfl⟩
      · exact .inl (List.mem_cons_of_mem a h)
    · obtain rfl | h := List.mem_cons.1 h
      · exact .inl List.mem_cons_self
      · exact (ih h).imp (List.mem_cons_of_mem a) (fun ⟨y, hy, hx⟩ => ⟨y, List.mem_cons_of_mem a hy, hx⟩)

theorem mem_everyTask {s : State} {k : Task} : k ∈ everyTask s ↔ ∃ p ∈ s.packs, k ∈ p.tasks := by
  have hfront : allTasks s = s.toPack.tasks := rfl
  simp only [everyTask, hfront, List.mem_append, List.mem_flatMap, State.packs, List.mem_cons, exists_eq_or_imp]

/-- What holds of every task, and stays so where one is changed, holds of every one after it. -/
theorem everyTask_modTask {R : Task → Prop} {tid : Nat} {f : Task → Task} (hstat : ∀ t, (f t).status = t.status)
    (hR : ∀ t, R t → R (f t)) {s : State} (h : ∀ k ∈ everyTask s, R k) : ∀ k ∈ everyTask (modTask tid f s), R k := by
  have hothers : ∀ l : List Task, (∀ k ∈ l, R k) → ∀ k ∈ modFirst (fun t => t.tid = tid) f l, R k := fun l hl k hk => by
    obtain hk | ⟨y, hy, rfl⟩ := mem_modFirst hk
    · exact hl k hk
    · exact hR y (hl y hy)
  have hpack : ∀ p : Pack, (∀ k ∈ p.tasks, R k) → ∀ k ∈ (Pack.modTask tid f p).tasks, R k := fun p hp k hk => by
    unfold Pack.modTask at hk
    unfold Pack.tasks at hp hk
    split at hk
    · next hown =>
      simp only [hstat, if_neg hown.2, List.mem_cons] at hp hk
      obtain rfl | hk := hk
      · exact hR _ (hp _ (.inl rfl))
      · exact hp k (.inr hk)
    · dsimp only at hk
      split at hk
      · next hv => exact hothers _ (by rwa [if_pos hv] at hp) k hk
      · next hv =>
        rw [if_neg hv] at hp
        obtain rfl | hk := List.mem_cons.1 hk
        · exact hp _ List.mem_cons_self
        · exact hothers _ (fun k hk => hp k (List.mem_cons_of_mem _ hk)) k hk
  intro k hk
  obtain ⟨p, hp, hk⟩ := mem_everyTask.1 hk
  have hs : ∀ q ∈ s.packs, ∀ k ∈ q.tasks, R k := fun q hq k hk => h k (mem_everyTask.2 ⟨q, hq, hk⟩)
  unfold modTask at hp
  split at hp
  · next hown =>
    obtain rfl | hp := List.mem_cons.1 hp
    · refine hpack s.toPack (hs _ List.mem_cons_self) k ?_
      rw [Pack.modTask, if_pos hown]
      exact hk
    · exact hs p (List.mem_cons_of_mem _ hp) k hk
  · next hown =>
    obtain rfl | hp := List.mem_cons.1 hp
    · refine hpack s.toPack (hs _ List.mem_cons_self) k ?_
      rw [Pack.modTask, if_neg hown]
      exact hk
    · obtain ⟨q, hq, rfl⟩ := List.mem_map.1 hp
      exact hpack q (hs q (List.mem_cons_of_mem _ hq)) k hk

theorem getTask?_mem {s : State} {tid : Nat} {k : Task} (h : getTask? s tid = some k) : k ∈ everyTask s := by
  refine mem_everyTask.2 ?_
  rcases Option.or_eq_some_iff.1 h with hown | ⟨-, hpeer⟩
  · refine ⟨s.toPack, List.mem_cons_self, ?_⟩
    unfold ownTask? at hown
    split at hown
    · next hfront =>
      obtain rfl := Option.some.inj hown
      rw [Pack.tasks, if_neg hfront.2]
      exact List.mem_cons_self
    · have hmem := List.mem_of_find?_eq_some hown
      rw [Pack.tasks]
      split
      · exact hmem
      · exact List.mem_cons_of_mem _ hmem
  · obtain ⟨p, hp, hk⟩ := List.exists_of_findSome?_eq_some hpeer
    exact ⟨p, List.mem_cons_of_mem _ hp, List.mem_of_find?_eq_some hk⟩

theorem stashHolders_calm {s : State} (h : ∀ k ∈ everyTask s, k.stash = []) (line : Nat) : stashHolders s line = [] := by
  refine List.flatMap_eq_nil_iff.2 fun k hk => ?_
  rw [h k hk]
  rfl

theorem gateRecall_calm {s : State} (h : ∀ k ∈ everyTask s, k.sidelog = [] ∧ k.logWait = []) (by_ : Requester) (line : Nat) :
    gateRecall by_ line s = .ok ((), s) := by
  have hno : (everyTask s).any (fun t => t.backLogged line) = false := List.any_eq_false.2 fun k hk => by
    obtain ⟨hs, hl⟩ := h k hk
    simp only [Task.backLogged, hs, hl, List.append_nil, List.any_nil, Bool.false_eq_true, not_false_eq_true]
  unfold gateRecall
  split
  · rfl
  · simp only [hno, Bool.false_eq_true, if_false]

/-- A write event of a calm machine at this package (R89, R111). -/
theorem writeLine_stack {by_ : Requester} {s : State} {ia key : Nat} {e : WalkEntry} {bs : List (BitVec 8)}
    (hcalm : ∀ k ∈ everyTask s, k.Calm)
    (hloc : locate s ia = .stack e key) (hd : discarded e = false) (hl : ia % 128 + bs.length ≤ 128) (hn : bs ≠ [])
    (hm : s.migrating = []) (hh : s.held = []) (hhost : s.hostLines = []) :
    ∃ word t, writeLine by_ (atAddr ia bs) s = .ok (word, t)
      ∧ t.storeParts = (writeCells s.mem (atAddr key bs), s.cur, s.strm, s.task.ls) := by
  obtain ⟨word, t, happly, ht⟩ := applyLine_stack (by_ := by_) hloc hd hl hn hm hh hhost
  refine ⟨word, t, ?_, ht⟩
  obtain ⟨b, r, rfl⟩ := List.exists_cons_of_ne_nil hn
  obtain ⟨hpkg, -⟩ := locate_stack_iff.1 hloc
  have hws : atAddr ia (b :: r) = (ia, b) :: atAddr (ia + 1) r := rfl
  have hrecall := gateRecall_calm (fun k hk => (hcalm k hk).2) by_ (lineOf ia)
  have hline := recallLine_none (w := true) (stashHolders_calm (fun k hk => (hcalm k hk).1) (lineOf ia))
  rw [hws] at happly ⊢
  simp only [writeLine, atHome, if_pos hpkg, bind_eq, hrecall, hline, happly]

/-- A plain write event of a calm machine at this package, as a part of a word's writes (R111). -/
theorem writeEvents_go_one {tid : Nat} {by_ : Requester} {w : LogWrite} {s : State} {ia key : Nat} {e : WalkEntry} {bs : List (BitVec 8)}
    (hred : w.red = false) (hbad : w.bad = []) (hia : w.ia = ia) (hbytes : w.bytes = atAddr ia bs)
    (hcalm : ∀ k ∈ everyTask s, k.Calm)
    (hloc : locate s ia = .stack e key) (hd : discarded e = false) (hl : ia % 128 + bs.length ≤ 128) (hn : bs ≠ [])
    (hm : s.migrating = []) (hh : s.held = []) (hhost : s.hostLines = []) :
    ∃ t, writeEvents.go tid by_ [w] [] s = .ok ([], t)
      ∧ t.storeParts = (writeCells s.mem (atAddr key bs), s.cur, s.strm, s.task.ls) := by
  obtain ⟨word, t, hline, ht⟩ := writeLine_stack (by_ := by_) hcalm hloc hd hl hn hm hh hhost
  have hlogged : ((getTask? s tid).map (fun t => t.lineLogged (lineOf w.ia))).getD false = false := by
    cases hg : getTask? s tid with
    | none => rfl
    | some k =>
      obtain ⟨-, hside, hwait⟩ := hcalm k (getTask?_mem hg)
      simp only [Option.map_some, Option.getD_some, Task.lineLogged, hside, hwait, List.append_nil, List.any_nil]
  have hfault : writeFaults s w.ia = false := by
    obtain ⟨hpkg, -⟩ := locate_stack_iff.1 hloc
    have hview : s.homeView ia = s := by simp only [State.homeView, if_pos hpkg]
    simp only [writeFaults, hia, hview, hloc]
  have happly : applyWrite by_ w s = .ok (word, t) := by
    simp only [applyWrite, hred, Bool.false_eq_true, if_false, bind_eq, hbytes, hline, hbad, ne_eq, not_true_eq_false, pure_eq]
  refine ⟨addAck tid word w t, ?_, (parts_front (storeParts_addAck tid word w t)).trans ht⟩
  simp only [writeEvents.go, bind_eq, getS_eq]
  rw [if_neg (by simp only [hlogged, hfault, List.any_nil, Bool.or_self, Bool.false_eq_true, not_false_eq_true])]
  simp only [bind_eq, happly, modS_eq, pure_eq]

/-- The one line part of a store within a line (R89). -/
theorem writeParts_one {op : BitVec 8} {ord scope : BitVec 2} {va ia : Nat} {bs : List (BitVec 8)} {tag : Bool} {s : State}
    (hn : bs ≠ []) (hl : ia % 128 + bs.length ≤ 128) (hia : ia < 2 ^ 58) :
    ∃ w : LogWrite, writeParts op ord scope va ia bs tag s = [w] ∧ w.red = false ∧ w.bad = [] ∧ w.ia = ia ∧ w.bytes = atAddr ia bs := by
  obtain ⟨b, r, rfl⟩ := List.exists_cons_of_ne_nil hn
  have hparts := lineParts_one (n := (b :: r).length) (Nat.succ_pos _) hl hia
  rw [writeParts, hparts]
  exact ⟨_, rfl, rfl, rfl, rfl, span_zip ia (b :: r)⟩

/-- A change of a task leaves everything but tasks and the other packages. -/
theorem modTask_elsewhere (tid : Nat) (f : Task → Task) (s : State) :
    modTask tid f s = { s with task := (modTask tid f s).task, others := (modTask tid f s).others, peers := (modTask tid f s).peers } := by
  unfold modTask
  split <;> rfl

theorem walk_congr {s t : State} (hm : t.mem = s.mem) (hr : t.roots = s.roots) (hf : t.frameFenced = s.frameFenced) (d off : Nat) :
    walk t d off = walk s d off := by
  have hp : ∀ a, readPte t d a = readPte s d a := fun a => by simp only [readPte, hm]
  simp only [walk, hp, hr, hf]

/-- What a store needs of the memory side, after a change of a task. -/
theorem calm_modTask {s : State} {ia key : Nat} {e : WalkEntry} (tid : Nat) (f : Task → Task) (hloc : locate s ia = .stack e key)
    (hm : s.migrating = []) (hh : s.held = []) (hhost : s.hostLines = []) :
    locate (modTask tid f s) ia = .stack e key ∧ (modTask tid f s).migrating = [] ∧ (modTask tid f s).held = []
    ∧ (modTask tid f s).hostLines = [] := by
  rw [modTask_elsewhere]
  obtain ⟨hpkg, hoff, hhome, hw, hkey⟩ := locate_stack_iff.1 hloc
  refine ⟨locate_stack_iff.2 ⟨hpkg, hoff, hhome, hw.imp id ?_, hkey⟩, hm, hh, hhost⟩
  rintro ⟨hf, hno, hwalk⟩
  exact ⟨hf, hno, (walk_congr rfl rfl rfl _ _).trans hwalk⟩

/-- What a write leaves of the front package: its bytes at their key, the stream and the local store (R292). -/
structure Stored (key : Nat) (bs : List (BitVec 8)) (s t : State) : Prop where
  mem : t.mem = writeCells s.mem (atAddr key bs)
  cur : t.cur = s.cur
  strm : t.strm = s.strm
  ls : t.task.ls = s.task.ls

theorem Stored.of_parts {key : Nat} {bs : List (BitVec 8)} {s u t : State} (h : Stored key bs s u)
    (ht : t.parts Pack.storeParts = u.parts Pack.storeParts) : Stored key bs s t := by
  have hfront := parts_front ht
  simp only [Pack.storeParts, Prod.mk.injEq] at hfront
  obtain ⟨hmem, hcur, hstrm, hls⟩ := hfront
  exact ⟨hmem.trans h.mem, hcur.trans h.cur, hstrm.trans h.strm, hls.trans h.ls⟩

/-- The event of the one part, after the word's writes are numbered. -/
theorem numbered_go_one {s : State} {w : LogWrite} {ia key k : Nat} {e : WalkEntry} {bs : List (BitVec 8)}
    (hred : w.red = false) (hbad : w.bad = []) (hwia : w.ia = ia) (hbytes : w.bytes = atAddr ia bs) (hcalm : ∀ k ∈ everyTask s, k.Calm)
    (hloc : locate s ia = .stack e key) (hd : discarded e = false) (hl : ia % 128 + bs.length ≤ 128) (hn : bs ≠ [])
    (hm : s.migrating = []) (hh : s.held = []) (hhost : s.hostLines = []) :
    ∃ t, writeEvents.go s.task.tid s.self [w] [] (modTask s.task.tid (fun t => { t with wnext := t.wnext + k }) s) = .ok ([], t)
      ∧ Stored key bs s t := by
  obtain ⟨hloc', hm', hh', hhost'⟩ := calm_modTask s.task.tid (fun t => { t with wnext := t.wnext + k }) hloc hm hh hhost
  have hparts := parts_front (storeParts_modTask (tid := s.task.tid) (f := fun t => { t with wnext := t.wnext + k })
    (fun t st => by cases st <;> rfl) (fun _ => rfl) s)
  have hcalm' := everyTask_modTask (R := Task.Calm) (tid := s.task.tid) (f := fun t => { t with wnext := t.wnext + k }) (fun _ => rfl)
    (fun t ht => ht) hcalm
  obtain ⟨t, hgo, ht⟩ := writeEvents_go_one (tid := s.task.tid) (by_ := s.self) hred hbad hwia hbytes hcalm' hloc' hd hl hn hm' hh' hhost'
  simp only [Pack.storeParts, Prod.mk.injEq] at hparts ht
  obtain ⟨hmem, hcur, hstrm, hls⟩ := hparts
  obtain ⟨htm, htc, hts, htl⟩ := ht
  exact ⟨t, hgo, htm.trans (congrArg (fun m => writeCells m (atAddr key bs)) hmem), htc.trans hcur, hts.trans hstrm, htl.trans hls⟩

/-- The parts of a word's writes with the numbers that the task gives them. -/
def numbered (t : Option Task) (parts : List LogWrite) : List LogWrite :=
  match t with
  | some t => numberWrites t parts
  | none => parts

theorem numbered_one (t : Option Task) (w : LogWrite) :
    ∃ w', numbered t [w] = [w'] ∧ w'.red = w.red ∧ w'.bad = w.bad ∧ w'.ia = w.ia ∧ w'.bytes = w.bytes := by
  cases t with
  | none => exact ⟨w, rfl, rfl, rfl, rfl, rfl⟩
  | some t => exact ⟨_, rfl, rfl, rfl, rfl, rfl⟩

/-- The writes of a stream's word none of whose parts is logged. -/
theorem writeEvents_unlogged {s u : State} {parts : List LogWrite} (el : Bool)
    (hr : gateReserve ((numbered (getTask? s s.task.tid) parts).countP (fun w => leavesDie s s.task.tid w.ia)) s = .ok ((), s))
    (hgo : writeEvents.go s.task.tid s.self (numbered (getTask? s s.task.tid) parts) []
      (modTask s.task.tid (fun t => { t with wnext := t.wnext + (numbered (getTask? s s.task.tid) parts).length }) s) = .ok ([], u)) :
    writeEvents s.task.tid s.self el parts s = .ok ((), match getTask? u s.task.tid with
      | some t => l1Writes t.core (numbered (getTask? s s.task.tid) parts) [] u
      | none => u) := by
  have hself : s.self = .stream s.task.tid s.cur := rfl
  cases hg : getTask? s s.task.tid with
  | none =>
    simp only [hg, numbered, hself] at hr hgo
    simp only [writeEvents, bind_eq, getS_eq, modS_eq, hself, hg, hr, hgo, numbered]
    cases getTask? u s.task.tid <;> rfl
  | some k =>
    simp only [hg, numbered, hself] at hr hgo
    simp only [writeEvents, bind_eq, getS_eq, modS_eq, hself, hg, hr, hgo, numbered]
    cases getTask? u s.task.tid <;> rfl

/-- The writes of a word with one part: the part is numbered, its event runs, and nothing is logged (R111). -/
theorem writeEvents_one {s : State} {w : LogWrite} {ia key : Nat} {e : WalkEntry} {bs : List (BitVec 8)} (el : Bool)
    (hred : w.red = false) (hbad : w.bad = []) (hwia : w.ia = ia) (hbytes : w.bytes = atAddr ia bs) (hcalm : ∀ k ∈ everyTask s, k.Calm)
    (hloc : locate s ia = .stack e key) (hd : discarded e = false) (hl : ia % 128 + bs.length ≤ 128) (hn : bs ≠ [])
    (hm : s.migrating = []) (hh : s.held = []) (hhost : s.hostLines = []) (hoff : s.offDie s.task < 64) :
    ∃ t, writeEvents s.task.tid s.self el [w] s = .ok ((), t) ∧ Stored key bs s t := by
  obtain ⟨w', hnum, hred', hbad', hia', hbytes'⟩ := numbered_one (getTask? s s.task.tid) w
  obtain ⟨u, hgo, hu⟩ := numbered_go_one (k := [w'].length) (hred'.trans hred) (hbad'.trans hbad) (hia'.trans hwia) (hbytes'.trans hbytes)
    hcalm hloc hd hl hn hm hh hhost
  have hreserve : gateReserve ([w'].countP (fun w => leavesDie s s.task.tid w.ia)) s = .ok ((), s) := by
    have hle := List.countP_le_length (p := fun w => leavesDie s s.task.tid w.ia) (l := [w'])
    refine if_neg fun hall => ?_
    simp only [List.length_cons, List.length_nil] at hle
    omega
  refine ⟨_, writeEvents_unlogged el (by rw [hnum]; exact hreserve) (by rw [hnum]; exact hgo), hu.of_parts ?_⟩
  split
  · exact storeParts_l1Writes _ _ _ _
  · rfl

/-- A store within a line of a page of this package, in a calm machine: its bytes stand in memory, and the stream and the
local store are as they were (R111, R292). -/
theorem storeMem_stack {op : BitVec 8} {f : MForm} {drop : Bool} {va : Nat} {s : State} {ia key : Nat} {e : WalkEntry} {bs : List (BitVec 8)}
    (hlog : s.task.logWait = []) (hoff : s.offDie s.task < 64) (hcalm : ∀ k ∈ everyTask s, k.Calm)
    (hloc : locate s ia = .stack e key) (hd : discarded e = false) (hl : ia % 128 + bs.length ≤ 128) (hn : bs ≠ []) (hia : ia < 2 ^ 58)
    (hm : s.migrating = []) (hh : s.held = []) (hhost : s.hostLines = []) :
    ∃ t, storeMem op f false drop [(va, ia, bs)] s = .ok ((), t) ∧ Stored key bs s t := by
  obtain ⟨w0, hw0, hred, hbad, hwia, hbytes⟩ := writeParts_one (op := op) (ord := f.ord) (scope := f.scope) (va := va) (tag := f.tag) (s := s) hn hl hia
  obtain ⟨t, hwrite, ht⟩ := writeEvents_one (w := { w0 with size := f.size }) false hred hbad hwia hbytes hcalm hloc hd hl hn hm hh hhost hoff
  simp only [storeMem, bind_eq, gateLog_eq hlog, getS_eq, List.flatMap_cons, List.flatMap_nil, List.append_nil, hw0, List.map_cons,
    List.map_nil, hwrite]
  split
  · exact ⟨_, rfl, ht.of_parts rfl⟩
  · exact ⟨t, rfl, ht⟩

/-- The registers, predicates and flags of a stream. -/
def Strm.regs (r : Strm) : Vector (BitVec 64) 32 × Vector (BitVec 64) 8 × BitVec 64 := (r.g, r.p, r.fflags)

theorem regs_reads {s t : State} (h : t.strm.regs = s.strm.regs) :
    (∀ m, t.readG m = s.readG m) ∧ (∀ m, t.readP m = s.readP m) ∧ t.strm.fflags = s.strm.fflags := by
  obtain ⟨hg, hpf⟩ := Prod.mk.inj h
  obtain ⟨hp, hf⟩ := Prod.mk.inj hpf
  exact ⟨fun m => by simp only [State.readG, hg], fun m => by simp only [State.readP, hp], hf⟩

/-- What a change of the control part of a stream leaves. -/
structure Ctl (s t : State) : Prop where
  mem : t.mem = s.mem
  ls : t.task.ls = s.task.ls
  others : t.others = s.others
  regs : t.strm.regs = s.strm.regs

theorem Ctl.modStrm {f : Strm → Strm} (hf : ∀ r, (f r).regs = r.regs) (s : State) : Ctl s (modStrm f s) := by
  refine ⟨rfl, ?_, rfl, by rw [modStrm_strm, hf]⟩
  unfold Machine.modStrm Task.setStrm
  cases s.cur <;> rfl

theorem Ctl.trans {s t u : State} (h1 : Ctl s t) (h2 : Ctl t u) : Ctl s u :=
  ⟨h2.mem.trans h1.mem, h2.ls.trans h1.ls, h2.others.trans h1.others, h2.regs.trans h1.regs⟩

theorem Ctl.leaveSection (a : Arrive) (pc : BitVec 64) (s : State) : Ctl s (leaveSection a pc s) := by
  refine (Ctl.modStrm (f := fun r => { r with
    rsecValid := true, rsec := r.sec.secno, pc := pc, arrive := a, wait := none, await := none, srcs := none
    fin := r.fin || r.sec.last }) (fun _ => rfl) s).trans ?_
  unfold Machine.leaveSection
  dsimp only
  split
  · refine ⟨rfl, rfl, rfl, ?_⟩
    simp only [State.strm, modCur]
    cases (Machine.modStrm _ s).cur <;> rfl
  · exact ⟨rfl, rfl, rfl, rfl⟩

theorem Ctl.retire (s : State) : Ctl s (retire s) := by
  unfold Machine.retire
  dsimp only
  split
  · exact Ctl.leaveSection _ _ s
  · exact Ctl.modStrm (f := fun r => { r with pc := s.strm.pc + 12, wait := none, await := none, srcs := none }) (fun _ => rfl) s

theorem took_offDie (o : Operand) (s : State) : (took o s).offDie (took o s).task = s.offDie s.task := by
  cases o <;> simp only [took, modCur]
  unfold Task.dropQ Task.setScalarQ
  repeat' split
  all_goals rfl

theorem took_migrating (o : Operand) (s : State) : (took o s).migrating = s.migrating := by cases o <;> rfl

theorem natBytes_length (n v : Nat) : (natBytes n v).length = n := by
  induction n generalizing v with
  | zero => rfl
  | succ n ih => simp only [natBytes, List.length_cons, ih]

theorem sizeBytes_pos (x : BitVec 3) : 0 < sizeBytes x := by
  unfold sizeBytes
  split
  · decide
  · exact Nat.two_pow_pos _

theorem natBytes_ne_nil {n : Nat} (hn : 0 < n) (v : Nat) : natBytes n v ≠ [] := by
  intro h
  have hlen := congrArg List.length h
  rw [natBytes_length] at hlen
  exact Nat.pos_iff_ne_zero.1 hn hlen

/-- The window gives the IA of an access that lies on a stack (R58). -/
theorem windowIa_stack {n va size : Nat} {right : Right} {s : State} {ia : Nat} {e : WalkEntry} {key : Nat}
    (ht : translate (s.window n) va size right = .ok ia) (hl : locate s ia = .stack e key) :
    windowIa n va size right .plain none s = .ok (ia, s) := by
  simp only [windowIa, bind_eq, getS_eq, ht, hl, reduceCtorEq, false_and, if_false, pure_eq]

theorem translate_lt {x : Window} {va size : Nat} {right : Right} {ia : Nat} (h : translate x va size right = .ok ia) : ia < 2 ^ 58 := by
  unfold translate at h
  dsimp only at h
  split at h
  · cases h
  split at h
  · cases h
  split at h
  · cases h
  split at h
  · cases h
  · exact (Except.ok.inj h) ▸ Nat.mod_lt _ (Nat.two_pow_pos 58)

/-- ST to plain bytes of the local store replaces them, and retires (R292). -/
theorem st_ls {f : MForm} {s : State} (hi : Issues 0xD0 f.pred (mCheck { storeRule with lsel := true, hint := true } f) s)
    (hr : Ready [f.base, f.index, f.d] [] s) (hlog : s.task.logWait = []) (hl : f.lsel = true)
    (hj : lsJudge .noStash (took f.d (accessT f s)).task (accessVa f s).toNat (sizeBytes f.size) = none) (hs : s.task.stash = []) :
    exec (.st f) s = .next (retire (modCur (fun t => t.lsWrite (accessVa f s).toNat (natBytes (sizeBytes f.size) ((accessT f s).peekSrc f.d).toNat))
      (took f.d (accessT f s)))) := by
  refine (issue_eq hi).trans ?_
  have hstash : (took f.d (accessT f s)).task.stash = [] := by simp only [accessT, took_stash, hs]
  rw [storeBody_ls hr hlog (rel := false) (by simp only [Bool.false_eq_true, false_implies]) hl ?_ (lsStore_plain hstash), finishFlow_seq]
  simp only [lsCheck, natBytes_length, hj]

/-- ST to bytes of one line of a page of this package, in a calm machine, puts them into memory, and retires (R292). -/
theorem st_mem {f : MForm} {s : State} {ia key : Nat} {e : WalkEntry}
    (hi : Issues 0xD0 f.pred (mCheck { storeRule with lsel := true, hint := true } f) s)
    (hr : Ready [f.base, f.index, f.d] [] s) (hlog : s.task.logWait = []) (hl : f.lsel = false)
    (ht : translate ((took f.d (accessT f s)).window f.win.toNat) (accessVa f s).toNat (sizeBytes f.size) .w = .ok ia)
    (hline : ia % 128 + sizeBytes f.size ≤ 128) (hloc : locate (took f.d (accessT f s)) ia = .stack e key) (hd : discarded e = false)
    (hh : s.held = []) (hm : s.migrating = []) (hhost : s.hostLines = [])
    (hcalm : ∀ k ∈ everyTask (took f.d (accessT f s)), k.Calm) (hoff : s.offDie s.task < 64) :
    ∃ t, exec (.st f) s = .next (retire t)
      ∧ Stored key (natBytes (sizeBytes f.size) ((accessT f s).peekSrc f.d).toNat) (took f.d (accessT f s)) t := by
  have hn := natBytes_length (sizeBytes f.size) ((accessT f s).peekSrc f.d).toNat
  obtain ⟨t, hstore, hstored⟩ := storeMem_stack (op := 0xD0) (f := f) (drop := f.hint == 1#3) (va := (accessVa f s).toNat)
    (s := took f.d (accessT f s)) (by simp only [accessT, took_logWait, hlog]) (by simpa only [accessT, took_offDie] using hoff) hcalm hloc hd
    (hn.symm ▸ hline) (natBytes_ne_nil (sizeBytes_pos f.size) _) (translate_lt ht)
    (by simp only [accessT, took_migrating, hm]) (by simp only [accessT, took_held, hh]) (by simp only [accessT, took_hostLines, hhost])
  refine ⟨t, (issue_eq hi).trans ?_, hstored⟩
  rw [storeBody_mem hr hlog (rel := false) (by simp only [Bool.false_eq_true, false_implies]) hl ?_ hstore, finishFlow_seq]
  rw [hn]
  exact windowIa_stack ht hloc

end Sys2Proof.Machine
end

section
/-! SUPPORT. What a load leaves of every package, however it ends; with it O11. -/

namespace Sys2Proof.Machine

/-- What a load does not touch of a package: its memory, its tasks but the queues and the control of the one in front, its number and
where its circuits lead. -/
structure LoadKept where
  mem : List Host.Cell
  ls : List Host.Cell
  stash : List Stash
  status : TaskStatus
  others : List Task
  cur : Stream
  regs : Vector (BitVec 64) 32 × Vector (BitVec 64) 8 × BitVec 64
  pkgnum : BitVec 64
  circuits : List (BitVec 11 × CircState)

def Pack.loadKept (p : Pack) : LoadKept where
  mem := p.mem
  ls := p.task.ls
  stash := p.task.stash
  status := p.task.status
  others := p.others
  cur := p.cur
  regs := (p.task.strm p.cur).regs
  pkgnum := p.pkgnum
  circuits := p.circuits.map (fun c => (c.far, c.state))

/-- A stop that neither freezes the task nor holds an access of another agent. -/
def Stop.Harmless : Stop → Prop
  | .trap code _ _ => code ≠ fcCircuitFail
  | .page _ _ _ by_ => ∃ tid st, by_ = .stream tid st
  | _ => True

/-- From a state that leaves c of its packages, a computation leaves c, or stops without harm. -/
def Reads {α : Type} (c : List LoadKept) (m : M α) : Prop :=
  ∀ s : State, s.parts Pack.loadKept = c →
    (∀ a t, m s = .ok (a, t) → t.parts Pack.loadKept = c) ∧ (∀ e, m s = .error e → e.Harmless)

section Reads
variable {α β : Type} {c : List LoadKept}

theorem Reads.of_ok {m : M α} (h : ∀ s, s.parts Pack.loadKept = c → ∃ a t, m s = .ok (a, t) ∧ t.parts Pack.loadKept = c) : Reads c m := by
  intro s hs
  obtain ⟨a, t, hm, ht⟩ := h s hs
  rw [hm]
  refine ⟨fun b u hb => ?_, fun e he => (nomatch he)⟩
  cases hb
  exact ht

theorem Reads.of_error {m : M α} (h : ∀ s, s.parts Pack.loadKept = c → ∃ e, m s = .error e ∧ e.Harmless) : Reads c m := by
  intro s hs
  obtain ⟨e, hm, he⟩ := h s hs
  rw [hm]
  refine ⟨fun b u hb => (nomatch hb), fun x hx => ?_⟩
  cases hx
  exact he

theorem Reads.pure (a : α) : Reads c (pure a : M α) := .of_ok fun s hs => ⟨a, s, rfl, hs⟩

theorem Reads.stop {e : Stop} (he : e.Harmless) : Reads c (stop e : M α) := .of_error fun _ _ => ⟨e, rfl, he⟩

theorem Reads.trap {code : BitVec 8} (hc : code ≠ fcCircuitFail) (info : BitVec 32) (addr : BitVec 64) :
    Reads c (Machine.stop (.trap code info addr) : M α) := .stop (e := .trap code info addr) hc

theorem Reads.modS {f : State → State} (hf : ∀ s, (f s).parts Pack.loadKept = s.parts Pack.loadKept) : Reads c (modS f) :=
  .of_ok fun s hs => ⟨(), f s, rfl, (hf s).trans hs⟩

theorem Reads.bind {m : M α} {f : α → M β} (hm : Reads c m) (hf : ∀ a, Reads c (f a)) : Reads c (m >>= f) := by
  intro s hs
  obtain ⟨hok, herr⟩ := hm s hs
  rw [bind_eq]
  cases hr : m s with
  | error e => exact ⟨fun b u hb => (nomatch hb), fun x hx => by cases hx; exact herr e hr⟩
  | ok p => exact hf p.1 p.2 (hok p.1 p.2 hr)

/-- What reads the state first may use what stands in it. -/
theorem Reads.getS {f : State → M α} (hf : ∀ s, s.parts Pack.loadKept = c → Reads c (f s)) : Reads c (getS >>= f) := fun s hs =>
  hf s hs s hs

theorem Reads.ite {p : Prop} [Decidable p] {m n : M α} (hm : p → Reads c m) (hn : ¬ p → Reads c n) : Reads c (if p then m else n) := by
  split
  · next h => exact hm h
  · next h => exact hn h

theorem Reads.mapM {f : α → M β} {l : List α} (hf : ∀ a ∈ l, Reads c (f a)) : Reads c (l.mapM f) := by
  induction l with
  | nil => exact .pure []
  | cons a r ih =>
    rw [List.mapM_cons]
    exact (hf a List.mem_cons_self).bind fun b => (ih fun x hx => hf x (List.mem_cons_of_mem a hx)).bind fun bs => .pure (b :: bs)

end Reads

/-- What holds in any state of whose packages the same stands. -/
theorem pkg_of_parts {s t : State} (h : t.parts Pack.loadKept = s.parts Pack.loadKept) : t.pkg = s.pkg := by
  have hnum : t.pkgnum = s.pkgnum := congrArg LoadKept.pkgnum (parts_front h)
  simp only [Pack.pkg, hnum]

theorem circuitLost_of_parts {s t : State} (h : t.parts Pack.loadKept = s.parts Pack.loadKept) (n : Nat) : t.circuitLost n = s.circuitLost n := by
  have hc : t.circuits.map (fun c => (c.far, c.state)) = s.circuits.map (fun c => (c.far, c.state)) := congrArg LoadKept.circuits (parts_front h)
  have hread : ∀ p : Pack, p.circuitLost n = ((p.circuits.map (fun c => (c.far, c.state))).any (fun c => c.1.toNat == n && c.2 == .ended)
      && (p.circuits.map (fun c => (c.far, c.state))).all (fun c => c.1.toNat != n || c.2 != .up)) := fun p => by
    simp only [Pack.circuitLost, List.any_map, List.all_map, Function.comp_def]
  rw [hread, hread, hc]

/-- No task of a package has a stash mapping. -/
def Pack.Stashless (p : Pack) : Prop := ∀ k ∈ p.tasks, k.stash = []

theorem stashless_of_loadKept {p q : Pack} (h : p.loadKept = q.loadKept) (hp : p.Stashless) : q.Stashless := by
  have hothers : p.others = q.others := congrArg LoadKept.others h
  have hstash : p.task.stash = q.task.stash := congrArg LoadKept.stash h
  have hstatus : p.task.status = q.task.status := congrArg LoadKept.status h
  unfold Pack.Stashless Pack.tasks at *
  rw [← hothers, ← hstatus]
  split
  · next hv => rwa [if_pos hv] at hp
  · next hv =>
    rw [if_neg hv] at hp
    intro k hk
    obtain rfl | hk := List.mem_cons.1 hk
    · exact hstash ▸ hp _ List.mem_cons_self
    · exact hp k (List.mem_cons_of_mem _ hk)

theorem stashless_iff {s : State} : (∀ k ∈ everyTask s, k.stash = []) ↔ ∀ p ∈ s.packs, p.Stashless :=
  ⟨fun h p hp k hk => h k (mem_everyTask.2 ⟨p, hp, hk⟩), fun h k hk => by
    obtain ⟨p, hp, hk⟩ := mem_everyTask.1 hk
    exact h p hp k hk⟩

/-- A state from which loads can read: no stash mapping, and no circuit of this package lost. -/
structure Open (s : State) : Prop where
  stash : ∀ p ∈ s.packs, p.Stashless
  circuits : ∀ n, s.circuitLost n = false

/-- A state from which the IAs of one access read: they are of this package, or its circuit to theirs is not lost. -/
structure Reach (ias : List Nat) (s : State) : Prop where
  stash : ∀ p ∈ s.packs, p.Stashless
  circuits : ∀ a ∈ ias, iaPkg a = s.pkg ∨ s.circuitLost (iaPkg a) = false

theorem Open.of_parts {s t : State} (h : Open s) (ht : t.parts Pack.loadKept = s.parts Pack.loadKept) : Open t :=
  ⟨forall_packs_of_parts (fun _ _ => stashless_of_loadKept) ht h.stash, fun n => (circuitLost_of_parts ht n).trans (h.circuits n)⟩

theorem Reach.of_parts {ias : List Nat} {s t : State} (h : Reach ias s) (ht : t.parts Pack.loadKept = s.parts Pack.loadKept) : Reach ias t :=
  ⟨forall_packs_of_parts (fun _ _ => stashless_of_loadKept) ht h.stash, fun a ha => by
    rw [pkg_of_parts ht, circuitLost_of_parts ht]
    exact h.circuits a ha⟩

/-- A read event waits for what a log still holds, and stops for nothing else before its bytes (R437, R441). -/
theorem gateReplay_reads {c : List LoadKept} (by_ : Requester) (line : Nat) : Reads c (gateReplay by_ line) := by
  have hrecall : Reads c (gateRecall by_ line) := fun s hs => by
    unfold gateRecall
    split
    · exact Reads.pure () s hs
    · split
      · exact Reads.stop (α := Unit) (e := .wait .log) trivial s hs
      · exact Reads.pure () s hs
  intro s hs
  unfold gateReplay
  dsimp only
  split
  · split
    · exact Reads.stop (α := Unit) (e := .wait .log) trivial s hs
    · exact hrecall s hs
  · exact hrecall s hs

theorem loadKept_cacheWalk (e : WalkEntry) (s : State) : (cacheWalk e s).parts Pack.loadKept = s.parts Pack.loadKept := by
  unfold cacheWalk
  split <;> rfl

/-- The places of one access of a stream, none of which lies behind a lost circuit (R433, R442). -/
theorem places_reads {c : List LoadKept} {tid : Nat} {st : Stream} {ias : List Nat} (hc : ∀ s : State, s.parts Pack.loadKept = c → Reach ias s) :
    Reads c (places (.stream tid st) ias) := by
  induction ias with
  | nil => exact .pure []
  | cons a r ih =>
    have hplace : Reads c (place (.stream tid st) a) := fun s hs => by
      have hlost : locate s a ≠ .lost := by
        intro hl
        unfold locate at hl
        dsimp only at hl
        split at hl
        · exact nomatch hl
        split at hl
        · next h =>
          obtain hpkg | hopen := (hc s hs).circuits a List.mem_cons_self
          · exact h.1 hpkg
          · exact Bool.false_ne_true (hopen.symm.trans h.2)
        · repeat' split at hl
          all_goals exact nomatch hl
      unfold place
      split
      · exact Reads.stop (α := Place) (e := .wait .memory) trivial s hs
      · split
        · exact Reads.stop (α := Place) (e := .page _ _ _ (.stream tid st)) ⟨tid, st, rfl⟩ s hs
        · split
          · exact Reads.stop (α := Place) (e := .page _ _ _ (.stream tid st)) ⟨tid, st, rfl⟩ s hs
          · exact Reads.of_ok (fun s hs => ⟨_, cacheWalk _ s, rfl, (loadKept_cacheWalk _ s).trans hs⟩) s hs
        · exact Reads.trap (α := Place) (code := fcPkgAbsent) (by decide) 0 _ s hs
        · exact Reads.trap (α := Place) (code := fcAperture) (by decide) 0 _ s hs
        · next h => exact absurd h hlost
        · exact Reads.pure (α := Place) _ s hs
    have hrest := ih fun s hs => ⟨(hc s hs).stash, fun b hb => (hc s hs).circuits b (List.mem_cons_of_mem a hb)⟩
    exact hplace.bind fun p => hrest.bind fun ps => .pure (p :: ps)

/-- The read event of one line's part at the package that homes it (R111). -/
theorem readEvent_reads {c : List LoadKept} {count : Bool} {tid : Nat} {st : Stream} {ias : List Nat}
    (hc : ∀ s : State, s.parts Pack.loadKept = c → Reach ias s) : Reads c (readEvent count (.stream tid st) ias) := by
  cases ias with
  | nil => exact .pure []
  | cons ia r =>
    have hrecall : Reads c (recallLine (lineOf ia) false none) := .of_ok fun s hs =>
      ⟨(), s, recallLine_none (stashHolders_calm (stashless_iff.2 (hc s hs).stash) (lineOf ia)), hs⟩
    have hpoison : ∀ ps, Reads c (checkPoison (ia :: r) ps) := fun ps s hs => by
      unfold checkPoison
      split
      · exact Reads.trap (α := Unit) (code := fcDataPoison) (by decide) _ _ s hs
      · exact Reads.pure () s hs
    have hcount : Reads c (modS (countAccess (.stream tid st) ia)) := .modS (parts_countAccess (fun _ _ => rfl) (fun _ _ => rfl) _ ia)
    unfold readEvent
    refine (gateReplay_reads _ _).bind fun _ => hrecall.bind fun _ => (places_reads hc).bind fun ps => (hpoison ps).bind fun _ => ?_
    refine .getS fun s hs => ?_
    have hend : Reads c (do
        if count then modS (countAccess (.stream tid st) ia) else pure ()
        pure (ps.map (byteAt s))) := .ite (fun _ => hcount.bind fun _ => .pure _) (fun _ => .pure _)
    exact .ite (fun _ => (Reads.trap (α := PUnit) (code := fcDataPoison) (by decide) _ _).bind fun _ => hend) (fun _ => hend)

theorem loadKept_sendFree (n : Nat) (s : State) : (sendFree n s).parts Pack.loadKept = s.parts Pack.loadKept := by
  refine parts_of_front ?_ rfl
  have hcirc : ∀ (p : Circuit → Bool) (text : BitVec 2048) (l : List Circuit),
      (modFirst p (fun c => { c with tx := c.tx.send 0 text, idle := 0 }) l).map (fun c => (c.far, c.state)) = l.map (fun c => (c.far, c.state)) := by
    intro p text l
    induction l with
    | nil => rfl
    | cons c l ih =>
      rw [modFirst]
      split
      · rfl
      · rw [List.map_cons, List.map_cons, ih]
  simp only [sendFree, sendData, Pack.loadKept, hcirc]

/-- The link to a package that no lost circuit cuts off takes a request, or lets it wait (R364, R467). -/
theorem gateCircuit_reads {c : List LoadKept} (ia : Nat) (hc : ∀ s : State, s.parts Pack.loadKept = c → Open s) : Reads c (gateCircuit ia) := by
  intro s hs
  have hcut : ¬ s.cutFrom (iaPkg ia) = true := by
    simp only [Pack.cutFrom, (hc s hs).circuits, Bool.and_false, Bool.false_eq_true, not_false_eq_true]
  rw [gateCircuit, if_neg hcut]
  unfold gateLink
  split
  · exact Reads.pure () s hs
  · split
    · split
      · exact Reads.of_ok (fun s hs => ⟨(), _, rfl, (loadKept_sendFree _ s).trans hs⟩) s hs
      · exact Reads.stop (α := Unit) (e := .wait .memory) trivial s hs
    · exact Reads.stop (α := Unit) (e := .circuit _) trivial s hs

theorem pkg_of_isPkg {n : Nat} {p : Pack} (h : Pack.isPkg n p = true) : p.pkg = n := by
  obtain ⟨hv, hn⟩ := Bool.and_eq_true_iff.1 h
  rw [Pack.pkg, if_pos hv]
  exact beq_iff_eq.1 hn

theorem packs_swapPack {i : Nat} {s : State} {p : Pack} (hi : s.peers[i]? = some p) {q : Pack} (hq : q ∈ (swapPack i s).packs) : q ∈ s.packs := by
  simp only [swapPack, hi] at hq
  obtain rfl | hq := List.mem_cons.1 hq
  · exact List.mem_cons_of_mem _ (List.mem_of_getElem? hi)
  · obtain hq | rfl := List.mem_or_eq_of_mem_set hq
    · exact List.mem_cons_of_mem _ hq
    · exact List.mem_cons_self

/-- The part of one line read at its home (R89, R364). -/
theorem readLine_reads {c : List LoadKept} {tid : Nat} {st : Stream} {ias : List Nat} (hias : ∀ a ∈ ias, iaPkg a = iaPkg (ias.headD 0))
    (hc : ∀ s : State, s.parts Pack.loadKept = c → Open s) : Reads c (readLine (.stream tid st) ias) := by
  intro s hs
  have hevent : ∀ u : State, Reach ias u → Reads (u.parts Pack.loadKept) (readEvent true (.stream tid st) ias) := fun u hu =>
    readEvent_reads fun v hv => hu.of_parts hv
  have hopen : ∀ u : State, Open u → Reach ias u := fun u hu => ⟨hu.stash, fun a _ => .inr (hu.circuits _)⟩
  have hfront : ∀ u : State, u.parts Pack.loadKept = c → Reads c (readEvent true (.stream tid st) ias) := fun u hu => hu ▸ hevent u (hopen u (hc u hu))
  unfold readLine atHome
  split
  · exact hfront s hs s hs
  · obtain ⟨hgate, hstop⟩ := gateCircuit_reads (ias.headD 0) hc s hs
    split
    · next e he => exact ⟨fun a t h => (nomatch h), fun x hx => by cases hx; exact hstop e he⟩
    · next u hu =>
      have hkept := hgate _ _ hu
      show (∀ a t, onPack _ (readEvent true (.stream tid st) ias) u = .ok (a, t) → _)
        ∧ (∀ e, onPack _ (readEvent true (.stream tid st) ias) u = .error e → _)
      unfold onPack
      split
      · exact hfront u hkept u hkept
      · split
        · next i hi =>
          obtain ⟨hlt, hpk, -⟩ := List.findIdx?_eq_some_iff_getElem.1 hi
          have hpeer : u.peers[i]? = some u.peers[i] := List.getElem?_eq_getElem hlt
          have hswap : (swapPack i u).toPack = u.peers[i] := by simp only [swapPack, hpeer]
          have hreach : Reach ias (swapPack i u) := by
            refine ⟨fun p hp => (hc u hkept).stash p (packs_swapPack hpeer hp), fun a ha => .inl ?_⟩
            rw [hias a ha, hswap]
            exact (pkg_of_isPkg hpk).symm
          obtain ⟨hok, herr⟩ := hevent _ hreach _ rfl
          cases hr : readEvent true (.stream tid st) ias (swapPack i u) with
          | error e => exact ⟨fun a t h => (nomatch h), fun x hx => by cases hx; exact herr e hr⟩
          | ok p =>
            refine ⟨fun a t h => ?_, fun e he => (nomatch he)⟩
            cases h
            rw [parts_swapPack i (hok p.1 p.2 hr), swapPack_swapPack, hkept]
        · exact hfront u hkept u hkept

/-- The IAs of one part of an access are of one line, and so of one package (R89). -/
theorem splitLines_line {n : Nat} {l p : List Nat} (hp : p ∈ splitLines n l) : ∀ a ∈ p, lineOf a = lineOf (p.headD 0) := by
  induction n generalizing l with
  | zero => exact absurd hp List.not_mem_nil
  | succ n ih =>
    cases l with
    | nil => exact absurd hp List.not_mem_nil
    | cons b l =>
      obtain rfl | hp := List.mem_cons.1 hp
      · intro a ha
        have hb : (lineOf b == lineOf b) = true := beq_self_eq_true _
        have hhead : (List.takeWhile (fun x => lineOf x == lineOf b) (b :: l)).headD 0 = b := by
          rw [List.takeWhile_cons_of_pos (p := fun x => lineOf x == lineOf b) hb, List.headD_cons]
        rw [hhead]
        exact beq_iff_eq.1 (List.mem_takeWhile_imp (p := fun x => lineOf x == lineOf b) ha)
      · exact ih hp

theorem lineParts_pkg {ia n : Nat} {p : List Nat} (hp : p ∈ lineParts ia n) : ∀ a ∈ p, iaPkg a = iaPkg (p.headD 0) := by
  intro a ha
  have hline := splitLines_line hp a ha
  simp only [lineOf] at hline
  simp only [iaPkg, bits]
  omega

theorem readIa_reads {c : List LoadKept} {tid : Nat} {st : Stream} (ia n : Nat) (hc : ∀ s : State, s.parts Pack.loadKept = c → Open s) :
    Reads c (readIa (.stream tid st) ia n) :=
  (Reads.mapM fun _ hp => readLine_reads (lineParts_pkg hp) hc).bind fun _ => .pure _

/-- A scalar load of an IA, through the L1 or past it (R106, R113). -/
theorem loadScalar_reads {c : List LoadKept} (ia n : Nat) (l1 : Bool) (hc : ∀ s : State, s.parts Pack.loadKept = c → Open s) :
    Reads c (loadScalar ia n l1) := by
  have hfill : ∀ (line : Nat) (s : State), (match lineNow s line with
      | some l => l1Fill line l s
      | none => s).parts Pack.loadKept = s.parts Pack.loadKept := fun line s => by
    split
    · unfold l1Fill
      dsimp only
      split <;> rfl
    · rfl
  have hthrough : ∀ p ∈ lineParts ia n, Reads c (loadL1 p) := fun p hp => by
    cases p with
    | nil => exact .pure []
    | cons a r =>
      refine .getS fun s hs => ?_
      split
      · exact (gateReplay_reads _ _).bind fun _ => .pure _
      · exact (readLine_reads (lineParts_pkg hp) hc).bind fun d => (Reads.modS (hfill (lineOf a))).bind fun _ => .pure d
  have hpast : Reads c (loadPast ia n) :=
    .getS fun s hs => (readIa_reads ia n hc).bind fun bs => (Reads.modS (f := l1DropLines _ _) fun _ => rfl).bind fun _ => .pure bs
  exact .ite (fun _ => (Reads.mapM hthrough).bind fun _ => .pure _) (fun _ => hpast)

/-- A window answers an IA, or a trap that enters a trap section (R58, R442, R443). -/
theorem windowIa_reads {c : List LoadKept} (n va size : Nat) (right : Right) (use : SpanUse) (elem : Option Nat) :
    Reads c (windowIa n va size right use elem) := by
  have htranslate : ∀ (x : Window) code low, translate x va size right = .error (code, low) → code ≠ fcCircuitFail := by
    intro x code low h
    unfold translate at h
    dsimp only at h
    split at h
    · cases h
      decide
    split at h
    · cases h
      decide
    split at h
    · cases h
      decide
    split at h
    · cases h
      decide
    · exact nomatch h
  refine .getS fun s hs => ?_
  split
  · next h => exact .trap (htranslate _ _ _ h) _ _
  · split
    · exact .trap (by decide) _ _
    · exact .trap (by decide) _ _
    · exact .ite (fun _ => .trap (by decide) _ _) (fun _ => .pure _)

theorem loadIas_reads {c : List LoadKept} (win n : Nat) (several : Bool) (addrs : List (Option Nat)) : Reads c (loadIas win n several addrs) := by
  have hgo : ∀ (l : List (Option Nat)) (i : Nat), Reads c (loadIas.go win n several i l) := by
    intro l
    induction l with
    | nil => exact fun i => .pure []
    | cons a r ih =>
      intro i
      cases a with
      | none => exact (ih (i + 1)).bind fun t => .pure (none :: t)
      | some a => exact (windowIa_reads win a n .r .plain (if several then some i else none)).bind fun ia => (ih (i + 1)).bind fun t => .pure (some ia :: t)
  exact hgo addrs 0

/-- A load of elements from memory (R204 to R206). -/
theorem loadMem_reads {c : List LoadKept} (win n : Nat) (several l1 : Bool) (addrs : List (Option Nat))
    (hc : ∀ s : State, s.parts Pack.loadKept = c → Open s) : Reads c (loadMem win n several l1 addrs) := by
  have hreserve : ∀ k, Reads c (gateReserve k) := fun k s hs => by
    unfold gateReserve
    split
    · exact Reads.stop (α := Unit) (e := .wait .memory) trivial s hs
    · exact Reads.pure () s hs
  refine (loadIas_reads win n several addrs).bind fun ias => .getS fun s hs => (hreserve _).bind fun _ => (Reads.mapM fun a _ => ?_).bind fun _ => .pure _
  cases a with
  | none => exact .pure _
  | some ia => exact loadScalar_reads ia n l1 hc

/-- The gate of a word's queues (R33). -/
theorem gate_reads {c : List LoadKept} (srcs dsts : List Operand) : Reads c (gate srcs dsts) := by
  have hpops : ∀ all l, Reads c (gatePops all l) := fun all l => by
    induction l with
    | nil => exact .pure ()
    | cons q r ih =>
      exact .getS fun s hs => .ite (fun _ => .ite (fun _ => .trap (by decide) _ _) (fun _ => .stop (e := .wait _) trivial)) (fun _ => ih)
  have hpushes : ∀ l, Reads c (gatePushes l) := fun l => by
    induction l with
    | nil => exact .pure ()
    | cons q r ih =>
      exact .getS fun s hs => .ite (fun _ => .ite (fun _ => .trap (by decide) _ _) (fun _ => .stop (e := .wait _) trivial)) (fun _ => ih)
  exact (hpops _ _).bind fun _ => hpushes _

theorem loadKept_took (o : Operand) (s : State) : (took o s).parts Pack.loadKept = s.parts Pack.loadKept := by
  refine parts_of_front ?_ ?_
  · have hregs : (took o s).strm.regs = s.strm.regs := by rw [took_strm]
    have hcirc : (took o s).circuits = s.circuits := by cases o <;> rfl
    have hnum : (took o s).pkgnum = s.pkgnum := by cases o <;> rfl
    simp only [State.strm, took_cur] at hregs
    simp only [Pack.loadKept, took_mem, took_ls, took_stash, took_status, took_others, hregs, took_cur, hcirc, hnum]
  · cases o <;> rfl

/-- What LD does before it writes its destination. -/
theorem loadBody_reads {c : List LoadKept} {f : MForm} (hl : f.lsel = false) (hc : ∀ s : State, s.parts Pack.loadKept = c → Open s) :
    Reads c (do
      gate [f.base, f.index] []
      let va ← readAddr f
      loadElems f false (f.hint != 1#3) [va]) := by
  have haddr : Reads c (readAddr f) := .of_ok fun s hs =>
    ⟨_, _, readAddr_eq f s, (loadKept_took f.index _).trans ((loadKept_took f.base s).trans hs)⟩
  refine (gate_reads _ _).bind fun _ => haddr.bind fun va => ?_
  rw [loadElems, if_neg (Bool.eq_false_iff.1 hl)]
  exact loadMem_reads _ _ _ _ _ hc

theorem Ctl.of_loadKept {s t : State} (h : t.parts Pack.loadKept = s.parts Pack.loadKept) : Ctl s t :=
  ⟨congrArg LoadKept.mem (parts_front h), congrArg LoadKept.ls (parts_front h), congrArg LoadKept.others (parts_front h),
    congrArg LoadKept.regs (parts_front h)⟩

theorem Task.unpop_ls (l : List (Option Nat × BitVec 64)) (t : Task) : (t.unpop l).ls = t.ls := by
  have hset : ∀ (t : Task) q l, (t.setScalarQ q l).ls = t.ls := fun t q l => by
    unfold Task.setScalarQ
    split
    · rfl
    · split <;> rfl
  induction l with
  | nil => rfl
  | cons x l ih =>
    obtain ⟨q, v⟩ := x
    cases q with
    | none => exact ih
    | some q => exact (hset _ _ _).trans ih

/-- A trap into the trap section of a stream that waits on no semaphore (R63, R422). -/
theorem Ctl.takeTrap {s : State} {code op : BitVec 8} {info : BitVec 32} {addr : BitVec 64} (hv : s.strm.trapsec.getLsbD 0 = true)
    (hw : s.strm.semw = none) (hc : code ≠ fcCircuitFail) : Ctl s (takeTrap code op info addr s) := by
  have hrefund : Ctl s (refundWait s) := by
    unfold refundWait
    cases hsrcs : s.strm.srcs with
    | none =>
      simp only [hw]
      exact ⟨rfl, rfl, rfl, rfl⟩
    | some l =>
      have hback : Ctl s (modCur (fun t => t.unpop l) s) := by
        refine ⟨rfl, Task.unpop_ls l s.task, rfl, ?_⟩
        rw [show (modCur (fun t => t.unpop l) s).strm = s.strm from Task.unpop_strm l s.task s.cur]
      have hsem : (Machine.modStrm (fun r => { r with srcs := none }) (modCur (fun t => t.unpop l) s)).strm.semw = none := by
        rw [modStrm_strm, show (modCur (fun t => t.unpop l) s).strm = s.strm from Task.unpop_strm l s.task s.cur]
        exact hw
      simp only [hsem]
      exact hback.trans (Ctl.modStrm (by exact fun _ => rfl) _)
  rw [takeTrap_section op info addr hv hc]
  exact hrefund.trans (Ctl.modStrm (by exact fun _ => rfl) _)

/-- A word of a stream whose access stops without harm (R33, R433). -/
theorem Ctl.finishFlow_error {op : BitVec 8} {s t : State} {e : Stop} (he : e.Harmless) (hv : s.strm.trapsec.getLsbD 0 = true)
    (hw : s.strm.semw = none) (ht : finishFlow op s (.error e) = .next t) : Ctl s t := by
  have hwait : ∀ (w : Wait) (u : State), u.parts Pack.loadKept = s.parts Pack.loadKept → Ctl s (setWait w u) := fun w u hu =>
    (Ctl.of_loadKept hu).trans (Ctl.modStrm (by exact fun _ => rfl) u)
  have hrecord : ∀ (r : RecIn) (u : State), (addRecord r u).parts Pack.loadKept = u.parts Pack.loadKept := fun r u => by
    have hlost : ∀ v : State, (countLost v).parts Pack.loadKept = v.parts Pack.loadKept := fun v => rfl
    unfold addRecord
    dsimp only
    repeat' split
    all_goals rfl
  cases e with
  | trap code info addr =>
    cases ht
    exact Ctl.takeTrap hv hw he
  | wait w =>
    cases ht
    exact hwait w s rfl
  | sem w =>
    cases ht
    exact Ctl.modStrm (by exact fun _ => rfl) s
  | page die page ia by_ =>
    obtain ⟨tid, st, rfl⟩ := he
    cases ht
    refine hwait _ _ (parts_atPack (fun u => ?_) s)
    split
    · rfl
    · dsimp only
      split
      · exact (hrecord _ _).trans rfl
      · rfl
  | hostLine l =>
    cases ht
    refine hwait _ _ (parts_atPack (fun u => ?_) s)
    split <;> rfl
  | circuit p =>
    cases ht
    refine hwait _ _ ?_
    unfold demandCircuit
    split <;> rfl
  | fault f => exact nomatch ht
  | refused r => exact nomatch ht

/-- What a load into a destination leaves: everything else (R50, R204). -/
structure Loaded (d : Operand) (s t : State) : Prop where
  mem : t.mem = s.mem
  ls : t.task.ls = s.task.ls
  others : t.others = s.others
  flags : t.strm.fflags = s.strm.fflags
  greg : ∀ m, d ≠ .g m → t.readG m = s.readG m
  preg : ∀ m, t.readP m = s.readP m

theorem Ctl.loaded {d : Operand} {s t : State} (h : Ctl s t) : Loaded d s t := by
  obtain ⟨hg, hp, hf⟩ := regs_reads h.regs
  exact ⟨h.mem, h.ls, h.others, hf, fun m _ => hg m, hp⟩

theorem Loaded.trans {d : Operand} {s t u : State} (h1 : Loaded d s t) (h2 : Loaded d t u) : Loaded d s u :=
  ⟨h2.mem.trans h1.mem, h2.ls.trans h1.ls, h2.others.trans h1.others, h2.flags.trans h1.flags,
    fun m hm => (h2.greg m hm).trans (h1.greg m hm), fun m => (h2.preg m).trans (h1.preg m)⟩

theorem Loaded.writeG (n : Fin 32) (v : BitVec 64) (s : State) : Loaded (.g n) s (writeG n v s) := by
  unfold Machine.writeG
  split
  · exact ⟨rfl, rfl, rfl, rfl, fun _ _ => rfl, fun _ => rfl⟩
  · refine ⟨rfl, ?_, rfl, by rw [modStrm_strm], fun m hm => ?_, fun m => ?_⟩
    · unfold modStrm Task.setStrm
      cases s.cur <;> rfl
    · have hne : n.val ≠ m.val := fun h => hm (congrArg Operand.g (Fin.ext h))
      simp only [State.readG, modStrm_strm, Fin.getElem_fin, Vector.getElem_set_ne _ _ hne]
    · simp only [State.readP, modStrm_strm]

/-- LD from memory, however it ends (R204, R421). -/
theorem ld_loaded {f : MForm} {n : Fin 32} {s t : State} (hd : f.d = .g n) (hl : f.lsel = false) (hv : s.strm.trapsec.getLsbD 0 = true)
    (hw : s.strm.semw = none) (hopen : Open s) (ht : finishFlow 0x60 s ((do
      gate [f.base, f.index] []
      let va ← readAddr f
      let bs ← loadElems f false (f.hint != 1#3) [va]
      writeDst f.d (extendLoad (f.opk.getLsbD 0) bs)
      pure .seq : M Flow) s) = .next t) : Loaded f.d s t := by
  obtain ⟨hok, herr⟩ := loadBody_reads hl (fun u hu => hopen.of_parts hu) s rfl
  rw [show (do
      gate [f.base, f.index] []
      let va ← readAddr f
      let bs ← loadElems f false (f.hint != 1#3) [va]
      writeDst f.d (extendLoad (f.opk.getLsbD 0) bs)
      pure .seq : M Flow) = (do
        gate [f.base, f.index] []
        let va ← readAddr f
        loadElems f false (f.hint != 1#3) [va]) >>= (fun bs => do
          writeDst f.d (extendLoad (f.opk.getLsbD 0) bs)
          pure .seq) by simp only [bind_assoc], bind_eq] at ht
  split at ht
  · next bs u hu =>
    simp only [bind_eq, writeDst_eq, hd, put, pure_eq, finishFlow_seq] at ht
    cases ht
    rw [hd]
    exact (Ctl.of_loadKept (hok bs u hu)).loaded.trans ((Loaded.writeG n _ u).trans (Ctl.retire _).loaded)
  · next e he => exact (Ctl.finishFlow_error (herr e he) hv hw ht).loaded

/-- The store's address and data leave the stream, the local store and memory as they were. -/
theorem Ctl.took (o : Operand) (s : State) : Ctl s (took o s) := Ctl.of_loadKept (loadKept_took o s)

theorem lsWrite_strm (a : Nat) (bs : List (BitVec 8)) (s : State) : (modCur (fun t => t.lsWrite a bs) s).strm = s.strm := by
  obtain ⟨p, peers⟩ := s
  simp only [State.strm, modCur]
  cases p.cur <;> rfl

theorem Ctl.storeTook (f : MForm) (s : State) : Ctl s (Machine.took f.d (accessT f s)) :=
  (Ctl.took f.base s).trans ((Ctl.took f.index _).trans (Ctl.took f.d _))

/-- Settles O11: a store to the local store by the cells it writes, a store to memory by the one write event of its line,
and a load by what every read event leaves (R111, R204, R292). -/
theorem loadAndStoreFrames : Obligations.LoadAndStoreFrames := by
  refine ⟨fun f s hi hr hlog => ⟨fun hl hj hstash hwf => ?ls,
    fun ia e key hl htr hline hloc hd hheld hmig hhost hcalm hwf hoff => ?mem⟩, fun f s t hl hv hsem hlost hstash ht => ?load⟩
  case ls =>
    have hctl := Ctl.storeTook f s
    refine ⟨_, st_ls hi hr hlog hl hj hstash, ?_⟩
    set bs := natBytes (sizeBytes f.size) ((accessT f s).peekSrc f.d).toNat
    set u := modCur (fun t => t.lsWrite (accessVa f s).toNat bs) (took f.d (accessT f s))
    have hret := Ctl.retire u
    have hregs : u.strm.regs = (took f.d (accessT f s)).strm.regs := congrArg Strm.regs (lsWrite_strm _ _ _)
    obtain ⟨hg, hp, hf⟩ := regs_reads (hret.regs.trans (hregs.trans hctl.regs))
    refine ⟨hret.mem.trans hctl.mem, hg, hp, hf, hret.others.trans hctl.others, fun a => ?_⟩
    have hls : (retire u).task.ls = writeCells s.task.ls (atAddr (accessVa f s).toNat bs) :=
      hret.ls.trans (congrArg (fun l => writeCells l (atAddr (accessVa f s).toNat bs)) hctl.ls)
    have hlen : bs.length = sizeBytes f.size := natBytes_length _ _
    rw [hls, readCell_writeCells_atAddr hwf, hlen]
  case mem =>
    have hctl := Ctl.storeTook f s
    obtain ⟨t, ht, hst⟩ := st_mem hi hr hlog hl htr hline hloc hd hheld hmig hhost (fun k hk => hcalm k hk) hoff
    have hret := Ctl.retire t
    obtain ⟨hg, hp, hf⟩ := regs_reads (hret.regs.trans ((congrArg Strm.regs hst.strm).trans hctl.regs))
    refine ⟨_, ht, hg, hp, hf, hret.ls.trans (hst.ls.trans hctl.ls), fun a => ?_⟩
    rw [hret.mem, hst.mem, hctl.mem, readCell_writeCells_atAddr hwf, natBytes_length]
  case load =>
    have hload : Loaded f.d s t := by
      by_cases hissued : issuedBy 0x60 s.cur = true
      · cases hcheck : mCheck { dOk := fun _ o => isG o, size := scalarSize, opk := loadOpk, lsel := true, cf := true } f s with
        | some i =>
          cases (issue_broken hissued hcheck).symm.trans ht
          exact (Ctl.takeTrap hv hsem (by decide)).loaded
        | none =>
          by_cases hpred : predHolds f.pred s = true
          · have hd : isG f.d = true := (firstBroken_eq_none_iff _).1 hcheck _ List.mem_cons_self
            obtain ⟨n, hn⟩ : ∃ n, f.d = .g n := by
              cases hfd : f.d with
              | g n => exact ⟨n, rfl⟩
              | _ => rw [hfd] at hd; exact nomatch hd
            exact ld_loaded hn hl hv hsem ⟨stashless_iff.1 hstash, hlost⟩ ((issue_eq ⟨hissued, hcheck, hpred⟩).symm.trans ht)
          · cases (issue_skipped hissued hcheck (Bool.eq_false_iff.2 hpred)).symm.trans ht
            exact (Ctl.retire s).loaded
      · cases (issue_foreign (Bool.eq_false_iff.2 hissued)).symm.trans ht
        exact (Ctl.takeTrap hv hsem (by decide)).loaded
    exact ⟨hload.mem, hload.ls, hload.others, hload.flags, hload.greg, hload.preg⟩

end Sys2Proof.Machine
end

section
/-! SUPPORT. What leaves memory and the checkpoint images of all packages as they are (O5). -/

namespace Sys2Proof.Machine

/-- The memory and the checkpoint image of a package. -/
def Pack.store (p : Pack) : List Host.Cell × Option Image := (p.mem, p.image)

/-- The memory and the checkpoint image of every modelled package. -/
def State.store (s : State) : List (List Host.Cell × Option Image) := s.parts Pack.store

/-- The memory invariant reads nothing else. -/
theorem MemInv.of_store {s t : State} (h : MemInv s) (ht : t.store = s.store) : MemInv t :=
  forall_packs_of_parts (κ := Pack.store) (R := Pack.memOk) (fun p q hpq hp => by
    obtain ⟨hm, hi⟩ := Prod.mk.inj hpq
    unfold Pack.memOk at hp ⊢
    rwa [← hm, ← hi]) ht h

/-- A change of other parts of the package in front. -/
@[simp] theorem store_update {s : State} {p : Pack} {a b : Nat} (hm : p.mem = s.mem) (hi : p.image = s.image) :
    State.store ⟨p, a, b, s.peers⟩ = s.store :=
  parts_of_front (congrArg₂ Prod.mk hm hi) rfl

@[simp] theorem store_modStrm (f : Strm → Strm) (s : State) : (modStrm f s).store = s.store := rfl
@[simp] theorem store_modCur (f : Task → Task) (s : State) : (modCur f s).store = s.store := rfl

/-- A change of the other parts of every package. -/
theorem store_mapPacks {f : Pack → Pack} (h : ∀ p, (f p).store = p.store) (s : State) : (mapPacks f s).store = s.store := parts_mapPacks h s

theorem store_atPack {c : Pack → Bool} {f : State → State} (hf : ∀ u, (f u).store = u.store) (s : State) : (atPack c f s).store = s.store :=
  parts_atPack hf s

theorem store_atTask {tid : Nat} {f : State → State} (hf : ∀ u, (f u).store = u.store) (s : State) : (atTask tid f s).store = s.store :=
  parts_atPack hf s

@[simp] theorem store_modTask (tid : Nat) (f : Task → Task) (s : State) : (modTask tid f s).store = s.store := by
  have hpack : ∀ p, (Pack.modTask tid f p).store = p.store := fun p => by
    unfold Pack.modTask
    split <;> rfl
  unfold modTask
  split
  · rfl
  · simp only [State.store, State.parts, State.packs, List.map_cons, List.map_map, Function.comp_def, hpack]
    rfl

theorem store_foldl {α : Type} {f : State → α → State} (hf : ∀ s x, (f s x).store = s.store) (l : List α) (s : State) :
    (l.foldl f s).store = s.store := by
  induction l generalizing s with
  | nil => rfl
  | cons x l ih => exact (ih (f s x)).trans (hf s x)

@[simp] theorem store_advanceTime (s : State) : (advanceTime s).store = s.store := rfl

@[simp] theorem store_rotate (s : State) : (rotate s).store = s.store := by
  unfold rotate
  dsimp only
  split <;> simp

@[simp] theorem store_nextTurn (s : State) : (nextTurn s).store = s.store := by
  unfold nextTurn
  repeat' split
  all_goals simp

@[simp] theorem store_refundWait (s : State) : (refundWait s).store = s.store := by
  unfold refundWait
  dsimp only
  repeat' split
  all_goals simp

@[simp] theorem store_modLighter (n : Fin 32) (f : Lighter → Lighter) (s : State) : (modLighter n f s).store = s.store := rfl
@[simp] theorem store_modLRun (n : Fin 32) (f : LRun → LRun) (s : State) : (modLRun n f s).store = s.store := rfl

@[simp] theorem store_modColl (key : CollKey) (f : DColl → DColl) (s : State) : (modColl key f s).store = s.store := by
  unfold modColl
  refine store_mapPacks (fun p => ?_) s
  rfl

@[simp] theorem store_modMember (key : CollKey) (tid : ℕ) (f : DMember → DMember) (s : State) :
    (modMember key tid f s).store = s.store := by
  unfold modMember
  simp

@[simp] theorem store_countLost (s : State) : (countLost s).store = s.store := rfl

@[simp] theorem store_addRecord (r : RecIn) (s0 : State) : (addRecord r s0).store = s0.store := by
  unfold addRecord
  dsimp only
  repeat' split
  all_goals simp

@[simp] theorem store_addTaskRecord (tid : ℕ) (r : RecIn) (s : State) : (addTaskRecord tid r s).store = s.store := by
  unfold addTaskRecord
  refine store_atTask (fun u => ?_) s
  split <;> simp

@[simp] theorem store_unqueue (tid : ℕ) (s : State) : (unqueue tid s).store = s.store := rfl

@[simp] theorem store_modSlot (slot : ℕ) (f : GSlot → GSlot) (s : State) : (modSlot slot f s).store = s.store := by
  unfold modSlot
  split <;> rfl

@[simp] theorem store_settleFailed (slot : ℕ) (s : State) : (settleFailed slot s).store = s.store := by
  unfold settleFailed
  split <;> simp

@[simp] theorem store_putGroup (g : Group) (s : State) : (putGroup g s).store = s.store := by
  unfold putGroup
  dsimp only
  repeat' split
  all_goals simp [store_atPack]

@[simp] theorem store_pushEventTo (tid : ℕ) (g : EventSource) (e : BitVec 128) (s : State) :
    (pushEventTo tid g e s).store = s.store := by
  unfold pushEventTo
  simp

@[simp] theorem store_modNode (slot : ℕ) (node : ℕ) (f : NodeSt → NodeSt) (s : State) :
    (modNode slot node f s).store = s.store := by
  unfold modNode
  simp

@[simp] theorem store_leaveSection (a : Arrive) (pc : BitVec 64) (s : State) : (leaveSection a pc s).store = s.store := by
  unfold leaveSection
  dsimp only
  split <;> simp

@[simp] theorem store_retire (s : State) : (retire s).store = s.store := by
  unfold retire
  dsimp only
  split <;> simp

@[simp] theorem store_setWait (w : Wait) (s : State) : (setWait w s).store = s.store := rfl

@[simp] theorem store_jumpTo (va : BitVec 64) (s : State) : (jumpTo va s).store = s.store := by
  unfold jumpTo
  split <;> simp

@[simp] theorem store_finishStream (s : State) : (finishStream s).store = s.store := by
  unfold finishStream
  simp

@[simp] theorem store_holdWord (w : Option AccessWord) (die : ℕ) (page : ℕ) (ia : ℕ) (by_ : Requester) (s : State) :
    (holdWord w die page ia by_ s).store = s.store := by
  unfold holdWord
  dsimp only
  simp [store_atPack, apply_ite State.store]

@[simp] theorem store_askHost (line : ℕ) (s : State) : (askHost line s).store = s.store := by
  unfold askHost
  refine store_atPack (fun u => ?_) s
  repeat' split
  all_goals simp

@[simp] theorem store_demandCircuit (pkg : ℕ) (s : State) : (demandCircuit pkg s).store = s.store := by
  unfold demandCircuit
  split <;> rfl

@[simp] theorem store_writeG (n : Fin 32) (v : BitVec 64) (s : State) : (writeG n v s).store = s.store := by
  unfold writeG
  split <;> rfl

@[simp] theorem store_writeP (n : Fin 8) (v : BitVec 64) (s : State) : (writeP n v s).store = s.store := by
  unfold writeP
  split <;> rfl

@[simp] theorem store_writeV (n : Fin 32) (v : BitVec 2048) (s : State) : (writeV n v s).store = s.store := rfl
@[simp] theorem store_raiseS (f : FlagSet) (s : State) : (raiseS f s).store = s.store := rfl
@[simp] theorem store_l1Drop (core : ℕ) (s : State) : (l1Drop core s).store = s.store := rfl

@[simp] theorem store_acquireAt (scope : BitVec 2) (s : State) : (acquireAt scope s).store = s.store := by
  unfold acquireAt
  split <;> rfl

@[simp] theorem store_startGraph (slot : ℕ) (n : ℕ) (sig : Option (ℕ × BitVec 8 × BitVec 12)) (s : State) :
    (startGraph slot n sig s).1.store = s.store := by
  unfold startGraph
  dsimp only
  repeat' split
  all_goals simp

@[simp] theorem store_l1DropLines (core : ℕ) (lines : List ℕ) (s : State) : (l1DropLines core lines s).store = s.store := rfl
@[simp] theorem store_sendData (pkg : ℕ) (text : BitVec 2048) (s : State) : (sendData pkg text s).store = s.store := rfl
@[simp] theorem store_sendFree (pkg : ℕ) (s : State) : (sendFree pkg s).store = s.store := rfl

@[simp] theorem store_cacheWalk (e : WalkEntry) (s : State) : (cacheWalk e s).store = s.store := by
  unfold cacheWalk
  split <;> rfl

@[simp] theorem store_dropHostWrite (s : State) : (dropHostWrite s).store = s.store := by
  unfold dropHostWrite
  split <;> simp

@[simp] theorem store_nextTag (ia : ℕ) (s : State) : (nextTag ia s).2.store = s.store := rfl

@[simp] theorem store_tagWord (ia : ℕ) (s : State) : (tagWord ia s).2.store = s.store := by
  unfold tagWord
  split <;> rfl

@[simp] theorem store_noteRange (ia : ℕ) (len : ℕ) (s : State) : (noteRange ia len s).store = s.store := by
  unfold noteRange
  refine store_mapPacks (fun p => ?_) s
  rfl

@[simp] theorem store_noteWatch (line : ℕ) (s : State) : (noteWatch line s).store = s.store := by
  unfold noteWatch
  simp

@[simp] theorem store_carryPoison (line : ℕ) (ws : List ℕ) (s : State) : (carryPoison line ws s).store = s.store := by
  unfold carryPoison
  split <;> rfl

@[simp] theorem store_joinGroup (ia : ℕ) (tid : ℕ) (s : State) : (joinGroup ia tid s).1.store = s.store := by
  unfold joinGroup
  dsimp only
  repeat' split
  all_goals simp

@[simp] theorem store_leaveGroup (ia : ℕ) (tid : ℕ) (s : State) : (leaveGroup ia tid s).store = s.store := by
  unfold leaveGroup
  dsimp only
  split <;> simp

@[simp] theorem store_spawnTile (slot : ℕ) (node : ℕ) (tile : BitVec 64) (s : State) :
    (spawnTile slot node tile s).1.store = s.store := by
  unfold spawnTile
  dsimp only
  repeat' split
  all_goals simp

@[simp] theorem store_holdWrite (tid : ℕ) (w : Option AccessWord) (ia : ℕ) (s : State) :
    (holdWrite tid w ia s).store = s.store := by
  unfold holdWrite
  simp

@[simp] theorem store_addAck (tid : ℕ) (word : BitVec 64) (w : LogWrite) (s : State) : (addAck tid word w s).store = s.store := by
  unfold addAck
  simp

@[simp] theorem store_reportTile (slot : ℕ) (node : ℕ) (s : State) : (reportTile slot node s).store = s.store := by
  unfold reportTile
  simp

@[simp] theorem store_l1Fill (line : ℕ) (data : List (BitVec 8)) (s : State) : (l1Fill line data s).store = s.store := by
  unfold l1Fill
  dsimp only
  split <;> simp

@[simp] theorem store_tagSlices (die : ℕ) (s : State) : (tagSlices die s).store = s.store := by
  unfold tagSlices
  simp

@[simp] theorem store_dropPageRegs (ia : ℕ) (len : ℕ) (s : State) : (dropPageRegs ia len s).store = s.store := by
  unfold dropPageRegs
  refine store_mapPacks (fun p => ?_) s
  rfl

@[simp] theorem store_dropStashRange (ia : ℕ) (len : ℕ) (s : State) : (dropStashRange ia len s).store = s.store := by
  unfold dropStashRange
  refine store_mapPacks (fun p => ?_) s
  rfl

@[simp] theorem store_dropPage (page : ℕ) (size : ℕ) (s : State) : (dropPage page size s).store = s.store := by
  unfold dropPage
  simp

@[simp] theorem store_l1DropRange (core : ℕ) (ia : ℕ) (len : ℕ) (s : State) : (l1DropRange core ia len s).store = s.store := rfl
@[simp] theorem store_modChan (n : Fin 32) (f : Chan → Chan) (s : State) : (modChan n f s).store = s.store := rfl

@[simp] theorem store_reachChan (n : Fin 32) (d : BitVec 128) (tid : Option ℕ) (s : State) :
    (reachChan n d tid s).store = s.store := by
  unfold reachChan
  split <;> rfl

@[simp] theorem store_reachLighter (n : Fin 32) (p : LProg) (s : State) : (reachLighter n p s).store = s.store := by
  unfold reachLighter
  split <;> rfl

@[simp] theorem store_l1Refresh (core : ℕ) (line : ℕ) (s : State) : (l1Refresh core line s).store = s.store := by
  unfold l1Refresh
  repeat' split
  all_goals simp

@[simp] theorem store_l1Writes (core : ℕ) (parts : List LogWrite) (logged : List LogWrite) (s : State) :
    (l1Writes core parts logged s).store = s.store := by
  unfold l1Writes
  dsimp only
  simp [store_foldl]

@[simp] theorem store_ownAck (tid : ℕ) (ia : ℕ) (word : BitVec 64) (tag : Bool) (s : State) :
    (ownAck tid ia word tag s).store = s.store := by
  unfold ownAck
  simp

@[simp] theorem store_dropCommit (c : HeldCommit) (s : State) : (dropCommit c s).store = s.store := by
  unfold dropCommit
  refine store_mapPacks (fun p => ?_) s
  rfl

@[simp] theorem store_holdFetch (die : ℕ) (page : ℕ) (ia : ℕ) (s : State) : (holdFetch die page ia s).store = s.store := by
  unfold holdFetch
  simp

@[simp] theorem store_waitFetch (circuit : Option ℕ) (s : State) : (waitFetch circuit s).store = s.store := by
  unfold waitFetch
  split <;> simp

@[simp] theorem store_noteSaved (tid : ℕ) (s : State) : (noteSaved tid s).store = s.store := by
  unfold noteSaved
  split <;> rfl

@[simp] theorem store_addTask (t : Task) (s : State) : (addTask t s).store = s.store := by
  unfold addTask
  split <;> rfl

@[simp] theorem store_popQueue (core : ℕ) (s : State) : (popQueue core s).store = s.store := by
  unfold popQueue
  simp

@[simp] theorem store_vacantRecord (src : ℕ) (st : ℕ) (ia : ℕ) (rank : BitVec 16) (s : State) :
    (vacantRecord src st ia rank s).store = s.store := by
  unfold vacantRecord
  simp

@[simp] theorem store_endTask (tid : ℕ) (s : State) : (endTask tid s).store = s.store := by
  unfold endTask
  dsimp only
  repeat' split
  all_goals simp [store_foldl]

@[simp] theorem store_giveBack (i : QItem) (s : State) : (giveBack i s).store = s.store := by
  unfold giveBack
  split <;> simp

@[simp] theorem store_takeContext (tid : ℕ) (s : State) : (takeContext tid s).store = s.store := by
  unfold takeContext
  split <;> simp

@[simp] theorem store_enqueue (core : ℕ) (i : QItem) (s : State) : (enqueue core i s).store = s.store := by
  unfold enqueue
  simp

@[simp] theorem store_addSignal (tid : ℕ) (k : BitVec 8) (x : SemSignal) (s : State) : (addSignal tid k x s).store = s.store := by
  unfold addSignal
  split <;> simp

@[simp] theorem store_popSendC (tid : ℕ) (i : SendC) (s : State) : (popSendC tid i s).store = s.store := by
  unfold popSendC
  simp

@[simp] theorem store_cutRecord (src : ℕ) (st : ℕ) (ia : ℕ) (rank : BitVec 16) (s : State) :
    (cutRecord src st ia rank s).store = s.store := by
  unfold cutRecord
  simp

@[simp] theorem store_applyArrival (a : GroupArrival) (s : State) : (applyArrival a s).store = s.store := by
  unfold applyArrival
  dsimp only
  repeat' split
  all_goals simp

@[simp] theorem store_arriveNow (s : State) (a : GroupArrival) : (arriveNow s a).store = s.store := by
  unfold arriveNow
  simp

@[simp] theorem store_modBlock (tid : ℕ) (f : BlockRun → BlockRun) (s : State) : (modBlock tid f s).store = s.store := by
  unfold modBlock
  simp

@[simp] theorem store_serveJob (tid : Option ℕ) (w : Option SemWait) (s : State) : (serveJob tid w s).store = s.store := by
  unfold serveJob
  split <;> simp

@[simp] theorem store_reportJob (e : Engine) (tid : Option ℕ) (rec_ : BitVec 128) (pos : ℕ) (code : BitVec 8) (tag : BitVec 32)
    (s : State) :
    (reportJob e tid rec_ pos code tag s).store = s.store := by
  unfold reportJob
  dsimp only
  split <;> simp

@[simp] theorem store_blockJobEnd (tid : ℕ) (code : BitVec 8) (s : State) : (blockJobEnd tid code s).store = s.store := by
  unfold blockJobEnd
  simp

@[simp] theorem store_dropFiller (tid : ℕ) (r : BteRun) (s : State) : (dropFiller tid r s).store = s.store := by
  unfold dropFiller
  split <;> simp

@[simp] theorem store_modRun (n : Fin 32) (f : BteRun → BteRun) (s : State) : (modRun n f s).store = s.store := rfl

@[simp] theorem store_assignRing (n : Fin 32) (tid : ℕ) (ring : Fin 8) (s : State) :
    (assignRing n tid ring s).store = s.store := by
  unfold assignRing
  repeat' split
  all_goals simp

@[simp] theorem store_closeColl (key : CollKey) (s : State) : (closeColl key s).store = s.store := by
  unfold closeColl
  refine store_mapPacks (fun p => ?_) s
  rfl

@[simp] theorem store_copyBlock (p : Xpb) (b : DamaskBlock) (src : Task) (d : DMember) (s : State) :
    (copyBlock p b src d s).store = s.store := by
  unfold copyBlock
  simp

@[simp] theorem store_sendBlock (a : ℕ) (b : ℕ) (tag : Option (CollKey × ℕ)) (text : List (BitVec 8)) (s : State) :
    (sendBlock a b tag text s).store = s.store := by
  unfold sendBlock
  dsimp only
  repeat' split
  all_goals simp [store_atPack]

@[simp] theorem store_slipMember (coll : CollKey) (phase : ℕ) (slot : ℕ) (tid : ℕ) (s : State) :
    (slipMember coll phase slot tid s).store = s.store := by
  unfold slipMember
  dsimp only
  repeat' split
  all_goals simp

@[simp] theorem store_setErr (slot : ℕ) (e : BitVec 2) (s : State) : (setErr slot e s).store = s.store := by
  unfold setErr
  simp

@[simp] theorem store_evictGraph (slot : ℕ) (s : State) : (evictGraph slot s).store = s.store := by
  unfold evictGraph
  split <;> simp

@[simp] theorem store_hostStart (slot : ℕ) (n : BitVec 32) (s : State) : (hostStart slot n s).store = s.store := by
  unfold hostStart
  split <;> simp

@[simp] theorem store_ackTo (by_ : Requester) (ia : ℕ) (word : BitVec 64) (s : State) :
    (ackTo by_ ia word s).store = s.store := by
  unfold ackTo
  split <;> simp

@[simp] theorem store_popRstv (m : RstvMsg) (s : State) : (popRstv m s).1.store = s.store := by
  unfold popRstv
  repeat' split
  all_goals simp

@[simp] theorem store_rstvAck (m : RstvMsg) (id : ℕ) (code : BitVec 8) (s : State) : (rstvAck m id code s).store = s.store := by
  unfold rstvAck
  simp

@[simp] theorem store_rstvRecord (m : RstvMsg) (code : BitVec 8) (s : State) : (rstvRecord m code s).store = s.store := by
  unfold rstvRecord
  simp

@[simp] theorem store_rstvFails (m : RstvMsg) (code : BitVec 8) (s : State) : (rstvFails m code s).store = s.store := by
  unfold rstvFails
  simp

@[simp] theorem store_popSendS (tid : ℕ) (i : SendS) (s : State) : (popSendS tid i s).store = s.store := by
  unfold popSendS
  simp

@[simp] theorem store_regionMoved (region : ℕ) (new_ : ℕ) (s : State) : (regionMoved region new_ s).store = s.store := rfl

@[simp] theorem store_invalidatePage (die : ℕ) (page : ℕ) (s : State) : (invalidatePage die page s).store = s.store := by
  unfold invalidatePage
  dsimp only
  split <;> simp

@[simp] theorem store_retryPage (die : ℕ) (page : ℕ) (s : State) : (retryPage die page s).store = s.store := by
  unfold retryPage
  split <;> simp

@[simp] theorem store_reloadObject (index : BitVec 16) (s : State) : (reloadObject index s).store = s.store := rfl

@[simp] theorem store_writePkgnum (v : BitVec 64) (s : State) : (writePkgnum v s).store = s.store := by
  unfold writePkgnum
  split <;> rfl

@[simp] theorem store_writePkgmap (word : ℕ) (v : BitVec 64) (s : State) : (writePkgmap word v s).store = s.store := rfl
@[simp] theorem store_freeJob (die : ℕ) (j : ℕ) (s : State) : (freeJob die j s).store = s.store := rfl
@[simp] theorem store_pendReg (offset : ℕ) (v : BitVec 64) (s : State) : (pendReg offset v s).store = s.store := rfl

@[simp] theorem store_writeRingReg (unit : ℕ) (reg : ℕ) (v : BitVec 64) (s : State) :
    (writeRingReg unit reg v s).store = s.store := by
  unfold writeRingReg
  split <;> rfl

@[simp] theorem store_countCorrected (u : ErrUnit) (n : ℕ) (s : State) : (countCorrected u n s).store = s.store := by
  unfold countCorrected
  simp [apply_ite State.store]

@[simp] theorem store_poisonWord (key : ℕ) (s : State) : (poisonWord key s).store = s.store := by
  unfold poisonWord
  split <;> rfl

@[simp] theorem store_poisonStack (die : ℕ) (addr : ℕ) (s : State) : (poisonStack die addr s).store = s.store := by
  unfold poisonStack
  simp

@[simp] theorem store_reloadRecord (mkind : ℕ) (unit : ℕ) (addr : ℕ) (s : State) :
    (reloadRecord mkind unit addr s).store = s.store := by
  unfold reloadRecord
  simp

@[simp] theorem store_modCirc (id : ℕ) (f : Circuit → Circuit) (s : State) : (modCirc id f s).store = s.store := rfl
@[simp] theorem store_ackSetup (circ : ℕ) (rtt : BitVec 20) (s : State) : (ackSetup circ rtt s).store = s.store := rfl

@[simp] theorem store_bootCircuit (s : State) (x : SetupReq × BitVec 20) : (bootCircuit s x).store = s.store := by
  unfold bootCircuit
  split <;> rfl

@[simp] theorem store_writeSpeeds (xs : List ℕ) (s : State) : (writeSpeeds xs s).store = s.store := by
  unfold writeSpeeds
  simp

@[simp] theorem store_modCore (core : ℕ) (f : Core → Core) (s : State) : (modCore core f s).store = s.store := by
  unfold modCore
  split <;> rfl

@[simp] theorem store_marginLow (core : ℕ) (voltageCanRestore : Bool) (s : State) :
    (marginLow core voltageCanRestore s).store = s.store := by
  unfold marginLow
  dsimp only
  repeat' split
  all_goals simp

@[simp] theorem store_emptyQueue (core : ℕ) (s : State) : (emptyQueue core s).store = s.store := by
  unfold emptyQueue
  refine (store_foldl ?_ _ _).trans ?_ <;> simp

@[simp] theorem store_takeStamp (id : ℕ) (stamp : ℕ) (s : State) : (takeStamp id stamp s).store = s.store := by
  unfold takeStamp
  repeat' split
  all_goals simp

@[simp] theorem store_refreshEntry (id : ℕ) (rtt : BitVec 20) (s : State) : (refreshEntry id rtt s).store = s.store := by
  unfold refreshEntry
  dsimp only
  repeat' split
  all_goals simp

@[simp] theorem store_flitEffect (id : ℕ) (f : FlitIn) (text : BitVec 2048) (rtt : BitVec 20) (s : State) :
    (flitEffect id f text rtt s).store = s.store := by
  unfold flitEffect
  split <;> simp

@[simp] theorem store_tearCircuit (id : ℕ) (s : State) : (tearCircuit id s).store = s.store := rfl
@[simp] theorem store_modEngine (e : Fin 8) (f : OptEngine → OptEngine) (s : State) : (modEngine e f s).store = s.store := rfl
@[simp] theorem store_seePoison (s : State) : (seePoison s).store = s.store := rfl
@[simp] theorem store_hostWaits (a : HostAccess) (s : State) : (hostWaits a s).store = s.store := rfl

@[simp] theorem store_hostPageError (ia : ℕ) (s : State) : (hostPageError ia s).store = s.store := by
  unfold hostPageError
  simp

@[simp] theorem store_apertureWrite (off : ℕ) (data : List (BitVec 8)) (s : State) :
    (apertureWrite off data s).store = s.store := by
  unfold apertureWrite
  split <;> simp

@[simp] theorem store_hostGaveUp (line : ℕ) (s : State) : (hostGaveUp line s).store = s.store := rfl
@[simp] theorem store_holdPower (s : State) : (holdPower s).store = s.store := rfl

@[simp] theorem store_lastContext (tid : ℕ) (s : State) : (lastContext tid s).store = s.store := by
  unfold lastContext
  split <;> simp

@[simp] theorem store_takeStart (n : Fin 32) (s : State) : (takeStart n s).store = s.store := by
  unfold takeStart
  repeat' split
  all_goals simp

@[simp] theorem store_takeLgo (n : Fin 32) (s : State) : (takeLgo n s).store = s.store := by
  unfold takeLgo
  repeat' split
  all_goals simp

@[simp] theorem store_farEnd (far : ℕ) (lanes : ℕ) (rtt : BitVec 20) (s : State) : (farEnd far lanes rtt s).store = s.store := by
  unfold farEnd
  repeat' split
  all_goals simp

@[simp] theorem store_peerAck (circ : ℕ) (s : State) : (peerAck circ s).store = s.store := by
  unfold peerAck
  dsimp only
  repeat' split
  all_goals simp [store_atPack]

@[simp] theorem store_sendAck (id : ℕ) (s : State) : (sendAck id s).store = s.store := rfl

@[simp] theorem store_grantDamask (tid : Nat) (k : BitVec 8) (s : State) (v : Nat) :
    (grantDamask tid k s v).1.store = s.store := by
  have hfold : ∀ (l : List (CollKey × DMember)) (x : State × Nat), (l.foldl (fun (x : State × Nat) (y : CollKey × DMember) =>
      (modMember y.1 tid (fun m => { m with wait := (grantOpt k y.2.wait x.2).1 }) x.1, (grantOpt k y.2.wait x.2).2)) x).1.store = x.1.store := by
    intro l
    induction l with
    | nil => exact fun x => rfl
    | cons y l ih => exact fun x => (ih _).trans (store_modMember ..)
  exact hfold _ _

@[simp] theorem store_serveHere (tid : Nat) (k : BitVec 8) (s : State) : (serveHere tid k s).store = s.store := by
  unfold serveHere
  split
  · rfl
  · split
    · rfl
    · simp only [store_modTask, store_grantDamask, store_update]

@[simp] theorem store_serveWaiters (tid : Nat) (k : BitVec 8) (s : State) : (serveWaiters tid k s).store = s.store :=
  store_atTask (store_serveHere tid k) s

theorem store_signalTask {tid : Nat} {k : BitVec 8} {inc : Nat} {s t : State} (h : signalTask tid k inc s = some t) :
    t.store = s.store := by
  unfold signalTask at h
  split at h
  · cases h
    rfl
  · split at h
    · cases h
      simp
    · exact nomatch h

@[simp] theorem store_agentSignal (g : Signaller) (src dst : Nat) (k : BitVec 8) (inc : Nat) (s : State) :
    (agentSignal g src dst k inc s).store = s.store := by
  unfold agentSignal
  split
  · next h => exact store_signalTask h
  · simp

@[simp] theorem store_unitSignal (mkind unit stream tid : Nat) (block : Bool) (sem : BitVec 8) (inc : Nat) (s : State) :
    (unitSignal mkind unit stream tid block sem inc s).store = s.store := by
  unfold unitSignal
  split <;> exact store_agentSignal _ _ _ _ _ _

@[simp] theorem store_landPush (n : Fin 32) (s : State) : (landPush n s).store = s.store := by
  unfold landPush
  split
  · rfl
  · split
    · rfl
    · dsimp only
      split <;> simp

@[simp] theorem store_landAll (tid : Nat) (s : State) : (landAll tid s).store = s.store := by
  refine store_foldl (fun s n => ?_) _ s
  split
  · split
    · exact store_foldl (fun s _ => store_landPush n s) _ s
    · rfl
  · rfl

/-- A change of the other parts of the package in front and of the others. -/
theorem store_everywhere {s : State} {p : Pack} {a b : Nat} {f : Pack → Pack} (hm : p.mem = s.mem) (hi : p.image = s.image)
    (hf : ∀ q, (f q).store = q.store) : State.store ⟨p, a, b, s.peers.map f⟩ = s.store := by
  have hp : p.store = s.toPack.store := congrArg₂ Prod.mk hm hi
  simp only [State.store, State.parts, State.packs, List.map_cons, List.map_map, Function.comp_def, hf, hp]

@[simp] theorem store_stopEngines (tid : Nat) (s : State) : (stopEngines tid s).store = s.store := by
  unfold stopEngines
  refine (store_modTask _ _ _).trans ((store_everywhere (s := landAll tid s) ?_ ?_ ?_).trans (store_landAll tid s))
  · dsimp only
  · dsimp only
  · exact fun _ => rfl

@[simp] theorem store_discardUnretired (tid : Nat) (s : State) : (discardUnretired tid s).store = s.store := by
  unfold discardUnretired
  split
  · rfl
  · exact (store_modTask _ _ _).trans (store_mapPacks (by exact fun _ => rfl) s)

@[simp] theorem store_endMembership (c : DColl) (status : BitVec 8) (m : DMember) (s : State) :
    (endMembership c status m s).store = s.store := by
  unfold endMembership
  split
  · rfl
  · simp

@[simp] theorem store_markNode (by_ : Requester) (s : State) : (markNode by_ s).store = s.store := by
  unfold markNode
  split
  · refine store_atTask (fun u => ?_) s
    split
    · exact store_modNode _ _ _ _
    · rfl
  · rfl

@[simp] theorem store_countAccess (by_ : Requester) (ia : Nat) (s : State) : (countAccess by_ ia s).store = s.store := by
  unfold countAccess
  split
  · rfl
  · exact (store_markNode _ _).trans rfl

/-- Memories in canonical form, and images of them below the aperture. -/
def StoreOk (l : List (List Host.Cell × Option Image)) : Prop :=
  ∀ x ∈ l, Memory.wf x.1 = true ∧ ∀ im, x.2 = some im → Memory.wf im.mem = true ∧ ∀ c ∈ im.mem, c.1 < 2 ^ 58

theorem memInv_iff {s : State} : MemInv s ↔ StoreOk s.store := by
  simp only [MemInv, StoreOk, State.store, State.parts, List.forall_mem_map]
  rfl

/-- A change of the memory in front, to another one in canonical form. -/
theorem ok_mem {s t : State} (hw : Memory.wf s.mem = true → Memory.wf t.mem = true) (hi : t.image = s.image) (hp : t.peers = s.peers)
    (h : StoreOk s.store) : StoreOk t.store := by
  have h' := memInv_iff.2 h
  refine memInv_iff.1 fun q hq => ?_
  obtain rfl | hq := List.mem_cons.1 hq
  · obtain ⟨hm, him⟩ := h' _ List.mem_cons_self
    exact ⟨hw hm, fun im e => him im (hi ▸ e)⟩
  · exact h' q (List.mem_cons_of_mem _ (hp ▸ hq))

theorem ok_atPack {c : Pack → Bool} {f : State → State} {s : State} (h : StoreOk s.store) (hf : ∀ u,
    StoreOk u.store → StoreOk (f u).store) :
    StoreOk (atPack c f s).store :=
  memInv_iff.1 (memInv_atPack (fun u hu => memInv_iff.2 (hf u (memInv_iff.1 hu))) (memInv_iff.2 h))

theorem ok_atTask {tid : Nat} {f : State → State} {s : State} (h : StoreOk s.store) (hf : ∀ u,
    StoreOk u.store → StoreOk (f u).store) :
    StoreOk (atTask tid f s).store := ok_atPack h hf

theorem ok_foldl {α : Type} {f : State → α → State} {l : List α} {s : State} (h : StoreOk s.store)
    (hf : ∀ s x, StoreOk s.store → StoreOk (f s x).store) : StoreOk (l.foldl f s).store := by
  induction l generalizing s with
  | nil => exact h
  | cons x l ih => exact ih (hf s x h)

@[simp] theorem ok_fillArea (n : Nat) (t : Task) {s : State} (h : StoreOk s.store) : StoreOk (fillArea n t s).store :=
  ok_mem (fun hw => wf_writeCells (wf_zeroCells hw _ _) _) rfl rfl h

@[simp] theorem ok_keepContext (tid : Nat) (reserve : Bool) {s : State} (h : StoreOk s.store) :
    StoreOk (keepContext tid reserve s).store := by
  unfold keepContext
  split <;> simp [h]

@[simp] theorem ok_refreshArea (tid : Nat) {s : State} (h : StoreOk s.store) : StoreOk (refreshArea tid s).store := by
  refine ok_atTask h fun u hu => ?_
  repeat' split
  all_goals simp [hu]

@[simp] theorem ok_spoilMember (m : DMember) {s : State} (h : StoreOk s.store) : StoreOk (spoilMember m s).store := by
  unfold spoilMember
  split
  · exact h
  · dsimp only
    split <;> simp [h]

@[simp] theorem ok_endCollective (status : BitVec 8) (lost : Option Nat) (c : DColl) {s : State} (h : StoreOk s.store) :
    StoreOk (endCollective status lost c s).store := by
  unfold endCollective
  simp only [store_modColl]
  refine ok_foldl (ok_foldl h fun s m hs => ok_spoilMember m hs) fun s m hs => ?_
  repeat' split
  all_goals simp [hs]

@[simp] theorem ok_damaskLost (ia tid : Nat) (status : BitVec 8) {s : State} (h : StoreOk s.store) :
    StoreOk (damaskLost ia tid status s).store :=
  ok_foldl h fun _ _ hs => ok_endCollective _ _ _ hs

@[simp] theorem ok_removeMember (ia tid : Nat) {s : State} (h : StoreOk s.store) : StoreOk (removeMember ia tid s).store := by
  unfold removeMember
  dsimp only
  split
  · exact h
  · split <;> simp [h]

@[simp] theorem ok_removeFromGroups (tid : Nat) {s : State} (h : StoreOk s.store) : StoreOk (removeFromGroups tid s).store :=
  ok_foldl h fun _ _ hs => ok_removeMember _ _ hs

@[simp] theorem ok_freeContext (tid : Nat) {s : State} (h : StoreOk s.store) : StoreOk (freeContext tid s).store := by
  simp [freeContext, h]

@[simp] theorem ok_failGraph (slot : Nat) (code : BitVec 8) (node : Nat) {s : State} (h : StoreOk s.store) :
    StoreOk (failGraph slot code node s).store := by
  unfold failGraph
  dsimp only
  split
  · exact h
  · simp only [store_settleFailed, store_modSlot, store_update]
    exact ok_foldl (by simp [h]) fun _ _ hs => ok_freeContext _ hs

@[simp] theorem ok_applyPolicy (tid : Nat) (code : BitVec 8) {s : State} (h : StoreOk s.store) :
    StoreOk (applyPolicy tid code s).store := by
  unfold applyPolicy
  dsimp only
  repeat' split
  all_goals simp [h]

@[simp] theorem ok_freezeHere (tid : Nat) (f : FreezeCause) (tag : Nat) (pc : BitVec 64) {s : State} (h : StoreOk s.store) :
    StoreOk (freezeHere tid f tag pc s).store := by
  unfold freezeHere
  split
  · exact h
  · dsimp only
    split
    · split <;> simp [h]
    · simp [h]

@[simp] theorem ok_freezeTask (tid : Nat) (f : FreezeCause) (tag : Nat) (pc : BitVec 64) {s : State} (h : StoreOk s.store) :
    StoreOk (freezeTask tid f tag pc s).store := ok_atTask h fun _ hu => ok_freezeHere _ _ _ _ hu

@[simp] theorem ok_takeTrapAt (code op : BitVec 8) (info : BitVec 32) (addr pc : BitVec 64) {s : State} (h : StoreOk s.store) :
    StoreOk (takeTrapAt code op info addr pc s).store := by
  unfold takeTrapAt
  dsimp only
  split <;> simp [h]

@[simp] theorem ok_takeTrap (code op : BitVec 8) (info : BitVec 32) (addr : BitVec 64) {s : State} (h : StoreOk s.store) :
    StoreOk (takeTrap code op info addr s).store := ok_takeTrapAt _ _ _ _ _ h

end Sys2Proof.Machine
end

section
/-! SUPPORT. The memory writers and the computations of M that keep memory in canonical form (O5). -/

namespace Sys2Proof.Machine

@[simp] theorem ok_appendLog (tid : ℕ) (page : ℕ) (ws : List LogWrite) {s : State} (h : StoreOk s.store) :
    StoreOk (appendLog tid page ws s).store := by
  unfold appendLog
  dsimp only
  repeat' split
  all_goals simp [h]

@[simp] theorem ok_logRecall (tid : ℕ) (line : ℕ) {s : State} (h : StoreOk s.store) : StoreOk (logRecall tid line s).store := by
  unfold logRecall
  split <;> simp [h]

@[simp] theorem ok_holdFault (die : ℕ) (page : ℕ) (ia : ℕ) (by_ : Requester) {s : State} (h : StoreOk s.store) :
    StoreOk (holdFault die page ia by_ s).store := by
  unfold holdFault
  split <;> simp [h]

@[simp] theorem ok_holdCurrent (op : BitVec 8) (die : ℕ) (page : ℕ) (ia : ℕ) (by_ : Requester) {s : State} (h : StoreOk s.store) :
    StoreOk (holdCurrent op die page ia by_ s).store := by
  unfold holdCurrent
  split <;> simp [h]

@[simp] theorem ok_enterLog (tid : ℕ) (page : ℕ) (ws : List LogWrite) {s0 : State} (h : StoreOk s0.store) :
    StoreOk (enterLog tid page ws s0).store := by
  unfold enterLog
  simp [h]

@[simp] theorem ok_enterSection {s : State} (h : StoreOk s.store) : StoreOk (enterSection s).store := by
  unfold enterSection
  dsimp only
  repeat' split
  all_goals simp [h]

@[simp] theorem ok_saveTask (tid : ℕ) {s : State} (h : StoreOk s.store) : StoreOk (saveTask tid s).store := by
  unfold saveTask
  simp [h]

@[simp] theorem store_startRecord (tid : ℕ) (b : BlockRec) (s : State) : (startRecord tid b s).store = s.store := by
  unfold startRecord
  split <;> simp

@[simp] theorem store_nextRecord (tid : ℕ) (s0 : State) : (nextRecord tid s0).store = s0.store := by
  unfold nextRecord
  dsimp only
  repeat' split
  all_goals simp

@[simp] theorem store_endAtTask (e : Engine) (tid : ℕ) (kind : ℕ) (stream : ℕ) (rec_ : BitVec 128) (block : Bool)
    (ssem : BitVec 8) (sinc : BitVec 12) (s : State) :
    (endAtTask e tid kind stream rec_ block ssem sinc s).store = s.store := by
  unfold endAtTask
  dsimp only
  repeat' split
  all_goals simp

@[simp] theorem store_endStart (slot : ℕ) (r : Start) (s : State) : (endStart slot r s).store = s.store := by
  unfold endStart
  dsimp only
  repeat' split
  all_goals simp

@[simp] theorem ok_abortHere (tid : ℕ) (st : Option Stream) (ia : ℕ) {s : State} (h : StoreOk s.store) :
    StoreOk (abortHere tid st ia s).store := by
  unfold abortHere
  dsimp only
  repeat' split
  all_goals simp [h]

@[simp] theorem ok_resumeFrozen (n : ℕ) {s : State} (h : StoreOk s.store) : StoreOk (resumeFrozen n s).store := by
  unfold resumeFrozen
  dsimp only
  repeat' split
  all_goals simp [h]

@[simp] theorem ok_releaseFrozen (n : ℕ) {s : State} (h : StoreOk s.store) : StoreOk (releaseFrozen n s).store := by
  unfold releaseFrozen
  dsimp only
  repeat' split
  all_goals simp [h]

@[simp] theorem ok_fenceCore (core : ℕ) (saveOk : Bool) {s : State} (h : StoreOk s.store) :
    StoreOk (fenceCore core saveOk s).store := by
  unfold fenceCore
  dsimp only
  repeat' split
  all_goals simp [h]

@[simp] theorem ok_joinHere (group : ℕ) (idx : BitVec 16) (m : DMember) {s : State} (h : StoreOk s.store) :
    StoreOk (joinHere group idx m s).store := by
  unfold joinHere
  dsimp only
  repeat' split
  all_goals simp [h]

@[simp] theorem ok_formatTrap (bs : List (BitVec 8)) (e : DecodeError) {s : State} (h : StoreOk s.store) :
    StoreOk (formatTrap bs e s).store := by
  unfold formatTrap
  dsimp only
  split <;> simp [h]

@[simp] theorem ok_setDisc (e : WalkEntry) (v : Bool) {s : State} (h : StoreOk s.store) : StoreOk (setDisc e v s).store :=
  ok_mem (fun hw => wf_setDisc hw e v) rfl rfl h

@[simp] theorem ok_revive (e : WalkEntry) {s : State} (h : StoreOk s.store) : StoreOk (revive e s).store :=
  ok_mem (fun hw => wf_revive hw e) rfl rfl h

@[simp] theorem ok_putBytes (ws : List (Place × BitVec 8)) {s : State} (h : StoreOk s.store) : StoreOk (putBytes ws s).store := by
  unfold putBytes
  extract_lets u v
  have hu : StoreOk u.store := by
    unfold u
    repeat' split
    all_goals simp [h]
  have hv : StoreOk v.store := ok_mem (s := u) (fun hw => wf_writeCells hw _) rfl rfl hu
  split
  · exact hv
  · exact hv

theorem ok_swapPack (i : Nat) {s : State} (h : StoreOk s.store) : StoreOk (swapPack i s).store :=
  memInv_iff.1 (memInv_swapPack i (memInv_iff.2 h))

@[simp] theorem ok_State_homeView (s : State) (ia : Nat) (h : StoreOk s.store) : StoreOk (s.homeView ia).store := by
  unfold State.homeView
  repeat' split
  · exact h
  · exact ok_swapPack _ h
  · exact h

@[simp] theorem ok_discardHere (ia len page : Nat) {s : State} (h : StoreOk s.store) :
    StoreOk (discardHere ia len page s).1.store := by
  unfold discardHere
  split
  · dsimp only
    repeat' split
    all_goals simp [h]
  · split
    · exact h
    · simp only [store_dropPage]
      exact ok_mem (s := s) (fun hw => wf_zeroCells hw _ _) rfl rfl h
  · exact h

@[simp] theorem ok_setSketchSat (obj : BitVec 16) (v : Bool) {s : State} (h : StoreOk s.store) :
    StoreOk (setSketchSat obj v s).store := by
  refine ok_mem (s := s) (fun hw => ?_) rfl rfl h
  unfold setSketchSat
  dsimp only
  split
  · exact hw
  · exact wf_writeCell hw _ _

theorem ok_withStream {st : Stream} {f : State → State} {s : State} (h : StoreOk s.store) (hf : ∀ u,
    StoreOk u.store → StoreOk (f u).store) :
    StoreOk (withStream st f s).store := by
  have hu := hf { s with cur := st } h
  simpa [withStream] using hu

@[simp] theorem store_clearQueue (core prio : Nat) (s : State) : (clearQueue core prio s).store = s.store := by
  unfold clearQueue
  split
  · rfl
  · dsimp only
    simp only [store_update]
    exact store_foldl (fun s i => store_giveBack i s) _ s

@[simp] theorem store_requeueJobs (t : Task) (s : State) : (requeueJobs t s).store = s.store := by
  unfold requeueJobs
  exact (store_foldl (fun _ _ => store_modLighter _ _ _) _ _).trans (store_foldl (fun _ _ => store_modChan _ _ _) _ s)

@[simp] theorem ok_resumeTask (tid core : Nat) {s : State} (h : StoreOk s.store) : StoreOk (resumeTask tid core s).store := by
  unfold resumeTask
  dsimp only
  split
  · simp [h]
  · split <;> simp [h]

@[simp] theorem ok_deliverColl (c : Coll) (ia : Nat) (status : BitVec 8) (spread : Nat) (result : Option (List (BitVec 8))) (sameCore : Bool)
    (a : GroupArrival) {s : State} (h : StoreOk s.store) : StoreOk (deliverColl c ia status spread result sameCore a s).store := by
  unfold deliverColl
  dsimp only
  simp only [store_agentSignal]
  refine ok_atTask ?_ fun u hu => ?_
  · simp only [store_pushEventTo]
    refine ok_foldl ?_ fun u x hu => by simp [hu]
    split <;> simp [h]
  · repeat' split
    all_goals simp [hu]

@[simp] theorem store_releaseUnit (e : Engine) (rec_ : BitVec 128) (s : State) : (releaseUnit e rec_ s).store = s.store := by
  unfold releaseUnit
  split
  · split
    · simp
    · dsimp only
      split <;> simp
  · split
    · simp
    · dsimp only
      simp only [store_endAtTask, store_modTask]
      exact (store_foldl (fun _ _ => store_modTask _ _ _) _ _).trans (store_modLighter _ _ _)

@[simp] theorem store_dropHeld (e : Engine) (s : State) : (dropHeld e s).store = s.store := by
  refine store_everywhere ?_ ?_ ?_
  · dsimp only
  · dsimp only
  · exact fun _ => rfl

@[simp] theorem store_arrivalSignal (n : Fin 32) (j : BteJob) (p : Template) (k : Nat) (s : State) :
    (arrivalSignal n j p k s).store = s.store := by
  induction k generalizing s with
  | zero => rfl
  | succ k ih =>
    unfold arrivalSignal
    split
    · exact (ih _).trans (store_unitSignal _ _ _ _ _ _ _ _)
    · rfl

/-- An answer with a state whose memories are in canonical form, or none. -/
def SafeAt {α : Type} (r : Except Stop (α × State)) : Prop := ∀ a t, r = .ok (a, t) → StoreOk t.store

/-- A computation whose success keeps every memory in canonical form. -/
def Safe {α : Type} (m : M α) : Prop := ∀ s, StoreOk s.store → SafeAt (m s)

section Safe
variable {α β : Type}

theorem SafeAt.ok {a : α} {t : State} (h : StoreOk t.store) : SafeAt (.ok (a, t)) := fun b u e => by
  cases e
  exact h

theorem SafeAt.error {e : Stop} : SafeAt (.error e : Except Stop (α × State)) := fun _ _ h => nomatch h

theorem SafeAt.ite {c : Prop} [Decidable c] {m n : Except Stop (α × State)} (hm : SafeAt m) (hn : SafeAt n) :
    SafeAt (if c then m else n) := by
  split
  · exact hm
  · exact hn

theorem safe_iff {m : M α} : Safe m ↔ Keeps MemInv m :=
  ⟨fun h s a t hs e => memInv_iff.2 (h s (memInv_iff.1 hs) a t e), fun h s hs a t e => memInv_iff.1 (h s a t (memInv_iff.2 hs) e)⟩

theorem Safe.pure (a : α) : Safe (pure a : M α) := safe_iff.2 (keeps_pure a)

theorem Safe.bind {m : M α} {f : α → M β} (hm : Safe m) (hf : ∀ a, Safe (f a)) : Safe (m >>= f) :=
  safe_iff.2 (keeps_bind (safe_iff.1 hm) fun a => safe_iff.1 (hf a))

theorem Safe.ite {c : Prop} [Decidable c] {m n : M α} (hm : Safe m) (hn : Safe n) : Safe (if c then m else n) := by
  split
  · exact hm
  · exact hn

theorem Safe.iteBind {c : Prop} [Decidable c] {m n : M α} {f : α → M β} (hm : Safe m) (hn : Safe n) (hf : ∀ a, Safe (f a)) :
    Safe (if c then m >>= f else n >>= f) :=
  .ite (hm.bind hf) (hn.bind hf)

theorem Safe.opt {c : Prop} [Decidable c] {m : M α} {n : M β} (hm : Safe m) (hn : Safe n) :
    Safe (if c then m >>= fun _ => n else n) :=
  .ite (hm.bind fun _ => hn) hn

theorem Safe.dite {c : Prop} [Decidable c] {m : c → M α} {n : ¬ c → M α} (hm : ∀ h, Safe (m h)) (hn : ∀ h, Safe (n h)) :
    Safe (if h : c then m h else n h) := by
  split
  · exact hm _
  · exact hn _

theorem Safe.mapM {f : α → M β} {l : List α} (hf : ∀ a, Safe (f a)) :
    Safe (l.mapM f) := safe_iff.2 (keeps_mapM (fun a => safe_iff.1 (hf a)) l)

/-- A loop over a list whose body keeps memory. -/
theorem Safe.forIn {f : α → β → M (ForInStep β)} {l : List α} {b : β} (hf : ∀ a b, Safe (f a b)) : Safe (forIn l b f) := by
  induction l generalizing b with
  | nil => exact .pure b
  | cons a l ih =>
    rw [List.forIn_cons]
    refine (hf a b).bind fun r => ?_
    cases r with
    | done b => exact .pure b
    | yield b => exact ih

theorem Safe.onPack {c : Pack → Bool} {m : M α} (hm : Safe m) : Safe (onPack c m) := safe_iff.2 (keeps_onPack (safe_iff.1 hm))

theorem Safe.modS {f : State → State} (hf : ∀ s, StoreOk s.store → StoreOk (f s).store) :
    Safe (modS f) := fun s hs => .ok (hf s hs)

/-- The state that a computation reads is one that it may go back to. -/
theorem Safe.getS {f : State → M α} (hf : ∀ s, StoreOk s.store → Safe (f s)) : Safe (getS >>= f) := fun s hs => hf s hs s hs

theorem safe_getS : Safe getS := fun _ hs => .ok hs
theorem safe_stop (e : Stop) : Safe (stop e : M α) := fun _ _ => .error
theorem safe_trap (code : BitVec 8) (info : BitVec 32) : Safe (trap code info : M α) := safe_stop _
theorem safe_block (w : Wait) : Safe (block w : M α) := safe_stop _
theorem safe_badValue (n : Nat) : Safe (badValue n : M α) := safe_stop _

theorem Safe.of_eq {m : M α} (hm : Safe m) {s t : State} {a : α} (hs : StoreOk s.store) (h : m s = .ok (a, t)) :
    StoreOk t.store := hm s hs a t h

end Safe

theorem safe_gatePops (all l : List Nat) : Safe (gatePops all l) := by
  induction l with
  | nil => exact .pure ()
  | cons q r ih => exact safe_getS.bind fun _ => .ite (.ite (safe_trap _ _) (safe_block _)) ih

theorem safe_gatePushes (l : List Nat) : Safe (gatePushes l) := by
  induction l with
  | nil => exact .pure ()
  | cons q r ih => exact safe_getS.bind fun _ => .ite (.ite (safe_trap _ _) (safe_block _)) ih

theorem safe_gateLink (pkg : Nat) :
    Safe (gateLink pkg) := fun s hs => .ite (.ok hs) (.ite (.ite (.ok (by simpa using hs)) .error) .error)

theorem safe_gateCircuit (ia : Nat) : Safe (gateCircuit ia) := fun s hs => .ite .error (safe_gateLink _ s hs)

theorem Safe.atHome {α : Type} {by_ : Requester} {ia : Nat} {m : Requester → M α} (hm : ∀ b, Safe (m b)) :
    Safe (atHome by_ ia m) := by
  intro s hs
  unfold Machine.atHome
  refine .ite (hm _ s hs) ?_
  split
  · exact .error
  · next u hu => exact (hm _).onPack u ((safe_gateCircuit ia).of_eq hs hu)

theorem safe_gate (srcs : List Operand) (dsts : List Operand) : Safe (gate srcs dsts) :=
  .bind (safe_gatePops _ _) fun _ => safe_gatePushes _

theorem safe_writeDst (o : Operand) (v : BitVec 64) : Safe (writeDst o v) := by
  unfold writeDst
  exact fun _ hs => by
    split
    · exact .ok (by simpa using hs)
    · exact .ok (by simpa using hs)
    · exact .ok hs
    · exact .ok hs

theorem safe_readVSrc (o : Operand) : Safe (readVSrc o) := by
  unfold readVSrc
  exact fun _ hs => by
    split
    · exact .ok hs
    · exact .ok hs
    · exact .ok hs

theorem safe_writeVDst (o : Operand) (v : BitVec 2048) : Safe (writeVDst o v) := by
  unfold writeVDst
  exact fun _ hs => by
    split
    · exact .ok hs
    · exact .ok hs
    · exact .ok hs

theorem safe_writeEvent (n : Fin 32) (e : BitVec 128) : Safe (writeEvent n e) :=
  .bind (.modS (fun _ h => by simpa using h)) fun _ => .modS (fun _ h => by simpa using h)

theorem safe_readSrc (o : Operand) : Safe (readSrc o) := by
  unfold readSrc
  exact fun _ hs => by
    split
    · exact .ok hs
    · exact .ok hs
    · exact .ok hs
    · exact .ok hs
    · exact .ok hs

theorem safe_readB (f : RAlu) : Safe (readB f) :=
  .ite (.pure _) (safe_readSrc _)

theorem safe_raise (f : FlagSet) : Safe (raise f) :=
  .modS (fun _ h => h)

theorem safe_intBody2 (f : RAlu) (g : BitVec 64 → BitVec 64 → BitVec 64 × FlagSet) : Safe (intBody2 f g) :=
  .bind (safe_gate _ _) fun _ => .bind (safe_readSrc _) fun _ => .bind (safe_readB _) fun _ => .bind (safe_raise _) fun _ =>
    .bind (safe_writeDst _ _) fun _ => .pure _

theorem safe_advanceSeed (sel : ℕ × ℕ) : Safe (advanceSeed sel) :=
  fun _ hs => .ite (.ok hs) (.ok hs)

theorem safe_readFB (f : RAlu) : Safe (readFB f) :=
  .ite (.pure _) (.bind (safe_readSrc _) fun _ => .pure _)

theorem safe_deliver (q : ℕ) (d : Operand) : Safe (deliver q d) :=
  .bind safe_getS fun _ => by
    split
    · exact .ite (.modS (fun _ h => h)) (.modS (fun _ h => h))
    · exact .ite (safe_writeEvent _ _) (safe_writeDst _ _)
    · exact safe_writeDst _ _

theorem safe_qpop (take : Bool) (f : RSys) : Safe (qpop take f) :=
  .bind safe_getS fun _ => .ite (.bind (safe_deliver _ _) fun _ => .opt (.modS (fun _ h => h)) (.bind (safe_writeDst _ _) fun _ =>
    .pure _)) (.bind (safe_writeDst _ _) fun _ => .pure _)

theorem safe_semAmount (f : EForm) (field : ℕ) : Safe (semAmount f field) :=
  .ite (.bind (safe_readSrc _) fun _ => .pure _) (.pure _)

theorem safe_gateWait (w : Option SemWait) : Safe (gateWait w) := by
  unfold gateWait
  exact fun _ hs => by
    split
    · exact .ok hs
    · exact .ite (.ok hs) .error

theorem safe_awaitWrites (begin_ : List ℕ) (now : List ℕ) : Safe (awaitWrites begin_ now) :=
  .bind safe_getS fun _ => .bind (.modS (fun _ h => h)) fun _ => .pure _

theorem safe_useObj (idx : BitVec 16) (kind : BitVec 8) (valid : ℕ → Bool) (rights : ℕ → Bool) :
    Safe (useObj idx kind valid rights) := by
  unfold useObj
  intro s hs
  dsimp only
  split
  · exact .ok hs
  · exact .error

theorem safe_useGraph (obj : BitVec 16) : Safe (useGraph obj) :=
  .bind (safe_useObj _ _ _ _) fun _ => .bind safe_getS fun _ => by
    split
    · exact .pure _
    · exact safe_trap _ _

theorem safe_ensureValue (c : Bool) (operand : ℕ) : Safe (ensureValue c operand) :=
  .ite (.pure _) (safe_badValue _)

theorem safe_lsCheck (u : LsUse) (off : ℕ) (n : ℕ) : Safe (lsCheck u off n) := by
  unfold lsCheck
  intro s hs
  dsimp only
  split
  · exact .error
  · exact .ok hs

theorem safe_gateRecall (by_ : Requester) (line : ℕ) : Safe (gateRecall by_ line) := by
  unfold gateRecall
  exact fun _ hs => by
    split
    · exact .ok hs
    · exact .ite .error (.ok hs)

theorem safe_gateReplay (by_ : Requester) (line : ℕ) : Safe (gateReplay by_ line) := by
  unfold gateReplay
  intro s hs
  dsimp only
  split
  · exact .ite .error ((safe_gateRecall _ _) _ hs)
  · exact ((safe_gateRecall _ _) _ hs)

theorem safe_place (by_ : Requester) (ia : ℕ) : Safe (place by_ ia) :=
  fun _ hs => .ite .error (by
      split
      · exact .error
      · exact .ite .error (.ok (by simpa using hs))
      · exact .error
      · exact .error
      · exact .error
      · exact .ok hs)

theorem safe_gateHost (by_ : Requester) (line : ℕ) : Safe (gateHost by_ line) :=
  fun _ hs => .ite .error (.ok hs)

theorem safe_checkPoison (ias : List ℕ) (ps : List Place) : Safe (checkPoison ias ps) := by
  unfold checkPoison
  intro s hs
  dsimp only
  split
  · exact .error
  · exact .ok hs

theorem safe_lsCleanRows (off : ℕ) (pitch : ℕ) (rows : ℕ) (n : ℕ) : Safe (lsCleanRows off pitch rows n) := by
  unfold lsCleanRows
  intro s hs
  dsimp only
  split
  · exact .error
  · exact .ok hs

theorem safe_lsClean (off : ℕ) (n : ℕ) : Safe (lsClean off n) :=
  (safe_lsCleanRows _ _ _ _)

theorem safe_gateReserve (n : ℕ) : Safe (gateReserve n) :=
  fun _ hs => .ite .error (.ok hs)

theorem safe_windowIa (n : ℕ) (va : ℕ) (size : ℕ) (right : Right) (use : SpanUse) (elem : Option ℕ) :
    Safe (windowIa n va size right use elem) :=
  .bind safe_getS fun _ => by
    split
    · exact safe_stop _
    · split
      · exact safe_stop _
      · exact safe_stop _
      · exact .ite (safe_stop _) (.pure _)

theorem safe_objectIa (va : BitVec 64) (win : ℕ) (size : ℕ) (align : ℕ) (right : Right) :
    Safe (objectIa va win size align right) :=
  .bind (safe_ensureValue _ _) fun _ => .bind (safe_windowIa _ _ _ _ _ _) fun _ => .bind (safe_gateCircuit _) fun _ => .pure _

theorem safe_groupVa (a : Operand) (win : ℕ) : Safe (groupVa a win) :=
  .bind (safe_readSrc _) fun _ => safe_objectIa _ _ _ _ _

theorem safe_sendFromC (i : SendC) : Safe (sendFromC i) :=
  .bind safe_getS fun _ => .opt (safe_block _) (.bind (safe_gateReserve _) fun _ => .modS (fun _ h => h))

theorem safe_collIssue (kind : CollKind) (f : EForm) : Safe (collIssue kind f) :=
  .bind (safe_gate _ _) fun _ => .bind (safe_readSrc _) fun _ => .bind (safe_readSrc _) fun _ => .bind safe_getS fun _ =>
    .opt (safe_block _) (.bind (safe_sendFromC _) fun _ => .pure _)

theorem safe_ensure (c : Bool) (code : BitVec 8) (info : BitVec 32) : Safe (ensure c code info) :=
  .ite (.pure _) (safe_trap _ _)

theorem safe_regionIa (win : ℕ) (va : ℕ) (len : ℕ) : Safe (regionIa win va len) :=
  .bind safe_getS fun _ => safe_windowIa _ _ _ _ _ _

theorem safe_guardMisuse {α : Type} (reason : ℕ) : Safe (guardMisuse reason : M α) :=
  (safe_trap _ _)

theorem safe_heldSources (os : List Operand) : Safe (heldSources os) :=
  .bind safe_getS fun _ => by
    split
    · exact .pure _
    · exact .bind (safe_gate _ _) fun _ => .bind (.mapM fun _ => .bind (safe_readSrc _) fun _ => .pure _) fun _ =>
        .bind (.modS (fun _ h => h)) fun _ => .pure _

theorem safe_gateLog : Safe (gateLog  : M Unit) :=
  .bind safe_getS fun _ => .ite (safe_block _) (.pure _)

theorem safe_gateJob : Safe (gateJob  : M Unit) :=
  .bind safe_getS fun _ => .opt (safe_block _) (.ite (safe_block _) (.pure _))

theorem safe_useXpb (idx : BitVec 16) : Safe (useXpb idx) :=
  fun _ hs => .ite .error (.ite .error (.ok hs))

theorem safe_readAddr (f : MForm) : Safe (readAddr f) :=
  .bind (safe_readSrc _) fun _ => .bind (safe_readSrc _) fun _ => .pure _

theorem safe_lsChecks (rs : List (LsUse × ℕ × ℕ)) : Safe (lsChecks rs) := by
  unfold lsChecks
  intro s hs
  dsimp only
  split
  · exact .error
  · exact .ok hs

theorem safe_cfCheck (rs : List (ℕ × ℕ)) : Safe (cfCheck rs) := by
  unfold cfCheck
  intro s hs
  dsimp only
  split
  · exact .error
  · exact .ok hs

theorem safe_issueRld (q : ℕ) (v : BitVec 2048) (off : Bool) : Safe (issueRld q v off) :=
  .modS (fun _ h => h)

theorem safe_stashRange (t : Task) (off : ℕ) (n : ℕ) : Safe (stashRange t off n) :=
  .ite (safe_trap _ _) (.ite (safe_trap _ _) (.ite (safe_trap _ _) (.pure _)))

theorem safe_gateStart (unit : ℕ) : Safe (gateStart unit) :=
  .bind safe_getS fun _ => safe_gateReserve _

theorem safe_copyBody (multi : Bool) (f : EForm) : Safe (copyBody multi f) :=
  .bind safe_getS fun _ => .ite (.pure _) (.bind (safe_heldSources _) fun _ => .bind safe_gateLog fun _ =>
    .bind safe_gateJob fun _ => .bind (safe_useObj _ _ _ _) fun _ => .bind (safe_ensure _ _ _) fun _ =>
    .bind (safe_ensureValue _ _) fun _ => .bind (safe_ensureValue _ _) fun _ => .bind (safe_gateStart _) fun _ =>
    .bind (.modS (fun _ h => by simpa using h)) fun _ => .bind safe_getS fun _ => .pure _)

theorem safe_vGate (f : VForm) : Safe (vGate f) :=
  (safe_gate _ _)

theorem safe_readElems (w : ℕ) (o : Operand) : Safe (readElems w o) := by
  unfold readElems
  split
  · exact .bind safe_getS fun _ => .pure _
  · exact .ite (.bind (safe_readVSrc _) fun _ => .pure _) (.bind (safe_readSrc _) fun _ => .pure _)
  · exact .bind (safe_readSrc _) fun _ => .pure _

theorem safe_readElemsB (w : ℕ) (f : VForm) : Safe (readElemsB w f) :=
  .ite (.pure _) (safe_readElems _ _)

theorem safe_readAbc (f : VForm) (w : ℕ) (ub : Bool) (uc : Bool) : Safe (readAbc f w ub uc) :=
  .bind (safe_readElems _ _) fun _ => .iteBind (safe_readElemsB _ _) (.pure _) fun _ => .ite (.bind (safe_readElems _ _) fun _ =>
    .pure _) (.bind (.pure _) fun _ => .pure _)

theorem safe_laneCtx (f : VForm) (w : ℕ) : Safe (laneCtx f w) :=
  .bind safe_getS fun _ => .bind (safe_advanceSeed _) fun _ => .pure _

theorem safe_putElems (f : VForm) (w : ℕ) (xs : List (Option ℕ)) : Safe (putElems f w xs) :=
  .bind safe_getS fun _ => safe_writeVDst _ _

theorem safe_putLanes (f : VForm) (w : ℕ) (act : List Bool) (rs : List (ℕ × FlagSet)) : Safe (putLanes f w act rs) :=
  .bind (safe_raise _) fun _ => safe_putElems _ _ _

theorem safe_laneBody (f : VForm) (ub : Bool) (uc : Bool) (op : LaneOp) : Safe (laneBody f ub uc op) :=
  .bind (safe_vGate _) fun _ => .bind (safe_readAbc _ _ _ _) fun _ => .bind (safe_laneCtx _ _) fun _ =>
    .opt (safe_raise _) (.bind (safe_putLanes _ _ _ _) fun _ => .pure _)

theorem safe_putPred (f : VForm) (old : BitVec 64) (act : List Bool) (rs : List Bool) : Safe (putPred f old act rs) :=
  (safe_writeDst _ _)

theorem safe_bitBody (f : VForm) (ub : Bool) (uc : Bool) (g : ℕ → ℕ → ℕ → ℕ → ℕ) : Safe (bitBody f ub uc g) :=
  .bind (safe_vGate _) fun _ => .bind safe_getS fun _ => .bind (safe_readAbc _ _ _ _) fun _ =>
    .bind (safe_putLanes _ _ _ _) fun _ => .pure _

theorem safe_vcvtExpand (f : VForm) : Safe (vcvtExpand f) :=
  .bind (safe_readVSrc _) fun _ => .iteBind (safe_readVSrc _) (.pure _) fun _ => .bind safe_getS fun _ =>
    .bind (safe_advanceSeed _) fun _ => safe_putLanes _ _ _ _

theorem safe_vcvtToMx (f : VForm) (src : List ℕ) (c : LaneCtx) : Safe (vcvtToMx f src c) :=
  .bind (safe_raise _) fun _ => .bind safe_getS fun _ => .bind (safe_writeVDst _ _) fun _ => .bind safe_getS fun _ => by
    split
    · exact .modS (fun _ h => h)
    · exact .pure _

theorem safe_placeParts (f : VForm) (ws : ℕ) (wd : ℕ) (src : List ℕ) (conv : ℕ → ℕ → ℕ → ℕ × FlagSet) :
    Safe (placeParts f ws wd src conv) :=
  .bind safe_getS fun _ => .bind (safe_raise _) fun _ => .ite (safe_writeVDst _ _) (safe_putElems _ _ _)

theorem safe_putMoved (f : VForm) (w : ℕ) (xs : List ℕ) : Safe (putMoved f w xs) :=
  .bind safe_getS fun _ => safe_putLanes _ _ _ _

theorem safe_readIndex (f : VForm) : Safe (readIndex f) :=
  .ite (.pure _) (.bind (safe_readSrc _) fun _ => .pure _)

theorem safe_reduceBody (f : VForm) (o : RedOp) : Safe (reduceBody f o) :=
  .bind (safe_vGate _) fun _ => .bind (safe_readElems _ _) fun _ => .bind (safe_laneCtx _ _) fun _ =>
    .bind (safe_raise _) fun _ => .ite (.bind (safe_writeVDst _ _) fun _ => .pure _) (.bind (safe_writeDst _ _) fun _ => .pure _)

theorem safe_segBody (f : VForm) (o : RedOp) : Safe (segBody f o) :=
  .bind (safe_vGate _) fun _ => .bind (safe_readElems _ _) fun _ => .bind (safe_laneCtx _ _) fun _ =>
    .bind (safe_putLanes _ _ _ _) fun _ => .pure _

theorem safe_freeBytes (n : ℕ) : Safe (freeBytes n) :=
  fun _ hs => .ok hs

theorem safe_formatHead : Safe (formatHead  : M (BitVec 64)) := by
  unfold formatHead
  intro s hs
  dsimp only
  split
  · exact .ok hs
  · exact .ite .error .error

theorem safe_gateRings (rs : List (Option (Fin 8))) : Safe (gateRings rs) :=
  .bind safe_getS fun _ => by
    split
    · exact safe_block _
    · exact .pure _

theorem safe_LsArg_bound (a : LsArg) : Safe (LsArg.bound a) :=
  fun _ hs => .ite .error (.ok hs)

theorem safe_LsArg_region (a : LsArg) : Safe (LsArg.region a) :=
  fun _ hs => .ite ((safe_lsCheck _ _ _) _ hs) (.ok hs)

theorem safe_LsArg_ringState (a : LsArg) : Safe (LsArg.ringState a) := by
  unfold LsArg.ringState
  exact fun _ hs => by
    split
    · exact .ok hs
    · exact .ite .error (.ite .error (.ok hs))

theorem safe_checkArgs (as : List LsArg) : Safe (checkArgs as) :=
  .bind (.mapM fun _ => safe_LsArg_bound _) fun _ => .bind (.mapM fun _ => safe_LsArg_region _) fun _ => .bind (.mapM fun _ =>
    safe_LsArg_ringState _) fun _ => .pure _

theorem safe_modTile (n : Fin 4) (f : Tile → Tile) : Safe (modTile n f) :=
  .modS (fun _ h => h)

theorem safe_popRings (rs : List (Option (Fin 8) × Bool)) : Safe (popRings rs) :=
  .opt (.bind safe_gateLog fun _ => .bind safe_getS fun _ => .ite (safe_block _) (.pure _)) (.modS (fun _ h => h))

theorem safe_badTile {α : Type} (n : Fin 4) (held : BitVec 2) (required : BitVec 2) : Safe (badTile n held required : M α) :=
  (safe_trap _ _)

theorem safe_checkBeats (off : ℕ) (pitch : ℕ) (rows : ℕ) (rb : ℕ) (opnd : ℕ) : Safe (checkBeats off pitch rows rb opnd) := by
  unfold checkBeats
  intro s hs
  dsimp only
  split
  · exact .error
  · exact .ok hs

theorem safe_mmaBody (mmat : Bool) (f : RSys) : Safe (mmaBody mmat f) :=
  .bind safe_formatHead fun _ => .bind (safe_gateRings _) fun _ => .bind (safe_readSrc _) fun _ => .bind (safe_readSrc _) fun _ =>
    .bind safe_getS fun _ => by
    split
    · exact safe_trap _ _
    · exact .bind (safe_checkArgs _) fun _ => .ite (.bind (safe_checkBeats _ _ _ _ _) fun _ =>
        .bind (safe_checkBeats _ _ _ _ _) fun _ => .opt (safe_badTile _ _ _) (.bind (safe_lsCleanRows _ _ _ _) fun _ =>
        .bind (safe_lsCleanRows _ _ _ _) fun _ => .bind (.modS (fun _ h => h)) fun _ => .bind (safe_raise _) fun _ =>
        .bind (safe_modTile _ _) fun _ => .bind (safe_popRings _) fun _ => .pure _)) (.opt (safe_badTile _ _ _) (.bind
        (safe_lsCleanRows _ _ _ _) fun _ => .bind (safe_lsCleanRows _ _ _ _) fun _ => .bind (.modS (fun _ h => h)) fun _ =>
        .bind (safe_raise _) fun _ => .bind (safe_modTile _ _) fun _ => .bind (safe_popRings _) fun _ => .pure _))

theorem safe_advanceSeedM (sel : ℕ × ℕ) : Safe (advanceSeedM sel) :=
  fun _ hs => .ite (.ok hs) (.ok hs)

theorem safe_gateRelease (scope : BitVec 2) : Safe (gateRelease scope) :=
  .bind safe_getS fun _ => .ite (safe_block _) (.pure _)

theorem safe_gateAtomic (f : MForm) : Safe (gateAtomic f) :=
  .bind safe_gateLog fun _ => .ite (safe_gateRelease _) (.pure _)

theorem safe_atomicIa (f : MForm) (va : ℕ) (elem : Option ℕ) : Safe (atomicIa f va elem) :=
  .opt (safe_stop _) (safe_windowIa _ _ _ _ _ _)

theorem safe_acquireForm (f : MForm) : Safe (acquireForm f) :=
  .ite (.modS (fun _ h => by simpa using h)) (.pure _)

theorem safe_atomicIas (f : MForm) (va : ℕ) : Safe (atomicIas f va) :=
  .mapM fun _ => safe_atomicIa _ _ _

theorem safe_sketchElems (f : EForm) : Safe (sketchElems f) :=
  .bind (safe_readSrc _) fun _ => .bind (safe_readSrc _) fun _ => .bind (safe_ensureValue _ _) fun _ =>
    .bind (safe_ensureValue _ _) fun _ => .bind (safe_lsChecks _) fun _ => .ite (.bind (safe_lsClean _ _) fun _ =>
    .bind safe_getS fun _ => .pure _) (.pure _)

theorem safe_sketchSignal (f : EForm) : Safe (sketchSignal f) :=
  .modS (fun _ h => by simpa using h)

theorem safe_holdServed (w : Option SemWait) (x : Wait) : Safe (holdServed w x) :=
  fun _ hs => .ok hs

theorem safe_lightNext (n : Fin 32) (f : LRun → LRun) : Safe (lightNext n f) :=
  .modS (fun _ h => h)

theorem safe_claimPush (n : Fin 32) (r : LRun) (ring : Fin 8) (bytes : ℕ) : Safe (claimPush n r ring bytes) := by
  unfold claimPush
  split
  · exact .pure _
  · exact .bind (safe_ensure _ _ _) fun _ => .bind safe_getS fun _ => by
      split
      · exact .pure _
      · exact .bind (safe_ensure _ _ _) fun _ => .bind (.modS (fun _ h => by simpa using h)) fun _ =>
          .ite (.bind (.modS (fun _ h => h)) fun _ => .pure _) (.bind (.modS (fun _ h => by simpa using h)) fun _ =>
          .bind (.modS (fun _ h => h)) fun _ => .pure _)

theorem safe_fillPush (n : Fin 32) (r : LRun) (ring : Fin 8) (slot : ℕ) (ssem : BitVec 8) (sinc : BitVec 12) (bs : List
    (BitVec 8)) :
    Safe (fillPush n r ring slot ssem sinc bs) :=
  .bind (.modS (fun _ h => by simpa using h)) fun _ => safe_lightNext _ _

theorem safe_places (by_ : Requester) (l : List Nat) : Safe (places by_ l) := by
  induction l with
  | nil => exact .pure []
  | cons a r ih => exact (safe_place by_ a).bind fun p => ih.bind fun ps => .pure (p :: ps)

theorem safe_applyLine (by_ : Requester) (ws : List (Nat × BitVec 8)) : Safe (applyLine by_ ws) := by
  unfold applyLine
  split
  · exact .pure 0
  · exact (safe_places _ _).bind fun _ => (safe_gateHost _ _).bind fun _ => .getS fun _ h =>
      .ite (.bind (.modS fun _ h => by simpa using h) fun _ => .pure 0) (.bind (.modS fun _ _ => by simp [h]) fun _ => .pure _)

theorem safe_ownSignal (k : BitVec 8) (inc : Nat) : Safe (ownSignal k inc) := by
  intro s hs
  unfold ownSignal
  split
  · next h => exact .ok (store_signalTask h ▸ hs)
  · exact .ok hs

theorem safe_loadIas_go (win n : Nat) (several : Bool) (l : List (Option Nat)) (i : Nat) :
    Safe (loadIas.go win n several i l) := by
  induction l generalizing i with
  | nil => exact .pure []
  | cons a r ih =>
    cases a with
    | none => exact (ih (i + 1)).bind fun t => .pure (none :: t)
    | some a => exact (safe_windowIa _ _ _ _ _ _).bind fun ia => (ih (i + 1)).bind fun t => .pure (some ia :: t)

theorem safe_storeElems_ias (f : MForm) (v : BitVec 2048) (n : Nat) (l : List (Option Nat)) (i : Nat) :
    Safe (storeElems.ias f v n i l) := by
  induction l generalizing i with
  | nil => exact .pure []
  | cons a r ih =>
    cases a with
    | none => exact ih (i + 1)
    | some a => exact (safe_windowIa _ _ _ _ _ _).bind fun ia => (ih (i + 1)).bind fun t => .pure (_ :: t)

@[simp] theorem ok_discardPage (ia len : Nat) (x : State × Nat) (page : Nat) (h : StoreOk x.1.store) :
    StoreOk (discardPage ia len x page).1.store := by
  unfold discardPage
  dsimp only
  split
  · exact ok_discardHere _ _ _ h
  · split
    · exact ok_swapPack _ (ok_discardHere _ _ _ (ok_swapPack _ h))
    · exact h

theorem ok_discardPages (ia len : Nat) (l : List Nat) {x : State × Nat} (h : StoreOk x.1.store) :
    StoreOk (l.foldl (discardPage ia len) x).1.store := by
  induction l generalizing x with
  | nil => exact h
  | cons p l ih => exact ih (ok_discardPage ia len x p h)

theorem safe_recallLine (line : ℕ) (isWrite : Bool) (keep : Option ℕ) : Safe (recallLine line isWrite keep) :=
  .bind safe_getS fun _ => .bind (.forIn fun _ _ => .ite (.opt (safe_stop _) (.bind (safe_applyLine _ _) fun _ =>
    .bind (.modS (fun _ h => by simpa using h)) fun _ => .pure _)) (.pure _)) fun _ => .ite (.modS (fun _ h =>
    ok_foldl h fun _ _ h => by simp [h])) (.pure _)

theorem safe_readEvent (count : Bool) (by_ : Requester) (ias : List ℕ) : Safe (readEvent count by_ ias) := by
  unfold readEvent
  split
  · exact .pure _
  · exact .bind (safe_gateReplay _ _) fun _ => .bind (safe_recallLine _ _ _) fun _ => .bind (safe_places _ _) fun _ =>
      .bind (safe_checkPoison _ _) fun _ => .bind safe_getS fun _ => .opt (safe_stop _) (.ite (.bind (.modS (fun _ h =>
      by simpa using h)) fun _ => .pure _) (.pure _))

theorem safe_readLine (by_ : Requester) (ias : List ℕ) : Safe (readLine by_ ias) :=
  .atHome fun _ => safe_readEvent _ _ _

theorem safe_fillStash (tid : ℕ) (m : Stash) (off : ℕ) : Safe (fillStash tid m off) :=
  .bind (safe_readLine _ _) fun _ => .modS (fun _ h => by simpa using h)

theorem safe_touchStash (off : ℕ) (isStore : Bool) (x : Stash × ℕ) : Safe (touchStash off isStore x) :=
  .opt (safe_stop _) (.bind safe_getS fun _ => .ite (.ite (.modS (fun _ h => h)) (.pure _)) (.bind (safe_fillStash _ _ _) fun _ =>
    .ite (.modS (fun _ h => h)) (.pure _)))

theorem safe_lsLoad (off : ℕ) (n : ℕ) : Safe (lsLoad off n) :=
  .bind safe_getS fun _ => .bind (.mapM fun _ => safe_touchStash _ _ _) fun _ => .bind (safe_lsClean _ _) fun _ =>
    .bind safe_getS fun _ => .pure _

theorem safe_writeLine (by_ : Requester) (ws : List (ℕ × BitVec 8)) : Safe (writeLine by_ ws) := by
  unfold writeLine
  split
  · exact .pure _
  · exact .atHome fun _ => .bind (safe_gateRecall _ _) fun _ => .bind (safe_recallLine _ _ _) fun _ => safe_applyLine _ _

theorem safe_lsNumber (off : ℕ) (n : ℕ) : Safe (lsNumber off n) :=
  .bind (safe_lsLoad _ _) fun _ => .pure _

theorem safe_blockHeader (off : ℕ) : Safe (blockHeader off) :=
  .bind safe_getS fun _ => .ite (.pure _) (.bind (safe_lsNumber _ _) fun _ => .pure _)

theorem safe_writeBackLine (tid : ℕ) (m : Stash) (off : ℕ) : Safe (writeBackLine tid m off) :=
  .bind safe_getS fun _ => by
    split
    · exact .pure _
    · exact .bind (.modS (fun _ h => by simpa using h)) fun _ => .bind (.modS (fun _ h => ok_atTask h fun _ h =>
        by simp [h])) fun _ => .bind safe_getS fun _ => .ite (.bind (.modS (fun _ h => by simp [h])) fun _ =>
        .pure _) (.bind (.atHome fun _ => .bind (safe_gateRecall _ _) fun _ => .bind (safe_recallLine _ _ _) fun _ =>
        .bind (safe_applyLine _ _) fun _ => .bind (.modS (fun _ h => by simpa using h)) fun _ => .pure _) fun _ =>
        .bind (.modS (fun _ h => by simpa using h)) fun _ => .pure _)

theorem safe_writeBackLines (tid : ℕ) (f : ℕ → Bool) : Safe (writeBackLines tid f) :=
  .bind safe_getS fun _ => .mapM fun _ => safe_writeBackLine _ _ _

theorem safe_readIa (by_ : Requester) (ia : ℕ) (n : ℕ) : Safe (readIa by_ ia n) :=
  .bind (.mapM fun _ => safe_readLine _ _) fun _ => .pure _

theorem safe_pokeIa (by_ : Requester) (ia : ℕ) (bs : List (BitVec 8)) : Safe (pokeIa by_ ia bs) :=
  .atHome fun _ => .bind (safe_gateRecall _ _) fun _ => .bind (safe_recallLine _ _ _) fun _ => .bind (safe_places _ _) fun _ =>
    .bind (safe_gateHost _ _) fun _ => .modS (fun _ h => by simp [h])

theorem safe_applyRelease (tid : ℕ) (ia : ℕ) : Safe (applyRelease tid ia) :=
  .bind safe_getS fun _ => .bind (safe_readIa _ _ _) fun _ => .bind (safe_pokeIa _ _ _) fun _ => .modS (fun _ h =>
    by simpa using h)

theorem safe_loadLs (cf : Bool) (n : ℕ) (addrs : List (Option ℕ)) : Safe (loadLs cf n addrs) :=
  .bind (safe_lsChecks _) fun _ => .ite (.bind (safe_cfCheck _) fun _ => .bind (.mapM fun _ => by
    split
    · exact safe_lsLoad _ _
    · exact .pure _) fun _ => .pure _) (.bind (.mapM fun _ => by
    split
    · exact safe_lsLoad _ _
    · exact .pure _) fun _ => .pure _)

theorem safe_loadIas (win : ℕ) (n : ℕ) (several : Bool) (addrs : List (Option ℕ)) : Safe (loadIas win n several addrs) :=
  (safe_loadIas_go _ _ _ _ _)

theorem safe_loadL1 (ias : List ℕ) : Safe (loadL1 ias) := by
  unfold loadL1
  split
  · exact .pure _
  · exact .bind safe_getS fun _ => by
      split
      · exact .bind (safe_gateReplay _ _) fun _ => .pure _
      · exact .bind (safe_readLine _ _) fun _ => .bind (.modS (fun _ h => by split <;> simp [h])) fun _ => .pure _

theorem safe_loadPast (ia : ℕ) (n : ℕ) : Safe (loadPast ia n) :=
  .bind safe_getS fun _ => .bind (safe_readIa _ _ _) fun _ => .bind (.modS (fun _ h => h)) fun _ => .pure _

theorem safe_loadScalar (ia : ℕ) (n : ℕ) (useL1 : Bool) : Safe (loadScalar ia n useL1) :=
  .ite (.bind (.mapM fun _ => safe_loadL1 _) fun _ => .pure _) (safe_loadPast _ _)

theorem safe_loadMem (win : ℕ) (n : ℕ) (several : Bool) (useL1 : Bool) (addrs : List (Option ℕ)) :
    Safe (loadMem win n several useL1 addrs) :=
  .bind (safe_loadIas _ _ _ _) fun _ => .bind safe_getS fun _ => .bind (safe_gateReserve _) fun _ => .bind (.mapM fun _ => by
    split
    · exact safe_loadScalar _ _ _
    · exact .pure _) fun _ => .pure _

theorem safe_loadElems (f : MForm) (several : Bool) (useL1 : Bool) (addrs : List (BitVec 64)) :
    Safe (loadElems f several useL1 addrs) :=
  .ite (safe_loadLs _ _ _) (safe_loadMem _ _ _ _ _)

theorem safe_discardRange (ia : ℕ) (len : ℕ) : Safe (discardRange ia len) :=
  .getS fun _ h => by
    split
    · exact .bind (safe_stop _) fun _ => .bind (.modS (fun _ _ => ok_discardPages _ _ _ h)) fun _ => .pure _
    · exact .bind (.modS (fun _ _ => ok_discardPages _ _ _ h)) fun _ => .pure _

theorem safe_lsStore (off : ℕ) (bs : List (BitVec 8)) : Safe (lsStore off bs) :=
  .bind safe_getS fun _ => .bind (.mapM fun _ => safe_touchStash _ _ _) fun _ => .modS (fun _ h => h)

theorem safe_updateLine {α : Type} (by_ : Requester) (ias : List ℕ) (f : List (BitVec 8) → List (BitVec 8) × α) :
    Safe (updateLine by_ ias f : M (BitVec 64 × α)) :=
  .atHome fun _ => .bind (safe_recallLine _ _ _) fun _ => .bind (safe_readEvent _ _ _) fun _ =>
    .bind (safe_applyLine _ _) fun _ => .pure _

theorem safe_applyWrite (by_ : Requester) (w : LogWrite) : Safe (applyWrite by_ w) :=
  .ite (.bind (safe_updateLine _ _ _) fun _ => .pure _) (.bind (safe_writeLine _ _) fun _ => .ite (.bind (.atHome fun _ =>
    .modS (fun _ h => by simpa using h)) fun _ => .pure _) (.pure _))

theorem safe_atomicAt (by_ : Requester) (ia : ℕ) (opk : BitVec 4) (n : ℕ) (operand : ℕ) (expected : ℕ) :
    Safe (atomicAt by_ ia opk n operand expected) :=
  .bind (safe_updateLine _ _ _) fun _ => .pure _

theorem safe_atomicReply (f : MForm) (ia : ℕ) (operand : ℕ) (expected : ℕ) : Safe (atomicReply f ia operand expected) :=
  .bind safe_getS fun _ => .bind (safe_gateReserve _) fun _ => .bind (safe_atomicAt _ _ _ _ _ _) fun _ => .bind (.modS (fun _ h =>
    by split <;> simp [h])) fun _ => .pure _

theorem safe_sketchApply (by_ : Requester) (obj : BitVec 16) (x : ℕ) (row : ℕ) (bucket : ℕ) (inc : ℤ) :
    Safe (sketchApply by_ obj x row bucket inc) :=
  .bind (safe_updateLine _ _ _) fun _ => .ite (.modS (fun _ h => by simp [h])) (.pure _)

theorem safe_sketchElem (obj : BitVec 16) (x : ℕ) (idx : BitVec 64) (v : FVal) : Safe (sketchElem obj x idx v) :=
  .ite (.bind (.modS (fun _ h => by simp [h])) fun _ => safe_raise _) (.bind (.forIn fun _ _ => .bind safe_getS fun _ =>
    .bind (safe_sketchApply _ _ _ _ _ _) fun _ => .pure _) fun _ => .pure _)

theorem safe_sketchEst (x : ℕ) (idx : BitVec 64) : Safe (sketchEst x idx) :=
  .bind safe_getS fun _ => .bind (.mapM fun _ => .bind (safe_readLine _ _) fun _ => .pure _) fun _ => .pure _

theorem safe_readSketch (by_ : Requester) (x : ℕ) : Safe (readSketch by_ x) :=
  .bind (safe_readIa _ _ _) fun _ => .pure _

theorem safe_uopOperand (used : Bool) (scalar : Bool) (x : BitVec 64) (ty : BitVec 5) (n : ℕ) :
    Safe (uopOperand used scalar x ty n) :=
  .ite (.pure _) (.ite (.pure _) (.bind (safe_lsLoad _ _) fun _ => .pure _))

theorem safe_updWrite (bad : Bool) (d : ℕ) (z : ℕ) (rs : List (ℕ × FlagSet)) : Safe (updWrite bad d z rs) :=
  .ite (.bind (safe_freeBytes _) fun _ => safe_lsStore _ _) (.bind (safe_raise _) fun _ => safe_lsStore _ _)

theorem safe_gateWord (by_ : Requester) (ia : ℕ) (n : ℕ) : Safe (gateWord by_ ia n) :=
  .bind (.atHome fun _ => safe_readEvent _ _ _) fun _ => .pure _

theorem safe_gateDecide (by_ : Requester) (ia : ℕ) : Safe (gateDecide by_ ia) :=
  .bind safe_getS fun _ => .ite (.bind (safe_gateWord _ _ _) fun _ => .bind (safe_gateWord _ _ _) fun _ =>
    .ite (.bind (safe_gateWord _ _ _) fun _ => .bind (safe_gateWord _ _ _) fun _ =>
    .opt (safe_discardRange _ _) (.bind (safe_writeLine _ _) fun _ => .modS (fun _ h => h))) (.pure _)) (.pure _)

theorem safe_gateReport (by_ : Requester) (ia : ℕ) (nonfinite : Bool) : Safe (gateReport by_ ia nonfinite) :=
  .bind (safe_updateLine _ _ _) fun _ => .atHome fun _ => safe_gateDecide _ _

theorem safe_finishCommit (f : EForm) (reply : BitVec 64) : Safe (finishCommit f reply) :=
  .bind (.modS (fun _ h => h)) fun _ => .bind (safe_writeDst _ _) fun _ => .bind (.modS (fun _ h => h)) fun _ =>
    .ite (safe_ownSignal _ _) (.pure _)

theorem safe_gateRequest (by_ : Requester) (tid : ℕ) (ia : ℕ) (step : ℕ) : Safe (gateRequest by_ tid ia step) :=
  .bind (safe_recallLine _ _ _) fun _ => .bind (safe_gateWord _ _ _) fun _ => .bind (safe_gateWord _ _ _) fun _ =>
    .bind (safe_gateWord _ _ _) fun _ => .bind (safe_gateWord _ _ _) fun _ => .bind (safe_gateWord _ _ _) fun _ =>
    .bind (safe_ensureValue _ _) fun _ => .ite (.pure _) (.ite (.pure _) (.bind (.modS (fun _ h => h)) fun _ =>
    .bind (safe_gateDecide _ _) fun _ => .pure _))

theorem safe_launchTask (core : ℕ) (slot : ℕ) (node : ℕ) (tile : BitVec 64) (n : NodeSt) (step : BitVec 64) (patch : BitVec 64) :
    Safe (launchTask core slot node tile n step patch) :=
  .bind (safe_readIa _ _ _) fun _ => .bind safe_getS fun _ => .bind (safe_readIa _ _ _) fun _ =>
    .bind (safe_readIa _ _ _) fun _ => .pure _

theorem safe_engineRead (by_ : Requester) (ias : List ℕ) : Safe (engineRead by_ ias) :=
  .bind (.mapM fun _ => safe_readLine _ _) fun _ => .pure _

theorem safe_engineWrite (by_ : Requester) (ws : List (ℕ × BitVec 8)) : Safe (engineWrite by_ ws) :=
  .bind (.mapM fun _ => safe_writeLine _ _) fun _ => .pure _

theorem safe_ringPut (by_ : Requester) (base : ℕ) (l : ℕ) (z : ℕ) (rec_ : ℕ) : Safe (ringPut by_ base l z rec_) :=
  .ite (.pure _) (.bind (safe_engineRead _ _) fun _ => .bind (safe_engineRead _ _) fun _ =>
    .ite (.pure _) (.bind (safe_engineWrite _ _) fun _ => .bind (safe_engineWrite _ _) fun _ => .pure _))

theorem safe_addAt (by_ : Requester) (fmt : ℕ) (z : ℕ) (ia : ℕ) (v : ℕ) : Safe (addAt by_ fmt z ia v) :=
  .bind (safe_updateLine _ _ _) fun _ => .pure _

theorem safe_applyActs (by_ : Requester) (add : Bool) (fmt : ℕ) (z : ℕ) (fill : List (BitVec 8)) (acts : List ElemAct) :
    Safe (applyActs by_ add fmt z fill acts) :=
  .bind (safe_engineRead _ _) fun _ => .ite (.bind (.forIn fun _ _ => .ite (.bind (safe_addAt _ _ _ _ _) fun _ =>
    .pure _) (.bind (safe_engineWrite _ _) fun _ => .pure _)) fun _ => .pure _) (.bind (safe_engineWrite _ _) fun _ => .pure _)

theorem safe_multiChunk (n : Fin 32) (r : BteRun) (p : Template) (cs : List (List ℕ)) : Safe (multiChunk n r p cs) :=
  .bind (.forIn fun _ _ => .bind (safe_applyActs _ _ _ _ _ _) fun _ => .bind (.modS (fun _ h => h)) fun _ => .pure _) fun _ =>
    .bind (.modS (fun _ h => h)) fun _ => .modS (fun _ h => by simpa using h)

theorem safe_ringChunk (n : Fin 32) (r : BteRun) (p : Template) (k : Fin 8) (cs : List (List ℕ)) : Safe (ringChunk n r p k cs) :=
  .bind safe_getS fun _ => by
    split
    · exact .pure _
    · exact .bind (safe_ensure _ _ _) fun _ => by
        split
        · exact .opt (safe_block _) (.bind (.modS (fun _ h => by simpa using h)) fun _ => .modS (fun _ h => h))
        · exact .bind (safe_engineRead _ _) fun _ => .bind (.modS (fun _ h => by simpa using h)) fun _ => .bind (.modS (fun _ h =>
            h)) fun _ => .modS (fun _ h => by simpa using h)

theorem safe_plainChunk (n : Fin 32) (r : BteRun) (p : Template) (cs : List (List ℕ)) : Safe (plainChunk n r p cs) :=
  .bind (safe_applyActs _ _ _ _ _ _) fun _ => .bind (.modS (fun _ h => h)) fun _ => .modS (fun _ h => by simpa using h)

theorem safe_bteChunk (n : Fin 32) (r : BteRun) : Safe (bteChunk n r) :=
  .ite (safe_multiChunk _ _ _ _) (by
      split
      · exact safe_ringChunk _ _ _ _ _
      · exact safe_plainChunk _ _ _ _)

theorem safe_drainChunk (n : Fin 32) (r : BteRun) (d : DrainJob) : Safe (drainChunk n r d) :=
  .ite (.opt (.forIn fun _ _ => .bind (safe_addAt _ _ _ _ _) fun _ => .pure _) (.modS (fun _ h =>
    h))) (.bind (safe_engineWrite _ _) fun _ => .modS (fun _ h => h))

theorem safe_lighterRead (n : Fin 32) (ias : List ℕ) : Safe (lighterRead n ias) :=
  .bind (safe_ensure _ _ _) fun _ => safe_engineRead _ _

theorem safe_fetchCmd (n : Fin 32) (r : LRun) : Safe (fetchCmd n r) :=
  .ite (.pure _) (.bind (safe_lighterRead _ _) fun _ => .pure _)

theorem safe_replayEntry (tid : ℕ) (e : LogEntry) : Safe (replayEntry tid e) :=
  .bind (.forIn fun _ _ => .bind (safe_applyWrite _ _) fun _ => .bind (.modS (fun _ h => by simpa using h)) fun _ =>
    .pure _) fun _ => .modS (fun _ h => by simp [h])

theorem safe_writeRecord : Safe (writeRecord  : M Unit) :=
  .bind safe_getS fun _ => by
    split
    · exact .pure _
    · exact .ite (.pure _) (.bind (safe_ringPut _ _ _ _ _) fun _ => .ite (.modS (fun _ h => h)) (.pure _))

theorem safe_arrivalRecord (p : PendingArrival) : Safe (arrivalRecord p) :=
  .bind safe_getS fun _ => .ite (.pure _) (.ite (.pure _) (.bind (safe_lsNumber _ _) fun _ => .pure _))

theorem safe_arrivalOf (p : PendingArrival) : Safe (arrivalOf p) :=
  .bind (safe_arrivalRecord _) fun _ => .opt (safe_useObj _ _ _ _) (.bind (safe_ensureValue _ _) fun _ =>
    .ite (.bind (safe_ensureValue _ _) fun _ => .bind (safe_ensure _ _ _) fun _ => .bind (safe_ensure _ _ _) fun _ =>
    .bind (safe_objectIa _ _ _ _ _) fun _ => .bind safe_getS fun _ => .opt (safe_lsChecks _) (.opt (safe_trap _ _) (.bind
    (safe_lsClean _ _) fun _ => .pure _))) (.bind (safe_objectIa _ _ _ _ _) fun _ => .bind safe_getS fun _ =>
    .opt (safe_lsChecks _) (.opt (safe_trap _ _) (.bind (safe_lsClean _ _) fun _ => .pure _))))

theorem safe_writeIa_go (by_ : Requester) (l : List (List Nat)) (d : List (BitVec 8)) : Safe (writeIa.go by_ l d) := by
  induction l generalizing d with
  | nil => exact .pure []
  | cons p l ih => exact (safe_writeLine _ _).bind fun _ => (ih _).bind fun _ => .pure _

theorem safe_writeEvents_go (tid : Nat) (by_ : Requester) (l logged : List LogWrite) :
    Safe (writeEvents.go tid by_ l logged) := by
  induction l generalizing logged with
  | nil => exact .pure logged
  | cons w l ih =>
    exact safe_getS.bind fun _ => .ite (ih _) ((safe_applyWrite _ _).bind fun _ => .bind (.modS fun _ h => by simp [h]) fun _ => ih logged)

theorem safe_releaseGuards (tid : Nat) (l : List (Nat × Bool)) : Safe (releaseGuards tid l) := by
  induction l with
  | nil => exact .pure ()
  | cons g l ih => exact (safe_applyRelease _ _).bind fun _ => ih

theorem safe_readNodes (ia total n : Nat) : Safe (readNodes ia total n) := by
  induction n with
  | zero => exact .pure (some [])
  | succ n ih => exact ih.bind fun _ => (safe_readIa _ _ _).bind fun _ => (safe_readIa _ _ _).bind fun _ => .pure _

theorem safe_writeIa (by_ : Requester) (ia : ℕ) (bs : List (BitVec 8)) : Safe (writeIa by_ ia bs) :=
  (safe_writeIa_go _ _ _)

theorem safe_sketchSum (objs : List (ℕ × BitVec 16)) : Safe (sketchSum objs) :=
  .bind safe_getS fun _ => .bind (.mapM fun _ => safe_readSketch _ _) fun _ => .bind (.forIn fun _ _ =>
    .bind (safe_writeIa _ _ _) fun _ => .pure _) fun _ => .ite (.modS (fun _ h => ok_foldl h fun _ _ h => ok_atPack h fun _ h =>
    by simp [h])) (.pure _)

theorem safe_loadBody (slot : ℕ) (obj : BitVec 16) : Safe (loadBody slot obj) :=
  .bind safe_getS fun _ => by
    split
    · exact .modS (fun _ h => by simpa using h)
    · exact .bind (safe_readNodes _ _ _) fun _ => by
        split
        · exact .modS (fun _ h => by simpa using h)
        · exact .ite (.modS (fun _ h => by simpa using h)) (.modS (fun _ h => by simpa using h))

theorem safe_writeStep (g : GSlot) (r : Start) : Safe (writeStep g r) :=
  .ite (.pure _) (.bind safe_getS fun _ => .bind (safe_readIa _ _ _) fun _ => .bind (safe_writeIa _ _ _) fun _ =>
    .bind (safe_writeIa _ _ _) fun _ => .pure _)

theorem ok_enterLogs (tid : Nat) (el : Bool) (l : List (Nat × List LogWrite)) {s : State} (h : StoreOk s.store) :
    StoreOk (l.foldl (fun s g => (logPieces el g.2).foldl (fun s ws => enterLog tid g.1 ws s) s) s).store :=
  ok_foldl h fun _ _ h => ok_foldl h fun _ _ h => ok_enterLog _ _ _ h

theorem safe_writeEvents (tid : Nat) (by_ : Requester) (elements : Bool) (parts : List LogWrite) :
    Safe (writeEvents tid by_ elements parts) := by
  have htail : ∀ ps, Safe (do
      modS (modTask tid (fun t => { t with wnext := t.wnext + ps.length }))
      let logged ← writeEvents.go tid by_ ps []
      modS (fun s => match by_, getTask? s tid with
        | .stream _ _, some t => l1Writes t.core ps logged s
        | _, _ => s)
      modS (fun s => (groupPages logged).foldl (fun s g => (logPieces elements g.2).foldl (fun s ws => enterLog tid g.1 ws s) s) s)) := fun ps =>
    .bind (.modS fun _ h => by simpa using h) fun _ => (safe_writeEvents_go _ _ _ _).bind fun _ =>
      .bind (.modS fun _ h => by split <;> simpa using h) fun _ => .modS fun _ h => ok_enterLogs _ _ _ h
  refine safe_getS.bind fun s => ?_
  cases by_ with
  | stream tid st => exact (safe_gateReserve _).bind fun _ => htail _
  | _ => exact htail _

theorem safe_arriveHead (p : PendingArrival) : Safe (arriveHead p) := by
  have hend : ∀ s : State, Safe (do
      if ¬ writesPerformed s.task ((p.group.map s.groupScope).getD 2#2) then block .fence
      let a ← arrivalOf p
      if ¬ arrivalFits s a then block .collective
      modS (modCur (fun t => { t with sendC := t.sendC.tail }))
      modS (applyArrival a)) := fun s => by
    have hlast : ∀ a, Safe (do
        modS (modCur (fun t => { t with sendC := t.sendC.tail }))
        modS (applyArrival a)) := fun a => .bind (.modS fun _ h => h) fun _ => .modS fun _ h => by simpa using h
    have hfit : Safe (do
        let a ← arrivalOf p
        if ¬ arrivalFits s a then block .collective
        modS (modCur (fun t => { t with sendC := t.sendC.tail }))
        modS (applyArrival a)) := (safe_arrivalOf p).bind fun a => .ite ((safe_block _).bind fun _ => hlast a) (hlast a)
    exact .ite ((safe_block _).bind fun _ => hfit) hfit
  refine safe_getS.bind fun s => ?_
  cases p.wait with
  | some w => exact .ite (.bind (.modS fun _ h => h) fun _ => hend s) ((safe_block _).bind fun _ => hend s)
  | none => exact hend s

theorem safe_completeColl (ia : Nat) (c : Coll) : Safe (completeColl ia c) := by
  have hend : ∀ (as : List GroupArrival) (g g' : Group) status spread result sameCore, Safe (modS (fun s =>
      (as.filter (fun a => (g.rankOf a.tid).isSome)).foldl (fun s a => if s.cutFrom a.pkg then removeMember ia a.tid s
        else deliverColl c ia status spread result sameCore a s) (putGroup g' s))) := fun as g g' status spread result sameCore =>
    .modS fun s h => ok_foldl (by simpa using h) fun _ _ h => by split <;> simp [h]
  refine safe_getS.bind fun s => ?_
  extract_lets
  split
  · exact (safe_sketchSum _).bind fun _ => safe_getS.bind fun _ => hend _ _ _ _ _ _ _
  · exact safe_getS.bind fun _ => hend _ _ _ _ _ _ _

theorem safe_storeMem (op : BitVec 8) (f : MForm) (elements : Bool) (drop : Bool) (xs : List (ℕ × ℕ × List (BitVec 8))) :
    Safe (storeMem op f elements drop xs) :=
  .bind safe_gateLog fun _ => .bind safe_getS fun _ => .bind (safe_writeEvents _ _ _ _) fun _ => .ite (.modS (fun _ h =>
    h)) (.pure _)

theorem safe_storeBody (op : BitVec 8) (rel : Bool) (f : MForm) : Safe (storeBody op rel f) :=
  .bind (safe_gate _ _) fun _ => .bind safe_gateLog fun _ => .opt (safe_gateRelease _) (.bind (safe_readAddr _) fun _ =>
    .bind (safe_readSrc _) fun _ => .ite (.bind (safe_lsCheck _ _ _) fun _ => .bind (safe_lsStore _ _) fun _ =>
    .pure _) (.bind (safe_windowIa _ _ _ _ _ _) fun _ => .bind (safe_storeMem _ _ _ _ _) fun _ => .pure _))

theorem safe_storeRange (op : BitVec 8) (drop : Bool) (f : MForm) : Safe (storeRange op drop f) :=
  .bind (safe_gate _ _) fun _ => .ite (.bind safe_gateLog fun _ => .bind (safe_readSrc _) fun _ => .bind (safe_readSrc _) fun _ =>
    .bind (safe_readVSrc _) fun _ => by
    split
    · exact safe_badValue _
    · exact .ite (.bind (safe_lsCheck _ _ _) fun _ => .bind (safe_lsStore _ _) fun _ =>
        .pure _) (.bind (safe_windowIa _ _ _ _ _ _) fun _ => .bind (safe_storeMem _ _ _ _ _) fun _ =>
        .pure _)) (.bind (safe_readSrc _) fun _ => .bind (safe_readSrc _) fun _ => .bind (safe_readVSrc _) fun _ => by
    split
    · exact safe_badValue _
    · exact .ite (.bind (safe_lsCheck _ _ _) fun _ => .bind (safe_lsStore _ _) fun _ =>
        .pure _) (.bind (safe_windowIa _ _ _ _ _ _) fun _ => .bind (safe_storeMem _ _ _ _ _) fun _ => .pure _))

theorem safe_storeElems (op : BitVec 8) (f : MForm) (v : BitVec 2048) (addrs : List (Option ℕ)) :
    Safe (storeElems op f v addrs) :=
  .bind (safe_storeElems_ias _ _ _ _ _) fun _ => safe_storeMem _ _ _ _ _

theorem safe_reduceMem (op : BitVec 8) (f : MForm) (xs : List (ℕ × ℕ × ℕ)) : Safe (reduceMem op f xs) :=
  .bind safe_getS fun _ => safe_writeEvents _ _ _ _

end Sys2Proof.Machine
end

section
/-! SUPPORT. The functions of the units and of the Quay die that write memory keep it in canonical form (O5). -/

namespace Sys2Proof.Machine

theorem ok_overLink {pkg : Nat} {lost f : State → State} {s : State} (h : StoreOk s.store) (hl : ∀ u,
    StoreOk u.store → StoreOk (lost u).store)
    (hf : ∀ u, StoreOk u.store → StoreOk (f u).store) : StoreOk (overLink pkg lost f s).store := by
  unfold overLink
  split
  · exact hl s h
  · split
    · next u hu => exact hf u ((safe_gateLink pkg).of_eq h hu)
    · simpa using h
    · exact h

theorem ok_engineStep {α : Type} {n : Fin 32} {fail : BitVec 8 → State → State} {m : M α} {s : State} (h : StoreOk s.store)
    (hf : ∀ c u, StoreOk u.store → StoreOk (fail c u).store) (hm : Safe m) : StoreOk (engineStep n fail m s).store := by
  unfold engineStep
  split
  · exact h
  · split
    · next hr => exact hm.of_eq h hr
    · simpa using h
    · exact ok_holdFault _ _ _ _ h
    · simpa using h
    · exact hf _ s h
    · exact h

@[simp] theorem ok_writeCompletion (e : Engine) {s : State} (h : StoreOk s.store) : StoreOk (writeCompletion e s).store := by
  unfold writeCompletion
  split
  · exact h
  · dsimp only
    split
    · next hr => simpa using (safe_ringPut _ _ _ _ _).of_eq h hr
    · exact h
    · exact ok_holdFault _ _ _ _ h
    · simpa using h
    · simpa using h
    · exact h
    · simpa using h

@[simp] theorem ok_holdRecord (e : Engine) (rec_ : BitVec 128) {s : State} (h : StoreOk s.store) :
    StoreOk (holdRecord e rec_ s).store := by
  refine ok_writeCompletion _ ?_
  split <;> simpa using h

@[simp] theorem ok_endBte (n : Fin 32) (r : BteRun) (status : Nat) (code : BitVec 8) (chunks : Nat) {s : State} (h : StoreOk s.store) :
    StoreOk (endBte n r status code chunks s).store := by
  unfold endBte
  dsimp only
  split <;> simp [h]

@[simp] theorem ok_startBte (n : Fin 32) (j : BteJob) {s : State} (h : StoreOk s.store) : StoreOk (startBte n j s).store := by
  unfold startBte
  extract_lets u v t r
  have hv : v.store = s.store := by
    unfold v u
    split <;> simp
  clear_value r
  split
  · simp [hv, h]
  · split
    · simp [hv, h]
    · dsimp only
      split <;> simp [hv, h]

@[simp] theorem ok_failBte (n : Fin 32) (code : BitVec 8) {s : State} (h : StoreOk s.store) :
    StoreOk (failBte n code s).store := by
  unfold failBte
  split
  · exact h
  · refine ok_endBte _ _ _ _ _ ?_
    split <;> simp [h]

@[simp] theorem ok_endLighter (n : Fin 32) (status : Nat) (code : BitVec 8) {s : State} (h : StoreOk s.store) :
    StoreOk (endLighter n status code s).store := by
  unfold endLighter
  dsimp only
  split
  · simp [h]
  · split <;> simp [h]

@[simp] theorem ok_endQueuedHalt (n : Fin 32) {s : State} (h : StoreOk s.store) : StoreOk (endQueuedHalt n s).store := by
  unfold endQueuedHalt
  split
  · exact h
  · dsimp only
    split
    · rw [store_modLighter]
      exact ok_holdRecord _ _ (by simpa using h)
    · exact h

@[simp] theorem ok_failLighter (n : Fin 32) (code : BitVec 8) {s : State} (h : StoreOk s.store) :
    StoreOk (failLighter n code s).store := by
  unfold failLighter
  split
  · exact h
  · refine ok_endLighter _ _ _ ?_
    split <;> simp [h]

@[simp] theorem ok_loadGraph (slot : Nat) (obj : BitVec 16) {s : State} (h : StoreOk s.store) :
    StoreOk (loadGraph slot obj s).store := by
  unfold loadGraph
  dsimp only
  split
  · simp [h]
  · split
    · next hr => exact (safe_loadBody slot obj).of_eq (by simpa using h) hr
    all_goals simp [h]

@[simp] theorem ok_writePte (die addr v : Nat) {s : State} (h : StoreOk s.store) : StoreOk (writePte die addr v s).store :=
  ok_mem (s := s) (fun hw => wf_writeCells hw _) rfl rfl h

@[simp] theorem ok_setMig (v : Bool) (die : Nat) {s : State} (a : Nat) (h : StoreOk s.store) :
    StoreOk (setMig v die s a).store := by
  unfold setMig
  dsimp only
  split
  · simp [h]
  · exact h

@[simp] theorem ok_moveFrame (from_ to_ n : Nat) {s : State} (h : StoreOk s.store) : StoreOk (moveFrame from_ to_ n s).store :=
  ok_mem (s := s) (fun hw => wf_copyCells hw _ _ _) rfl rfl h

@[simp] theorem ok_movePages (old new_ a2 b2 frame : Nat) {s : State} (h : StoreOk s.store) :
    StoreOk (movePages old new_ a2 b2 frame s).store := by
  refine ok_foldl h fun u i hu => ok_writePte _ _ _ ?_
  dsimp only
  split <;> simp [hu]

@[simp] theorem ok_finishMigration (m : Moving) {s : State} (h : StoreOk s.store) : StoreOk (finishMigration m s).store := by
  unfold finishMigration
  extract_lets off old new_ u
  have hu : StoreOk u.store := h
  split
  · extract_lets w e
    have hw : StoreOk w.store := ok_foldl hu fun _ a hv => ok_setMig false old a hv
    split
    · rw [store_regionMoved]
      exact ok_writePte _ _ _ (ok_writePte _ _ _ (ok_moveFrame _ _ _ hw))
    · rw [store_regionMoved]
      exact ok_movePages _ _ _ _ _ hw
  · exact hu

@[simp] theorem ok_beginMigration (region : Nat) (newDie : Fin 8) (frame : Nat) {s : State} (h : StoreOk s.store) :
    StoreOk (beginMigration region newDie frame s).store := by
  unfold beginMigration
  dsimp only
  split
  · exact h
  · split
    · split
      · simp only [store_dropPageRegs, store_update]
        exact ok_foldl h fun _ a hv => ok_setMig _ _ a hv
      · exact h
    · exact h

@[simp] theorem ok_abortTask (tid : Nat) (st : Option Stream) (ia : Nat) {s : State} (h : StoreOk s.store) :
    StoreOk (abortTask tid st ia s).store :=
  ok_atTask h fun _ hu => ok_abortHere _ _ _ hu

@[simp] theorem ok_abortBte (n : Fin 32) (page : Nat) {s : State} (h : StoreOk s.store) : StoreOk (abortBte n page s).store := by
  unfold abortBte
  split
  · simpa using h
  · dsimp only
    split <;> split <;> simp [h]
  · exact h

@[simp] theorem ok_failUnit (e : Engine) (code : BitVec 8) {s : State} (h : StoreOk s.store) :
    StoreOk (failUnit e code s).store := by
  unfold failUnit
  split
  · split <;> simp [h]
  · split <;> simp [h]

@[simp] theorem ok_abortEngine (page : Nat) (e : Engine) {s : State} (h : StoreOk s.store) :
    StoreOk (abortEngine page e s).store := by
  unfold abortEngine
  split
  · simp [h]
  · split <;> simp [h]

@[simp] theorem ok_abortHeld {s : State} (x : Held) (h : StoreOk s.store) : StoreOk (abortHeld s x).store := by
  unfold abortHeld
  split
  case h_6 => exact ok_atPack h fun _ hu => ok_abortEngine _ _ hu
  case h_7 =>
    refine ok_foldl h fun _ _ hu => ?_
    split <;> simp [hu]
  all_goals simp [h]

@[simp] theorem ok_abortPage (die page : Nat) {s : State} (h : StoreOk s.store) : StoreOk (abortPage die page s).store :=
  ok_foldl (by simpa using h) fun _ _ hu => ok_abortHeld _ hu

@[simp] theorem ok_restoreBte (n : Fin 32) (tid : ℕ) (old : ℕ) (r : BteRun) {s : State} (h : StoreOk s.store) :
    StoreOk (restoreBte n tid old r s).store := by
  unfold restoreBte
  dsimp only
  split <;> simp [h]

@[simp] theorem ok_completeBte (n : Fin 32) {s : State} (h : StoreOk s.store) : StoreOk (completeBte n s).store := by
  unfold completeBte
  dsimp only
  repeat' split
  all_goals simp [h]

@[simp] theorem ok_restoreProg (n : Fin 32) (tid : ℕ) (old : ℕ) (r : LRun) {s : State} (h : StoreOk s.store) :
    StoreOk (restoreProg n tid old r s).store := by
  unfold restoreProg
  dsimp only
  split <;> simp [h]

@[simp] theorem ok_regEffect (offset : ℕ) (v : BitVec 64) {s : State} (h : StoreOk s.store) :
    StoreOk (regEffect offset v s).store := by
  unfold regEffect
  dsimp only
  repeat' split
  all_goals simp [h]

@[simp] theorem ok_readBack (off : ℕ) (len : ℕ) {s : State} (h : StoreOk s.store) : StoreOk (readBack off len s).store := by
  unfold readBack
  dsimp only
  refine ok_foldl (by simp [h]) fun u x hu => ?_
  simp [hu]

@[simp] theorem ok_readBar0 (off : ℕ) (len : ℕ) {s : State} (h : StoreOk s.store) : StoreOk (readBar0 off len s).2.store := by
  unfold readBar0
  simp [h]

@[simp] theorem ok_fenceUnit (u : FenceUnit) {s : State} (h : StoreOk s.store) : StoreOk (fenceUnit u s).store := by
  unfold fenceUnit
  dsimp only
  repeat' split
  all_goals simp [h]

@[simp] theorem ok_resumeLoad (slot : ℕ) {s : State} (h : StoreOk s.store) : StoreOk (resumeLoad slot s).store := by
  unfold resumeLoad
  split <;> simp [h]

@[simp] theorem ok_haltLighter (n : Fin 32) {s : State} (h : StoreOk s.store) : StoreOk (haltLighter n s).store := by
  unfold haltLighter
  split
  · split <;> simp [h]
  · simp [h]

@[simp] theorem ok_coldReset {s : State} (h : StoreOk s.store) : StoreOk (coldReset s).store :=
  ok_mem (s := s) (fun hw => wf_filter hw _) rfl rfl h

/-- The image of a package whose memory is in canonical form. -/
theorem imageOf_ok {s : State} (h : StoreOk s.store) :
    Memory.wf (imageOf s).mem = true ∧ ∀ c ∈ (imageOf s).mem, c.1 < 2 ^ 58 := by
  obtain ⟨hw, -⟩ := memInv_iff.2 h _ List.mem_cons_self
  exact ⟨wf_filter hw _, fun c hc => of_decide_eq_true (List.mem_filter.1 hc).2⟩

@[simp] theorem ok_finishCheckpoint {s : State} (h : StoreOk s.store) : StoreOk (finishCheckpoint s).store := by
  unfold finishCheckpoint
  split
  · extract_lets u
    have hu : StoreOk u.store := ok_foldl h fun _ _ hv => by simpa using hv
    clear_value u
    refine memInv_iff.1 fun q hq => ?_
    obtain rfl | hq := List.mem_cons.1 hq
    · obtain ⟨hw, -⟩ := memInv_iff.2 hu _ List.mem_cons_self
      refine ⟨hw, fun im e => ?_⟩
      obtain rfl := Option.some.inj e
      exact imageOf_ok hu
    · exact memInv_iff.2 hu q (List.mem_cons_of_mem _ hq)
  · simpa using h

@[simp] theorem ok_quiesceTask (tid : Nat) {s : State} (h : StoreOk s.store) : StoreOk (quiesceTask tid s).store := by
  unfold quiesceTask
  split
  · split <;> simp [h]
  · exact h

@[simp] theorem ok_quiesce {s : State} (h : StoreOk s.store) : StoreOk (quiesce s).store :=
  ok_foldl h fun _ _ hu => ok_quiesceTask _ hu

theorem ok_restoreImage (seq : BitVec 32) {im : Image} {s : State} (him : s.image = some im) (h : StoreOk s.store) :
    StoreOk (restoreImage seq im s).store := by
  refine ok_mem (s := s) (fun hw => ?_) rfl rfl h
  obtain ⟨-, hi⟩ := memInv_iff.2 h _ List.mem_cons_self
  obtain ⟨hwf, hlow⟩ := hi im him
  exact wf_append hwf (wf_filter hw _) fun c hc d hd => Nat.lt_of_lt_of_le (hlow c hc) (of_decide_eq_true (List.mem_filter.1 hd).2)

@[simp] theorem ok_freezeWaiting (pkg : Nat) {s : State} (h : StoreOk s.store) : StoreOk (freezeWaiting pkg s).store := by
  refine ok_foldl h fun u q hu => ?_
  split
  · split <;> simp [hu]
  · exact hu

@[simp] theorem ok_damaskCut (pkg : Nat) {s : State} (h : StoreOk s.store) : StoreOk (damaskCut pkg s).store :=
  ok_foldl h fun _ _ hu => by simp [hu]

@[simp] theorem ok_endCircuit (id : Nat) {s : State} (h : StoreOk s.store) : StoreOk (endCircuit id s).store := by
  unfold endCircuit
  split
  · exact h
  · exact ok_freezeWaiting _ (ok_damaskCut _ (by simpa using h))

@[simp] theorem ok_failCircuit (id : Nat) {s : State} (h : StoreOk s.store) : StoreOk (failCircuit id s).store := by
  unfold failCircuit
  split
  · exact h
  · split
    · exact h
    · split <;> simp [h]

@[simp] theorem ok_afterReject (id : Nat) {s : State} (h : StoreOk s.store) : StoreOk (afterReject id s).store := by
  unfold afterReject
  split
  · split <;> simp [h]
  · exact h

@[simp] theorem ok_rejectAuth (c : Circuit) (f : FlitIn) {s : State} (h : StoreOk s.store) :
    StoreOk (rejectAuth c f s).store := by
  unfold rejectAuth
  dsimp only
  split <;> simp [h]

@[simp] theorem ok_rejectPlain (c : Circuit) (f : FlitIn) {s : State} (h : StoreOk s.store) :
    StoreOk (rejectPlain c f s).store := by
  simp [rejectPlain, h]

@[simp] theorem ok_receiveFlit (id : Nat) (f : FlitIn) (rtt : BitVec 20) {s : State} (h : StoreOk s.store) :
    StoreOk (receiveFlit id f rtt s).store := by
  unfold receiveFlit
  split
  · exact h
  · split
    · exact h
    · split
      · dsimp only
        split <;> simp [h]
      · dsimp only
        split <;> simp [h]
      · simp [h]

@[simp] theorem ok_nackCircuit (id : Nat) {s : State} (h : StoreOk s.store) : StoreOk (nackCircuit id s).store := by
  unfold nackCircuit
  split
  · exact h
  · split
    · exact h
    · dsimp only
      split
      · simp [h]
      · split <;> simp [h]

@[simp] theorem ok_setupAt (r : SetupReq) {s : State} (h : StoreOk s.store) : StoreOk (setupAt r s).store := by
  unfold setupAt
  extract_lets own u rival taken v
  have hu : StoreOk u.store := by
    unfold u
    split
    · split
      · exact h
      · split
        · simp [h]
        · exact h
    · exact h
  have hv : StoreOk v.store := by
    unfold v
    split
    · exact hu
    · exact hu
  split
  · exact h
  · split
    · exact ok_nackCircuit _ hv
    · exact hv

@[simp] theorem ok_takeQueued (e : Fin 8) {s : State} (h : StoreOk s.store) : StoreOk (takeQueued e s).store := by
  refine ok_foldl (by simpa using h) fun u r hu => ?_
  split <;> simp [hu]

@[simp] theorem ok_resumeDrift (id : Nat) {s : State} (h : StoreOk s.store) : StoreOk (resumeDrift id s).store := by
  unfold resumeDrift
  split
  · exact h
  · split
    · exact ok_takeQueued _ (by simpa using h)
    · exact h

@[simp] theorem ok_refreshRtt (id : Nat) (rtt : BitVec 20) {s : State} (h : StoreOk s.store) :
    StoreOk (refreshRtt id rtt s).store := by
  simp [refreshRtt, h]

theorem ok_hostStopped {a : HostAccess} {bad poison : State → State} {s : State} (h : StoreOk s.store) (hb : ∀ u,
    StoreOk u.store → StoreOk (bad u).store)
    (hp : ∀ u, StoreOk u.store → StoreOk (poison u).store) (e : Stop) : StoreOk (hostStopped a bad poison s e).store := by
  unfold hostStopped
  split
  · simp [h]
  · exact hb s h
  · split
    · exact hp s h
    · exact hb s h
  all_goals simp [h]

@[simp] theorem ok_hostRead (a : HostAccess) (ia len : Nat) (cache : Bool) {s : State} (h : StoreOk s.store) :
    StoreOk (hostRead a ia len cache s).store := by
  unfold hostRead
  split
  · simp [h]
  · split
    · next hr => simpa using (safe_readIa _ _ _).of_eq h hr
    · exact ok_hostStopped h (fun _ hu => by simpa using hu) (fun _ hu => by simpa using hu) _

@[simp] theorem ok_hostWrite (a : HostAccess) (ia : Nat) (data : List (BitVec 8)) {s : State} (h : StoreOk s.store) :
    StoreOk (hostWrite a ia data s).store := by
  unfold hostWrite
  split
  · exact h
  · split
    · next hr => exact (safe_writeIa _ _ _).of_eq h hr
    · exact ok_hostStopped h (fun _ hu => by simpa using hu) (fun _ hu => by simpa using hu) _

@[simp] theorem ok_hostDoes (a : HostAccess) {s : State} (h : StoreOk s.store) : StoreOk (hostDoes a s).store := by
  unfold hostDoes
  split
  · simp [h]
  · split <;> simp [h]
  · split <;> simp [h]
  · split
    · simp [h]
    · split <;> simp [h]
  · split
    · exact h
    · split <;> simp [h]

theorem ok_withFront {tid : Nat} {f : State → State} {s : State} (h : StoreOk s.store) (hf : ∀ u,
    StoreOk u.store → StoreOk (f u).store) :
    StoreOk (withFront tid f s).store := by
  unfold withFront
  split
  · exact hf s h
  · split
    · exact h
    · dsimp only
      split
      · simp only [store_update]
        exact hf _ h
      · simp only [store_update]
        exact hf _ h

theorem ok_asTask {tid : Nat} {st : Stream} {f : State → State} {s : State} (h : StoreOk s.store) (hf : ∀ u,
    StoreOk u.store → StoreOk (f u).store) :
    StoreOk (asTask tid st f s).store :=
  ok_atTask h fun _ hu => ok_withFront hu fun v hv => by
    have hw := hf { v with cur := st } hv
    simpa using hw

@[simp] theorem ok_poisonReader (by_ : Requester) (ia : Nat) {s : State} (h : StoreOk s.store) :
    StoreOk (poisonReader by_ ia s).store := by
  unfold poisonReader
  split
  · exact ok_asTask h fun _ hu => ok_takeTrap _ _ _ _ hu
  all_goals simp [h]

@[simp] theorem ok_powerTo (target : PowerState) {s : State} (h : StoreOk s.store) : StoreOk (powerTo target s).store := by
  unfold powerTo
  split
  · have hu := ok_coldReset h
    simpa using hu
  all_goals split <;> simp [h]

@[simp] theorem ok_arrivalTrap (p : PendingArrival) (code : BitVec 8) (info : BitVec 32) (addr : BitVec 64) {s : State} (h : StoreOk s.store) :
    StoreOk (arrivalTrap p code info addr s).store := ok_takeTrapAt _ _ _ _ _ h

@[simp] theorem ok_finishArrival (p : PendingArrival) {s : State} (h : StoreOk s.store) : StoreOk (finishArrival p s).store := by
  unfold finishArrival
  split
  · next hr => exact (safe_arriveHead p).of_eq h hr
  · split
    · dsimp only
      cases p.group with
      | none => exact h
      | some ia => exact ok_removeMember _ _ h
    · exact ok_arrivalTrap _ _ _ _ h
  all_goals simp [h]

@[simp] theorem ok_joinColl (group : Nat) (idx : BitVec 16) (m : DMember) {s : State} (h : StoreOk s.store) :
    StoreOk (joinColl group idx m s).store :=
  ok_atPack h fun _ hu => by simp [hu]

@[simp] theorem ok_sendStart (tid : Nat) {s : State} (h : StoreOk s.store) : StoreOk (sendStart tid s).store := by
  unfold sendStart
  split
  · exact ok_overLink h (fun _ hu => by simp [hu]) fun _ hu => by simp [hu]
  · exact h

@[simp] theorem ok_wantCircuit (c : DColl) {s : State} (h : StoreOk s.store) : StoreOk (wantCircuit c s).store := by
  unfold wantCircuit
  split
  · exact ok_atPack h fun _ hu => by simp [hu]
  · exact h

@[simp] theorem ok_flitArrives (id : Nat) {s : State} (h : StoreOk s.store) : StoreOk (flitArrives id s).store := by
  unfold flitArrives
  split
  · exact h
  · split
    · exact h
    · split
      · exact h
      · split
        · refine ok_atPack (by simpa using h) fun _ hu => ?_
          split <;> simp [hu]
        · simp [h]

@[simp] theorem ok_serveDemand {s : State} (h : StoreOk s.store) : StoreOk (serveDemand s).store := by
  unfold serveDemand
  split
  · exact h
  · split
    · simp [h]
    · split
      · dsimp only
        split <;> simp [h]
      · simp [h]

@[simp] theorem ok_retryHost {s : State} (h : StoreOk s.store) : StoreOk (retryHost s).store := by
  unfold retryHost
  split <;> simp [h]

end Sys2Proof.Machine
end

section
/-! SUPPORT. Every word and every event keeps memory in canonical form (O5). -/

namespace Sys2Proof.Machine

/-- An outcome whose next state, if it has one, has every memory in canonical form. -/
def NextOk (o : Host.Outcome State Fault Refusal) : Prop := ∀ t, o = .next t → StoreOk t.store

/-- A happening that keeps every memory in canonical form. -/
def Happens (h : Happening) : Prop := ∀ s, StoreOk s.store → NextOk (h s)

theorem NextOk.next {t : State} (h : StoreOk t.store) : NextOk (.next t) := fun u e => by
  cases e
  exact h

theorem NextOk.fault {f : Fault} : NextOk (.fault f) := fun _ e => nomatch e
theorem NextOk.refused {r : Refusal} : NextOk (.refused r) := fun _ e => nomatch e

theorem NextOk.ite {c : Prop} [Decidable c] {a b : Host.Outcome State Fault Refusal} (ha : NextOk a) (hb : NextOk b) :
    NextOk (if c then a else b) := by
  split
  · exact ha
  · exact hb

@[simp] theorem ok_modStrm {g : Strm → Strm} {s : State} (h : StoreOk s.store) : StoreOk (modStrm g s).store := h

/-- What becomes of a word's effect (R157, R422). -/
theorem NextOk.finishFlow {op : BitVec 8} {s : State} {r : Except Stop (Flow × State)} (hs : StoreOk s.store) (hr : SafeAt r) :
    NextOk (finishFlow op s r) :=
  fun _ => finishFlow_keeps (P := fun s => StoreOk s.store) hs hr (fun _ h => by simpa using h) (fun _ _ h => by simpa using h)
    (fun _ _ h => by simpa using h) (fun _ _ _ _ _ h => ok_takeTrap _ _ _ _ h) (fun _ _ _ _ _ h => ok_freezeTask _ _ _ _ h)
    (fun _ h => by simpa using h) (fun _ _ h => h) (fun _ _ _ _ _ h => ok_holdCurrent _ _ _ _ _ h) (fun _ _ h => by simpa using h)
    (fun _ _ h => by simpa using h)

theorem NextOk.issue {op : BitVec 8} {p : Pred} {check : State → Option (BitVec 32)} {body : M Flow} {s : State} (hb : Safe body)
    (h : StoreOk s.store) : NextOk (issue op p check body s) := by
  unfold Machine.issue
  split
  · exact .next (ok_takeTrap _ _ _ _ h)
  · split
    · exact .next (ok_takeTrap _ _ _ _ h)
    · exact .ite (.finishFlow h (hb _ h)) (.next (by simpa using h))

theorem NextOk.occur {f : State → State} {s : State} (h : StoreOk (f s).store) : NextOk (occur f s) := .next h

/-- What becomes of an event's effect. -/
theorem NextOk.event {m : M Unit} {s : State} (hm : Safe m) (h : StoreOk s.store) : NextOk (finishEvent s (m s)) := by
  unfold finishEvent
  split
  · next hr => exact .next (hm.of_eq h hr)
  · exact .next (ok_holdFault _ _ _ _ h)
  · exact .next (by simpa using h)
  · exact .next (by simpa using h)
  · exact .fault
  · exact .refused
  · exact .next h

/-- A command of a Lighter's program (R327). -/
theorem NextOk.light {n : Fin 32} {c : LCmd} {body : LRun → M Unit} {s : State} (hb : ∀ r, Safe (body r)) (h : StoreOk s.store) :
    NextOk (lightStep n c body s) := by
  refine .occur ?_
  split
  · exact h
  · exact ok_engineStep h (fun _ _ hu => ok_failLighter _ _ hu) ((safe_fetchCmd _ _).bind fun _ => .ite (hb _) (.pure _))

theorem happens_execNop (f : RSys) : Happens (execNop f) := fun _ h =>
  .issue (.pure _) h

theorem happens_execLi (f : IForm) : Happens (execLi f) := fun _ h =>
  .issue (.bind (safe_gate _ _) fun _ => .bind (safe_writeDst _ _) fun _ => .pure _) h

theorem happens_execMov (f : RAlu) : Happens (execMov f) := fun _ h =>
  .issue (.bind safe_getS fun _ => .ite (.bind (safe_gate _ _) fun _ => .bind (safe_readVSrc _) fun _ =>
    .bind (safe_writeVDst _ _) fun _ => .pure _) (by
      split
      · exact .bind (safe_gate _ _) fun _ => .bind (safe_writeEvent _ _) fun _ => .bind (.modS (fun _ h => h)) fun _ => .pure _
      · exact .bind (safe_gate _ _) fun _ => .bind (safe_readSrc _) fun _ => .bind (safe_writeDst _ _) fun _ => .pure _
      · exact .bind (safe_gate _ _) fun _ => .bind (safe_readSrc _) fun _ => .bind (safe_writeDst _ _) fun _ => .pure _)) h

theorem happens_intOp2 (op : BitVec 8) (sat : Bool) (f : RAlu) (g : ℤ → ℤ → ℤ) : Happens (intOp2 op sat f g) := fun _ h =>
  .issue (safe_intBody2 _ _) h

theorem happens_execAdd (f : RAlu) : Happens (execAdd f) := happens_intOp2 _ _ _ _

theorem happens_execAddi (f : IForm) : Happens (execAddi f) := fun _ h =>
  .issue (.bind (safe_gate _ _) fun _ => .bind (safe_readSrc _) fun _ => .bind (safe_writeDst _ _) fun _ => .pure _) h

theorem happens_execSub (f : RAlu) : Happens (execSub f) := happens_intOp2 _ _ _ _
theorem happens_execMul (f : RAlu) : Happens (execMul f) := happens_intOp2 _ _ _ _

theorem happens_execMulh (f : RAlu) : Happens (execMulh f) := fun _ =>
  happens_intOp2 _ _ _ _ _

theorem happens_execDiv (f : RAlu) : Happens (execDiv f) := fun _ h =>
  .issue (safe_intBody2 _ _) h

theorem happens_execRem (f : RAlu) : Happens (execRem f) := fun _ h =>
  .issue (safe_intBody2 _ _) h

theorem happens_bitOp2 (op : BitVec 8) (f : RAlu) (g : BitVec 64 → BitVec 64 → BitVec 64) : Happens (bitOp2 op f g) := fun _ h =>
  .issue (safe_intBody2 _ _) h

theorem happens_execAnd (f : RAlu) : Happens (execAnd f) := happens_bitOp2 _ _ _
theorem happens_execOr (f : RAlu) : Happens (execOr f) := happens_bitOp2 _ _ _
theorem happens_execXor (f : RAlu) : Happens (execXor f) := happens_bitOp2 _ _ _
theorem happens_execAndn (f : RAlu) : Happens (execAndn f) := happens_bitOp2 _ _ _

theorem happens_shiftOp (op : BitVec 8) (f : RAlu) (g : BitVec 64 → ℕ → ℤ) : Happens (shiftOp op f g) := fun _ h =>
  .issue (safe_intBody2 _ _) h

theorem happens_execShl (f : RAlu) : Happens (execShl f) := fun _ =>
  happens_shiftOp _ _ _ _

theorem happens_execShr (f : RAlu) : Happens (execShr f) := fun _ =>
  happens_shiftOp _ _ _ _

theorem happens_execSar (f : RAlu) : Happens (execSar f) := fun _ =>
  happens_shiftOp _ _ _ _

theorem happens_execRot (f : RAlu) : Happens (execRot f) := fun _ =>
  happens_shiftOp _ _ _ _

theorem happens_intOp1 (op : BitVec 8) (f : RAlu) (g : BitVec 64 → ℤ) : Happens (intOp1 op f g) := fun _ h =>
  .issue (.bind (safe_gate _ _) fun _ => .bind (safe_readSrc _) fun _ => .bind (safe_writeDst _ _) fun _ => .pure _) h

theorem happens_execClz (f : RAlu) : Happens (execClz f) := happens_intOp1 _ _ _
theorem happens_execPopc (f : RAlu) : Happens (execPopc f) := happens_intOp1 _ _ _
theorem happens_execBext (f : RAlu) : Happens (execBext f) := happens_bitOp2 _ _ _
theorem happens_execBdep (f : RAlu) : Happens (execBdep f) := happens_bitOp2 _ _ _

theorem happens_execMin (f : RAlu) : Happens (execMin f) := fun _ =>
  happens_intOp2 _ _ _ _ _

theorem happens_execMax (f : RAlu) : Happens (execMax f) := fun _ =>
  happens_intOp2 _ _ _ _ _

theorem happens_execMadd (f : RAlu) : Happens (execMadd f) := fun _ h =>
  .issue (.bind (safe_gate _ _) fun _ => .bind (safe_readSrc _) fun _ => .bind (safe_readB _) fun _ =>
    .bind (safe_readSrc _) fun _ => .bind (safe_raise _) fun _ => .bind (safe_writeDst _ _) fun _ => .pure _) h

theorem happens_execCmp (f : RAlu) : Happens (execCmp f) := fun _ h =>
  .issue (.bind (safe_gate _ _) fun _ => .bind (safe_readSrc _) fun _ => .iteBind (.pure _) (safe_readB _) fun _ =>
    .bind (safe_writeDst _ _) fun _ => .pure _) h

theorem happens_execSel (f : RAlu) : Happens (execSel f) := fun _ h =>
  .issue (.bind (safe_gate _ _) fun _ => .bind (safe_readSrc _) fun _ => .iteBind (.pure _) (safe_readB _) fun _ =>
    .bind (safe_readSrc _) fun _ => .bind (safe_writeDst _ _) fun _ => .pure _) h

theorem happens_execFop (f : RAlu) : Happens (execFop f) := fun _ h =>
  .issue (.bind (safe_gate _ _) fun _ => .bind safe_getS fun _ => .bind (safe_readSrc _) fun _ =>
    .iteBind (safe_readFB _) (.pure _) fun _ => .iteBind (safe_readSrc _) (.pure _) fun _ => .bind (safe_advanceSeed _) fun _ =>
    .bind (safe_raise _) fun _ => .bind (safe_writeDst _ _) fun _ => .pure _) h

theorem happens_execFcvt (f : RAlu) : Happens (execFcvt f) := fun _ h =>
  .issue (.bind (safe_gate _ _) fun _ => .bind safe_getS fun _ => .bind (safe_readSrc _) fun _ =>
    .bind (safe_advanceSeed _) fun _ => .bind (safe_raise _) fun _ => .bind (safe_writeDst _ _) fun _ => .pure _) h

theorem happens_execFcmp (f : RAlu) : Happens (execFcmp f) := fun _ h =>
  .issue (.bind (safe_gate _ _) fun _ => .bind (safe_readSrc _) fun _ => .bind (safe_readFB _) fun _ =>
    .bind (safe_raise _) fun _ => .bind (safe_writeDst _ _) fun _ => .pure _) h

theorem happens_execPlog (f : RAlu) : Happens (execPlog f) := fun _ h =>
  .issue (.bind (safe_readSrc _) fun _ => .bind (safe_readSrc _) fun _ => .bind (safe_writeDst _ _) fun _ => .pure _) h

theorem happens_execBr (f : BForm) : Happens (execBr f) := fun _ h =>
  .issue (.bind safe_getS fun _ => .pure _) h

theorem happens_execBrc (f : BForm) : Happens (execBrc f) := fun _ h =>
  .issue (.bind (safe_gate _ _) fun _ => .bind safe_getS fun _ => .bind (safe_readSrc _) fun _ => .ite (.bind (.pure _) fun _ =>
    .pure _) (.bind (safe_readSrc _) fun _ => .pure _)) h

theorem happens_execCall (f : BForm) : Happens (execCall f) := fun _ h =>
  .issue (.bind safe_getS fun _ => .bind (safe_writeDst _ _) fun _ => .pure _) h

theorem happens_execRet (f : RSys) : Happens (execRet f) := fun _ h =>
  .issue (.bind (safe_gate _ _) fun _ => .bind (safe_readSrc _) fun _ => .pure _) h

theorem happens_execLoop (f : BForm) : Happens (execLoop f) := fun _ h =>
  .issue (.bind safe_getS fun _ => .bind (safe_readSrc _) fun _ => .bind (safe_writeDst _ _) fun _ => .pure _) h

theorem happens_execQtry (f : RSys) : Happens (execQtry f) := fun _ h =>
  .issue (safe_qpop _ _) h

theorem happens_execQtryPush (f : RSys) : Happens (execQtryPush f) := fun _ h =>
  .issue (.bind safe_getS fun _ => .ite (.bind (by
      split
      · exact safe_writeVDst _ _
      · exact .bind (safe_readSrc _) fun _ => safe_writeDst _ _) fun _ => .bind (safe_writeDst _ _) fun _ =>
          .pure _) (.bind (safe_writeDst _ _) fun _ => .pure _)) h

theorem happens_execQcnt (f : RSys) : Happens (execQcnt f) := fun _ h =>
  .issue (.bind safe_getS fun _ => by
    split
    · exact .bind (safe_block _) fun _ => .bind (safe_writeDst _ _) fun _ => .pure _
    · exact .bind (safe_writeDst _ _) fun _ => .pure _) h

theorem happens_execQpeek (f : RSys) : Happens (execQpeek f) := fun _ h =>
  .issue (safe_qpop _ _) h

theorem happens_execSwait (f : EForm) : Happens (execSwait f) := fun _ h =>
  .issue (.bind safe_getS fun _ => .ite (.bind (.modS (fun _ h => h)) fun _ => safe_ownSignal _ _) (.bind (safe_gate _ _) fun _ =>
    .bind (safe_semAmount _ _) fun _ => .bind (safe_gateWait _) fun _ => .ite (.pure _) (.bind (.modS (fun _ h => h)) fun _ =>
    .pure _))) h

theorem happens_execStry (f : EForm) : Happens (execStry f) := fun _ h =>
  .issue (.bind (safe_gate _ _) fun _ => .bind (safe_semAmount _ _) fun _ => .bind safe_getS fun _ =>
    .ite (.bind (.modS (fun _ h => h)) fun _ => .bind (safe_writeDst _ _) fun _ => .pure _) (.bind (safe_writeDst _ _) fun _ =>
    .pure _)) h

theorem happens_execFence (f : RSys) : Happens (execFence f) := fun _ h =>
  .issue (.bind safe_getS fun _ => .iteBind (.pure _) (safe_awaitWrites _ _) fun _ =>
    .ite (.pure _) (.ite (.pure _) (.ite (.bind (.modS (fun _ h => by simpa using h)) fun _ => .pure _) (.pure _)))) h

theorem happens_execCtlr (f : RSys) : Happens (execCtlr f) := fun _ h =>
  .issue (.bind (safe_gate _ _) fun _ => .bind safe_getS fun _ => .bind (safe_writeDst _ _) fun _ => .pure _) h

theorem happens_execTrap (f : IForm) : Happens (execTrap f) := fun _ h =>
  .issue (safe_trap _ _) h

theorem happens_execBkpt (f : IForm) : Happens (execBkpt f) := fun _ h =>
  .issue (.bind safe_getS fun _ => .pure _) h

theorem happens_execStop (f : RSys) : Happens (execStop f) := fun _ h =>
  .issue (.pure _) h

theorem happens_execGstart (f : EForm) : Happens (execGstart f) := fun _ h =>
  .issue (.bind (safe_gate _ _) fun _ => .bind (safe_gateWait _) fun _ => .bind (safe_useGraph _) fun _ =>
    .bind (safe_readSrc _) fun _ => .bind (safe_ensureValue _ _) fun _ => .getS fun _ h => .bind (.modS (fun _ _ =>
    by simp [h])) fun _ => .bind (safe_writeDst _ _) fun _ => .pure _) h

theorem happens_execGpatch (f : RSys) : Happens (execGpatch f) := fun _ h =>
  .issue (.bind (safe_gate _ _) fun _ => .bind (safe_useGraph _) fun _ => .bind (safe_readSrc _) fun _ =>
    .bind (safe_readSrc _) fun _ => .bind (safe_readSrc _) fun _ => .bind safe_getS fun _ => .bind (safe_ensureValue _ _) fun _ =>
    .bind (safe_ensureValue _ _) fun _ => .bind (safe_ensureValue _ _) fun _ => .bind (safe_lsCheck _ _ _) fun _ =>
    .ite (.bind (safe_writeDst _ _) fun _ => .pure _) (.bind (safe_lsLoad _ _) fun _ => .bind (safe_writeIa _ _ _) fun _ =>
    .bind (safe_writeDst _ _) fun _ => .pure _)) h

theorem happens_execGquery (f : RSys) : Happens (execGquery f) := fun _ h =>
  .issue (.bind (safe_gate _ _) fun _ => .bind (safe_useGraph _) fun _ => .bind safe_getS fun _ =>
    .bind (safe_writeDst _ _) fun _ => .pure _) h

theorem happens_execGjoin (f : RSys) : Happens (execGjoin f) := fun _ h =>
  .issue (.bind (safe_gate _ _) fun _ => .getS fun _ h => .opt (safe_block _) (.bind (safe_gateReserve _) fun _ =>
    .bind (safe_groupVa _ _) fun _ => .getS fun _ h => .bind (.modS (fun _ _ => by simp [h])) fun _ =>
    .bind (safe_writeDst _ _) fun _ => .pure _)) h

theorem happens_execGleave (f : RSys) : Happens (execGleave f) := fun _ h =>
  .issue (.bind (safe_gate _ _) fun _ => .bind safe_getS fun _ => .ite (.bind (safe_block _) fun _ =>
    .bind (safe_gateReserve _) fun _ => .bind (safe_groupVa _ _) fun _ => .bind safe_getS fun _ =>
    .ite (.bind (safe_block _) fun _ => .ite (.bind (.modS (fun _ h => by simpa using h)) fun _ =>
    .bind (safe_writeDst _ _) fun _ => .pure _) (.bind (safe_writeDst _ _) fun _ => .pure _)) (.ite (.bind (.modS (fun _ h =>
    by simpa using h)) fun _ => .bind (safe_writeDst _ _) fun _ => .pure _) (.bind (safe_writeDst _ _) fun _ =>
    .pure _))) (.bind (safe_gateReserve _) fun _ => .bind (safe_groupVa _ _) fun _ => .bind safe_getS fun _ =>
    .ite (.bind (safe_block _) fun _ => .ite (.bind (.modS (fun _ h => by simpa using h)) fun _ =>
    .bind (safe_writeDst _ _) fun _ => .pure _) (.bind (safe_writeDst _ _) fun _ => .pure _)) (.ite (.bind (.modS (fun _ h =>
    by simpa using h)) fun _ => .bind (safe_writeDst _ _) fun _ => .pure _) (.bind (safe_writeDst _ _) fun _ => .pure _)))) h

theorem happens_execGmemb (f : RSys) : Happens (execGmemb f) := fun _ h =>
  .issue (.bind (safe_gate _ _) fun _ => .bind (safe_groupVa _ _) fun _ => .bind safe_getS fun _ =>
    .bind (safe_writeDst _ _) fun _ => .pure _) h

theorem happens_execGbar (f : EForm) : Happens (execGbar f) := fun _ h =>
  .issue (safe_collIssue _ _) h

theorem happens_execGred (f : EForm) : Happens (execGred f) := fun _ h =>
  .issue (safe_collIssue _ _) h

theorem happens_execGbcast (f : EForm) : Happens (execGbcast f) := fun _ h =>
  .issue (safe_collIssue _ _) h

theorem happens_execTspawn (f : RSys) : Happens (execTspawn f) := fun _ h =>
  .issue (.bind (safe_gate _ _) fun _ => .bind (safe_readSrc _) fun _ => .bind (safe_readSrc _) fun _ => .getS fun _ h =>
    .bind (safe_ensureValue _ _) fun _ => .bind (.modS (fun _ _ => by
    repeat' split
    all_goals simp [h])) fun _ => .bind (safe_writeDst _ _) fun _ => .pure _) h

theorem happens_execRenq (f : EForm) : Happens (execRenq f) := by
  intro s h
  unfold execRenq
  dsimp only
  exact .issue (.bind (safe_gate _ _) fun _ => .bind (safe_gateWait _) fun _ => .bind safe_getS fun _ =>
    .ite (.bind (safe_block _) fun _ => .ite (.bind (safe_block _) fun _ => .bind (safe_readSrc _) fun _ =>
    .bind (safe_readSrc _) fun _ => .bind (safe_ensureValue _ _) fun _ => .bind (safe_ensureValue _ _) fun _ =>
    .bind (safe_blockHeader _) fun _ => .bind (safe_ensure _ _ _) fun _ => .bind (safe_objectIa _ _ _ _ _) fun _ =>
    .bind (safe_lsCheck _ _ _) fun _ => .bind safe_getS fun _ => by
    split
    · exact safe_trap _ _
    · exact .ite (.bind (safe_block _) fun _ => .bind (safe_lsClean _ _) fun _ => .bind (safe_sendFromC _) fun _ =>
        .bind (.modS (fun _ h => h)) fun _ => .pure _) (.bind (safe_lsClean _ _) fun _ => .bind (safe_sendFromC _) fun _ =>
        .bind (.modS (fun _ h => h)) fun _ => .pure _)) (.bind (safe_readSrc _) fun _ => .bind (safe_readSrc _) fun _ =>
        .bind (safe_ensureValue _ _) fun _ => .bind (safe_ensureValue _ _) fun _ => .bind (safe_blockHeader _) fun _ =>
        .bind (safe_ensure _ _ _) fun _ => .bind (safe_objectIa _ _ _ _ _) fun _ => .bind (safe_lsCheck _ _ _) fun _ =>
        .bind safe_getS fun _ => by
    split
    · exact safe_trap _ _
    · exact .ite (.bind (safe_block _) fun _ => .bind (safe_lsClean _ _) fun _ => .bind (safe_sendFromC _) fun _ =>
        .bind (.modS (fun _ h => h)) fun _ => .pure _) (.bind (safe_lsClean _ _) fun _ => .bind (safe_sendFromC _) fun _ =>
        .bind (.modS (fun _ h => h)) fun _ => .pure _))) (.ite (.bind (safe_block _) fun _ => .bind (safe_readSrc _) fun _ =>
        .bind (safe_readSrc _) fun _ => .bind (safe_ensureValue _ _) fun _ => .bind (safe_ensureValue _ _) fun _ =>
        .bind (safe_blockHeader _) fun _ => .bind (safe_ensure _ _ _) fun _ => .bind (safe_objectIa _ _ _ _ _) fun _ =>
        .bind (safe_lsCheck _ _ _) fun _ => .bind safe_getS fun _ => by
    split
    · exact safe_trap _ _
    · exact .ite (.bind (safe_block _) fun _ => .bind (safe_lsClean _ _) fun _ => .bind (safe_sendFromC _) fun _ =>
        .bind (.modS (fun _ h => h)) fun _ => .pure _) (.bind (safe_lsClean _ _) fun _ => .bind (safe_sendFromC _) fun _ =>
        .bind (.modS (fun _ h => h)) fun _ => .pure _)) (.bind (safe_readSrc _) fun _ => .bind (safe_readSrc _) fun _ =>
        .bind (safe_ensureValue _ _) fun _ => .bind (safe_ensureValue _ _) fun _ => .bind (safe_blockHeader _) fun _ =>
        .bind (safe_ensure _ _ _) fun _ => .bind (safe_objectIa _ _ _ _ _) fun _ => .bind (safe_lsCheck _ _ _) fun _ =>
        .bind safe_getS fun _ => by
    split
    · exact safe_trap _ _
    · exact .ite (.bind (safe_block _) fun _ => .bind (safe_lsClean _ _) fun _ => .bind (safe_sendFromC _) fun _ =>
        .bind (.modS (fun _ h => h)) fun _ => .pure _) (.bind (safe_lsClean _ _) fun _ => .bind (safe_sendFromC _) fun _ =>
        .bind (.modS (fun _ h => h)) fun _ => .pure _)))) h

theorem happens_execRsig (f : EForm) : Happens (execRsig f) := fun _ h =>
  .issue (.bind (safe_gate _ _) fun _ => .bind (safe_gateWait _) fun _ => .bind (safe_groupVa _ _) fun _ =>
    .bind (safe_readSrc _) fun _ => .bind safe_getS fun _ => .opt (safe_block _) (.bind (safe_sendFromC _) fun _ => .pure _)) h

theorem happens_execBind (f : RSys) : Happens (execBind f) := fun _ h =>
  .issue (.bind (safe_gate _ _) fun _ => .bind (safe_readSrc _) fun _ => .bind (safe_readSrc _) fun _ =>
    .bind (safe_readSrc _) fun _ => .bind (safe_objectIa _ _ _ _ _) fun _ => .bind (safe_regionIa _ _ _) fun _ =>
    .bind safe_getS fun _ => .opt (safe_guardMisuse _) (.opt (safe_guardMisuse _) (.opt (safe_guardMisuse _) (.bind
    (.modS (fun _ h => h)) fun _ => .pure _)))) h

theorem happens_execUnbind (f : RSys) : Happens (execUnbind f) := fun _ h =>
  .issue (.bind (safe_gate _ _) fun _ => .bind (safe_readSrc _) fun _ => .bind safe_getS fun _ => by
    split
    · exact safe_guardMisuse _
    · exact .ite (.bind (safe_guardMisuse _) fun _ => .bind (.modS (fun _ h => h)) fun _ => .pure _) (.bind (.modS (fun _ h =>
        h)) fun _ => .pure _)) h

theorem happens_execRel (f : RSys) : Happens (execRel f) := fun _ h =>
  .issue (.bind (safe_heldSources _) fun _ => .bind safe_getS fun _ => .bind (safe_objectIa _ _ _ _ _) fun _ =>
    .opt (safe_guardMisuse _) (.bind (safe_awaitWrites _ _) fun _ => .ite (.pure _) (.bind (safe_writeBackLines _ _) fun _ =>
    .bind (.modS (fun _ h => h)) fun _ => .bind safe_getS fun _ => .bind (safe_awaitWrites _ _) fun _ =>
    .ite (.pure _) (.bind (safe_applyRelease _ _) fun _ => .pure _)))) h

theorem happens_execXpbgo (f : EForm) : Happens (execXpbgo f) := fun _ h =>
  .issue (.bind safe_gateLog fun _ => .bind safe_gateJob fun _ => .bind (safe_useXpb _) fun _ => .bind safe_getS fun _ =>
    .ite (.bind (safe_block _) fun _ => by
    split
    · exact safe_trap _ _
    · exact .bind (safe_ensure _ _ _) fun _ => .bind (safe_ensure _ _ _) fun _ => .bind (safe_lsCheck _ _ _) fun _ =>
        .ite (.bind (safe_ensure _ _ _) fun _ => .bind (safe_ensure _ _ _) fun _ => .bind (safe_sendFromC _) fun _ =>
        .bind (.modS (fun _ h => h)) fun _ => .pure _) (.bind (safe_lsCheck _ _ _) fun _ => .bind (safe_sendFromC _) fun _ =>
        .bind (.modS (fun _ h => h)) fun _ => .pure _)) (by
      split
      · exact safe_trap _ _
      · exact .bind (safe_ensure _ _ _) fun _ => .bind (safe_ensure _ _ _) fun _ => .bind (safe_lsCheck _ _ _) fun _ =>
          .ite (.bind (safe_ensure _ _ _) fun _ => .bind (safe_ensure _ _ _) fun _ => .bind (safe_sendFromC _) fun _ =>
          .bind (.modS (fun _ h => h)) fun _ => .pure _) (.bind (safe_lsCheck _ _ _) fun _ => .bind (safe_sendFromC _) fun _ =>
          .bind (.modS (fun _ h => h)) fun _ => .pure _))) h

theorem happens_execFmtend (f : RSys) : Happens (execFmtend f) := fun _ h =>
  .issue (.bind (.modS (fun _ h => h)) fun _ => .pure _) h

theorem happens_execSleep (f : RSys) : Happens (execSleep f) := by
  intro s h
  unfold execSleep
  dsimp only
  exact .issue (.getS fun _ h => .bind (safe_gate _ _) fun _ => .bind (safe_readSrc _) fun _ => .bind (safe_readSrc _) fun _ =>
    .ite (.bind (.pure _) fun _ => by
    split
    · exact .bind (.modS (fun _ h => h)) fun _ => .bind (safe_writeDst _ _) fun _ => .pure _
    · exact .bind (.modS (fun _ _ => by simp [h])) fun _ => .pure _) (.bind (safe_windowIa _ _ _ _ _ _) fun _ =>
        .bind (.pure _) fun _ => by
    split
    · exact .bind (.modS (fun _ h => h)) fun _ => .bind (safe_writeDst _ _) fun _ => .pure _
    · exact .bind (.modS (fun _ _ => by simp [h])) fun _ => .pure _)) h

theorem happens_execTickwait (f : RSys) : Happens (execTickwait f) := fun _ h =>
  .issue (.bind (safe_heldSources _) fun _ => .bind (safe_gate _ _) fun _ => .bind safe_getS fun _ =>
    .ite (.bind (.modS (fun _ h => h)) fun _ => .bind (safe_writeDst _ _) fun _ => .pure _) (.bind (.modS (fun _ h => h)) fun _ =>
    .pure _)) h

theorem happens_execSpeedq (f : RSys) : Happens (execSpeedq f) := fun _ h =>
  .issue (.bind (safe_gate _ _) fun _ => .bind (safe_readSrc _) fun _ => .bind safe_getS fun _ =>
    .bind (safe_writeDst _ _) fun _ => .pure _) h

theorem happens_execEvmask (f : RSys) : Happens (execEvmask f) := fun _ h =>
  .issue (.bind (safe_gate _ _) fun _ => .bind (safe_readSrc _) fun _ => .bind (safe_ensureValue _ _) fun _ =>
    .bind safe_getS fun _ => .bind (.modS (fun _ h => h)) fun _ => .bind (safe_writeDst _ _) fun _ => .pure _) h

theorem happens_execNoderel (f : RSys) : Happens (execNoderel f) := fun _ h =>
  .issue (.bind safe_getS fun _ => .ite (.pure _) (.ite (safe_block _) (.bind (.modS (fun _ h => by simpa using h)) fun _ =>
    .bind (.modS (fun _ h => h)) fun _ => .pure _))) h

theorem happens_execStragq (f : RSys) : Happens (execStragq f) := fun _ h =>
  .issue (.bind (safe_gate _ _) fun _ => .bind (safe_groupVa _ _) fun _ => .bind (safe_readSrc _) fun _ =>
    .bind safe_getS fun _ => .bind (safe_writeDst _ _) fun _ => .pure _) h

theorem happens_execLd (f : MForm) : Happens (execLd f) := fun _ h =>
  .issue (.bind (safe_gate _ _) fun _ => .bind (safe_readAddr _) fun _ => .bind (safe_loadElems _ _ _ _) fun _ =>
    .bind (safe_writeDst _ _) fun _ => .pure _) h

theorem happens_execLdacq (f : MForm) : Happens (execLdacq f) := fun _ h =>
  .issue (.bind (safe_gate _ _) fun _ => .bind (safe_readAddr _) fun _ => .bind (safe_loadElems _ _ _ _) fun _ =>
    .bind (safe_writeDst _ _) fun _ => .bind (.modS (fun _ h => by simpa using h)) fun _ => .pure _) h

theorem happens_execLdv (f : MForm) : Happens (execLdv f) := fun _ h =>
  .issue (.bind (safe_gate _ _) fun _ => .bind (safe_readAddr _) fun _ => .bind (safe_loadElems _ _ _ _) fun _ =>
    .bind (safe_writeVDst _ _) fun _ => .pure _) h

theorem happens_execLdvs (f : MForm) : Happens (execLdvs f) := fun _ h =>
  .issue (.bind (safe_gate _ _) fun _ => .bind (safe_readSrc _) fun _ => .bind (safe_readSrc _) fun _ =>
    .bind (safe_loadElems _ _ _ _) fun _ => .bind (safe_writeVDst _ _) fun _ => .pure _) h

theorem happens_execGath (f : MForm) : Happens (execGath f) := fun _ h =>
  .issue (.bind (safe_gate _ _) fun _ => .bind (safe_readSrc _) fun _ => .bind (safe_readSrc _) fun _ =>
    .bind (safe_lsCheck _ _ _) fun _ => .bind (safe_lsLoad _ _) fun _ => .iteBind (safe_loadLs _ _ _) (safe_loadMem _ _ _ _ _)
    fun _ => .bind (safe_writeVDst _ _) fun _ => .pure _) h

theorem happens_execRld (f : MForm) : Happens (execRld f) := fun _ h =>
  .issue (.bind (safe_gate _ _) fun _ => .bind (safe_readAddr _) fun _ => .bind (safe_loadElems _ _ _ _) fun _ =>
    .bind safe_getS fun _ => .bind (safe_issueRld _ _ _) fun _ => .pure _) h

theorem happens_execRldv (f : MForm) : Happens (execRldv f) := fun _ h =>
  .issue (.bind (safe_gate _ _) fun _ => .bind (safe_readAddr _) fun _ => .bind (safe_loadElems _ _ _ _) fun _ =>
    .bind safe_getS fun _ => .bind (safe_issueRld _ _ _) fun _ => .pure _) h

theorem happens_execStash (f : RSys) : Happens (execStash f) := fun _ h =>
  .issue (.bind (safe_gate _ _) fun _ => .bind (safe_readSrc _) fun _ => .bind (safe_readSrc _) fun _ =>
    .bind (safe_readSrc _) fun _ => .bind safe_getS fun _ => .bind (safe_ensureValue _ _) fun _ =>
    .bind (safe_ensureValue _ _) fun _ => .bind (safe_ensureValue _ _) fun _ => by
    split
    · exact safe_badValue _
    · exact .bind (safe_windowIa _ _ _ _ _ _) fun _ => .ite (.bind (safe_stop _) fun _ => .bind (safe_stashRange _ _ _) fun _ =>
        .bind (.modS (fun _ h => h)) fun _ => .bind (safe_writeDst _ _) fun _ => .pure _) (.bind (safe_stashRange _ _ _) fun _ =>
        .bind (.modS (fun _ h => h)) fun _ => .bind (safe_writeDst _ _) fun _ => .pure _)) h

theorem happens_execUnstash (f : RSys) : Happens (execUnstash f) := fun _ h =>
  .issue (.bind (safe_heldSources _) fun _ => .bind safe_getS fun _ => .bind (safe_ensureValue _ _) fun _ => .bind (.mapM fun _ =>
    safe_writeBackLine _ _ _) fun _ => .bind (.modS (fun _ h => h)) fun _ => .bind safe_getS fun _ =>
    .bind (safe_awaitWrites _ _) fun _ => .ite (.pure _) (.bind (.modS (fun _ h => h)) fun _ => .pure _)) h

theorem happens_execDiscard (f : RSys) : Happens (execDiscard f) := fun _ h =>
  .issue (.bind (safe_gate _ _) fun _ => .bind (safe_readSrc _) fun _ => .bind (safe_readSrc _) fun _ =>
    .bind (safe_ensureValue _ _) fun _ => .bind (safe_ensureValue _ _) fun _ => .bind (safe_windowIa _ _ _ _ _ _) fun _ =>
    .bind (safe_discardRange _ _) fun _ => .bind (.modS (fun _ h => h)) fun _ => .bind (safe_writeDst _ _) fun _ => .pure _) h

theorem happens_execCpygo (f : EForm) : Happens (execCpygo f) := fun _ h =>
  .issue (safe_copyBody _ _) h

theorem happens_execCpymc (f : EForm) : Happens (execCpymc f) := fun _ h =>
  .issue (safe_copyBody _ _) h

theorem happens_execLgo (f : EForm) : Happens (execLgo f) := fun _ h =>
  .issue (.bind safe_getS fun _ => .ite (.pure _) (.bind (safe_heldSources _) fun _ => .bind safe_gateLog fun _ =>
    .bind safe_gateJob fun _ => .bind (safe_useObj _ _ _ _) fun _ => .bind (safe_ensureValue _ _) fun _ =>
    .bind (safe_gateStart _) fun _ => .bind (.modS (fun _ h => by simpa using h)) fun _ => .bind safe_getS fun _ => .pure _)) h

theorem happens_execRingset (f : RSys) : Happens (execRingset f) := fun _ h =>
  .issue (.bind (safe_gate _ _) fun _ => .bind (safe_readSrc _) fun _ => .bind safe_getS fun _ =>
    .bind (safe_ensure _ _ _) fun _ => .bind (safe_ensure _ _ _) fun _ => .bind (.modS (fun _ h => h)) fun _ => .pure _) h

theorem happens_execRingq (f : RSys) : Happens (execRingq f) := fun _ h =>
  .issue (.bind (safe_gate _ _) fun _ => .bind safe_getS fun _ => .bind (safe_writeDst _ _) fun _ => .pure _) h

theorem happens_execWinq (f : RSys) : Happens (execWinq f) := fun _ h =>
  .issue (.bind (safe_gate _ _) fun _ => .bind safe_getS fun _ => .bind (safe_writeDst _ _) fun _ => .pure _) h

theorem happens_execPlhint (f : RSys) : Happens (execPlhint f) := fun _ h =>
  .issue (.bind (safe_gate _ _) fun _ => .bind (safe_readSrc _) fun _ => .bind (safe_readSrc _) fun _ =>
    .bind (safe_readSrc _) fun _ => .pure _) h

theorem happens_execPgstate (f : RSys) : Happens (execPgstate f) := fun _ h =>
  .issue (.bind (safe_gate _ _) fun _ => .bind (safe_readSrc _) fun _ => .bind (safe_windowIa _ _ _ _ _ _) fun _ =>
    .bind safe_getS fun _ => .bind (safe_writeDst _ _) fun _ => .pure _) h

theorem happens_execBchk (f : EForm) : Happens (execBchk f) := fun _ h =>
  .issue (.bind (safe_gate _ _) fun _ => .bind (safe_useObj _ _ _ _) fun _ => .bind safe_getS fun _ =>
    .bind (safe_ensure _ _ _) fun _ => .bind (safe_readSrc _) fun _ => .bind (safe_lsCheck _ _ _) fun _ =>
    .bind (safe_lsLoad _ _) fun _ => .bind (safe_writeDst _ _) fun _ => .pure _) h

theorem happens_execXlatq (f : RSys) : Happens (execXlatq f) := fun _ h =>
  .issue (.bind (safe_gate _ _) fun _ => .bind (safe_readSrc _) fun _ => .bind safe_getS fun _ =>
    .bind (safe_writeDst _ _) fun _ => .pure _) h

theorem happens_execLstat (f : RSys) : Happens (execLstat f) := fun _ h =>
  .issue (.bind (safe_gate _ _) fun _ => .bind (safe_readSrc _) fun _ => .bind safe_getS fun _ =>
    .bind (safe_writeDst _ _) fun _ => .pure _) h

theorem happens_execVadd (f : VForm) : Happens (execVadd f) := fun _ h =>
  .issue (safe_laneBody _ _ _ _) h

theorem happens_execVsub (f : VForm) : Happens (execVsub f) := fun _ h =>
  .issue (safe_laneBody _ _ _ _) h

theorem happens_execVmul (f : VForm) : Happens (execVmul f) := fun _ h =>
  .issue (safe_laneBody _ _ _ _) h

theorem happens_execVfma (f : VForm) : Happens (execVfma f) := fun _ h =>
  .issue (safe_laneBody _ _ _ _) h

theorem happens_execVfms (f : VForm) : Happens (execVfms f) := fun _ h =>
  .issue (safe_laneBody _ _ _ _) h

theorem happens_execVneg (f : VForm) : Happens (execVneg f) := fun _ h =>
  .issue (safe_laneBody _ _ _ _) h

theorem happens_execVabs (f : VForm) : Happens (execVabs f) := fun _ h =>
  .issue (safe_laneBody _ _ _ _) h

theorem happens_execVmin (f : VForm) : Happens (execVmin f) := fun _ h =>
  .issue (safe_laneBody _ _ _ _) h

theorem happens_execVmax (f : VForm) : Happens (execVmax f) := fun _ h =>
  .issue (safe_laneBody _ _ _ _) h

theorem happens_execVdiv (f : VForm) : Happens (execVdiv f) := fun _ h =>
  .issue (safe_laneBody _ _ _ _) h

theorem happens_execVsqrt (f : VForm) : Happens (execVsqrt f) := fun _ h =>
  .issue (safe_laneBody _ _ _ _) h

theorem happens_execVrcp (f : VForm) : Happens (execVrcp f) := fun _ h =>
  .issue (safe_laneBody _ _ _ _) h

theorem happens_execVrsq (f : VForm) : Happens (execVrsq f) := fun _ h =>
  .issue (safe_laneBody _ _ _ _) h

theorem happens_execVcmp (f : VForm) : Happens (execVcmp f) := by
  intro s h
  unfold execVcmp
  dsimp only
  exact .issue (.bind (safe_vGate _) fun _ => .bind safe_getS fun _ => .bind (safe_readAbc _ _ _ _) fun _ =>
    .ite (.bind (safe_raise _) fun _ => by
    split
    · exact .bind (safe_raise _) fun _ => .bind (safe_putPred _ _ _ _) fun _ => .pure _
    · exact .bind (safe_putLanes _ _ _ _) fun _ => .pure _) (by
      split
      · exact .bind (safe_raise _) fun _ => .bind (safe_putPred _ _ _ _) fun _ => .pure _
      · exact .bind (safe_putLanes _ _ _ _) fun _ => .pure _)) h

theorem happens_execVsel (f : VForm) : Happens (execVsel f) := fun _ h =>
  .issue (.bind (safe_vGate _) fun _ => .bind safe_getS fun _ => .bind (safe_readAbc _ _ _ _) fun _ => by
    split
    · exact .bind (.pure _) fun _ => .bind (safe_putLanes _ _ _ _) fun _ => .pure _
    · exact .bind (safe_readElems _ _) fun _ => .bind (.pure _) fun _ => .bind (safe_putLanes _ _ _ _) fun _ => .pure _) h

theorem happens_execVand (f : VForm) : Happens (execVand f) := fun _ h =>
  .issue (safe_bitBody _ _ _ _) h

theorem happens_execVor (f : VForm) : Happens (execVor f) := fun _ h =>
  .issue (safe_bitBody _ _ _ _) h

theorem happens_execVxor (f : VForm) : Happens (execVxor f) := fun _ h =>
  .issue (safe_bitBody _ _ _ _) h

theorem happens_execVandn (f : VForm) : Happens (execVandn f) := fun _ h =>
  .issue (safe_bitBody _ _ _ _) h

theorem happens_execVshl (f : VForm) : Happens (execVshl f) := fun _ h =>
  .issue (safe_bitBody _ _ _ _) h

theorem happens_execVshr (f : VForm) : Happens (execVshr f) := fun _ h =>
  .issue (safe_bitBody _ _ _ _) h

theorem happens_execVsar (f : VForm) : Happens (execVsar f) := fun _ h =>
  .issue (safe_bitBody _ _ _ _) h

theorem happens_execVfshl (f : VForm) : Happens (execVfshl f) := fun _ h =>
  .issue (safe_bitBody _ _ _ _) h

theorem happens_execVfshr (f : VForm) : Happens (execVfshr f) := fun _ h =>
  .issue (safe_bitBody _ _ _ _) h

theorem happens_execVclz (f : VForm) : Happens (execVclz f) := fun _ h =>
  .issue (safe_bitBody _ _ _ _) h

theorem happens_execVpopc (f : VForm) : Happens (execVpopc f) := fun _ h =>
  .issue (safe_bitBody _ _ _ _) h

theorem happens_execVcvt (f : VForm) : Happens (execVcvt f) := fun _ h =>
  .issue (.bind (safe_vGate _) fun _ => .ite (.bind (safe_vcvtExpand _) fun _ => .pure _) (.bind (safe_readElems _ _) fun _ =>
    .iteBind (safe_readElems _ _) (.pure _) fun _ => .bind (safe_laneCtx _ _) fun _ => .ite (.bind (safe_vcvtToMx _ _ _) fun _ =>
    .pure _) (.bind (safe_placeParts _ _ _ _ _) fun _ => .pure _))) h

theorem happens_execVsrnd (f : VForm) : Happens (execVsrnd f) := fun _ h =>
  .issue (.bind (safe_vGate _) fun _ => .bind (safe_readElems _ _) fun _ => .bind (safe_laneCtx _ _) fun _ =>
    .bind (safe_putLanes _ _ _ _) fun _ => .pure _) h

theorem happens_execVperm (f : VForm) : Happens (execVperm f) := fun _ h =>
  .issue (.bind (safe_vGate _) fun _ => .bind (safe_readElems _ _) fun _ => .bind (safe_readElemsB _ _) fun _ =>
    .bind (safe_putMoved _ _ _) fun _ => .pure _) h

theorem happens_execVshuf (f : VForm) : Happens (execVshuf f) := fun _ h =>
  .issue (.bind (safe_vGate _) fun _ => .bind (safe_readElems _ _) fun _ => .iteBind (safe_readElems _ _) (.pure _) fun _ =>
    .bind (safe_putMoved _ _ _) fun _ => .pure _) h

theorem happens_execVbcast (f : VForm) : Happens (execVbcast f) := by
  intro s h
  unfold execVbcast
  exact .issue (.bind (safe_vGate _) fun _ => .ite (.bind (safe_readElems _ _) fun _ => .bind (safe_readIndex _) fun _ =>
    .bind (safe_putMoved _ _ _) fun _ => .pure _) (.bind (safe_readSrc _) fun _ => .bind (safe_putMoved _ _ _) fun _ =>
    .pure _)) h

theorem happens_execVextr (f : VForm) : Happens (execVextr f) := fun _ h =>
  .issue (.bind (safe_vGate _) fun _ => .bind (safe_readElems _ _) fun _ => .bind (safe_readIndex _) fun _ =>
    .bind (safe_writeDst _ _) fun _ => .pure _) h

theorem happens_execVins (f : VForm) : Happens (execVins f) := fun _ h =>
  .issue (.bind (safe_vGate _) fun _ => .bind safe_getS fun _ => .bind (safe_readSrc _) fun _ => .bind (safe_readIndex _) fun _ =>
    .bind (safe_writeVDst _ _) fun _ => .pure _) h

theorem happens_execVredadd (f : VForm) : Happens (execVredadd f) := fun _ h =>
  .issue (safe_reduceBody _ _) h

theorem happens_execVredmax (f : VForm) : Happens (execVredmax f) := fun _ h =>
  .issue (safe_reduceBody _ _) h

theorem happens_execVredmin (f : VForm) : Happens (execVredmin f) := fun _ h =>
  .issue (safe_reduceBody _ _) h

theorem happens_execVgmax (f : VForm) : Happens (execVgmax f) := fun _ h =>
  .issue (safe_segBody _ _) h

theorem happens_execVgsum (f : VForm) : Happens (execVgsum f) := fun _ h =>
  .issue (safe_segBody _ _) h

theorem happens_execVscan (f : VForm) : Happens (execVscan f) := fun _ h =>
  .issue (.bind (safe_vGate _) fun _ => .bind (safe_readElems _ _) fun _ => .bind (safe_laneCtx _ _) fun _ =>
    .bind (safe_putLanes _ _ _ _) fun _ => .ite (.bind (safe_raise _) fun _ => .pure _) (.pure _)) h

theorem happens_execVcomp (f : VForm) : Happens (execVcomp f) := fun _ h =>
  .issue (.bind (safe_vGate _) fun _ => .bind safe_getS fun _ => .bind (safe_readElems _ _) fun _ =>
    .bind (safe_putElems _ _ _) fun _ => .pure _) h

theorem happens_execVexpd (f : VForm) : Happens (execVexpd f) := fun _ h =>
  .issue (.bind (safe_vGate _) fun _ => .bind safe_getS fun _ => .bind (safe_readElems _ _) fun _ =>
    .bind (safe_putElems _ _ _) fun _ => .pure _) h

theorem happens_execViota (f : VForm) : Happens (execViota f) := fun _ h =>
  .issue (.bind (safe_vGate _) fun _ => .bind (safe_readSrc _) fun _ => .iteBind (.pure _) (safe_readSrc _) fun _ =>
    .bind (safe_putMoved _ _ _) fun _ => .pure _) h

theorem happens_execVmov (f : VForm) : Happens (execVmov f) := fun _ h =>
  .issue (.bind (safe_vGate _) fun _ => .bind (safe_readElems _ _) fun _ => .bind (safe_putMoved _ _ _) fun _ => .pure _) h

theorem happens_execVli (f : VForm) : Happens (execVli f) := fun _ h =>
  .issue (.bind (safe_vGate _) fun _ => .bind (safe_putMoved _ _ _) fun _ => .pure _) h

theorem happens_execVsfn (f : VForm) : Happens (execVsfn f) := fun _ h =>
  .issue (.bind (safe_vGate _) fun _ => .bind safe_getS fun _ => .ite (.bind (safe_readElems _ _) fun _ =>
    .bind (safe_putLanes _ _ _ _) fun _ => .pure _) (by
      split
      · exact .bind (safe_trap _ _) fun _ => .pure _
      · exact .bind (safe_ensure _ _ _) fun _ => .bind (safe_lsCheck _ _ _) fun _ => .bind (safe_lsClean _ _) fun _ =>
          .bind (safe_readElems _ _) fun _ => .ite (.bind (safe_putLanes _ _ _ _) fun _ =>
          .pure _) (.bind (safe_freeBytes _) fun _ => .bind (safe_putLanes _ _ _ _) fun _ => .pure _))) h

theorem happens_execVsfl (f : VForm) : Happens (execVsfl f) := by
  intro s h
  unfold execVsfl
  dsimp only
  exact .issue (.bind (safe_vGate _) fun _ => .bind (safe_readSrc _) fun _ => .bind (safe_ensureValue _ _) fun _ =>
    .bind safe_getS fun _ => by
    split
    · exact safe_trap _ _
    · exact .bind (safe_lsClean _ _) fun _ => .bind (.modS (fun _ h => h)) fun _ => .pure _) h

theorem happens_execVstat (f : VForm) : Happens (execVstat f) := fun _ h =>
  .issue (.bind (safe_vGate _) fun _ => .bind (safe_readElems _ _) fun _ => .bind (safe_laneCtx _ _) fun _ =>
    .bind (safe_raise _) fun _ => .bind (safe_writeVDst _ _) fun _ => .pure _) h

theorem happens_execVmulh (f : VForm) : Happens (execVmulh f) := fun _ h =>
  .issue (safe_laneBody _ _ _ _) h

theorem happens_execVmadd (f : VForm) : Happens (execVmadd f) := fun _ h =>
  .issue (safe_laneBody _ _ _ _) h

theorem happens_execVcplx (f : VForm) : Happens (execVcplx f) := fun _ h =>
  .issue (.bind (safe_vGate _) fun _ => .bind (safe_readAbc _ _ _ _) fun _ => .bind (safe_laneCtx _ _) fun _ =>
    .opt (safe_raise _) (.bind (safe_putLanes _ _ _ _) fun _ => .pure _)) h

theorem happens_execVpcnt (f : VForm) : Happens (execVpcnt f) := fun _ h =>
  .issue (.bind (safe_vGate _) fun _ => .bind (safe_readSrc _) fun _ => .bind safe_getS fun _ =>
    .bind (safe_writeDst _ _) fun _ => .pure _) h

theorem happens_execVplog (f : VForm) : Happens (execVplog f) := fun _ h =>
  .issue (.bind (safe_vGate _) fun _ => .bind safe_getS fun _ => by
    split
    · exact .bind (safe_readSrc _) fun _ => .bind (safe_readSrc _) fun _ => .bind (safe_putPred _ _ _ _) fun _ => .pure _
    · exact .bind (safe_readSrc _) fun _ => .bind (safe_putMoved _ _ _) fun _ => .pure _
    · exact .bind (safe_readElems _ _) fun _ => .bind (safe_putPred _ _ _ _) fun _ => .pure _) h

theorem happens_execVpfirst (f : VForm) : Happens (execVpfirst f) := fun _ h =>
  .issue (.bind (safe_vGate _) fun _ => .bind (safe_readSrc _) fun _ => .bind safe_getS fun _ =>
    .bind (safe_writeDst _ _) fun _ => .pure _) h

theorem happens_execVslide (f : VForm) : Happens (execVslide f) := fun _ h =>
  .issue (.bind (safe_vGate _) fun _ => .bind (safe_readElems _ _) fun _ => .bind (safe_readElems _ _) fun _ =>
    .bind (safe_readSrc _) fun _ => .bind (safe_putMoved _ _ _) fun _ => .pure _) h

theorem happens_execVdot (f : VForm) : Happens (execVdot f) := fun _ h =>
  .issue (.bind (safe_vGate _) fun _ => .bind (safe_readElems _ _) fun _ => .bind (safe_readElemsB _ _) fun _ =>
    .bind (safe_readElems _ _) fun _ => .bind safe_getS fun _ => .bind (safe_putLanes _ _ _ _) fun _ => .pure _) h

theorem happens_execVclamp (f : VForm) : Happens (execVclamp f) := fun _ h =>
  .issue (safe_laneBody _ _ _ _) h

theorem happens_execMma (f : RSys) : Happens (execMma f) := fun _ h =>
  .issue (safe_mmaBody _ _) h

theorem happens_execMmat (f : RSys) : Happens (execMmat f) := fun _ h =>
  .issue (safe_mmaBody _ _) h

theorem happens_execAclr (f : RSys) : Happens (execAclr f) := fun _ h =>
  .issue (.bind (safe_modTile _ _) fun _ => .pure _) h

theorem happens_execAget (f : RSys) : Happens (execAget f) := by
  intro s h
  unfold execAget
  dsimp only
  exact .issue (.bind (safe_gate _ _) fun _ => .bind (safe_readSrc _) fun _ => .bind safe_getS fun _ => by
    split
    · exact safe_badValue _
    · exact .ite (.bind (safe_badTile _ _ _) fun _ => .bind (safe_advanceSeedM _) fun _ => .bind (safe_raise _) fun _ =>
        .bind (safe_writeVDst _ _) fun _ => .pure _) (.bind (safe_advanceSeedM _) fun _ => .bind (safe_raise _) fun _ =>
        .bind (safe_writeVDst _ _) fun _ => .pure _)) h

theorem happens_execAput (f : RSys) : Happens (execAput f) := by
  intro s h
  unfold execAput
  dsimp only
  exact .issue (.bind (safe_gate _ _) fun _ => .bind (safe_readVSrc _) fun _ => .bind (safe_readSrc _) fun _ =>
    .bind safe_getS fun _ => by
    split
    · exact safe_badValue _
    · exact .ite (.bind (safe_badTile _ _ _) fun _ => .bind (safe_modTile _ _) fun _ =>
        .pure _) (.bind (safe_modTile _ _) fun _ => .pure _)) h

theorem happens_execAscale (f : RSys) : Happens (execAscale f) := fun _ h =>
  .issue (.bind (safe_gate _ _) fun _ => .bind (safe_readSrc _) fun _ => .bind safe_getS fun _ =>
    .iteBind (safe_ensureValue _ _) (safe_ensureValue _ _) fun _ => .opt (safe_badTile _ _ _) (.bind (safe_advanceSeedM _)
    fun _ => .bind (safe_raise _) fun _ => .bind (safe_modTile _ _) fun _ => .pure _)) h

theorem happens_execDrain (f : EForm) : Happens (execDrain f) := fun _ h =>
  .issue (.bind safe_gateLog fun _ => .bind safe_gateJob fun _ => .bind safe_getS fun _ =>
    .opt (safe_block _) (.bind (safe_useObj _ _ _ _) fun _ => .bind (safe_readSrc _) fun _ =>
    .bind (safe_ensureValue _ _) fun _ => .bind (safe_lsCheck _ _ _) fun _ => .bind (safe_lsClean _ _) fun _ =>
    .bind (safe_ensure _ _ _) fun _ => .opt (safe_badTile _ _ _) (.opt (safe_block _) (.bind (safe_advanceSeedM _) fun _ =>
    .bind (safe_raise _) fun _ => .bind (.modS (fun _ h => h)) fun _ => .pure _)))) h

theorem happens_execRpop (f : RSys) : Happens (execRpop f) := fun _ h =>
  .issue (.bind (safe_gateRings _) fun _ => .bind safe_getS fun _ => .bind (safe_LsArg_ringState _) fun _ =>
    .bind (safe_popRings _) fun _ => .pure _) h

theorem happens_execSigt (f : RSys) : Happens (execSigt f) := fun _ h =>
  .issue (.bind (safe_gate _ _) fun _ => .bind (safe_readSrc _) fun _ => .bind safe_getS fun _ =>
    .bind (safe_writeDst _ _) fun _ => .pure _) h

theorem happens_execSigchk (f : RSys) : Happens (execSigchk f) := fun _ h =>
  .issue (.bind (safe_gate _ _) fun _ => .bind (safe_readSrc _) fun _ => .bind (safe_readSrc _) fun _ =>
    .ite (.bind (safe_writeDst _ _) fun _ => .pure _) (.ite (.bind (safe_trap _ _) fun _ =>
    .pure _) (.bind (safe_writeDst _ _) fun _ => .bind (.modS (fun _ h => by simpa using h)) fun _ => .pure _))) h

theorem happens_execFftset (f : EForm) : Happens (execFftset f) := fun _ h =>
  .issue (.bind (safe_gateWait _) fun _ => .bind (safe_useObj _ _ _ _) fun _ => by
    split
    · exact safe_trap _ _
    · exact .bind (.modS (fun _ h => h)) fun _ => safe_ownSignal _ _) h

theorem happens_execFftrun (f : RSys) : Happens (execFftrun f) := fun _ h =>
  .issue (.bind (safe_gateRings _) fun _ => .bind (safe_readSrc _) fun _ => .bind (safe_readSrc _) fun _ =>
    .bind safe_getS fun _ => by
    split
    · exact .bind (safe_checkArgs _) fun _ => .bind (safe_lsCleanRows _ _ _ _) fun _ => .bind (safe_raise _) fun _ =>
        .bind (.modS (fun _ h => h)) fun _ => .bind (safe_popRings _) fun _ => .pure _
    · exact safe_trap _ _) h

theorem happens_execSpmul (f : RSys) : Happens (execSpmul f) := fun _ h =>
  .issue (.bind (safe_gateRings _) fun _ => .bind (safe_readSrc _) fun _ => .bind (safe_readSrc _) fun _ =>
    .bind (safe_readSrc _) fun _ => .bind safe_getS fun _ => .bind (safe_checkArgs _) fun _ => .bind (safe_lsClean _ _) fun _ =>
    .bind (safe_lsClean _ _) fun _ => .bind (safe_lsClean _ _) fun _ => .bind (safe_raise _) fun _ => .bind (.modS (fun _ h =>
    h)) fun _ => .bind (safe_popRings _) fun _ => .pure _) h

theorem happens_execShtl (f : EForm) : Happens (execShtl f) := fun _ h =>
  .issue (.bind (safe_gateWait _) fun _ => .bind (safe_useObj _ _ _ _) fun _ => .bind (safe_gateRings _) fun _ =>
    .bind (safe_readSrc _) fun _ => .bind safe_getS fun _ => .bind (safe_checkArgs _) fun _ =>
    .opt (safe_badTile _ _ _) (.bind (safe_lsCleanRows _ _ _ _) fun _ => .bind (safe_lsCleanRows _ _ _ _) fun _ =>
    .bind (safe_raise _) fun _ => .bind (safe_modTile _ _) fun _ => .bind (safe_popRings _) fun _ => safe_ownSignal _ _)) h

theorem happens_execBlkt (f : RSys) : Happens (execBlkt f) := fun _ h =>
  .issue (.bind (safe_gate _ _) fun _ => .bind (safe_readSrc _) fun _ => .bind (safe_readSrc _) fun _ =>
    .bind (safe_readSrc _) fun _ => .bind (safe_ensureValue _ _) fun _ => .bind (safe_ensureValue _ _) fun _ =>
    .bind (safe_ensureValue _ _) fun _ => .bind safe_getS fun _ => .bind (safe_checkArgs _) fun _ =>
    .bind (safe_lsClean _ _) fun _ => .iteBind (safe_freeBytes _) (.pure _) fun _ => .bind (.modS (fun _ h => h)) fun _ =>
    .pure _) h

theorem happens_execFmtpop (f : RSys) : Happens (execFmtpop f) := fun _ h =>
  .issue (.bind safe_formatHead fun _ => .bind (.modS (fun _ h => h)) fun _ => .bind (safe_writeDst _ _) fun _ => .pure _) h

theorem happens_execSt (f : MForm) : Happens (execSt f) := fun _ h =>
  .issue (safe_storeBody _ _ _) h

theorem happens_execStrel (f : MForm) : Happens (execStrel f) := fun _ h =>
  .issue (safe_storeBody _ _ _) h

theorem happens_execStv (f : MForm) : Happens (execStv f) := fun _ h =>
  .issue (safe_storeRange _ _ _) h

theorem happens_execStvs (f : MForm) : Happens (execStvs f) := fun _ h =>
  .issue (.bind (safe_gate _ _) fun _ => .bind safe_gateLog fun _ => .bind (safe_readSrc _) fun _ =>
    .bind (safe_readSrc _) fun _ => .bind (safe_readVSrc _) fun _ => .bind (safe_storeElems _ _ _ _) fun _ => .pure _) h

theorem happens_execScat (f : MForm) : Happens (execScat f) := fun _ h =>
  .issue (.bind (safe_gate _ _) fun _ => .bind safe_gateLog fun _ => .bind (safe_readSrc _) fun _ =>
    .bind (safe_readSrc _) fun _ => .bind (safe_readVSrc _) fun _ => .bind (safe_lsCheck _ _ _) fun _ =>
    .bind (safe_lsClean _ _) fun _ => .bind safe_getS fun _ => .bind (safe_storeElems _ _ _ _) fun _ => .pure _) h

theorem happens_execAmo (f : MForm) : Happens (execAmo f) := fun _ h =>
  .issue (.bind (safe_gate _ _) fun _ => .bind (safe_gateAtomic _) fun _ => .bind safe_getS fun _ =>
    .bind (safe_readSrc _) fun _ => .bind (safe_readSrc _) fun _ => .bind (safe_atomicIa _ _ _) fun _ =>
    .bind (safe_atomicReply _ _ _ _) fun _ => .bind (safe_writeDst _ _) fun _ => .bind (safe_acquireForm _) fun _ => .pure _) h

theorem happens_execAmov (f : MForm) : Happens (execAmov f) := fun _ h =>
  .issue (.bind (safe_gate _ _) fun _ => .bind (safe_gateAtomic _) fun _ => .bind (safe_readSrc _) fun _ =>
    .bind (safe_readVSrc _) fun _ => .bind (safe_readSrc _) fun _ => .bind (safe_atomicIas _ _) fun _ =>
    .bind (safe_ensure _ _ _) fun _ => .bind (safe_lsCheck _ _ _) fun _ => .bind (.mapM fun _ =>
    safe_atomicReply _ _ _ _) fun _ => .bind (safe_lsStore _ _) fun _ => .bind (safe_acquireForm _) fun _ => .pure _) h

theorem happens_execRed (f : MForm) : Happens (execRed f) := fun _ h =>
  .issue (.bind (safe_gate _ _) fun _ => .bind (safe_gateAtomic _) fun _ => .bind (safe_readSrc _) fun _ =>
    .bind (safe_readSrc _) fun _ => .bind (safe_atomicIa _ _ _) fun _ => .bind (safe_reduceMem _ _ _) fun _ => .pure _) h

theorem happens_execRedv (f : MForm) : Happens (execRedv f) := fun _ h =>
  .issue (.bind (safe_gate _ _) fun _ => .bind (safe_gateAtomic _) fun _ => .bind (safe_readSrc _) fun _ =>
    .bind (safe_readVSrc _) fun _ => .bind (safe_atomicIas _ _) fun _ => .bind (safe_reduceMem _ _ _) fun _ => .pure _) h

theorem happens_execSkupd (f : EForm) : Happens (execSkupd f) := fun _ h =>
  .issue (.bind (safe_gate _ _) fun _ => .bind (safe_gateWait _) fun _ => .bind (safe_useObj _ _ _ _) fun _ =>
    .bind (safe_sketchElems _) fun _ => .bind (safe_lsClean _ _) fun _ => .bind safe_getS fun _ => .bind (.forIn fun _ _ =>
    .bind (safe_sketchElem _ _ _ _) fun _ => .pure _) fun _ => .bind (safe_sketchSignal _) fun _ => .pure _) h

theorem happens_execSkqry (f : EForm) : Happens (execSkqry f) := fun _ h =>
  .issue (.bind (safe_gate _ _) fun _ => .bind (safe_gateWait _) fun _ => .bind (safe_useObj _ _ _ _) fun _ =>
    .bind (safe_sketchElems _) fun _ => .bind (.mapM fun _ => safe_sketchEst _ _) fun _ => .bind (safe_raise _) fun _ =>
    .bind (.modS (fun _ h => h)) fun _ => safe_ownSignal _ _) h

theorem happens_execSkadd (f : EForm) : Happens (execSkadd f) := fun _ h =>
  .issue (.bind (safe_gate _ _) fun _ => .bind (safe_gateWait _) fun _ => .bind (safe_useObj _ _ _ _) fun _ =>
    .bind (safe_readSrc _) fun _ => .bind (safe_useObj _ _ _ _) fun _ => .bind (safe_ensureValue _ _) fun _ =>
    .bind (safe_ensure _ _ _) fun _ => .bind safe_getS fun _ => .bind (safe_readSketch _ _) fun _ => .bind (.forIn fun _ _ =>
    .bind (safe_sketchApply _ _ _ _ _ _) fun _ => .pure _) fun _ => .opt (.modS (fun _ h =>
    by simp [h])) (.bind (safe_sketchSignal _) fun _ => .pure _)) h

theorem happens_execSkclr (f : EForm) : Happens (execSkclr f) := fun _ h =>
  .issue (.bind (safe_gateWait _) fun _ => .bind (safe_useObj _ _ _ _) fun _ => .bind safe_getS fun _ =>
    .bind (safe_writeIa _ _ _) fun _ => .bind (.modS (fun _ h => by simp [h])) fun _ => .bind (safe_sketchSignal _) fun _ =>
    .pure _) h

theorem happens_execUop (f : RAlu) : Happens (execUop f) := fun _ h =>
  .issue (.bind (safe_gate _ _) fun _ => .bind safe_getS fun _ => .bind (safe_readSrc _) fun _ => .bind (safe_readSrc _) fun _ =>
    .bind (safe_readSrc _) fun _ => .bind (safe_readSrc _) fun _ => .bind (safe_ensureValue _ _) fun _ =>
    .bind (safe_ensureValue _ _) fun _ => .bind (safe_ensureValue _ _) fun _ => .bind (safe_ensureValue _ _) fun _ =>
    .bind (safe_lsChecks _) fun _ => .bind (safe_uopOperand _ _ _ _ _) fun _ => .bind (safe_uopOperand _ _ _ _ _) fun _ =>
    .bind (safe_uopOperand _ _ _ _ _) fun _ => .bind (safe_advanceSeed _) fun _ => .bind (safe_updWrite _ _ _ _) fun _ =>
    .pure _) h

theorem happens_execUcvt (f : RAlu) : Happens (execUcvt f) := fun _ h =>
  .issue (.bind safe_getS fun _ => .bind (safe_readSrc _) fun _ => .bind (safe_readSrc _) fun _ =>
    .bind (safe_ensureValue _ _) fun _ => .bind (safe_ensureValue _ _) fun _ => .bind (safe_lsChecks _) fun _ =>
    .bind (safe_lsLoad _ _) fun _ => .bind (safe_advanceSeed _) fun _ => .bind (safe_updWrite _ _ _ _) fun _ => .pure _) h

theorem happens_execNfchk (f : EForm) : Happens (execNfchk f) := fun _ h =>
  .issue (.bind (safe_gate _ _) fun _ => .bind safe_gateLog fun _ => .bind (safe_gateWait _) fun _ =>
    .bind (safe_gateRelease _) fun _ => .bind (safe_readSrc _) fun _ => .bind (safe_readSrc _) fun _ =>
    .bind (safe_ensureValue _ _) fun _ => .bind (safe_ensureValue _ _) fun _ => .bind (safe_objectIa _ _ _ _ _) fun _ =>
    .bind (safe_lsCheck _ _ _) fun _ => .bind (safe_lsLoad _ _) fun _ => .bind safe_getS fun _ =>
    .bind (safe_gateReport _ _ _) fun _ => .bind (.modS (fun _ h => h)) fun _ => safe_ownSignal _ _) h

theorem happens_execScommit (f : EForm) : Happens (execScommit f) := fun _ h =>
  .issue (.bind (safe_heldSources _) fun _ => .bind safe_getS fun _ => by
    split
    · exact .bind (.pure _) fun _ => .bind safe_getS fun _ => by
        split
        · exact safe_finishCommit _ _
        · split
          · exact .bind (.modS (fun _ h => by simpa using h)) fun _ => safe_finishCommit _ _
          · exact .ite (.pure _) (safe_holdServed _ _)
        · exact .pure _
    · exact .bind (safe_gateWait _) fun _ => .bind (safe_objectIa _ _ _ _ _) fun _ => .bind (.atHome fun _ =>
        safe_gateRequest _ _ _ _) fun _ => .bind safe_getS fun _ => by
        split
        · exact safe_finishCommit _ _
        · split
          · exact .bind (.modS (fun _ h => by simpa using h)) fun _ => safe_finishCommit _ _
          · exact .ite (.pure _) (safe_holdServed _ _)
        · exact .pure _) h

theorem happens_execSflush (f : RSys) : Happens (execSflush f) := by
  intro s h
  unfold execSflush
  dsimp only
  exact .issue (.bind safe_getS fun _ => .ite (.bind (safe_awaitWrites _ _) fun _ => .pure _) (.bind (safe_heldSources _) fun _ =>
    by
    split
    · exact safe_badValue _
    · exact .bind (safe_ensureValue _ _) fun _ => .bind (safe_ensureValue _ _) fun _ => .bind (.mapM fun _ =>
        safe_writeBackLine _ _ _) fun _ => .bind safe_getS fun _ => .bind (safe_awaitWrites _ _) fun _ => .pure _)) h

theorem happens_execRstv (f : MForm) : Happens (execRstv f) := fun _ h =>
  .issue (.bind (safe_gate _ _) fun _ => .bind (safe_gateAtomic _) fun _ => .bind safe_getS fun _ =>
    .opt (safe_block _) (.bind (safe_gateReserve _) fun _ => .bind (safe_readSrc _) fun _ => .bind (safe_readSrc _) fun _ =>
    .bind (safe_readVSrc _) fun _ => .bind (safe_ensureValue _ _) fun _ => .bind (safe_ensureValue _ _) fun _ =>
    .bind (safe_windowIa _ _ _ _ _ _) fun _ => .bind (.modS (fun _ h => h)) fun _ => .pure _)) h

theorem happens_execSkstat (f : RSys) : Happens (execSkstat f) := fun _ h =>
  .issue (.bind (safe_gate _ _) fun _ => .bind (safe_useObj _ _ _ _) fun _ => .bind (safe_writeDst _ _) fun _ =>
    .ite (.bind (.modS (fun _ h => by simp [h])) fun _ => .pure _) (.pure _)) h

theorem happens_execZero (f : MForm) : Happens (execZero f) := fun _ h =>
  .issue (.bind (safe_gate _ _) fun _ => .bind safe_gateLog fun _ => .bind (safe_readSrc _) fun _ =>
    .bind (safe_readSrc _) fun _ => .bind (safe_ensureValue _ _) fun _ => .bind (safe_ensureValue _ _) fun _ =>
    .bind (safe_windowIa _ _ _ _ _ _) fun _ => .bind (safe_storeMem _ _ _ _ _) fun _ => .pure _) h

theorem happens_execStnt (f : MForm) : Happens (execStnt f) := fun _ h =>
  .issue (safe_storeRange _ _ _) h

theorem happens_execRrput (f : EForm) : Happens (execRrput f) := fun _ h =>
  .issue (.bind safe_getS fun _ => .ite (.ite (.pure _) (.bind (.modS (fun _ h => h)) fun _ =>
    .pure _)) (.bind (safe_heldSources _) fun _ => .bind safe_gateLog fun _ => .bind (safe_gateWait _) fun _ =>
    .ite (.bind (safe_block _) fun _ => .bind (safe_gateReserve _) fun _ => .bind (safe_ensureValue _ _) fun _ =>
    .bind (safe_objectIa _ _ _ _ _) fun _ => .bind (safe_lsCheck _ _ _) fun _ => by
    split
    · exact safe_trap _ _
    · exact .bind (safe_ensure _ _ _) fun _ => .bind (safe_ensure _ _ _) fun _ => .bind (safe_lsClean _ _) fun _ =>
        .ite (.bind (safe_block _) fun _ => .bind (.modS (fun _ h => h)) fun _ => safe_holdServed _ _) (.bind (.modS (fun _ h =>
        h)) fun _ => safe_holdServed _ _)) (.bind (safe_gateReserve _) fun _ => .bind (safe_ensureValue _ _) fun _ =>
        .bind (safe_objectIa _ _ _ _ _) fun _ => .bind (safe_lsCheck _ _ _) fun _ => by
    split
    · exact safe_trap _ _
    · exact .bind (safe_ensure _ _ _) fun _ => .bind (safe_ensure _ _ _) fun _ => .bind (safe_lsClean _ _) fun _ =>
        .ite (.bind (safe_block _) fun _ => .bind (.modS (fun _ h => h)) fun _ => safe_holdServed _ _) (.bind (.modS (fun _ h =>
        h)) fun _ => safe_holdServed _ _)))) h

theorem happens_execStls (f : MForm) : Happens (execStls f) := fun _ h =>
  .issue (safe_storeRange _ _ _) h

theorem happens_execUnassignedOpcode (op : BitVec 8) (a1 : BitVec 88) : Happens (execUnassignedOpcode op a1) := fun _ h =>
  .occur (by simp [h])

theorem happens_execSectionEntry (st : Stream) : Happens (execSectionEntry st) := fun _ h =>
  .occur (ok_withStream h fun _ h => by simp [h])

theorem happens_execTrapEntry (st : Stream) (code : BitVec 8) (op : BitVec 8) (info : BitVec 32) :
    Happens (execTrapEntry st code op info) := fun _ h =>
  .occur (ok_takeTrap _ _ _ _ h)

theorem happens_execTaskFreeze (tid : ℕ) (f : FreezeCause) : Happens (execTaskFreeze tid f) := fun _ h =>
  .occur (by
      repeat' split
      all_goals simp [h])

theorem happens_execPreemption (slot : ℕ) (node : ℕ) : Happens (execPreemption slot node) := fun _ h =>
  .occur (by
      dsimp only
      repeat' split
      all_goals simp [h])

theorem happens_execTaskResume (core : ℕ) : Happens (execTaskResume core) := fun _ h =>
  .occur (by
      repeat' split
      all_goals simp [h])

theorem happens_execDistributorPick : Happens (execDistributorPick) := fun _ h =>
  .occur (by
      dsimp only
      repeat' split
      all_goals simp [h])

theorem happens_execEventDeliver (tid : ℕ) : Happens (execEventDeliver tid) := fun _ h =>
  .occur (by simpa using h)

theorem happens_execRingSlotClaim (tid : ℕ) (ring : Fin 8) : Happens (execRingSlotClaim tid ring) := fun _ h =>
  .occur (by simpa using h)

theorem happens_execJobUnitRecordStart (tid : ℕ) : Happens (execJobUnitRecordStart tid) := fun _ h =>
  .occur (ok_atTask h fun _ h => by simp [h])

theorem happens_execCommandBlockDone (tid : ℕ) : Happens (execCommandBlockDone tid) := fun _ h =>
  .occur (by
      repeat' split
      all_goals simp [h])

theorem happens_execCopyApertureStart (chan : Fin 32) (data : BitVec 128) (tid : Option ℕ) :
    Happens (execCopyApertureStart chan data tid) := fun _ h =>
  .occur (by simpa using h)

theorem happens_execEngineJobComplete (e : Engine) : Happens (execEngineJobComplete e) := fun _ h =>
  .occur (by split <;> simp [h])

theorem happens_execCompletionRingWrite (e : Engine) : Happens (execCompletionRingWrite e) := fun _ h =>
  .occur (by simp [h])

theorem happens_execEngineJobFail (e : Engine) (code : BitVec 8) : Happens (execEngineJobFail e code) := fun _ h =>
  .occur (by simp [h])

theorem happens_execLighterEnd (n : Fin 32) : Happens (execLighterEnd n) := fun _ h =>
  .light (fun _ => .ite (.modS (fun _ h => by simp [h])) (.pure _)) h

theorem happens_execLighterBase (n : Fin 32) (ia : BitVec 58) : Happens (execLighterBase n ia) := fun _ h =>
  .light (fun _ => safe_lightNext _ _) h

theorem happens_execLighterDim (n : Fin 32) (d : BitVec 3) (count : BitVec 25) (stride : BitVec 32) :
    Happens (execLighterDim n d count stride) := fun _ h =>
  .light (fun _ => safe_lightNext _ _) h

theorem happens_execLighterPush (n : Fin 32) (ring : BitVec 3) (ndim : BitVec 4) (elog : BitVec 3) (ssem : BitVec 8)
    (sinc : BitVec 12) :
    Happens (execLighterPush n ring ndim elog ssem sinc) := fun _ h =>
  .light (fun _ => .bind (safe_claimPush _ _ _ _) fun _ => by
    split
    · exact .pure _
    · exact .bind (safe_lighterRead _ _) fun _ => .bind (.modS (fun _ h => h)) fun _ => safe_fillPush _ _ _ _ _ _ _) h

theorem happens_execLighterGather (n : Fin 32) (ring : BitVec 3) (elog : BitVec 3) (ssem : BitVec 8) (sinc : BitVec 12)
    (count : BitVec 14) (scale : BitVec 4) :
    Happens (execLighterGather n ring elog ssem sinc count scale) := fun _ h =>
  .light (fun _ => .bind (safe_claimPush _ _ _ _) fun _ => by
    split
    · exact .pure _
    · exact .bind (safe_lighterRead _ _) fun _ => .bind (.mapM fun _ => .ite (.pure _) (safe_lighterRead _ _)) fun _ =>
        .bind (.modS (fun _ h => h)) fun _ => safe_fillPush _ _ _ _ _ _ _) h

theorem happens_execLighterLoop (n : Fin 32) (l : BitVec 2) (count : BitVec 24) (target : BitVec 16) :
    Happens (execLighterLoop n l count target) := fun _ h =>
  .light (fun _ => .modS (fun _ h => h)) h

theorem happens_execLighterSig (n : Fin 32) (ssem : BitVec 8) (sinc : BitVec 12) :
    Happens (execLighterSig n ssem sinc) := fun _ h =>
  .light (fun _ => .ite (.bind (.modS (fun _ h => by simpa using h)) fun _ => safe_lightNext _ _) (.pure _)) h

theorem happens_execLighterWwait (n : Fin 32) (mode : BitVec 2) (wsem : BitVec 8) (thr : BitVec 16) :
    Happens (execLighterWwait n mode wsem thr) := fun _ h =>
  .light (fun _ => .bind safe_getS fun _ => .ite (.bind (.modS (fun _ h => by simpa using h)) fun _ =>
    safe_lightNext _ _) (.modS (fun _ h => h))) h

theorem happens_execLighterJump (n : Fin 32) (target : BitVec 16) : Happens (execLighterJump n target) := fun _ h =>
  .light (fun _ => .modS (fun _ h => h)) h

theorem happens_execLighterIdx (n : Fin 32) (ia : BitVec 58) : Happens (execLighterIdx n ia) := fun _ h =>
  .light (fun _ => safe_lightNext _ _) h

theorem happens_execLighterAdv (n : Fin 32) (off : BitVec 56) : Happens (execLighterAdv n off) := fun _ h =>
  .light (fun _ => safe_lightNext _ _) h

theorem happens_execLighterPushFillComplete (n : Fin 32) : Happens (execLighterPushFillComplete n) := fun _ h =>
  .occur (by simpa using h)

theorem happens_execLighterNextPageWalk (n : Fin 32) : Happens (execLighterNextPageWalk n) := fun _ h =>
  .occur (by
      repeat' split
      all_goals simp [h])

theorem happens_execDamaskMemberStart (coll : CollKey) (tid : ℕ) : Happens (execDamaskMemberStart coll tid) := fun _ h =>
  .occur (by
      dsimp only
      repeat' split
      all_goals simp [h])

theorem happens_execDamaskBlockWrite (coll : CollKey) (b : DamaskBlock) : Happens (execDamaskBlockWrite coll b) := fun _ h =>
  .occur (by
      dsimp only
      repeat' split
      all_goals simp [h])

theorem happens_execDamaskPhaseComplete (coll : CollKey) (tid : ℕ) : Happens (execDamaskPhaseComplete coll tid) := fun _ h =>
  .occur (by
      repeat' split
      all_goals simp [h])

theorem happens_execDamaskSourceReadDone (coll : CollKey) (tid : ℕ) : Happens (execDamaskSourceReadDone coll tid) := fun _ h =>
  .occur (by
      dsimp only
      repeat' split
      all_goals simp [h])

theorem happens_execDamaskMembershipComplete (coll : CollKey) (tid : ℕ) :
    Happens (execDamaskMembershipComplete coll tid) := fun _ h =>
  .occur (by
      repeat' split
      all_goals simp [h])

theorem happens_execDamaskMemberLost (coll : CollKey) (rank : ℕ) (code : BitVec 8) :
    Happens (execDamaskMemberLost coll rank code) := fun _ h =>
  .occur (by
      repeat' split
      all_goals simp [h])

theorem happens_execGrresLoad (slot : Fin 64) (obj : BitVec 16) : Happens (execGrresLoad slot obj) := fun _ h =>
  .occur (by simp [h])

theorem happens_execGrresEvict (slot : Fin 64) : Happens (execGrresEvict slot) := fun _ h =>
  .occur (by simpa using h)

theorem happens_execGrstart (slot : Fin 64) (n : BitVec 32) : Happens (execGrstart slot n) := fun _ h =>
  .occur (by simpa using h)

theorem happens_execStepBegin (slot : Fin 64) : Happens (execStepBegin slot) := fun _ h =>
  .occur (by
      dsimp only
      repeat' split
      all_goals simp [h])

theorem happens_execHomeSliceWrite (by_ : Requester) (ia : ℕ) (data : List (BitVec 8)) :
    Happens (execHomeSliceWrite by_ ia data) := fun _ h =>
  .event (.bind (safe_writeIa _ _ _) fun _ => .modS (fun _ h => ok_foldl h fun _ _ h => by simp [h])) h

theorem happens_execHomeSliceRead (by_ : Requester) (ia : ℕ) (len : ℕ) : Happens (execHomeSliceRead by_ ia len) := fun _ h =>
  .event (.bind (safe_readIa _ _ _) fun _ => .pure _) h

theorem happens_execAcknowledgementArrival (tid : ℕ) : Happens (execAcknowledgementArrival tid) := fun _ h =>
  .occur (by simpa using h)

theorem happens_execStashRecall (ia : ℕ) (isWrite : Bool) : Happens (execStashRecall ia isWrite) := fun _ h =>
  .event (safe_recallLine _ _ _) h

theorem happens_execMigration (region : ℕ) (newDie : Fin 8) (frame : ℕ) :
    Happens (execMigration region newDie frame) := fun _ h =>
  .occur (by split <;> simp [h])

theorem happens_execTranslationFault (by_ : Requester) (ia : ℕ) (kind : AccessKind) :
    Happens (execTranslationFault by_ ia kind) := fun _ h =>
  .occur (by
      repeat' split
      all_goals simp [h])

theorem happens_execSidelogWaitEnter (tid : ℕ) : Happens (execSidelogWaitEnter tid) := fun _ h =>
  .occur (by simp [h])

theorem happens_execFaultresRetry (die : Fin 8) (page : ℕ) : Happens (execFaultresRetry die page) := fun _ h =>
  .occur (by simpa using h)

theorem happens_execFaultresAbort (die : Fin 8) (page : ℕ) : Happens (execFaultresAbort die page) := fun _ h =>
  .occur (by simp [h])

theorem happens_execWalkerInvalidate (die : Fin 8) (ia : ℕ) : Happens (execWalkerInvalidate die ia) := fun _ h =>
  .occur (by simpa using h)

theorem happens_execObjectTableInvalidate (index : BitVec 16) : Happens (execObjectTableInvalidate index) := fun _ h =>
  .occur h

theorem happens_execPkgnumWrite (v : BitVec 64) : Happens (execPkgnumWrite v) := fun _ h =>
  .occur (by simpa using h)

theorem happens_execPkgmapWrite (word : Fin 32) (v : BitVec 64) : Happens (execPkgmapWrite word v) := fun _ h =>
  .occur h

theorem happens_execFrozenResume (n : Fin 16) : Happens (execFrozenResume n) := fun _ h =>
  .occur (by simp [h])

theorem happens_execFrozenRelease (n : Fin 16) : Happens (execFrozenRelease n) := fun _ h =>
  .occur (by simp [h])

theorem happens_execFrozenJobSlotFree (die : Fin 8) (j : Fin 4) : Happens (execFrozenJobSlotFree die j) := fun _ h =>
  .occur h

theorem happens_execErrorRecordWrite : Happens (execErrorRecordWrite) := fun _ h =>
  .event safe_writeRecord h

theorem happens_execCorrectedErrorThreshold (unit : ErrUnit) (count : ℕ) :
    Happens (execCorrectedErrorThreshold unit count) := fun _ h =>
  .occur (by simpa using h)

theorem happens_execDeadlockTimeout (tid : ℕ) : Happens (execDeadlockTimeout tid) := fun _ h =>
  .occur (by
      repeat' split
      all_goals simp [h])

theorem happens_execStallTimeout (tid : ℕ) : Happens (execStallTimeout tid) := fun _ h =>
  .occur (by
      repeat' split
      all_goals simp [h])

theorem happens_execAgeingMarginLow (core : ℕ) (voltageCanRestore : Bool) :
    Happens (execAgeingMarginLow core voltageCanRestore) := fun _ h =>
  .occur (by simpa using h)

theorem happens_execSpeedTableUpdate : Happens (execSpeedTableUpdate) := fun _ h =>
  .occur (by split <;> simp [h])

theorem happens_execCheckpoint : Happens (execCheckpoint) := fun _ h =>
  .occur (by simp [h])

theorem happens_execFlitDataReceive (circ : ℕ) (f : FlitIn) : Happens (execFlitDataReceive circ f) := fun _ h =>
  .occur (by split <;> simp [h])

theorem happens_execKeyMarkerReceive (circ : ℕ) (f : FlitIn) : Happens (execKeyMarkerReceive circ f) := fun _ h =>
  .occur (by split <;> simp [h])

theorem happens_execFlitAckReceive (far : BitVec 11) (circ : ℕ) (f : FlitIn) :
    Happens (execFlitAckReceive far circ f) := fun _ h =>
  .occur (by split <;> simp [h])

theorem happens_execTimeSyncReceive (circ : ℕ) (f : FlitIn) (rtt : BitVec 20) :
    Happens (execTimeSyncReceive circ f rtt) := fun _ h =>
  .occur (by split <;> simp [h])

theorem happens_execKeySlotLoad (circ : ℕ) (outbound : Bool) (slot : Bool) (key : BitVec 256) (salt : BitVec 48) :
    Happens (execKeySlotLoad circ outbound slot key salt) := fun _ h =>
  .occur h

theorem happens_execCircuitRekey (circ : ℕ) (outbound : Bool) (key0 : BitVec 256) (key1 : BitVec 256) (salt0 : BitVec 48)
    (salt1 : BitVec 48) :
    Happens (execCircuitRekey circ outbound key0 key1 salt0 salt1) := fun _ h =>
  .occur (by
      repeat' split
      all_goals simp [h])

theorem happens_execCtrExhaust (circ : ℕ) : Happens (execCtrExhaust circ) := fun _ h =>
  .occur (by
      repeat' split
      all_goals simp [h])

theorem happens_execCircuitSetup (req : SetupReq) : Happens (execCircuitSetup req) := fun _ h =>
  .occur (by split <;> simp [h])

theorem happens_execCircuitSetupAck (circ : ℕ) (rtt : BitVec 20) : Happens (execCircuitSetupAck circ rtt) := fun _ h =>
  .occur h

theorem happens_execCircuitSetupNack (circ : ℕ) : Happens (execCircuitSetupNack circ) := fun _ h =>
  .occur (by simp [h])

theorem happens_execCircuitSetupRetry (circ : ℕ) : Happens (execCircuitSetupRetry circ) := fun _ h =>
  .occur h

theorem happens_execCircuitTear (circ : ℕ) : Happens (execCircuitTear circ) := fun _ h =>
  .occur (by
      repeat' split
      all_goals simp [h])

theorem happens_execCircuitIdleTimeout (circ : ℕ) : Happens (execCircuitIdleTimeout circ) := fun _ h =>
  .occur (by
      repeat' split
      all_goals simp [h])

theorem happens_execCircuitFail (circ : ℕ) : Happens (execCircuitFail circ) := fun _ h =>
  .occur (by
      repeat' split
      all_goals simp [h])

theorem happens_execDrift (circ : ℕ) (c : DriftCause) : Happens (execDrift circ c) := fun _ h =>
  .occur (by
      repeat' split
      all_goals simp [h])

theorem happens_execDieLink (link : Fin 16) : Happens (execDieLink link) := fun _ h =>
  .occur (by split <;> simp [h])

theorem happens_execHdmHostAccess (a : HostAccess) : Happens (execHdmHostAccess a) := fun _ h =>
  .occur (by
      repeat' split
      all_goals simp [h])

theorem happens_execHostError (e : HostErr) : Happens (execHostError e) := fun _ h =>
  .occur (by
      repeat' split
      all_goals simp [h])

theorem happens_execHostLinkDown : Happens (execHostLinkDown) := fun _ h =>
  .occur (by split <;> simp [h])

theorem happens_execBackInvalidateTimeout (ia : ℕ) : Happens (execBackInvalidateTimeout ia) := fun _ h =>
  .occur (by split <;> simp [h])

theorem happens_execTickTimeout (tid : ℕ) : Happens (execTickTimeout tid) := fun _ h =>
  .occur (by simpa using h)

theorem happens_execLoadReplyArrival (tid : ℕ) : Happens (execLoadReplyArrival tid) := fun _ h =>
  .occur (by simpa using h)

theorem happens_execBackInvalidateResponse (ia : ℕ) : Happens (execBackInvalidateResponse ia) := fun _ h =>
  .occur (by split <;> simp [h])

theorem happens_execHostLinkReturn : Happens (execHostLinkReturn) := fun _ h =>
  .occur (by split <;> simp [h])

theorem happens_execPowerStateChange (target : PowerState) : Happens (execPowerStateChange target) := fun _ h =>
  .occur (by simp [h])

theorem happens_execPowerBudgetLimit (limited : Bool) : Happens (execPowerBudgetLimit limited) := fun _ h =>
  .occur h

theorem happens_execHaltNotice : Happens (execHaltNotice) := fun _ h =>
  .occur (by simp [h])

theorem happens_execTimeSyncSend (circ : ℕ) : Happens (execTimeSyncSend circ) := fun _ h =>
  .occur h

theorem happens_execTaskStart (core : ℕ) : Happens (execTaskStart core) := by
  intro s h
  unfold execTaskStart
  split
  · split
    · exact .ite (.next h) (.event (.bind (safe_launchTask _ _ _ _ _ _ _) fun _ => .bind (.modS (fun _ h =>
        by simpa using h)) fun _ => by
        split
        · exact .modS (fun _ h => by simp [h])
        · exact .pure _) h)
    · exact .next h
  · exact .next h

theorem happens_execTaskEnd (tid : ℕ) : Happens (execTaskEnd tid) := by
  intro s h
  unfold execTaskEnd
  split
  · exact .next h
  · exact .ite (.next h) (.event (.bind (safe_writeBackLines _ _) fun _ => .bind safe_getS fun _ => by
      split
      · exact .ite (.bind (safe_releaseGuards _ _) fun _ => .modS (fun _ h => by simpa using h)) (.pure _)
      · exact .pure _) h)

theorem happens_execGroupCollectiveComplete (group : ℕ) (kind : CollKind) : Happens (execGroupCollectiveComplete group kind) := by
  intro s h
  unfold execGroupCollectiveComplete
  split
  · exact .ite (.event (safe_completeColl _ _) h) (.next h)
  · exact .next h

theorem happens_execStepEnd (slot : Fin 64) : Happens (execStepEnd slot) := by
  intro s h
  unfold execStepEnd
  dsimp only
  split
  · exact .next h
  · exact .ite (.next h) (.event (.bind (safe_writeStep _ _) fun _ => .modS (fun _ h => by split <;> simp [h])) h)

theorem happens_execHomeSliceAtomic (by_ : Requester) (ia : ℕ) (opk : BitVec 4) (size : ℕ) (isFloat : Bool) (operand : BitVec 64)
    (expected : BitVec 64) :
    Happens (execHomeSliceAtomic by_ ia opk size isFloat operand expected) := fun _ h =>
  .ite (.event (.bind (safe_atomicAt _ _ _ _ _ _) fun _ => .modS (fun _ h => by simpa using h)) h) (.next h)

theorem happens_execStashFill (tid : ℕ) (off : ℕ) : Happens (execStashFill tid off) := by
  intro s h
  unfold execStashFill
  split
  · exact .ite (.next h) (.event (safe_fillStash _ _ _) h)
  · exact .next h

theorem happens_execGateReport (by_ : Requester) (ia : ℕ) (nonfinite : Bool) :
    Happens (execGateReport by_ ia nonfinite) := fun _ h =>
  .ite (.event (safe_gateReport _ _ _) h) (.next h)

theorem happens_execSketchUpdateApply (obj : BitVec 16) (row : ℕ) (bucket : ℕ) (inc : ℤ) :
    Happens (execSketchUpdateApply obj row bucket inc) := fun _ h =>
  .ite (.event (safe_sketchApply _ _ _ _ _ _) h) (.next h)

theorem happens_execSidelogEntryApply (tid : ℕ) (seq : BitVec 16) : Happens (execSidelogEntryApply tid seq) := by
  intro s h
  unfold execSidelogEntryApply
  split
  · exact .event (safe_replayEntry _ _) h
  · exact .next h

theorem happens_execEccUncorrected (where_ : EccWhere) : Happens (execEccUncorrected where_) := by
  intro s h
  unfold execEccUncorrected
  split
  · exact .ite (.next (by simpa using h)) .fault
  · exact .occur (by
        repeat' split
        all_goals simp [h])
  · exact .occur (by split <;> simp [h])
  · exact .next (by simpa using h)
  · exact .next (by simpa using h)
  · exact .next (by simpa using h)
  · exact .next (by simpa using h)

theorem happens_execHardwareFailureFence (u : FenceUnit) : Happens (execHardwareFailureFence u) := by
  intro s h
  unfold execHardwareFailureFence
  split
  · exact .ite .fault (.next (by simp [h]))
  · exact .next (by simp [h])

theorem happens_lighterTurn (n : Fin 32) : Happens (lighterTurn n) := by
  intro s h
  unfold lighterTurn
  split
  · exact .next h
  · split
    · exact .light (fun _ => .pure _) h
    · split
      · exact happens_execLighterEnd _ _ h
      · exact happens_execLighterBase _ _ _ h
      · exact happens_execLighterDim _ _ _ _ _ h
      · exact happens_execLighterPush _ _ _ _ _ _ _ h
      · exact happens_execLighterGather _ _ _ _ _ _ _ _ h
      · exact happens_execLighterLoop _ _ _ _ _ h
      · exact happens_execLighterSig _ _ _ _ h
      · exact happens_execLighterWwait _ _ _ _ _ h
      · exact happens_execLighterJump _ _ _ h
      · exact happens_execLighterIdx _ _ _ h
      · exact happens_execLighterAdv _ _ _ h
      · exact happens_execEngineJobFail _ _ _ h

/-- A register write that, where it is one, leaves every memory in canonical form. -/
def WriteOk (o : Option State) : Prop := ∀ t, o = some t → StoreOk t.store

theorem WriteOk.some {t : State} (h : StoreOk t.store) : WriteOk (some t) := fun _ e => Option.some.inj e ▸ h
theorem WriteOk.none : WriteOk none := fun _ e => nomatch e

theorem WriteOk.ite {c : Prop} [Decidable c] {a b : Option State} (ha : WriteOk a) (hb : WriteOk b) :
    WriteOk (if c then a else b) := by
  split
  · exact ha
  · exact hb

theorem writes_writeCtl (n : BitVec 8) (v : BitVec 64) {s : State} (h : StoreOk s.store) : WriteOk (writeCtl n v s) := by
  unfold writeCtl
  split
  · exact .ite (.some h) .none
  · exact .some h
  · exact .some h
  · exact .some h
  · exact .some h
  · exact .ite .none (.ite (.some h) (.some h))
  · exact .some h
  · exact .some h

theorem writes_writeWalkerReg (d reg : Nat) (v : BitVec 64) {s : State} (h : StoreOk s.store) :
    WriteOk (writeWalkerReg d reg v s) :=
  .ite (.some h) (.ite (.some (by simpa using h)) .none)

theorem writes_writeSlotReg (slot reg : Nat) (v : BitVec 64) {s : State} (h : StoreOk s.store) :
    WriteOk (writeSlotReg slot reg v s) := by
  have hslot : StoreOk (modSlot slot (fun g => { g with oreg := v.setWidth 16 }) s).store := by simpa using h
  refine .ite (.some ?_) (.ite (.some (by simpa using h)) (.ite (.some h) .none))
  split
  · refine ok_loadGraph _ _ ?_
    split <;> simp [h]
  · split <;> simp [h]

theorem writes_writeOpticalReg (reg : Nat) (v : BitVec 64) {s : State} (h : StoreOk s.store) :
    WriteOk (writeOpticalReg reg v s) := by
  have hpend : ∀ off, StoreOk (pendReg off v s).store := fun off => by simpa using h
  refine .ite (.some h) (.ite (.some ?_) (.ite (.some (hpend _)) (.ite (.some h) (.ite (.some h) (.ite
    (.some (hpend _)) .none)))))
  split
  · exact h
  · exact hpend _

theorem writes_writeErrorReg (reg : Nat) (v : BitVec 64) {s : State} (h : StoreOk s.store) : WriteOk (writeErrorReg reg v s) := by
  refine .ite (.some h) (.ite (.some h) (.ite (.some h) (.ite (.some h) (.ite (.ite (.some h) ?_)
    (.ite (.ite (.some (by simpa using h)) (.some h)) .none)))))
  split
  · exact .some (ok_resumeFrozen _ h)
  · exact .some (ok_releaseFrozen _ h)
  · exact .some h

theorem writes_writeReg (offset : Nat) (v : BitVec 64) {s : State} (h : StoreOk s.store) : WriteOk (writeReg offset v s) := by
  refine .ite (.some h) (.ite .none (.ite (.some h) (.ite (.some ?_) (.ite (.some h) (.ite (writes_writeWalkerReg _ _ _ h) (.ite
    (.some h)
    (.ite (.some h) (.ite (.some (by simpa using h)) (.ite (writes_writeSlotReg _ _ _ h) (.ite (.some (by simpa using h))
      (.ite (writes_writeOpticalReg _ _ h) (.ite (writes_writeErrorReg _ _ h) .none))))))))))))
  split
  · exact h
  · exact h

theorem happens_execSsig (f : EForm) : Happens (execSsig f) := fun _ h =>
  .issue (.bind (safe_gate _ _) fun _ => .bind (safe_semAmount _ _) fun _ => .getS fun _ h => by
    split
    · next hsig => exact .bind (.modS fun _ _ => store_signalTask hsig ▸ h) fun _ => .pure _
    · exact safe_trap _ _) h

theorem happens_execCtlw (f : RSys) : Happens (execCtlw f) := fun _ h =>
  .issue (.bind (safe_gate _ _) fun _ => .bind safe_getS fun _ => .bind (safe_readSrc _) fun _ => .getS fun _ h => by
    split
    · exact safe_trap _ _
    · next hw => exact .bind (.modS fun _ _ => writes_writeCtl _ _ h _ hw) fun _ => .bind (safe_writeDst _ _) fun _ => .pure _) h

theorem happens_execAcq (f : RSys) : Happens (execAcq f) := by
  have hend : ∀ (s : State) (ia : Nat), Safe (do
      modS (atPack (Pack.isPkg (iaPkg ia)) (fun u => { u with guardQ := u.guardQ ++ [⟨ia, s.task.tid, f.sub.getLsbD 3⟩] }))
      pure (Flow.hold .guarded)) := fun s ia => .bind (.modS fun _ h => ok_atPack h fun _ hu => hu) fun _ => .pure _
  exact fun _ h => .issue (.bind (safe_heldSources _) fun _ => .bind safe_getS fun s => .bind (safe_objectIa _ _ _ _ _) fun ia =>
    .ite (.pure _) (.ite (.bind (safe_guardMisuse _) fun _ => .ite (.bind (safe_guardMisuse _) fun _ => hend s ia) (hend s ia))
      (.ite (.bind (safe_guardMisuse _) fun _ => hend s ia) (hend s ia)))) h

theorem happens_execPref (f : MForm) : Happens (execPref f) := by
  have hfetch : ∀ ia, Safe (fun s => match (do
      let d ← readLine s.self (span (lineOf ia) 128)
      modS (l1Fill (lineOf ia) d) : M Unit) s with
      | .ok r => .ok r
      | .error _ => .ok ((), s) : M Unit) := fun ia s h => by
    dsimp only
    split
    · next r hr =>
      obtain ⟨u, t⟩ := r
      exact .ok ((Safe.bind (safe_readLine _ _) fun _ => .modS fun _ h => by simpa using h : Safe (do
        let d ← readLine s.self (span (lineOf ia) 128)
        modS (l1Fill (lineOf ia) d) : M Unit)).of_eq h hr)
    · exact .ok h
  exact fun _ h => .issue (.bind (safe_gate _ _) fun _ => .bind (safe_readAddr _) fun _ => .bind safe_getS fun _ => by
    split
    · exact .ite (.bind (hfetch _) fun _ => .pure _) (.pure _)
    · exact .pure _) h

theorem happens_execLhalt (f : RSys) : Happens (execLhalt f) := fun _ h =>
  .issue (.bind (safe_gate _ _) fun _ => .bind (safe_readSrc _) fun _ => .bind safe_getS fun _ => .bind (.modS fun _ h => by
    repeat' split
    all_goals simpa using h) fun _ => .pure _) h

theorem happens_execRingput (f : RSys) : Happens (execRingput f) := by
  refine fun _ h => .issue (.bind (safe_gate _ _) fun _ => .bind safe_getS fun s => ?_) h
  have hend : Safe (do
      let a ← readSrc f.a
      let b ← readSrc f.b
      ensureValue (b != 0) 3
      lsCheck .plain a.toNat b.toNat
      ensure (s.ringOf (ringField f.ring1)).en fcRingMisuse (ringInfo (ringField f.ring1).val 1)
      ensure (decide (b.toNat ≤ ringSlotBytes (s.ringOf (ringField f.ring1)).cfg)) fcRingMisuse (ringInfo (ringField f.ring1).val 2)
      lsClean a.toNat b.toNat
      modS (modCur (fun t => (t.lsWrite ((s.ringOf (ringField f.ring1)).slotAt (s.ringOf (ringField f.ring1)).tail)
        (t.lsRead a.toNat b.toNat)).modRing (ringField f.ring1) (fun r => r.claim.setFull r.tail)))
      pure Flow.seq) :=
    .bind (safe_readSrc _) fun _ => .bind (safe_readSrc _) fun _ => .bind (safe_ensureValue _ _) fun _ =>
      .bind (safe_lsCheck _ _ _) fun _ =>
      .bind (safe_ensure _ _ _) fun _ => .bind (safe_ensure _ _ _) fun _ => .bind (safe_lsClean _ _) fun _ =>
        .bind (.modS fun _ h => h) fun _ => .pure _
  exact .ite (.bind (safe_block _) fun _ => hend) hend

theorem happens_execSemaphoreWaitSatisfied (tid : Nat) (k : BitVec 8) (sigs : List SemSignal) :
    Happens (execSemaphoreWaitSatisfied tid k sigs) :=
  fun s h => .occur (by
    rw [store_serveWaiters]
    exact ok_foldl h fun _ _ hu => by simpa using hu)

theorem happens_execRemoteSignalApply (m : RemoteSignal) : Happens (execRemoteSignalApply m) := fun s h => .occur (by
  split
  · simpa using h
  · exact ok_overLink h (fun _ hu => by simpa using hu) fun _ hu => by simpa using hu)

theorem happens_execQuayGroupTick (arrivals : List GroupArrival) (removals joins : List (Nat × Nat)) :
    Happens (execQuayGroupTick arrivals removals joins) := fun s h => .occur
  (ok_foldl (ok_foldl (ok_foldl h fun _ _ hu => by simpa using hu) fun _ _ hu => ok_removeMember _ _ hu) fun _ _ hu => by simpa using hu)

theorem happens_execRenqBlockArrival (m : BlockMsg) : Happens (execRenqBlockArrival m) := fun s h => .occur (by
  split
  · simpa using h
  · split
    · exact h
    · exact ok_overLink h (fun _ hu => by simpa using hu) fun _ hu => by simpa using hu)

theorem happens_execBteJobStart (chan : Fin 32) : Happens (execBteJobStart chan) := fun s h => .occur (by
  split
  · exact h
  · split
    · exact ok_restoreBte _ _ _ _ h
    · split
      · exact ok_startBte _ _ h
      · exact h)

theorem happens_execBteChunkComplete (chan : Fin 32) : Happens (execBteChunkComplete chan) := fun s h => .occur (by
  split
  · split
    · exact h
    · exact ok_engineStep h (fun _ _ hu => ok_failBte _ _ hu) (safe_bteChunk _ _)
  · exact h)

theorem happens_execDrainJobWrite (chan : Fin 32) : Happens (execDrainJobWrite chan) := fun s h => .occur (by
  split
  · split
    · split
      · exact ok_engineStep h (fun _ _ hu => ok_failBte _ _ hu) (safe_drainChunk _ _ _)
      · exact h
    · exact h
  · exact h)

theorem happens_execDamaskSlotStart (coll : CollKey) (ready : Bool) :
    Happens (execDamaskSlotStart coll ready) := fun s h => .occur (by
  split
  · exact h
  · split
    · exact h
    · split
      · simpa using h
      · exact ok_foldl (by simpa using h) fun _ _ hu => ok_foldl hu fun _ _ hv => by simpa using hv)

theorem happens_execNodeComplete (slot : Fin 64) (node : Nat) : Happens (execNodeComplete slot node) := fun s h => .occur (by
  dsimp only
  split
  · exact h
  · split
    · exact h
    · exact ok_foldl (by simpa using h) fun _ _ hu => by simpa using hu)

theorem happens_execGuardGrant (ia : Nat) : Happens (execGuardGrant ia) := fun s h => by
  unfold execGuardGrant
  split
  · exact .next h
  · exact .event (.bind (safe_readIa _ _ _) fun _ => .ite (.bind (safe_pokeIa _ _ _) fun _ => .modS fun _ h =>
      ok_atTask (by simpa using h) fun _ hu => by
      split <;> simp [hu]) (.pure _)) h

theorem happens_execRstvWriteApply (m : RstvMsg) : Happens (execRstvWriteApply m) := fun s h => .occur (by
  split
  · simpa using h
  · refine ok_overLink h (fun _ hu => by simpa using hu) fun _ hu => ?_
    split <;> simp [hu])

theorem happens_execRrputFillApply (m : RrputMsg) : Happens (execRrputFillApply m) := fun s h => .occur (by
  split
  · simpa using h
  · refine ok_overLink h (fun _ hu => by simpa using hu) fun _ hu => ?_
    split <;> simp [hu])

theorem happens_execRegisterWrite (offset : Nat) (v : BitVec 64) : Happens (execRegisterWrite offset v) := fun s h => by
  unfold execRegisterWrite
  split
  · next hw => exact .next (writes_writeReg offset v h _ hw)
  · exact .refused

theorem happens_execPatrolScrub (die : Fin 8) (addr : Nat) (finding : ScrubFinding) :
    Happens (execPatrolScrub die addr finding) := fun s h => by
  refine .ite .fault ?_
  cases finding with
  | clean => exact .next h
  | corrected => exact .next (by simpa using h)
  | uncorrectable => exact .next (by simpa using h)

theorem happens_execPackageReset (b : BootInputs) : Happens (execPackageReset b) := fun s h => by
  have hcold : StoreOk (State.store { coldReset s with bootst := bootStages b s.fuses }) := ok_coldReset h
  refine .occur ?_
  dsimp only
  split
  · exact ok_foldl (by simpa using hcold) fun _ _ hu => by simpa using hu
  · exact hcold

theorem happens_execCheckpointResume : Happens execCheckpointResume := fun s h => .occur (by
  split
  · next him => exact ok_restoreImage _ him h
  · exact h)

theorem happens_execLaneLockLoss (engine : Fin 8) (lane : Fin 16) :
    Happens (execLaneLockLoss engine lane) := fun s h => .occur (by
  split
  · exact h
  · refine ok_foldl (by simpa using h) fun _ _ hu => ?_
    dsimp only
    split <;> simp [hu])

theorem happens_execMcuWatchdog (engine : Fin 8) : Happens (execMcuWatchdog engine) := fun s h => .occur (by
  extract_lets e again mine u up v
  split
  · exact h
  · split
    · exact ok_foldl (by simpa [u] using h) fun _ _ hu => ok_failCircuit _ hu
    · have hv : StoreOk v.store := by simpa [v] using h
      simpa using hv)

theorem happens_execHostApertureAccess (by_ : Requester) (off : Nat) (write : Option (List (BitVec 8))) (len : Nat) :
    Happens (execHostApertureAccess by_ off write len) := fun s h => .occur (by
  split
  · split
    · simpa using h
    · dsimp only
      split
      · next hr => exact (safe_writeIa _ _ _).of_eq h hr
      · exact h
  · split
    · exact ok_poisonReader _ _ h
    · dsimp only
      split
      · next hr => exact (safe_readIa _ _ _).of_eq h hr
      · exact h)

theorem happens_execLighterProgramStart (n : Fin 32) : Happens (execLighterProgramStart n) := fun s h => .occur (by
  split
  · exact h
  · split
    · exact ok_restoreProg _ _ _ _ h
    · exact h
    · next p _ _ =>
      extract_lets c u chk body v
      have hu : StoreOk u.store := by
        unfold u
        split
        · exact h
        · simpa using h
      have hv : StoreOk v.store := by simpa [v] using hu
      clear_value v body chk
      split
      · exact ok_endLighter _ _ _ hv
      · split
        · exact ok_endLighter _ _ _ hv
        · exact hv)

/-- Every word and every event keeps memory in canonical form. -/
theorem happens_exec (i : Instr) : Happens (exec i) := by
  cases i with
  | nop f => exact happens_execNop f
  | li f => exact happens_execLi f
  | mov f => exact happens_execMov f
  | add f => exact happens_execAdd f
  | addi f => exact happens_execAddi f
  | sub f => exact happens_execSub f
  | mul f => exact happens_execMul f
  | mulh f => exact happens_execMulh f
  | div f => exact happens_execDiv f
  | rem f => exact happens_execRem f
  | and f => exact happens_execAnd f
  | or f => exact happens_execOr f
  | xor f => exact happens_execXor f
  | andn f => exact happens_execAndn f
  | shl f => exact happens_execShl f
  | shr f => exact happens_execShr f
  | sar f => exact happens_execSar f
  | rot f => exact happens_execRot f
  | clz f => exact happens_execClz f
  | popc f => exact happens_execPopc f
  | bext f => exact happens_execBext f
  | bdep f => exact happens_execBdep f
  | min f => exact happens_execMin f
  | max f => exact happens_execMax f
  | madd f => exact happens_execMadd f
  | cmp f => exact happens_execCmp f
  | sel f => exact happens_execSel f
  | fop f => exact happens_execFop f
  | fcvt f => exact happens_execFcvt f
  | fcmp f => exact happens_execFcmp f
  | plog f => exact happens_execPlog f
  | br f => exact happens_execBr f
  | brc f => exact happens_execBrc f
  | call f => exact happens_execCall f
  | ret f => exact happens_execRet f
  | loop f => exact happens_execLoop f
  | qtry f => exact happens_execQtry f
  | qtryPush f => exact happens_execQtryPush f
  | qcnt f => exact happens_execQcnt f
  | qpeek f => exact happens_execQpeek f
  | ssig f => exact happens_execSsig f
  | swait f => exact happens_execSwait f
  | stry f => exact happens_execStry f
  | fence f => exact happens_execFence f
  | ctlr f => exact happens_execCtlr f
  | ctlw f => exact happens_execCtlw f
  | trap f => exact happens_execTrap f
  | bkpt f => exact happens_execBkpt f
  | stop f => exact happens_execStop f
  | gstart f => exact happens_execGstart f
  | gpatch f => exact happens_execGpatch f
  | gquery f => exact happens_execGquery f
  | gjoin f => exact happens_execGjoin f
  | gleave f => exact happens_execGleave f
  | gmemb f => exact happens_execGmemb f
  | gbar f => exact happens_execGbar f
  | gred f => exact happens_execGred f
  | gbcast f => exact happens_execGbcast f
  | tspawn f => exact happens_execTspawn f
  | renq f => exact happens_execRenq f
  | rsig f => exact happens_execRsig f
  | bind f => exact happens_execBind f
  | unbind f => exact happens_execUnbind f
  | acq f => exact happens_execAcq f
  | rel f => exact happens_execRel f
  | xpbgo f => exact happens_execXpbgo f
  | fmtend f => exact happens_execFmtend f
  | sleep f => exact happens_execSleep f
  | tickwait f => exact happens_execTickwait f
  | speedq f => exact happens_execSpeedq f
  | evmask f => exact happens_execEvmask f
  | noderel f => exact happens_execNoderel f
  | stragq f => exact happens_execStragq f
  | ld f => exact happens_execLd f
  | ldacq f => exact happens_execLdacq f
  | ldv f => exact happens_execLdv f
  | ldvs f => exact happens_execLdvs f
  | gath f => exact happens_execGath f
  | pref f => exact happens_execPref f
  | rld f => exact happens_execRld f
  | rldv f => exact happens_execRldv f
  | stash f => exact happens_execStash f
  | unstash f => exact happens_execUnstash f
  | discard f => exact happens_execDiscard f
  | cpygo f => exact happens_execCpygo f
  | cpymc f => exact happens_execCpymc f
  | lgo f => exact happens_execLgo f
  | lhalt f => exact happens_execLhalt f
  | ringset f => exact happens_execRingset f
  | ringput f => exact happens_execRingput f
  | ringq f => exact happens_execRingq f
  | winq f => exact happens_execWinq f
  | plhint f => exact happens_execPlhint f
  | pgstate f => exact happens_execPgstate f
  | bchk f => exact happens_execBchk f
  | xlatq f => exact happens_execXlatq f
  | lstat f => exact happens_execLstat f
  | vadd f => exact happens_execVadd f
  | vsub f => exact happens_execVsub f
  | vmul f => exact happens_execVmul f
  | vfma f => exact happens_execVfma f
  | vfms f => exact happens_execVfms f
  | vneg f => exact happens_execVneg f
  | vabs f => exact happens_execVabs f
  | vmin f => exact happens_execVmin f
  | vmax f => exact happens_execVmax f
  | vdiv f => exact happens_execVdiv f
  | vsqrt f => exact happens_execVsqrt f
  | vrcp f => exact happens_execVrcp f
  | vrsq f => exact happens_execVrsq f
  | vcmp f => exact happens_execVcmp f
  | vsel f => exact happens_execVsel f
  | vand f => exact happens_execVand f
  | vor f => exact happens_execVor f
  | vxor f => exact happens_execVxor f
  | vandn f => exact happens_execVandn f
  | vshl f => exact happens_execVshl f
  | vshr f => exact happens_execVshr f
  | vsar f => exact happens_execVsar f
  | vfshl f => exact happens_execVfshl f
  | vfshr f => exact happens_execVfshr f
  | vclz f => exact happens_execVclz f
  | vpopc f => exact happens_execVpopc f
  | vcvt f => exact happens_execVcvt f
  | vsrnd f => exact happens_execVsrnd f
  | vperm f => exact happens_execVperm f
  | vshuf f => exact happens_execVshuf f
  | vbcast f => exact happens_execVbcast f
  | vextr f => exact happens_execVextr f
  | vins f => exact happens_execVins f
  | vredadd f => exact happens_execVredadd f
  | vredmax f => exact happens_execVredmax f
  | vredmin f => exact happens_execVredmin f
  | vgmax f => exact happens_execVgmax f
  | vgsum f => exact happens_execVgsum f
  | vscan f => exact happens_execVscan f
  | vcomp f => exact happens_execVcomp f
  | vexpd f => exact happens_execVexpd f
  | viota f => exact happens_execViota f
  | vmov f => exact happens_execVmov f
  | vli f => exact happens_execVli f
  | vsfn f => exact happens_execVsfn f
  | vsfl f => exact happens_execVsfl f
  | vstat f => exact happens_execVstat f
  | vmulh f => exact happens_execVmulh f
  | vmadd f => exact happens_execVmadd f
  | vcplx f => exact happens_execVcplx f
  | vpcnt f => exact happens_execVpcnt f
  | vplog f => exact happens_execVplog f
  | vpfirst f => exact happens_execVpfirst f
  | vslide f => exact happens_execVslide f
  | vdot f => exact happens_execVdot f
  | vclamp f => exact happens_execVclamp f
  | mma f => exact happens_execMma f
  | mmat f => exact happens_execMmat f
  | aclr f => exact happens_execAclr f
  | aget f => exact happens_execAget f
  | aput f => exact happens_execAput f
  | ascale f => exact happens_execAscale f
  | drain f => exact happens_execDrain f
  | rpop f => exact happens_execRpop f
  | sigt f => exact happens_execSigt f
  | sigchk f => exact happens_execSigchk f
  | fftset f => exact happens_execFftset f
  | fftrun f => exact happens_execFftrun f
  | spmul f => exact happens_execSpmul f
  | shtl f => exact happens_execShtl f
  | blkt f => exact happens_execBlkt f
  | fmtpop f => exact happens_execFmtpop f
  | st f => exact happens_execSt f
  | strel f => exact happens_execStrel f
  | stv f => exact happens_execStv f
  | stvs f => exact happens_execStvs f
  | scat f => exact happens_execScat f
  | amo f => exact happens_execAmo f
  | amov f => exact happens_execAmov f
  | red f => exact happens_execRed f
  | redv f => exact happens_execRedv f
  | skupd f => exact happens_execSkupd f
  | skqry f => exact happens_execSkqry f
  | skadd f => exact happens_execSkadd f
  | skclr f => exact happens_execSkclr f
  | uop f => exact happens_execUop f
  | ucvt f => exact happens_execUcvt f
  | nfchk f => exact happens_execNfchk f
  | scommit f => exact happens_execScommit f
  | sflush f => exact happens_execSflush f
  | rstv f => exact happens_execRstv f
  | skstat f => exact happens_execSkstat f
  | zero f => exact happens_execZero f
  | stnt f => exact happens_execStnt f
  | rrput f => exact happens_execRrput f
  | stls f => exact happens_execStls f
  | unassignedOpcode a0 a1 => exact happens_execUnassignedOpcode a0 a1
  | sectionEntry a0 => exact happens_execSectionEntry a0
  | trapEntry a0 a1 a2 a3 => exact happens_execTrapEntry a0 a1 a2 a3
  | taskStart a0 => exact happens_execTaskStart a0
  | taskEnd a0 => exact happens_execTaskEnd a0
  | taskFreeze a0 a1 => exact happens_execTaskFreeze a0 a1
  | preemption a0 a1 => exact happens_execPreemption a0 a1
  | taskResume a0 => exact happens_execTaskResume a0
  | distributorPick => exact happens_execDistributorPick
  | semaphoreWaitSatisfied a0 a1 a2 => exact happens_execSemaphoreWaitSatisfied a0 a1 a2
  | remoteSignalApply a0 => exact happens_execRemoteSignalApply a0
  | eventDeliver a0 => exact happens_execEventDeliver a0
  | ringSlotClaim a0 a1 => exact happens_execRingSlotClaim a0 a1
  | quayGroupTick a0 a1 a2 => exact happens_execQuayGroupTick a0 a1 a2
  | groupCollectiveComplete a0 a1 => exact happens_execGroupCollectiveComplete a0 a1
  | renqBlockArrival a0 => exact happens_execRenqBlockArrival a0
  | jobUnitRecordStart a0 => exact happens_execJobUnitRecordStart a0
  | commandBlockDone a0 => exact happens_execCommandBlockDone a0
  | copyApertureStart a0 a1 a2 => exact happens_execCopyApertureStart a0 a1 a2
  | bteJobStart a0 => exact happens_execBteJobStart a0
  | bteChunkComplete a0 => exact happens_execBteChunkComplete a0
  | engineJobComplete a0 => exact happens_execEngineJobComplete a0
  | completionRingWrite a0 => exact happens_execCompletionRingWrite a0
  | engineJobFail a0 a1 => exact happens_execEngineJobFail a0 a1
  | drainJobWrite a0 => exact happens_execDrainJobWrite a0
  | lighterProgramStart a0 => exact happens_execLighterProgramStart a0
  | lighterEnd a0 => exact happens_execLighterEnd a0
  | lighterBase a0 a1 => exact happens_execLighterBase a0 a1
  | lighterDim a0 a1 a2 a3 => exact happens_execLighterDim a0 a1 a2 a3
  | lighterPush a0 a1 a2 a3 a4 a5 => exact happens_execLighterPush a0 a1 a2 a3 a4 a5
  | lighterGather a0 a1 a2 a3 a4 a5 a6 => exact happens_execLighterGather a0 a1 a2 a3 a4 a5 a6
  | lighterLoop a0 a1 a2 a3 => exact happens_execLighterLoop a0 a1 a2 a3
  | lighterSig a0 a1 a2 => exact happens_execLighterSig a0 a1 a2
  | lighterWwait a0 a1 a2 a3 => exact happens_execLighterWwait a0 a1 a2 a3
  | lighterJump a0 a1 => exact happens_execLighterJump a0 a1
  | lighterIdx a0 a1 => exact happens_execLighterIdx a0 a1
  | lighterAdv a0 a1 => exact happens_execLighterAdv a0 a1
  | lighterPushFillComplete a0 => exact happens_execLighterPushFillComplete a0
  | lighterNextPageWalk a0 => exact happens_execLighterNextPageWalk a0
  | damaskMemberStart a0 a1 => exact happens_execDamaskMemberStart a0 a1
  | damaskBlockWrite a0 a1 => exact happens_execDamaskBlockWrite a0 a1
  | damaskPhaseComplete a0 a1 => exact happens_execDamaskPhaseComplete a0 a1
  | damaskSourceReadDone a0 a1 => exact happens_execDamaskSourceReadDone a0 a1
  | damaskMembershipComplete a0 a1 => exact happens_execDamaskMembershipComplete a0 a1
  | damaskSlotStart a0 a1 => exact happens_execDamaskSlotStart a0 a1
  | damaskMemberLost a0 a1 a2 => exact happens_execDamaskMemberLost a0 a1 a2
  | grresLoad a0 a1 => exact happens_execGrresLoad a0 a1
  | grresEvict a0 => exact happens_execGrresEvict a0
  | grstart a0 a1 => exact happens_execGrstart a0 a1
  | stepBegin a0 => exact happens_execStepBegin a0
  | stepEnd a0 => exact happens_execStepEnd a0
  | nodeComplete a0 a1 => exact happens_execNodeComplete a0 a1
  | homeSliceWrite a0 a1 a2 => exact happens_execHomeSliceWrite a0 a1 a2
  | homeSliceRead a0 a1 a2 => exact happens_execHomeSliceRead a0 a1 a2
  | homeSliceAtomic a0 a1 a2 a3 a4 a5 a6 => exact happens_execHomeSliceAtomic a0 a1 a2 a3 a4 a5 a6
  | acknowledgementArrival a0 => exact happens_execAcknowledgementArrival a0
  | stashFill a0 a1 => exact happens_execStashFill a0 a1
  | stashRecall a0 a1 => exact happens_execStashRecall a0 a1
  | guardGrant a0 => exact happens_execGuardGrant a0
  | gateReport a0 a1 a2 => exact happens_execGateReport a0 a1 a2
  | sketchUpdateApply a0 a1 a2 a3 => exact happens_execSketchUpdateApply a0 a1 a2 a3
  | rstvWriteApply a0 => exact happens_execRstvWriteApply a0
  | rrputFillApply a0 => exact happens_execRrputFillApply a0
  | migration a0 a1 a2 => exact happens_execMigration a0 a1 a2
  | translationFault a0 a1 a2 => exact happens_execTranslationFault a0 a1 a2
  | sidelogWaitEnter a0 => exact happens_execSidelogWaitEnter a0
  | sidelogEntryApply a0 a1 => exact happens_execSidelogEntryApply a0 a1
  | faultresRetry a0 a1 => exact happens_execFaultresRetry a0 a1
  | faultresAbort a0 a1 => exact happens_execFaultresAbort a0 a1
  | walkerInvalidate a0 a1 => exact happens_execWalkerInvalidate a0 a1
  | objectTableInvalidate a0 => exact happens_execObjectTableInvalidate a0
  | pkgnumWrite a0 => exact happens_execPkgnumWrite a0
  | pkgmapWrite a0 a1 => exact happens_execPkgmapWrite a0 a1
  | frozenResume a0 => exact happens_execFrozenResume a0
  | frozenRelease a0 => exact happens_execFrozenRelease a0
  | frozenJobSlotFree a0 a1 => exact happens_execFrozenJobSlotFree a0 a1
  | registerWrite a0 a1 => exact happens_execRegisterWrite a0 a1
  | errorRecordWrite => exact happens_execErrorRecordWrite
  | correctedErrorThreshold a0 a1 => exact happens_execCorrectedErrorThreshold a0 a1
  | eccUncorrected a0 => exact happens_execEccUncorrected a0
  | patrolScrub a0 a1 a2 => exact happens_execPatrolScrub a0 a1 a2
  | deadlockTimeout a0 => exact happens_execDeadlockTimeout a0
  | stallTimeout a0 => exact happens_execStallTimeout a0
  | packageReset a0 => exact happens_execPackageReset a0
  | ageingMarginLow a0 a1 => exact happens_execAgeingMarginLow a0 a1
  | speedTableUpdate => exact happens_execSpeedTableUpdate
  | checkpoint => exact happens_execCheckpoint
  | checkpointResume => exact happens_execCheckpointResume
  | flitDataReceive a0 a1 => exact happens_execFlitDataReceive a0 a1
  | keyMarkerReceive a0 a1 => exact happens_execKeyMarkerReceive a0 a1
  | flitAckReceive a0 a1 a2 => exact happens_execFlitAckReceive a0 a1 a2
  | timeSyncReceive a0 a1 a2 => exact happens_execTimeSyncReceive a0 a1 a2
  | keySlotLoad a0 a1 a2 a3 a4 => exact happens_execKeySlotLoad a0 a1 a2 a3 a4
  | circuitRekey a0 a1 a2 a3 a4 a5 => exact happens_execCircuitRekey a0 a1 a2 a3 a4 a5
  | ctrExhaust a0 => exact happens_execCtrExhaust a0
  | circuitSetup a0 => exact happens_execCircuitSetup a0
  | circuitSetupAck a0 a1 => exact happens_execCircuitSetupAck a0 a1
  | circuitSetupNack a0 => exact happens_execCircuitSetupNack a0
  | circuitSetupRetry a0 => exact happens_execCircuitSetupRetry a0
  | circuitTear a0 => exact happens_execCircuitTear a0
  | circuitIdleTimeout a0 => exact happens_execCircuitIdleTimeout a0
  | circuitFail a0 => exact happens_execCircuitFail a0
  | laneLockLoss a0 a1 => exact happens_execLaneLockLoss a0 a1
  | mcuWatchdog a0 => exact happens_execMcuWatchdog a0
  | drift a0 a1 => exact happens_execDrift a0 a1
  | dieLink a0 => exact happens_execDieLink a0
  | hdmHostAccess a0 => exact happens_execHdmHostAccess a0
  | hostApertureAccess a0 a1 a2 a3 => exact happens_execHostApertureAccess a0 a1 a2 a3
  | hostError a0 => exact happens_execHostError a0
  | hostLinkDown => exact happens_execHostLinkDown
  | backInvalidateTimeout a0 => exact happens_execBackInvalidateTimeout a0
  | tickTimeout a0 => exact happens_execTickTimeout a0
  | loadReplyArrival a0 => exact happens_execLoadReplyArrival a0
  | backInvalidateResponse a0 => exact happens_execBackInvalidateResponse a0
  | hostLinkReturn => exact happens_execHostLinkReturn
  | powerStateChange a0 => exact happens_execPowerStateChange a0
  | powerBudgetLimit a0 => exact happens_execPowerBudgetLimit a0
  | haltNotice => exact happens_execHaltNotice
  | hardwareFailureFence a0 => exact happens_execHardwareFailureFence a0
  | timeSyncSend a0 => exact happens_execTimeSyncSend a0

end Sys2Proof.Machine
end

section
/-! SUPPORT. Every step keeps memory in canonical form (O5). -/

namespace Sys2Proof.Machine

/-- A list of happenings that all keep memory in canonical form. -/
def AllHappen (l : List Happening) : Prop := ∀ h ∈ l, Happens h

theorem AllHappen.nil : AllHappen [] := fun _ hm => nomatch hm
theorem AllHappen.one {h : Happening} (hh : Happens h) : AllHappen [h] := fun _ hm => List.mem_singleton.mp hm ▸ hh

theorem AllHappen.due {c : Bool} {h : Happening} (hh : Happens h) : AllHappen (due c h) := by
  unfold Machine.due
  split
  · exact .one hh
  · exact .nil

theorem AllHappen.append {l m : List Happening} (hl : AllHappen l) (hm : AllHappen m) : AllHappen (l ++ m) := fun h hmem =>
  (List.mem_append.mp hmem).elim (hl h) (hm h)

theorem AllHappen.flatMap {α : Type} {f : α → List Happening} {l : List α} (hf : ∀ x, AllHappen (f x)) :
    AllHappen (l.flatMap f) := fun h hmem => by
  obtain ⟨x, _, hx⟩ := List.mem_flatMap.mp hmem
  exact hf x h hx

theorem AllHappen.map {α : Type} {f : α → Happening} {l : List α} (hf : ∀ x, Happens (f x)) :
    AllHappen (l.map f) := fun _ hmem => by
  obtain ⟨x, _, rfl⟩ := List.mem_map.mp hmem
  exact hf x

/-- An event without a fault. -/
theorem Happens.occur {f : State → State} (hf : ∀ s, StoreOk s.store → StoreOk (f s).store) :
    Happens (occur f) := fun s h => NextOk.occur (hf s h)

theorem allHappen_sendCDue (t : Task) : AllHappen (sendCDue t) := by
  unfold sendCDue
  split
  · exact .one (happens_execRemoteSignalApply _)
  · exact .one (happens_execRenqBlockArrival _)
  · exact .due (.occur fun _ h => ok_asTask h fun _ hu => ok_finishArrival _ hu)
  · exact .one (.occur fun _ h => ok_sendStart _ h)
  · exact .nil

theorem allHappen_sendSDue (s : State) (t : Task) : AllHappen (sendSDue s t) := by
  unfold sendSDue
  split
  · exact .one (happens_execRstvWriteApply _)
  · exact .due (happens_execRrputFillApply _)
  · exact .nil

theorem allHappen_taskDue (s : State) (t : Task) : AllHappen (taskDue s t) := by
  have hlog : ∀ o : Option LogEntry, AllHappen (match o with | some e => [execSidelogEntryApply t.tid e.seq] | none => []) := fun o => by
    cases o with
    | some e => exact .one (happens_execSidelogEntryApply _ _)
    | none => exact .nil
  exact .append (.append (.append (.append (.append (.append (.append (.append (.append (.append (.append (.append
    (.due (happens_execAcknowledgementArrival _)) (.due (happens_execLoadReplyArrival _))) (allHappen_sendCDue t)) (allHappen_sendSDue s t))
    (.due (happens_execEventDeliver _))) (.due (happens_execSidelogWaitEnter _))) (hlog _)) (.due (happens_execJobUnitRecordStart _)))
    (.due (happens_execCommandBlockDone _))) (.due (happens_execTickTimeout _))) (.due (happens_execDeadlockTimeout _)))
    (.due (happens_execStallTimeout _))) (.due (happens_execTaskEnd _))

theorem allHappen_chanDue (s : State) (n : Fin 32) : AllHappen (chanDue s n) := by
  refine .append (.append (.append (.due (.occur fun _ h => by simpa using h)) (.due (happens_execBteJobStart n)))
    (.due (happens_execCompletionRingWrite _))) ?_
  split
  · split
    · exact .nil
    · split
      · refine .due ?_
        split
        · exact happens_execDrainJobWrite n
        · exact happens_execBteChunkComplete n
      · exact .one (happens_execEngineJobComplete _)
  · exact .nil

theorem allHappen_lighterDues (s : State) (n : Fin 32) : AllHappen (lighterDues s n) := by
  refine .append (.append (.append (.append (.due (.occur fun _ h => by simpa using h)) (.due (happens_execLighterProgramStart n)))
    (.due (happens_execCompletionRingWrite _))) (.due (happens_execEngineJobComplete _))) ?_
  split
  · split
    · exact .nil
    · exact .append (.append (.append (.due (happens_lighterTurn n)) (.due (happens_execLighterPushFillComplete n)))
        (.due (happens_execLighterNextPageWalk n))) (.due (happens_execEngineJobComplete _))
  · exact .nil

theorem allHappen_damaskDue (s : State) (c : DColl) : AllHappen (damaskDue s c) := by
  refine .append (.append (.append (.flatMap fun m => .append (.append (.append (.due (happens_execDamaskMemberStart _ _))
    (.due (happens_execDamaskPhaseComplete _ _))) (.due (happens_execDamaskSourceReadDone _ _)))
    (.due (happens_execDamaskMembershipComplete _ _))) ?_) ?_) (.due (.occur fun _ h => ok_wantCircuit c h))
  · split
    · exact .one (happens_execDamaskBlockWrite _ _)
    · exact .nil
  · split
    · exact .one (happens_execDamaskSlotStart _ _)
    · exact .nil

theorem allHappen_slotDues (s : State) (slot : Fin 64) : AllHappen (slotDues s slot) :=
  .append (.append (.append (.due (.occur fun _ h => ok_resumeLoad _ h)) (.due (happens_execStepBegin slot)))
    (.flatMap fun x => .due (happens_execNodeComplete slot x.1))) (.due (happens_execStepEnd slot))

theorem allHappen_preemptDues (s : State) : AllHappen (preemptDues s) := by
  unfold preemptDues
  dsimp only
  split
  · exact .one (happens_execPreemption _ _)
  · exact .nil

theorem allHappen_distributorDue (s : State) : AllHappen (distributorDue s) := by
  refine .append (.append (.due happens_execDistributorPick) (allHappen_preemptDues s)) (.flatMap fun n => ?_)
  split
  · exact .due (happens_execTaskStart _)
  · exact .due (happens_execTaskResume _)
  · exact .nil

theorem allHappen_circuitDue (s : State) (c : Circuit) : AllHappen (circuitDue s c) :=
  .append (.append (.append (.append (.append (.append
    (.due (.occur fun _ h => by simpa using h)) (.due (happens_execCircuitSetupRetry _))) (.due (.occur fun _ h => ok_flitArrives _ h)))
    (.due (.occur fun _ h => by simpa using h))) (.due (happens_execTimeSyncSend _))) (.due (happens_execCtrExhaust _)))
    (.due (happens_execCircuitIdleTimeout _))

theorem allHappen_quayDue (s : State) : AllHappen (quayDue s) :=
  .append (.flatMap fun _ => .map fun _ => happens_execGroupCollectiveComplete _ _) (.map fun _ => happens_execGuardGrant _)

theorem allHappen_runningDue (s : State) : AllHappen (runningDue s) :=
  .append (.append (.append (.append (.append (.append (.flatMap (allHappen_taskDue s)) (.flatMap (allHappen_chanDue s)))
    (.flatMap (allHappen_lighterDues s))) (.flatMap (allHappen_damaskDue s))) (allHappen_quayDue s)) (.flatMap (allHappen_slotDues s)))
    (allHappen_distributorDue s)

theorem allHappen_haltedDue (s : State) : AllHappen (haltedDue s) :=
  .append (.append (.append (.append (.append (.append (.flatMap (allHappen_taskDue s)) (.flatMap (allHappen_chanDue s)))
    (.flatMap (allHappen_lighterDues s))) (.flatMap (allHappen_damaskDue s))) (allHappen_quayDue s))
    (.map fun _ => .occur fun _ h => ok_quiesceTask _ h)) (.due (.occur fun _ h => ok_finishCheckpoint h))

theorem allHappen_recordDue (s : State) : AllHappen (recordDue s) := .due happens_execErrorRecordWrite

theorem allHappen_allDue (s : State) : AllHappen (allDue s) := by
  refine .append (.append (.append (.append (.append (.append (.append ?_ (allHappen_recordDue s)) (.flatMap (allHappen_circuitDue s)))
    (.due (.occur fun _ h => ok_serveDemand h))) (.map fun _ => happens_execMigration _ _ _)) (.due (.occur fun _ h => ok_retryHost h)))
    (.map fun _ => happens_execBackInvalidateTimeout _)) (.due (happens_execDrift _ _))
  split
  · exact allHappen_haltedDue s
  · exact allHappen_runningDue s

/-- The event whose turn it is keeps memory in canonical form. -/
theorem happens_of_pickEvent {s : State} {h : Happening} (hp : pickEvent s = some h) : Happens h := by
  unfold pickEvent at hp
  extract_lets l at hp
  have hall : AllHappen l := by
    unfold l
    split
    · exact allHappen_allDue s
    · split
      · exact allHappen_recordDue s
      · exact .nil
  clear_value l
  split at hp
  · exact nomatch hp
  · exact hall h (List.mem_of_getElem? hp)

theorem happens_runBackground : Happens runBackground := fun s h => by
  unfold runBackground
  split
  · next hp => exact happens_of_pickEvent hp s h
  · exact .next h

theorem happens_runStream : Happens runStream := fun s h => by
  refine .ite (.next h) (.ite (.next (ok_enterSection h)) ?_)
  split
  · exact .next (ok_takeTrapAt _ _ _ _ _ h)
  · exact .next (by simpa using h)
  · exact .next (by simpa using h)
  · split
    · exact happens_exec _ s h
    · exact .next (ok_formatTrap _ _ h)

/-- The packages are those from before, in another order. -/
theorem ok_nextPack {s : State} (h : StoreOk s.store) : StoreOk (nextPack s).store := by
  unfold nextPack
  split
  · exact h
  · next p ps hp =>
    refine memInv_iff.mp fun q hq => memInv_iff.mpr h q ?_
    simp only [State.packs, List.mem_cons, List.mem_append, List.not_mem_nil, or_false] at hq ⊢
    rw [hp]
    obtain rfl | hq | rfl := hq
    · exact .inr List.mem_cons_self
    · exact .inr (List.mem_cons_of_mem _ hq)
    · exact .inl rfl

theorem NextOk.around {turn : Bool} {o : Host.Outcome State Fault Refusal} (ho : NextOk o) : NextOk (around turn o) := by
  cases o with
  | next s =>
    refine .next (ok_nextPack ?_)
    have hs : StoreOk s.store := ho s rfl
    split <;> simpa using hs
  | fault f => exact .fault
  | refused r => exact .refused

theorem happens_step : Happens step := fun s h => by
  unfold step
  split
  · exact .around (.ite (happens_exec _ _ h) (.next h))
  · exact .ite (.around (happens_runBackground s h)) (.ite (.around (happens_runBackground s h))
      (.around (happens_runStream s h)))

/-- Settles O5: every function of the model that changes a package's memory or checkpoint image writes it by the memory's own
writers, which keep the canonical form, and every other function leaves both as they are. -/
theorem memoryStaysCanonical : Obligations.MemoryStaysCanonical := by
  unfold Obligations.MemoryStaysCanonical
  intro s t h hst
  exact memInv_iff.mpr (happens_step s (memInv_iff.mp h) t hst)

end Sys2Proof.Machine
end
